-- ==== Sys2Proof/Word.lean ====
section
/-! DEFINITION. The words of the machine, files of registers indexed by a bit field, and maps from
numbers to values kept as lists with rising keys. -/

namespace Sys2Proof

/-- A scalar or address register (R85). -/
abbrev Word := BitVec 64

/-- One byte of memory (R4). -/
abbrev Byte := BitVec 8

/-- One vector row: 2,048 raw bits (R87). -/
abbrev Row := BitVec 2048

/-- A file of `2 ^ n` registers named by an `n`-bit field (R95). -/
abbrev Reg (n : Nat) (α : Type) := Vector α (2 ^ n)

def Reg.rd {n : Nat} {α : Type} (f : Reg n α) (i : BitVec n) : α := f[i.toNat]'i.isLt

def Reg.wr {n : Nat} {α : Type} (f : Reg n α) (i : BitVec n) (x : α) : Reg n α := f.set i.toNat x i.isLt

def Reg.fill {n : Nat} {α : Type} (x : α) : Reg n α := Vector.replicate (2 ^ n) x

/-- A map from numbers to values: pairs with rising keys. -/
abbrev SMap (α : Type) := List (Nat × α)

def SMap.get {α : Type} (d : α) : SMap α → Nat → α
  | [], _ => d
  | (k, v) :: r, a => if k = a then v else SMap.get d r a

def SMap.find {α : Type} : SMap α → Nat → Option α
  | [], _ => none
  | (k, v) :: r, a => if k = a then some v else SMap.find r a

def SMap.put {α : Type} : SMap α → Nat → α → SMap α
  | [], a, v => [(a, v)]
  | (k, w) :: r, a, v =>
    if a < k then (a, v) :: (k, w) :: r
    else if a = k then (a, v) :: r
    else (k, w) :: SMap.put r a v

def SMap.del {α : Type} : SMap α → Nat → SMap α
  | [], _ => []
  | (k, w) :: r, a => if k = a then SMap.del r a else (k, w) :: SMap.del r a

end Sys2Proof
end

