-- ==== Sys2Proof/Syntax.lean ====
section
/-! DEFINITION. The instructions: one constructor per row of the operation table. A word of a program carries its
header (R69) and the operand structure of its format (R94); a row that is a step of another agent carries what the
outside supplies or names the agent that moves. -/

namespace Sys2Proof

/-- The common header of an 80-bit word, without the opcode (R69). `slot` tells A0 from A1. -/
structure Header where
  eb : BitVec 1
  slot : BitVec 3
  pd : BitVec 4
  av : BitVec 1
  tag : BitVec 3
  cmk : BitVec 8
  deriving DecidableEq, Repr

/-- Format CR: C register form (R94). -/
structure CR where
  sd : BitVec 6
  sa : BitVec 6
  sb : BitVec 6
  fn : BitVec 4
  deriving DecidableEq, Repr

/-- Format CI: C immediate form (R94). -/
structure CI where
  sd : BitVec 6
  sa : BitVec 6
  fn : BitVec 4
  imm : BitVec 32
  deriving DecidableEq, Repr

/-- Format CB: branches and region marks (R94). -/
structure CB where
  cond : BitVec 4
  sa : BitVec 6
  off : BitVec 32
  deriving DecidableEq, Repr

/-- Format CL: loops (R94). -/
structure CL where
  isImm : BitVec 1
  level : BitVec 1
  reg : BitVec 6
  count : BitVec 16
  stop : BitVec 16
  deriving DecidableEq, Repr

/-- Format CS: C system form: scope, two engine classes, imm8 and a control register number (R94). -/
structure CS where
  sd : BitVec 6
  sa : BitVec 6
  sb : BitVec 6
  scope : BitVec 4
  clsA : BitVec 4
  clsB : BitVec 4
  imm : BitVec 8
  cr : BitVec 12
  deriving DecidableEq, Repr

/-- Format AM: memory words (R94). -/
structure AM where
  data : BitVec 9
  ai : BitVec 4
  hb : BitVec 4
  b : BitVec 1
  size : BitVec 2
  sign : BitVec 1
  ord : BitVec 2
  scope : BitVec 4
  u : BitVec 1
  space : BitVec 2
  disp : BitVec 20
  deriving DecidableEq, Repr

/-- Format AA: address-index words (R94). -/
structure AA where
  ad : BitVec 4
  aa : BitVec 4
  ss : BitVec 6
  fn : BitVec 4
  imm : BitVec 32
  deriving DecidableEq, Repr

/-- Format AT: atomics (R94). -/
structure AT where
  sd : BitVec 6
  ss : BitVec 6
  sc : BitVec 6
  ai : BitVec 4
  hb : BitVec 4
  b : BitVec 1
  op : BitVec 4
  size : BitVec 2
  ord : BitVec 2
  scope : BitVec 4
  space : BitVec 2
  deriving DecidableEq, Repr

/-- Format AH: handle fields (R94). -/
structure AH where
  hd : BitVec 4
  hs : BitVec 4
  ss : BitVec 6
  id : BitVec 4
  imm : BitVec 32
  deriving DecidableEq, Repr

/-- Format VR: vector register form (R94). -/
structure VR where
  vd : BitVec 9
  va : BitVec 9
  vb : BitVec 9
  k : BitVec 3
  ty : BitVec 4
  negA : BitVec 1
  negB : BitVec 1
  absA : BitVec 1
  absB : BitVec 1
  sat : BitVec 1
  clamp : BitVec 1
  scale : BitVec 5
  rnd : BitVec 3
  bc : BitVec 2
  deriving DecidableEq, Repr

/-- Format VI: vector immediate form (R94). -/
structure VI where
  vd : BitVec 9
  va : BitVec 9
  imm : BitVec 16
  k : BitVec 3
  ty : BitVec 4
  sat : BitVec 1
  clamp : BitVec 1
  rnd : BitVec 3
  deriving DecidableEq, Repr

/-- Format VX: vector and scalar (R94). -/
structure VX where
  v : BitVec 9
  s : BitVec 6
  lane : BitVec 8
  ty : BitVec 4
  k : BitVec 3
  fn : BitVec 4
  deriving DecidableEq, Repr

/-- Format KR: mask words (R94). -/
structure KR where
  kd : BitVec 3
  ka : BitVec 3
  kb : BitVec 3
  s : BitVec 6
  deriving DecidableEq, Repr

/-- Format ML: latch loads (R94). -/
structure ML where
  latch : BitVec 2
  h : BitVec 4
  idx : BitVec 4
  row : BitVec 9
  gather : BitVec 1
  fmt : BitVec 4
  dec : BitVec 1
  cb : BitVec 2
  deriving DecidableEq, Repr

/-- Format MM: multiply, clear, configure (R94). -/
structure MM where
  z : BitVec 3
  la : BitVec 2
  lb : BitVec 2
  fmt : BitVec 4
  ta : BitVec 1
  neg : BitVec 1
  acc : BitVec 1
  deriving DecidableEq, Repr

/-- Format MC: routine index (MCALL) or repeat count (MLOOP) (R94). -/
structure MC where
  n : BitVec 8
  deriving DecidableEq, Repr

/-- Format MQ: MSETQ (R121) (R94). -/
structure MQ where
  q : BitVec 3
  s : BitVec 6
  deriving DecidableEq, Repr

/-- Format MF: MFMT (R137) (R94). -/
structure MF where
  e : BitVec 4
  s : BitVec 6
  deriving DecidableEq, Repr

/-- Format MZ: tile to or from memory (R94). -/
structure MZ where
  z : BitVec 3
  h : BitVec 4
  idx : BitVec 4
  ty : BitVec 4
  sat : BitVec 1
  rnd : BitVec 3
  scale : BitVec 5
  deriving DecidableEq, Repr

/-- Format MS: microprogram store (R94). -/
structure MS where
  addr : BitVec 12
  h : BitVec 4
  count : BitVec 12
  deriving DecidableEq, Repr

/-- Format EC: engine commands; `low` is [17:0] (R94). -/
structure EC where
  ha : BitVec 4
  hb : BitVec 4
  sa : BitVec 6
  sb : BitVec 6
  imm : BitVec 8
  fn : BitVec 4
  low : BitVec 18
  deriving DecidableEq, Repr

/-- Where a write that reaches the package from outside comes from: the host, or a peer, and whether the write is domain
traffic (R177, R192). -/
inductive Origin where
  | host
  | peer (src : BitVec 16) (domain : Bool)
  deriving DecidableEq, Repr

/-- What attestation finds of a member: the certificate slots whose chain passes, and the measurements of the boot firmware
and of the loaded code (R290, R291). -/
structure Measured where
  id : BitVec 16
  chains : BitVec 8
  firmware : BitVec 384
  code : BitVec 384
  deriving DecidableEq, Repr

/-- What the Ultra Ethernet transport says of a message: the port it came in by, its job and its process index (R271). -/
structure UltraTag where
  port : BitVec 2
  job : BitVec 24
  pidx : BitVec 12
  deriving DecidableEq, Repr

/-- A message as it reaches the package: its source package and its bytes, and what the Ultra Ethernet transport carries of it;
none on the scale-up planes (R271, R282, R287). -/
structure Message where
  src : BitVec 16
  bytes : List Byte
  ultra : Option UltraTag := none
  deriving DecidableEq, Repr

/-- What the switch returns for a reduction round: the source the flits carry, the round and its values of `w` bits (R278,
R283, R285). -/
structure RoundResult (w : Nat) where
  src : BitVec 16
  k : Nat
  vals : List (BitVec w)
  deriving DecidableEq, Repr

/-- A region of the accord engines is one context's descriptor address (R300). -/
structure RegionKey where
  ctx : BitVec 16
  va : BitVec 64
  deriving DecidableEq, Repr

/-- A peer's access: the package it comes from, whether it is domain traffic, and the address it names (R169, R192). -/
structure PeerTarget where
  src : BitVec 16
  domain : Bool
  pa : BitVec 56
  deriving DecidableEq, Repr

/-- One constructor per row of the operation table (R113 to R122, and the steps of 95_what_each_step_holds). -/
inductive Instr where
  | add (h : Header) (o : CR)
  | addImm (h : Header) (o : CI)
  | sub (h : Header) (o : CR)
  | subImm (h : Header) (o : CI)
  | mul (h : Header) (o : CR)
  | mulImm (h : Header) (o : CI)
  | mulh (h : Header) (o : CR)
  | mulhImm (h : Header) (o : CI)
  | div (h : Header) (o : CR)
  | divImm (h : Header) (o : CI)
  | rem (h : Header) (o : CR)
  | remImm (h : Header) (o : CI)
  | and (h : Header) (o : CR)
  | andImm (h : Header) (o : CI)
  | or (h : Header) (o : CR)
  | orImm (h : Header) (o : CI)
  | xor (h : Header) (o : CR)
  | xorImm (h : Header) (o : CI)
  | shl (h : Header) (o : CR)
  | shlImm (h : Header) (o : CI)
  | shr (h : Header) (o : CR)
  | shrImm (h : Header) (o : CI)
  | sra (h : Header) (o : CR)
  | min (h : Header) (o : CR)
  | max (h : Header) (o : CR)
  | cmp (h : Header) (o : CR)
  | sel (h : Header) (o : CR)
  | clz (h : Header) (o : CR)
  | popc (h : Header) (o : CR)
  | brev (h : Header) (o : CR)
  | ext (h : Header) (o : CR)
  | bfx (h : Header) (o : CR)
  | bfi (h : Header) (o : CR)
  | li (h : Header) (o : CI)
  | lih (h : Header) (o : CI)
  | br (h : Header) (o : CB)
  | brc (h : Header) (o : CB)
  | bri (h : Header) (o : CB)
  | call (h : Header) (o : CB)
  | calli (h : Header) (o : CB)
  | ret (h : Header) (o : CB)
  | loop (h : Header) (o : CL)
  | loopx (h : Header) (o : CL)
  | exit (h : Header) (o : CS)
  | spawn (h : Header) (o : CS)
  | spawng (h : Header) (o : CS)
  | bar (h : Header) (o : CS)
  | bara (h : Header) (o : CS)
  | barcfg (h : Header) (o : CS)
  | wait (h : Header) (o : CS)
  | phase (h : Header) (o : CS)
  | fence (h : Header) (o : CS)
  | xfence (h : Header) (o : CS)
  | carve (h : Header) (o : CS)
  | decpl (h : Header) (o : CS)
  | rejoin (h : Header) (o : CS)
  | crrd (h : Header) (o : CS)
  | crwr (h : Header) (o : CS)
  | crset (h : Header) (o : CS)
  | crclr (h : Header) (o : CS)
  | trap (h : Header) (o : CS)
  | tret (h : Header) (o : CS)
  | brk (h : Header) (o : CS)
  | tlbi (h : Header) (o : CS)
  | rdtime (h : Header) (o : CS)
  | accb (h : Header) (o : CB)
  | acce (h : Header) (o : CB)
  | accinv (h : Header) (o : CS)
  | nop (h : Header)
  | ld (h : Header) (o : AM)
  | st (h : Header) (o : AM)
  | ldv (h : Header) (o : AM)
  | stv (h : Header) (o : AM)
  | amo (h : Header) (o : AT)
  | cas (h : Header) (o : AT)
  | pref (h : Header) (o : AM)
  | amov (h : Header) (o : AA)
  | aget (h : Header) (o : AA)
  | aadd (h : Header) (o : AA)
  | amode (h : Header) (o : AA)
  | aupd (h : Header) (o : AA)
  | lea (h : Header) (o : AM)
  | hld (h : Header) (o : AM)
  | hst (h : Header) (o : AM)
  | hset (h : Header) (o : AH)
  | hget (h : Header) (o : AH)
  | vadd (h : Header) (o : VR)
  | vaddImm (h : Header) (o : VI)
  | vsub (h : Header) (o : VR)
  | vsubImm (h : Header) (o : VI)
  | vmul (h : Header) (o : VR)
  | vmulImm (h : Header) (o : VI)
  | vfma (h : Header) (o : VR)
  | vfmaImm (h : Header) (o : VI)
  | vmin (h : Header) (o : VR)
  | vminImm (h : Header) (o : VI)
  | vmax (h : Header) (o : VR)
  | vmaxImm (h : Header) (o : VI)
  | vrcp (h : Header) (o : VR)
  | vrsq (h : Header) (o : VR)
  | vexp2 (h : Header) (o : VR)
  | vlog2 (h : Header) (o : VR)
  | vtanh (h : Header) (o : VR)
  | vcvt (h : Header) (o : VR)
  | vcmp (h : Header) (o : VR)
  | vsel (h : Header) (o : VR)
  | vand (h : Header) (o : VR)
  | vandImm (h : Header) (o : VI)
  | vor (h : Header) (o : VR)
  | vorImm (h : Header) (o : VI)
  | vxor (h : Header) (o : VR)
  | vxorImm (h : Header) (o : VI)
  | vshl (h : Header) (o : VR)
  | vshlImm (h : Header) (o : VI)
  | vshr (h : Header) (o : VR)
  | vshrImm (h : Header) (o : VI)
  | vmov (h : Header) (o : VR)
  | vbcast (h : Header) (o : VX)
  | vext (h : Header) (o : VX)
  | vins (h : Header) (o : VX)
  | vperm (h : Header) (o : VR)
  | viota (h : Header) (o : VX)
  | vred (h : Header) (o : VX)
  | kand (h : Header) (o : KR)
  | kor (h : Header) (o : KR)
  | kxor (h : Header) (o : KR)
  | kmov (h : Header) (o : KR)
  | kpopc (h : Header) (o : KR)
  | mla (h : Header) (o : ML)
  | mlb (h : Header) (o : ML)
  | mma (h : Header) (o : MM)
  | mzero (h : Header) (o : MM)
  | mcfg (h : Header) (o : MM)
  | mstz (h : Header) (o : MZ)
  | mldz (h : Header) (o : MZ)
  | mcall (h : Header) (o : MC)
  | msetq (h : Header) (o : MQ)
  | mfmt (h : Header) (o : MF)
  | mcode (h : Header) (o : ML)
  | mstore (h : Header) (o : MS)
  | mloop (h : Header) (o : MC)
  | mend (h : Header) (o : MC)
  | cpy (h : Header) (o : EC)
  | chsend (h : Header) (o : EC)
  | chrecv (h : Header) (o : EC)
  | chred (h : Header) (o : EC)
  | qprop (h : Header) (o : EC)
  | qver (h : Header) (o : EC)
  | qres (h : Header) (o : EC)
  | bset (h : Header) (o : EC)
  | bget (h : Header) (o : EC)
  | sieve (h : Header) (o : EC)
  | tokz (h : Header) (o : EC)
  | detok (h : Header) (o : EC)
  | gadv (h : Header) (o : EC)
  | gmask (h : Header) (o : EC)
  | sltick (h : Header) (o : EC)
  | slpin (h : Header) (o : EC)
  | slget (h : Header) (o : EC)
  | dbar (h : Header) (o : EC)
  | engineFault (c : BitVec 9)
  | grammarOverflow (c : BitVec 9)
  | microFault (c : BitVec 9)
  | numericLimit (c : BitVec 9)
  | machineCheck (c : BitVec 9) (access : Option Nat) (pa : BitVec 64)
  | stepTrap (c : BitVec 9)
  | softwareTrapTaken (c : BitVec 9)
  | variableResultLand (c : BitVec 9) (id : Nat)
  | engineCommandComplete (id : Nat)
  | translationWalkDone (c : BitVec 9) (va : BitVec 64)
  | latchTransfer (c : BitVec 9)
  | mmaStart (c : BitVec 9)
  | mmaRetire (c : BitVec 9)
  | tilePipeStart (c : BitVec 9)
  | mcallRoutineRun (c : BitVec 9)
  | dispatchDecision (scout : Bool)
  | preemption (c : BitVec 9)
  | emergencyAreaFree (scout : Bool)
  | taskRestore (c : BitVec 9)
  | parkRelease (uid : Nat)
  | cellClearDone (c : BitVec 9)
  | carveRelease (gang : Nat)
  | spawnUnitEnqueue (c : BitVec 9)
  | seedEnqueue (launch : Nat)
  | launchEntryRead
  | launchAdmit
  | launchComplete (launch : Nat)
  | lqtailWrite (q : BitVec 3) (v : BitVec 64)
  | lqcfgWrite (q : BitVec 3) (v : BitVec 64)
  | fclkWrite (v : BitVec 64)
  | clockGlideEnd (f : BitVec 2)
  | registerWrite (off : BitVec 16) (v : BitVec 64)
  | throttleWindow (f : BitVec 2) (cur : BitVec 12) (temp : Int)
  | fimeasClrpk (f : BitVec 2)
  | packageReset (firmware frame0 scout : Bool)
  | frameRailOk (f : BitVec 2)
  | frameBringupTimeout (f : BitVec 2)
  | linkPortDown (p : Nat)
  | linkPortUp (p : Nat)
  | hostWriteAccept (src : Origin) (pa : BitVec 56) (bytes : List Byte)
  | hostWritePerform (i : Nat)
  | hostRead (pa : BitVec 56) (n : Nat)
  | reportRecord
  | nxWindowStart (c : BitVec 9)
  | efctlResume (c : BitVec 9)
  | efctlAbandon (c : BitVec 9)
  | fpreqWrite (c : BitVec 9) (v : BitVec 64)
  | fastPathMapDone (c : BitVec 9)
  | contextCreate
  | contextDestroy
  | contextInvalidate (whole : Bool)
  | contextSetPool
  | contextBadCommand (code : BitVec 3)
  | quiesceAdvance
  | quarantineRelease
  | broodSnapshot
  | roundDraftEnqueue (slot : BitVec 12)
  | quorumDecision (slot : BitVec 12)
  | sieveList (id : Nat)
  | outputDrain (slot : BitVec 12)
  | textInstallVocabulary (idx : BitVec 12)
  | textInstallGrammar (id : BitVec 12)
  | textRemoveVocabulary (idx : BitVec 12)
  | textRemoveGrammar (id : BitVec 12)
  | channelInstall (first : BitVec 10) (count : BitVec 11)
  | channelRemove (first : BitVec 10) (count : BitVec 11)
  | channelMessageArrival (ch : BitVec 10) (m : Message)
  | reduceResultArrival (ch : BitVec 10) (res : RoundResult 128)
  | domainFlitReceive (hdr : BitVec 128) (ue tagOk : Bool)
  | pderrWindow
  | domainForm (reports : List Measured) (secret : BitVec 384)
  | domainLeave
  | domainRevoke
  | tamperSensor (source : BitVec 8)
  | rekeyBarrierComplete (reports : List Measured)
  | rekeyDrainTimeout (reports : List Measured)
  | mediaRingTailWrite (v : BitVec 64)
  | mediaUeMessage (ch : BitVec 10) (src : BitVec 16) (tag : UltraTag) (bytes : List Byte)
  | mediaRecordArrival (ring : Bool)
  | tick (slot : BitVec 12)
  | timeLockLoss
  | timeRelock (offset : Nat) (forward : Bool)
  | accordDecision (engine : BitVec 2)
  | accordSample (engine : BitVec 2)
  | accordEpoch (engine : BitVec 2) (key : RegionKey)
  | accordDescriptorWrite (ctx : BitVec 16) (va : BitVec 64)
  | cellAccessPerformed (c : BitVec 9) (id : Nat)
  | l1LineEviction (c : BitVec 9) (line : Nat) (code : Bool)
  | waitTimeout (c : BitVec 9)
  | mdcfgWrite (v : BitVec 64)
  | peerInboundAccess (at_ : PeerTarget) (op : BitVec 4) (size : BitVec 2) (v : BitVec 128)
  | rescalePhase1Result (ch : BitVec 10) (res : RoundResult 32)
  deriving DecidableEq, Repr

end Sys2Proof
end

