-- ==== Sys2Proof/Machine/Legal.lean ====
section
/-! DEFINITION. Which values of the operand fields a word may hold: what traps ILLEGAL_OP from the word alone,
before any register is read (R108 to R112, R114 to R122, R129, R363, R402). -/

namespace Sys2Proof.Machine

/-- Element type codes (R123): the float types of 8 bits or more. -/
def tyFloat (t : BitVec 4) : Bool := t.toNat ≤ 4
def tySigned (t : BitVec 4) : Bool := 6 ≤ t.toNat && t.toNat ≤ 9
def tyUnsigned (t : BitVec 4) : Bool := 10 ≤ t.toNat && t.toNat ≤ 12
def tyInt (t : BitVec 4) : Bool := 6 ≤ t.toNat && t.toNat ≤ 12
/-- The 4-bit types E2M1 and INT4. -/
def tyNib (t : BitVec 4) : Bool := t = 5#4 || t = 9#4
/-- A legal type code; 13 to 15 are illegal wherever a type is named (R123). -/
def tyAny (t : BitVec 4) : Bool := t.toNat ≤ 12
/-- Types of 8 bits or more (R119). -/
def tyWide (t : BitVec 4) : Bool := tyAny t && !tyNib t
/-- Width of an element in bits (R123). -/
def tyBits (t : BitVec 4) : Nat :=
  match t.toNat with
  | 0 | 6 | 10 => 32
  | 1 | 2 | 7 | 11 => 16
  | 5 | 9 => 4
  | _ => 8
/-- Elements of a row (R125). -/
def tyLanes (t : BitVec 4) : Nat := 2048 / tyBits t

def scopeOk (s : BitVec 4) : Bool := s.toNat ≤ 10
def rndOk (r : BitVec 3) : Bool := r.toNat ≤ 5

/-! ### C slot -/

def fnZero (o : CR) : Bool := o.fn = 0#4
def fnLow1 (o : CR) : Bool := o.fn.toNat ≤ 1
def fnUnary (o : CR) : Bool := o.fn = 0#4 && o.sb = 0#6
/-- EXT: source width 0 to 2, no fn[3], sb 0 (R361). -/
def fnExt (o : CR) : Bool := o.fn.extractLsb' 0 2 ≠ 3#2 && o.fn.extractLsb' 3 1 = 0#1 && o.sb = 0#6
def fnCmp (o : CR) : Bool := o.fn.toNat ≤ 9
def ciZero (o : CI) : Bool := o.fn = 0#4
def ciLow1 (o : CI) : Bool := o.fn.toNat ≤ 1
def ciLoad (o : CI) : Bool := o.fn = 0#4 && o.sa = 0#6

def cbDirect (o : CB) : Bool := o.cond = 0#4 && o.sa = 0#6
def cbCond (o : CB) : Bool := o.cond.toNat ≤ 5
def cbIndirect (o : CB) : Bool := o.cond = 0#4 && o.off = 0#32
def cbNone (o : CB) : Bool := o.cond = 0#4 && o.sa = 0#6 && o.off = 0#32
def cbRegion (o : CB) : Bool := o.cond = 0#4

/-- The count operand selects I: the unused one of the count register and count16 is 0 (R379). -/
def clLoop (o : CL) : Bool := if o.isImm = 1#1 then o.reg = 0#6 else o.count = 0#16
def clLoopx (o : CL) : Bool := o.isImm = 0#1 && o.reg = 0#6 && o.count = 0#16 && o.stop = 0#16

/-- Class and control-register fields zero. -/
def csNoCls (o : CS) : Bool := o.clsA = 0#4 && o.clsB = 0#4 && o.cr = 0#12
def csNone (o : CS) : Bool :=
  o.sd = 0#6 && o.sa = 0#6 && o.sb = 0#6 && o.scope = 0#4 && o.imm = 0#8 && csNoCls o
def csSpawn (o : CS) : Bool :=
  o.sd = 0#6 && o.sb = 0#6 && scopeOk o.scope && o.imm.extractLsb' 5 3 = 0#3 && csNoCls o
def csSpawng (o : CS) : Bool :=
  o.sd = 0#6 && scopeOk o.scope && (o.imm.extractLsb' 5 3).toNat ≤ 5 && csNoCls o
def csBar (o : CS) : Bool :=
  o.sd = 0#6 && o.sa = 0#6 && o.sb = 0#6 && scopeOk o.scope && o.imm.extractLsb' 4 4 = 0#4 && csNoCls o
def csBarcfg (o : CS) : Bool :=
  o.sd = 0#6 && o.sb = 0#6 && o.scope = 0#4 && o.imm.extractLsb' 4 4 = 0#4 && csNoCls o
def csCarve (o : CS) : Bool :=
  o.sd = 0#6 && o.sb = 0#6 && scopeOk o.scope && o.imm.extractLsb' 4 4 = 0#4 && csNoCls o
def csWait (o : CS) : Bool := scopeOk o.scope && o.imm.extractLsb' 6 2 = 0#2 && csNoCls o
def csPhase (o : CS) : Bool :=
  o.sd = 0#6 && o.sa = 0#6 && o.sb = 0#6 && o.scope ≠ 0#4 && scopeOk o.scope && o.imm = 0#8 && csNoCls o
def csFence (o : CS) : Bool :=
  o.sd = 0#6 && o.sa = 0#6 && o.sb = 0#6 && o.scope = 0#4 && o.imm.extractLsb' 1 7 = 0#7 && csNoCls o
def csXfence (o : CS) : Bool :=
  o.sd = 0#6 && o.sa = 0#6 && o.sb = 0#6 && scopeOk o.scope && o.clsA.toNat ≤ 9 && o.clsB.toNat ≤ 9
    && o.imm = 0#8 && o.cr = 0#12
def csCr (o : CS) : Bool := o.sb = 0#6 && o.scope = 0#4 && o.clsA = 0#4 && o.clsB = 0#4 && o.imm = 0#8
def csCrrd (o : CS) : Bool := csCr o && o.sa = 0#6
def csCrwr (o : CS) : Bool := csCr o && o.sd = 0#6
def csTrap (o : CS) : Bool :=
  o.sd = 0#6 && o.sa = 0#6 && o.sb = 0#6 && o.scope = 0#4 && csNoCls o && 0x40 ≤ o.imm.toNat && o.imm.toNat ≤ 0x7F
def csTlbi (o : CS) : Bool := o.scope = 0#4 && o.imm.extractLsb' 1 7 = 0#7 && csNoCls o
def csRdtime (o : CS) : Bool := o.sa = 0#6 && o.sb = 0#6 && o.scope = 0#4 && o.imm = 0#8 && csNoCls o
def csAccinv (o : CS) : Bool := o.sd = 0#6 && o.sb = 0#6 && o.scope = 0#4 && o.imm = 0#8 && csNoCls o

/-! ### A slots -/

/-- Space 3, a handle number without B, and a staging access without a handle (R90). -/
def baseOk (b : BitVec 1) (hb : BitVec 4) (space : BitVec 2) : Bool :=
  space ≠ 3#2 && (b = 1#1 || (hb = 0#4 && space ≠ 2#2))
def amPlain (o : AM) : Bool := o.ord = 0#2 && o.scope = 0#4
def amBare (o : AM) : Bool := o.size = 0#2 && o.sign = 0#1 && amPlain o && baseOk o.b o.hb o.space
def amLd (o : AM) : Bool :=
  o.data.extractLsb' 6 3 = 0#3 && baseOk o.b o.hb o.space
    && (amPlain o || (o.ord = 1#2 && scopeOk o.scope && o.space ≠ 1#2))
def amSt (o : AM) : Bool :=
  o.data.extractLsb' 6 3 = 0#3 && o.sign = 0#1 && baseOk o.b o.hb o.space
    && (amPlain o || (o.ord = 2#2 && scopeOk o.scope && o.space ≠ 1#2))
def amRow (o : AM) : Bool := amBare o
def amHandle (o : AM) : Bool := o.data.extractLsb' 4 5 = 0#5 && amBare o
def amLea (o : AM) : Bool := o.data.extractLsb' 6 3 = 0#3 && amBare o
def amPref (o : AM) : Bool := o.data = 0#9 && amBare o
def atOk (o : AT) : Bool :=
  o.op.toNat ≤ 9 && o.size ≠ 3#2 && (decide (o.size = 2#2) == decide (o.op = 9#4))
    && (o.space = 0#2 || o.space = 2#2) && scopeOk o.scope && (o.ord ≠ 0#2 || o.scope = 0#4)
    && baseOk o.b o.hb o.space
def atAmo (o : AT) : Bool := atOk o && o.sc = 0#6 && (o.op ≠ 9#4 || (o.sd ≠ 63#6 && o.ss ≠ 63#6))
def atCas (o : AT) : Bool := atOk o && o.op = 0#4
def aaMov (o : AA) : Bool := o.aa = 0#4 && o.fn = 0#4
def aaGet (o : AA) : Bool := o.ad = 0#4 && o.fn = 0#4 && o.imm = 0#32
def aaAdd (o : AA) : Bool := o.fn = 0#4
def aaMode (o : AA) : Bool := o.aa = 0#4 && o.fn = 0#4 && o.imm = 0#32
def aaUpd (o : AA) : Bool := o.aa = 0#4 && o.ss = 0#6 && o.fn = 0#4 && o.imm = 0#32
def ahSet (o : AH) : Bool := o.id.toNat ≤ 11
def ahGet (o : AH) : Bool := o.id.toNat ≤ 11 && o.hd = 0#4 && o.imm = 0#32

/-! ### V slot (R119, R129, R424) -/

def vNoSign (o : VR) : Bool := o.negA = 0#1 && o.negB = 0#1 && o.absA = 0#1 && o.absB = 0#1
def vNoRound (o : VR) : Bool := o.sat = 0#1 && o.clamp = 0#1 && o.scale = 0#5 && o.rnd = 0#3
def bcOk (o : VR) : Bool := o.bc.toNat ≤ 1
def vrArith (o : VR) : Bool :=
  tyWide o.ty && (!tyUnsigned o.ty || vNoSign o) && (tyFloat o.ty || o.clamp = 0#1) && rndOk o.rnd && bcOk o
def vrMinMax (o : VR) : Bool := tyWide o.ty && (!tyUnsigned o.ty || vNoSign o) && vNoRound o && bcOk o
def vrDev (o : VR) : Bool :=
  o.ty.toNat ≤ 2 && o.vb = 0#9 && o.negB = 0#1 && o.absB = 0#1 && o.bc = 0#2 && rndOk o.rnd
def vrCvt (o : VR) : Bool :=
  tyAny o.ty && o.vb.extractLsb' 4 5 = 0#5 && tyAny (o.vb.extractLsb' 0 4) && o.negB = 0#1 && o.absB = 0#1
    && o.bc = 0#2 && (!tyUnsigned (o.vb.extractLsb' 0 4) || (o.negA = 0#1 && o.absA = 0#1))
    && (!tyInt o.ty || o.clamp = 0#1) && rndOk o.rnd
def vrCmp (o : VR) : Bool :=
  tyWide o.ty && o.vd.extractLsb' 3 6 = 0#6 && o.scale.toNat ≤ 7 && o.sat = 0#1 && o.clamp = 0#1 && o.rnd = 0#3
    && (!tyUnsigned o.ty || vNoSign o) && bcOk o
def vrSel (o : VR) : Bool := tyWide o.ty && vNoSign o && vNoRound o && bcOk o
def vrBits (o : VR) : Bool := tyAny o.ty && vNoSign o && vNoRound o && bcOk o
def vrShift (o : VR) : Bool := tyInt o.ty && tyWide o.ty && vNoSign o && vNoRound o && bcOk o
def vrMov (o : VR) : Bool := tyWide o.ty && o.vb = 0#9 && vNoSign o && vNoRound o && o.bc = 0#2
def vrPerm (o : VR) : Bool := tyAny o.ty && vNoSign o && vNoRound o && o.bc = 0#2

/-- The 8-bit float immediates use imm16[7:0] (R97). -/
def viImm (o : VI) : Bool := (o.ty ≠ 3#4 && o.ty ≠ 4#4) || o.imm.extractLsb' 8 8 = 0#8
def viArith (o : VI) : Bool := tyWide o.ty && viImm o && (tyFloat o.ty || o.clamp = 0#1) && rndOk o.rnd
def viPlain (o : VI) : Bool := tyWide o.ty && viImm o && o.sat = 0#1 && o.clamp = 0#1 && o.rnd = 0#3
def viShift (o : VI) : Bool := tyInt o.ty && viPlain o

def vxBcast (o : VX) : Bool := tyWide o.ty && o.lane = 0#8 && o.fn = 0#4
def vxLane (o : VX) : Bool := tyWide o.ty && decide (o.lane.toNat < tyLanes o.ty) && o.k = 0#3 && o.fn = 0#4
def vxIota (o : VX) : Bool := tyInt o.ty && tyWide o.ty && o.lane = 0#8 && o.fn = 0#4
def vxRed (o : VX) : Bool :=
  tyWide o.ty && o.lane = 0#8 && o.fn.toNat ≤ 5 && (!tyFloat o.ty || o.fn.toNat ≤ 2)
def krBin (o : KR) : Bool := o.s = 0#6
def krMov (o : KR) : Bool := o.kb = 0#3 && o.s = 0#6
def krPopc (o : KR) : Bool := o.kd = 0#3 && o.kb = 0#3

/-! ### M slot (R121, R154 to R156, R390 to R395) -/

def mfmtOk (f : BitVec 4) : Bool := f.toNat ≤ 9 || f = 15#4
def gatherOk (o : ML) : Bool := o.gather = 1#1 || o.row = 0#9
def mlMla (o : ML) : Bool := mfmtOk o.fmt && o.dec = 0#1 && o.cb = 0#2 && gatherOk o
def mlMlb (o : ML) : Bool :=
  mfmtOk o.fmt && gatherOk o && (if o.dec = 1#1 then o.fmt = 0#4 || o.fmt = 8#4 else o.cb = 0#2)
def mlCode (o : ML) : Bool :=
  o.latch = 0#2 && o.idx = 0#4 && o.row = 0#9 && o.gather = 0#1 && o.fmt = 0#4 && o.dec = 0#1
def mmMma (o : MM) : Bool := mfmtOk o.fmt && (o.ta = 0#1 || (o.fmt ≠ 8#4 && o.fmt ≠ 9#4))
def mmPlain (o : MM) : Bool := o.la = 0#2 && o.lb = 0#2 && o.ta = 0#1 && o.neg = 0#1 && o.acc = 0#1
def mmZero (o : MM) : Bool := mmPlain o && o.fmt = 0#4
def mmCfg (o : MM) : Bool := mmPlain o && o.fmt.toNat ≤ 3
def mcAny (_ : MC) : Bool := true
def mcNone (o : MC) : Bool := o.n = 0#8
def mqAny (_ : MQ) : Bool := true
def mfAny (_ : MF) : Bool := true
def mzStore (o : MZ) : Bool := tyAny o.ty && rndOk o.rnd
def mzLoad (o : MZ) : Bool :=
  (o.ty.toNat ≤ 2 || o.ty = 6#4) && o.sat = 0#1 && o.rnd = 0#3 && o.scale = 0#5
def msStore (o : MS) : Bool := o.addr.toNat ≤ 1023 && o.addr.toNat + o.count.toNat ≤ 1024

/-! ### E slot (R122, R247, R265, R277, R280, R352) -/

def ecTail (o : EC) : Bool := o.imm = 0#8 && o.fn = 0#4 && o.low = 0#18
def ecCpy (o : EC) : Bool :=
  o.imm = 0#8 && o.fn = 0#4 && o.low.extractLsb' 4 14 = 0#14 && rndOk (o.low.extractLsb' 0 3)
def ecChan (o : EC) : Bool := o.sa = 0#6 && o.sb = 0#6 && o.fn = 0#4 && o.low.extractLsb' 0 16 = 0#16
def ecChan1 (o : EC) : Bool := ecChan o && o.hb = 0#4
/-- A slot in sa and a handle in ha. -/
def ecSlotH (o : EC) : Bool := o.hb = 0#4 && o.sb = 0#6 && ecTail o
/-- A slot in sa and a scalar in sb. -/
def ecSlotS (o : EC) : Bool := o.ha = 0#4 && o.hb = 0#4 && ecTail o
def ecQver (o : EC) : Bool :=
  o.hb = 0#4 && o.imm = 0#8 && o.low = 0#18 && o.fn.toNat ≤ 1 && (o.fn = 1#4 || o.ha = 0#4)
def ecField (o : EC) : Bool := o.ha = 0#4 && o.hb = 0#4 && o.fn = 0#4 && o.low = 0#18 && o.imm.toNat ≤ 24
def ecBset (o : EC) : Bool :=
  ecField o && o.imm ≠ 1#8 && o.imm ≠ 4#8 && o.imm ≠ 10#8 && o.imm ≠ 21#8 && o.imm ≠ 22#8
def ecGmask (o : EC) : Bool := o.hb = 0#4 && ecTail o
def ecSltick (o : EC) : Bool := ecSlotS o && o.sb ≠ 63#6
def ecNone (o : EC) : Bool :=
  o.ha = 0#4 && o.hb = 0#4 && o.sa = 0#6 && o.sb = 0#6 && ecTail o

end Sys2Proof.Machine
end

