-- ==== Sys2Proof/WellFormed.lean ====
section
/-! DEFINITION. Which instructions are well formed: the slot fits the opcode and no operand field holds an illegal or
reserved value (R108). A row that is a step of another agent has no word and no check. -/

namespace Sys2Proof

def slotC (h : Header) : Bool := h.slot = 0#3
def slotA (h : Header) : Bool := h.slot = 1#3 || h.slot = 2#3
def slotV (h : Header) : Bool := h.slot = 3#3
def slotM (h : Header) : Bool := h.slot = 4#3
def slotE (h : Header) : Bool := h.slot = 5#3
def slotN (h : Header) : Bool := h.slot.toNat ≤ 5

def Instr.check : Instr → Bool
  | .add h o => slotC h && Machine.fnZero o
  | .addImm h o => slotC h && Machine.ciZero o
  | .sub h o => slotC h && Machine.fnZero o
  | .subImm h o => slotC h && Machine.ciZero o
  | .mul h o => slotC h && Machine.fnZero o
  | .mulImm h o => slotC h && Machine.ciZero o
  | .mulh h o => slotC h && Machine.fnLow1 o
  | .mulhImm h o => slotC h && Machine.ciLow1 o
  | .div h o => slotC h && Machine.fnLow1 o
  | .divImm h o => slotC h && Machine.ciLow1 o
  | .rem h o => slotC h && Machine.fnLow1 o
  | .remImm h o => slotC h && Machine.ciLow1 o
  | .and h o => slotC h && Machine.fnZero o
  | .andImm h o => slotC h && Machine.ciZero o
  | .or h o => slotC h && Machine.fnZero o
  | .orImm h o => slotC h && Machine.ciZero o
  | .xor h o => slotC h && Machine.fnZero o
  | .xorImm h o => slotC h && Machine.ciZero o
  | .shl h o => slotC h && Machine.fnZero o
  | .shlImm h o => slotC h && Machine.ciZero o
  | .shr h o => slotC h && Machine.fnLow1 o
  | .shrImm h o => slotC h && Machine.ciLow1 o
  | .sra h o => slotC h && Machine.fnZero o
  | .min h o => slotC h && Machine.fnLow1 o
  | .max h o => slotC h && Machine.fnLow1 o
  | .cmp h o => slotC h && Machine.fnCmp o
  | .sel h o => slotC h && Machine.fnZero o
  | .clz h o => slotC h && Machine.fnUnary o
  | .popc h o => slotC h && Machine.fnUnary o
  | .brev h o => slotC h && Machine.fnUnary o
  | .ext h o => slotC h && Machine.fnExt o
  | .bfx h o => slotC h && Machine.fnLow1 o
  | .bfi h o => slotC h && Machine.fnZero o
  | .li h o => slotC h && Machine.ciLoad o
  | .lih h o => slotC h && Machine.ciLoad o
  | .br h o => slotC h && Machine.cbDirect o
  | .brc h o => slotC h && Machine.cbCond o
  | .bri h o => slotC h && Machine.cbIndirect o
  | .call h o => slotC h && Machine.cbDirect o
  | .calli h o => slotC h && Machine.cbIndirect o
  | .ret h o => slotC h && Machine.cbNone o
  | .loop h o => slotC h && Machine.clLoop o
  | .loopx h o => slotC h && Machine.clLoopx o
  | .exit h o => slotC h && Machine.csNone o
  | .spawn h o => slotC h && Machine.csSpawn o
  | .spawng h o => slotC h && Machine.csSpawng o
  | .bar h o => slotC h && Machine.csBar o
  | .bara h o => slotC h && Machine.csBar o
  | .barcfg h o => slotC h && Machine.csBarcfg o
  | .wait h o => slotC h && Machine.csWait o
  | .phase h o => slotC h && Machine.csPhase o
  | .fence h o => slotC h && Machine.csFence o
  | .xfence h o => slotC h && Machine.csXfence o
  | .carve h o => slotC h && Machine.csCarve o
  | .decpl h o => slotC h && Machine.csNone o
  | .rejoin h o => slotC h && Machine.csNone o
  | .crrd h o => slotC h && Machine.csCrrd o
  | .crwr h o => slotC h && Machine.csCrwr o
  | .crset h o => slotC h && Machine.csCr o
  | .crclr h o => slotC h && Machine.csCr o
  | .trap h o => slotC h && Machine.csTrap o
  | .tret h o => slotC h && Machine.csNone o
  | .brk h o => slotC h && Machine.csNone o
  | .tlbi h o => slotC h && Machine.csTlbi o
  | .rdtime h o => slotC h && Machine.csRdtime o
  | .accb h o => slotC h && Machine.cbRegion o
  | .acce h o => slotC h && Machine.cbIndirect o
  | .accinv h o => slotC h && Machine.csAccinv o
  | .nop h => slotN h
  | .ld h o => slotA h && Machine.amLd o
  | .st h o => slotA h && Machine.amSt o
  | .ldv h o => slotA h && Machine.amRow o
  | .stv h o => slotA h && Machine.amRow o
  | .amo h o => slotA h && Machine.atAmo o
  | .cas h o => slotA h && Machine.atCas o
  | .pref h o => slotA h && Machine.amPref o
  | .amov h o => slotA h && Machine.aaMov o
  | .aget h o => slotA h && Machine.aaGet o
  | .aadd h o => slotA h && Machine.aaAdd o
  | .amode h o => slotA h && Machine.aaMode o
  | .aupd h o => slotA h && Machine.aaUpd o
  | .lea h o => slotA h && Machine.amLea o
  | .hld h o => slotA h && Machine.amHandle o
  | .hst h o => slotA h && Machine.amHandle o
  | .hset h o => slotA h && Machine.ahSet o
  | .hget h o => slotA h && Machine.ahGet o
  | .vadd h o => slotV h && Machine.vrArith o
  | .vaddImm h o => slotV h && Machine.viArith o
  | .vsub h o => slotV h && Machine.vrArith o
  | .vsubImm h o => slotV h && Machine.viArith o
  | .vmul h o => slotV h && Machine.vrArith o
  | .vmulImm h o => slotV h && Machine.viArith o
  | .vfma h o => slotV h && Machine.vrArith o
  | .vfmaImm h o => slotV h && Machine.viArith o
  | .vmin h o => slotV h && Machine.vrMinMax o
  | .vminImm h o => slotV h && Machine.viPlain o
  | .vmax h o => slotV h && Machine.vrMinMax o
  | .vmaxImm h o => slotV h && Machine.viPlain o
  | .vrcp h o => slotV h && Machine.vrDev o
  | .vrsq h o => slotV h && Machine.vrDev o
  | .vexp2 h o => slotV h && Machine.vrDev o
  | .vlog2 h o => slotV h && Machine.vrDev o
  | .vtanh h o => slotV h && Machine.vrDev o
  | .vcvt h o => slotV h && Machine.vrCvt o
  | .vcmp h o => slotV h && Machine.vrCmp o
  | .vsel h o => slotV h && Machine.vrSel o
  | .vand h o => slotV h && Machine.vrBits o
  | .vandImm h o => slotV h && Machine.viPlain o
  | .vor h o => slotV h && Machine.vrBits o
  | .vorImm h o => slotV h && Machine.viPlain o
  | .vxor h o => slotV h && Machine.vrBits o
  | .vxorImm h o => slotV h && Machine.viPlain o
  | .vshl h o => slotV h && Machine.vrShift o
  | .vshlImm h o => slotV h && Machine.viShift o
  | .vshr h o => slotV h && Machine.vrShift o
  | .vshrImm h o => slotV h && Machine.viShift o
  | .vmov h o => slotV h && Machine.vrMov o
  | .vbcast h o => slotV h && Machine.vxBcast o
  | .vext h o => slotV h && Machine.vxLane o
  | .vins h o => slotV h && Machine.vxLane o
  | .vperm h o => slotV h && Machine.vrPerm o
  | .viota h o => slotV h && Machine.vxIota o
  | .vred h o => slotV h && Machine.vxRed o
  | .kand h o => slotV h && Machine.krBin o
  | .kor h o => slotV h && Machine.krBin o
  | .kxor h o => slotV h && Machine.krBin o
  | .kmov h o => slotV h && Machine.krMov o
  | .kpopc h o => slotV h && Machine.krPopc o
  | .mla h o => slotM h && Machine.mlMla o
  | .mlb h o => slotM h && Machine.mlMlb o
  | .mma h o => slotM h && Machine.mmMma o
  | .mzero h o => slotM h && Machine.mmZero o
  | .mcfg h o => slotM h && Machine.mmCfg o
  | .mstz h o => slotM h && Machine.mzStore o
  | .mldz h o => slotM h && Machine.mzLoad o
  | .mcall h o => slotM h && Machine.mcAny o
  | .msetq h o => slotM h && Machine.mqAny o
  | .mfmt h o => slotM h && Machine.mfAny o
  | .mcode h o => slotM h && Machine.mlCode o
  | .mstore h o => slotM h && Machine.msStore o
  | .mloop h o => slotM h && Machine.mcAny o
  | .mend h o => slotM h && Machine.mcNone o
  | .cpy h o => slotE h && Machine.ecCpy o
  | .chsend h o => slotE h && Machine.ecChan1 o
  | .chrecv h o => slotE h && Machine.ecChan1 o
  | .chred h o => slotE h && Machine.ecChan o
  | .qprop h o => slotE h && Machine.ecSlotH o
  | .qver h o => slotE h && Machine.ecQver o
  | .qres h o => slotE h && Machine.ecSlotH o
  | .bset h o => slotE h && Machine.ecBset o
  | .bget h o => slotE h && Machine.ecField o
  | .sieve h o => slotE h && Machine.ecSlotH o
  | .tokz h o => slotE h && Machine.ecSlotH o
  | .detok h o => slotE h && Machine.ecSlotH o
  | .gadv h o => slotE h && Machine.ecSlotS o
  | .gmask h o => slotE h && Machine.ecGmask o
  | .sltick h o => slotE h && Machine.ecSltick o
  | .slpin h o => slotE h && Machine.ecSlotH o
  | .slget h o => slotE h && Machine.ecSlotH o
  | .dbar h o => slotE h && Machine.ecNone o
  | .engineFault _ => true
  | .grammarOverflow _ => true
  | .microFault _ => true
  | .numericLimit _ => true
  | .machineCheck _ _ _ => true
  | .stepTrap _ => true
  | .softwareTrapTaken _ => true
  | .variableResultLand _ _ => true
  | .engineCommandComplete _ => true
  | .translationWalkDone _ _ => true
  | .latchTransfer _ => true
  | .mmaStart _ => true
  | .mmaRetire _ => true
  | .tilePipeStart _ => true
  | .mcallRoutineRun _ => true
  | .dispatchDecision _ => true
  | .preemption _ => true
  | .emergencyAreaFree _ => true
  | .taskRestore _ => true
  | .parkRelease _ => true
  | .cellClearDone _ => true
  | .carveRelease _ => true
  | .spawnUnitEnqueue _ => true
  | .seedEnqueue _ => true
  | .launchEntryRead => true
  | .launchAdmit => true
  | .launchComplete _ => true
  | .lqtailWrite _ _ => true
  | .lqcfgWrite _ _ => true
  | .fclkWrite _ => true
  | .clockGlideEnd _ => true
  | .registerWrite _ _ => true
  | .throttleWindow _ _ _ => true
  | .fimeasClrpk _ => true
  | .packageReset _ _ _ => true
  | .frameRailOk _ => true
  | .frameBringupTimeout _ => true
  | .linkPortDown _ => true
  | .linkPortUp _ => true
  | .hostWriteAccept _ _ _ => true
  | .hostWritePerform _ => true
  | .hostRead _ _ => true
  | .reportRecord => true
  | .nxWindowStart _ => true
  | .efctlResume _ => true
  | .efctlAbandon _ => true
  | .fpreqWrite _ _ => true
  | .fastPathMapDone _ => true
  | .contextCreate => true
  | .contextDestroy => true
  | .contextInvalidate _ => true
  | .contextSetPool => true
  | .contextBadCommand _ => true
  | .quiesceAdvance => true
  | .quarantineRelease => true
  | .broodSnapshot => true
  | .roundDraftEnqueue _ => true
  | .quorumDecision _ => true
  | .sieveList _ => true
  | .outputDrain _ => true
  | .textInstallVocabulary _ => true
  | .textInstallGrammar _ => true
  | .textRemoveVocabulary _ => true
  | .textRemoveGrammar _ => true
  | .channelInstall _ _ => true
  | .channelRemove _ _ => true
  | .channelMessageArrival _ _ => true
  | .reduceResultArrival _ _ => true
  | .domainFlitReceive _ _ _ => true
  | .pderrWindow => true
  | .domainForm _ _ => true
  | .domainLeave => true
  | .domainRevoke => true
  | .tamperSensor _ => true
  | .rekeyBarrierComplete _ => true
  | .rekeyDrainTimeout _ => true
  | .mediaRingTailWrite _ => true
  | .mediaUeMessage _ _ _ _ => true
  | .mediaRecordArrival _ => true
  | .tick _ => true
  | .timeLockLoss => true
  | .timeRelock _ _ => true
  | .accordDecision _ => true
  | .accordSample _ => true
  | .accordEpoch _ _ => true
  | .accordDescriptorWrite _ _ => true
  | .cellAccessPerformed _ _ => true
  | .l1LineEviction _ _ _ => true
  | .waitTimeout _ => true
  | .mdcfgWrite _ => true
  | .peerInboundAccess _ _ _ _ => true
  | .rescalePhase1Result _ _ => true

/-- The check as a proposition. -/
abbrev Instr.WellFormed (i : Instr) : Prop := i.check = true

/-- Whether the row is a word of a program (R69), as against a step of another agent. -/
def Instr.isWord : Instr → Bool
  | .add _ _ => true
  | .addImm _ _ => true
  | .sub _ _ => true
  | .subImm _ _ => true
  | .mul _ _ => true
  | .mulImm _ _ => true
  | .mulh _ _ => true
  | .mulhImm _ _ => true
  | .div _ _ => true
  | .divImm _ _ => true
  | .rem _ _ => true
  | .remImm _ _ => true
  | .and _ _ => true
  | .andImm _ _ => true
  | .or _ _ => true
  | .orImm _ _ => true
  | .xor _ _ => true
  | .xorImm _ _ => true
  | .shl _ _ => true
  | .shlImm _ _ => true
  | .shr _ _ => true
  | .shrImm _ _ => true
  | .sra _ _ => true
  | .min _ _ => true
  | .max _ _ => true
  | .cmp _ _ => true
  | .sel _ _ => true
  | .clz _ _ => true
  | .popc _ _ => true
  | .brev _ _ => true
  | .ext _ _ => true
  | .bfx _ _ => true
  | .bfi _ _ => true
  | .li _ _ => true
  | .lih _ _ => true
  | .br _ _ => true
  | .brc _ _ => true
  | .bri _ _ => true
  | .call _ _ => true
  | .calli _ _ => true
  | .ret _ _ => true
  | .loop _ _ => true
  | .loopx _ _ => true
  | .exit _ _ => true
  | .spawn _ _ => true
  | .spawng _ _ => true
  | .bar _ _ => true
  | .bara _ _ => true
  | .barcfg _ _ => true
  | .wait _ _ => true
  | .phase _ _ => true
  | .fence _ _ => true
  | .xfence _ _ => true
  | .carve _ _ => true
  | .decpl _ _ => true
  | .rejoin _ _ => true
  | .crrd _ _ => true
  | .crwr _ _ => true
  | .crset _ _ => true
  | .crclr _ _ => true
  | .trap _ _ => true
  | .tret _ _ => true
  | .brk _ _ => true
  | .tlbi _ _ => true
  | .rdtime _ _ => true
  | .accb _ _ => true
  | .acce _ _ => true
  | .accinv _ _ => true
  | .nop _ => true
  | .ld _ _ => true
  | .st _ _ => true
  | .ldv _ _ => true
  | .stv _ _ => true
  | .amo _ _ => true
  | .cas _ _ => true
  | .pref _ _ => true
  | .amov _ _ => true
  | .aget _ _ => true
  | .aadd _ _ => true
  | .amode _ _ => true
  | .aupd _ _ => true
  | .lea _ _ => true
  | .hld _ _ => true
  | .hst _ _ => true
  | .hset _ _ => true
  | .hget _ _ => true
  | .vadd _ _ => true
  | .vaddImm _ _ => true
  | .vsub _ _ => true
  | .vsubImm _ _ => true
  | .vmul _ _ => true
  | .vmulImm _ _ => true
  | .vfma _ _ => true
  | .vfmaImm _ _ => true
  | .vmin _ _ => true
  | .vminImm _ _ => true
  | .vmax _ _ => true
  | .vmaxImm _ _ => true
  | .vrcp _ _ => true
  | .vrsq _ _ => true
  | .vexp2 _ _ => true
  | .vlog2 _ _ => true
  | .vtanh _ _ => true
  | .vcvt _ _ => true
  | .vcmp _ _ => true
  | .vsel _ _ => true
  | .vand _ _ => true
  | .vandImm _ _ => true
  | .vor _ _ => true
  | .vorImm _ _ => true
  | .vxor _ _ => true
  | .vxorImm _ _ => true
  | .vshl _ _ => true
  | .vshlImm _ _ => true
  | .vshr _ _ => true
  | .vshrImm _ _ => true
  | .vmov _ _ => true
  | .vbcast _ _ => true
  | .vext _ _ => true
  | .vins _ _ => true
  | .vperm _ _ => true
  | .viota _ _ => true
  | .vred _ _ => true
  | .kand _ _ => true
  | .kor _ _ => true
  | .kxor _ _ => true
  | .kmov _ _ => true
  | .kpopc _ _ => true
  | .mla _ _ => true
  | .mlb _ _ => true
  | .mma _ _ => true
  | .mzero _ _ => true
  | .mcfg _ _ => true
  | .mstz _ _ => true
  | .mldz _ _ => true
  | .mcall _ _ => true
  | .msetq _ _ => true
  | .mfmt _ _ => true
  | .mcode _ _ => true
  | .mstore _ _ => true
  | .mloop _ _ => true
  | .mend _ _ => true
  | .cpy _ _ => true
  | .chsend _ _ => true
  | .chrecv _ _ => true
  | .chred _ _ => true
  | .qprop _ _ => true
  | .qver _ _ => true
  | .qres _ _ => true
  | .bset _ _ => true
  | .bget _ _ => true
  | .sieve _ _ => true
  | .tokz _ _ => true
  | .detok _ _ => true
  | .gadv _ _ => true
  | .gmask _ _ => true
  | .sltick _ _ => true
  | .slpin _ _ => true
  | .slget _ _ => true
  | .dbar _ _ => true
  | .engineFault _ => false
  | .grammarOverflow _ => false
  | .microFault _ => false
  | .numericLimit _ => false
  | .machineCheck _ _ _ => false
  | .stepTrap _ => false
  | .softwareTrapTaken _ => false
  | .variableResultLand _ _ => false
  | .engineCommandComplete _ => false
  | .translationWalkDone _ _ => false
  | .latchTransfer _ => false
  | .mmaStart _ => false
  | .mmaRetire _ => false
  | .tilePipeStart _ => false
  | .mcallRoutineRun _ => false
  | .dispatchDecision _ => false
  | .preemption _ => false
  | .emergencyAreaFree _ => false
  | .taskRestore _ => false
  | .parkRelease _ => false
  | .cellClearDone _ => false
  | .carveRelease _ => false
  | .spawnUnitEnqueue _ => false
  | .seedEnqueue _ => false
  | .launchEntryRead => false
  | .launchAdmit => false
  | .launchComplete _ => false
  | .lqtailWrite _ _ => false
  | .lqcfgWrite _ _ => false
  | .fclkWrite _ => false
  | .clockGlideEnd _ => false
  | .registerWrite _ _ => false
  | .throttleWindow _ _ _ => false
  | .fimeasClrpk _ => false
  | .packageReset _ _ _ => false
  | .frameRailOk _ => false
  | .frameBringupTimeout _ => false
  | .linkPortDown _ => false
  | .linkPortUp _ => false
  | .hostWriteAccept _ _ _ => false
  | .hostWritePerform _ => false
  | .hostRead _ _ => false
  | .reportRecord => false
  | .nxWindowStart _ => false
  | .efctlResume _ => false
  | .efctlAbandon _ => false
  | .fpreqWrite _ _ => false
  | .fastPathMapDone _ => false
  | .contextCreate => false
  | .contextDestroy => false
  | .contextInvalidate _ => false
  | .contextSetPool => false
  | .contextBadCommand _ => false
  | .quiesceAdvance => false
  | .quarantineRelease => false
  | .broodSnapshot => false
  | .roundDraftEnqueue _ => false
  | .quorumDecision _ => false
  | .sieveList _ => false
  | .outputDrain _ => false
  | .textInstallVocabulary _ => false
  | .textInstallGrammar _ => false
  | .textRemoveVocabulary _ => false
  | .textRemoveGrammar _ => false
  | .channelInstall _ _ => false
  | .channelRemove _ _ => false
  | .channelMessageArrival _ _ => false
  | .reduceResultArrival _ _ => false
  | .domainFlitReceive _ _ _ => false
  | .pderrWindow => false
  | .domainForm _ _ => false
  | .domainLeave => false
  | .domainRevoke => false
  | .tamperSensor _ => false
  | .rekeyBarrierComplete _ => false
  | .rekeyDrainTimeout _ => false
  | .mediaRingTailWrite _ => false
  | .mediaUeMessage _ _ _ _ => false
  | .mediaRecordArrival _ => false
  | .tick _ => false
  | .timeLockLoss => false
  | .timeRelock _ _ => false
  | .accordDecision _ => false
  | .accordSample _ => false
  | .accordEpoch _ _ => false
  | .accordDescriptorWrite _ _ => false
  | .cellAccessPerformed _ _ => false
  | .l1LineEviction _ _ _ => false
  | .waitTimeout _ => false
  | .mdcfgWrite _ => false
  | .peerInboundAccess _ _ _ _ => false
  | .rescalePhase1Result _ _ => false

end Sys2Proof
end

