-- ==== Sys2Proof/Decode.lean ====
section
/-! DEFINITION. The decoder of an 80-bit word, total and rejecting by name, then the encoder (R69, R94, R106 to R122). -/

namespace Sys2Proof

/-- Why a word is no instruction. `illegalSlot` traps ILLEGAL_SLOT (R69); the others trap ILLEGAL_OP (R106, R108). -/
inductive Reject where
  | illegalSlot
  | unlistedOpcode
  | reservedBits
  | illegalField
  deriving DecidableEq, Repr

/-- The header fields of a word (R69). -/
def Header.parse (w : BitVec 80) : Header :=
  { eb := w.extractLsb' 79 1, slot := w.extractLsb' 76 3, pd := w.extractLsb' 72 4, av := w.extractLsb' 71 1,
    tag := w.extractLsb' 68 3, cmk := w.extractLsb' 60 8 }

def CR.parse (x : BitVec 50) : Option CR :=
  if x.extractLsb' 0 28 = 0#28 then some
    { sd := x.extractLsb' 44 6, sa := x.extractLsb' 38 6, sb := x.extractLsb' 32 6, fn := x.extractLsb' 28 4 }
  else none

def CI.parse (x : BitVec 50) : Option CI :=
  if x.extractLsb' 32 2 = 0#2 then some
    { sd := x.extractLsb' 44 6, sa := x.extractLsb' 38 6, fn := x.extractLsb' 34 4, imm := x.extractLsb' 0 32 }
  else none

def CB.parse (x : BitVec 50) : Option CB :=
  if x.extractLsb' 32 8 = 0#8 then some
    { cond := x.extractLsb' 46 4, sa := x.extractLsb' 40 6, off := x.extractLsb' 0 32 }
  else none

def CL.parse (x : BitVec 50) : Option CL :=
  if x.extractLsb' 32 10 = 0#10 then some
    { isImm := x.extractLsb' 49 1, level := x.extractLsb' 48 1, reg := x.extractLsb' 42 6,
      count := x.extractLsb' 16 16, stop := x.extractLsb' 0 16 }
  else none

def CS.parse (x : BitVec 50) : Option CS :=
  some
    { sd := x.extractLsb' 44 6, sa := x.extractLsb' 38 6, sb := x.extractLsb' 32 6, scope := x.extractLsb' 28 4,
      clsA := x.extractLsb' 24 4, clsB := x.extractLsb' 20 4, imm := x.extractLsb' 12 8,
      cr := x.extractLsb' 0 12 }

def AM.parse (x : BitVec 50) : Option AM :=
  some
    { data := x.extractLsb' 41 9, ai := x.extractLsb' 37 4, hb := x.extractLsb' 33 4, b := x.extractLsb' 32 1,
      size := x.extractLsb' 30 2, sign := x.extractLsb' 29 1, ord := x.extractLsb' 27 2,
      scope := x.extractLsb' 23 4, u := x.extractLsb' 22 1, space := x.extractLsb' 20 2,
      disp := x.extractLsb' 0 20 }

def AA.parse (x : BitVec 50) : Option AA :=
  some
    { ad := x.extractLsb' 46 4, aa := x.extractLsb' 42 4, ss := x.extractLsb' 36 6, fn := x.extractLsb' 32 4,
      imm := x.extractLsb' 0 32 }

def AT.parse (x : BitVec 50) : Option AT :=
  if x.extractLsb' 0 9 = 0#9 then some
    { sd := x.extractLsb' 44 6, ss := x.extractLsb' 38 6, sc := x.extractLsb' 32 6, ai := x.extractLsb' 28 4,
      hb := x.extractLsb' 24 4, b := x.extractLsb' 23 1, op := x.extractLsb' 19 4, size := x.extractLsb' 17 2,
      ord := x.extractLsb' 15 2, scope := x.extractLsb' 11 4, space := x.extractLsb' 9 2 }
  else none

def AH.parse (x : BitVec 50) : Option AH :=
  some
    { hd := x.extractLsb' 46 4, hs := x.extractLsb' 42 4, ss := x.extractLsb' 36 6, id := x.extractLsb' 32 4,
      imm := x.extractLsb' 0 32 }

def VR.parse (x : BitVec 50) : Option VR :=
  some
    { vd := x.extractLsb' 41 9, va := x.extractLsb' 32 9, vb := x.extractLsb' 23 9, k := x.extractLsb' 20 3,
      ty := x.extractLsb' 16 4, negA := x.extractLsb' 15 1, negB := x.extractLsb' 14 1,
      absA := x.extractLsb' 13 1, absB := x.extractLsb' 12 1, sat := x.extractLsb' 11 1,
      clamp := x.extractLsb' 10 1, scale := x.extractLsb' 5 5, rnd := x.extractLsb' 2 3, bc := x.extractLsb' 0 2
      }

def VI.parse (x : BitVec 50) : Option VI :=
  if x.extractLsb' 0 4 = 0#4 then some
    { vd := x.extractLsb' 41 9, va := x.extractLsb' 32 9, imm := x.extractLsb' 16 16, k := x.extractLsb' 13 3,
      ty := x.extractLsb' 9 4, sat := x.extractLsb' 8 1, clamp := x.extractLsb' 7 1, rnd := x.extractLsb' 4 3 }
  else none

def VX.parse (x : BitVec 50) : Option VX :=
  if x.extractLsb' 0 16 = 0#16 then some
    { v := x.extractLsb' 41 9, s := x.extractLsb' 35 6, lane := x.extractLsb' 27 8, ty := x.extractLsb' 23 4,
      k := x.extractLsb' 20 3, fn := x.extractLsb' 16 4 }
  else none

def KR.parse (x : BitVec 50) : Option KR :=
  if x.extractLsb' 0 35 = 0#35 then some
    { kd := x.extractLsb' 47 3, ka := x.extractLsb' 44 3, kb := x.extractLsb' 41 3, s := x.extractLsb' 35 6 }
  else none

def ML.parse (x : BitVec 50) : Option ML :=
  if x.extractLsb' 0 23 = 0#23 then some
    { latch := x.extractLsb' 48 2, h := x.extractLsb' 44 4, idx := x.extractLsb' 40 4,
      row := x.extractLsb' 31 9, gather := x.extractLsb' 30 1, fmt := x.extractLsb' 26 4,
      dec := x.extractLsb' 25 1, cb := x.extractLsb' 23 2 }
  else none

def MM.parse (x : BitVec 50) : Option MM :=
  if x.extractLsb' 0 36 = 0#36 then some
    { z := x.extractLsb' 47 3, la := x.extractLsb' 45 2, lb := x.extractLsb' 43 2, fmt := x.extractLsb' 39 4,
      ta := x.extractLsb' 38 1, neg := x.extractLsb' 37 1, acc := x.extractLsb' 36 1 }
  else none

def MC.parse (x : BitVec 50) : Option MC :=
  if x.extractLsb' 0 42 = 0#42 then some
    { n := x.extractLsb' 42 8 }
  else none

def MQ.parse (x : BitVec 50) : Option MQ :=
  if x.extractLsb' 0 41 = 0#41 then some
    { q := x.extractLsb' 47 3, s := x.extractLsb' 41 6 }
  else none

def MF.parse (x : BitVec 50) : Option MF :=
  if x.extractLsb' 0 40 = 0#40 then some
    { e := x.extractLsb' 46 4, s := x.extractLsb' 40 6 }
  else none

def MZ.parse (x : BitVec 50) : Option MZ :=
  if x.extractLsb' 0 26 = 0#26 then some
    { z := x.extractLsb' 47 3, h := x.extractLsb' 43 4, idx := x.extractLsb' 39 4, ty := x.extractLsb' 35 4,
      sat := x.extractLsb' 34 1, rnd := x.extractLsb' 31 3, scale := x.extractLsb' 26 5 }
  else none

def MS.parse (x : BitVec 50) : Option MS :=
  if x.extractLsb' 0 22 = 0#22 then some
    { addr := x.extractLsb' 38 12, h := x.extractLsb' 34 4, count := x.extractLsb' 22 12 }
  else none

def EC.parse (x : BitVec 50) : Option EC :=
  some
    { ha := x.extractLsb' 46 4, hb := x.extractLsb' 42 4, sa := x.extractLsb' 36 6, sb := x.extractLsb' 30 6,
      imm := x.extractLsb' 22 8, fn := x.extractLsb' 18 4, low := x.extractLsb' 0 18 }

/-- The opcode map of the C slot: `none` for an unlisted opcode, `some none` for a nonzero reserved bit. -/
def decodeC (h : Header) (op : Nat) (x : BitVec 50) : Option (Option Instr) :=
  match op with
  | 0x000 => some (if x = 0#50 then some (.nop h) else none)
  | 0x001 => some ((CR.parse x).map (.add h))
  | 0x002 => some ((CR.parse x).map (.sub h))
  | 0x003 => some ((CR.parse x).map (.mul h))
  | 0x004 => some ((CR.parse x).map (.mulh h))
  | 0x005 => some ((CR.parse x).map (.div h))
  | 0x006 => some ((CR.parse x).map (.rem h))
  | 0x007 => some ((CR.parse x).map (.and h))
  | 0x008 => some ((CR.parse x).map (.or h))
  | 0x009 => some ((CR.parse x).map (.xor h))
  | 0x00A => some ((CR.parse x).map (.shl h))
  | 0x00B => some ((CR.parse x).map (.shr h))
  | 0x00C => some ((CR.parse x).map (.sra h))
  | 0x00D => some ((CR.parse x).map (.min h))
  | 0x00E => some ((CR.parse x).map (.max h))
  | 0x00F => some ((CR.parse x).map (.cmp h))
  | 0x010 => some ((CR.parse x).map (.sel h))
  | 0x011 => some ((CR.parse x).map (.clz h))
  | 0x012 => some ((CR.parse x).map (.popc h))
  | 0x013 => some ((CR.parse x).map (.brev h))
  | 0x014 => some ((CR.parse x).map (.ext h))
  | 0x015 => some ((CR.parse x).map (.bfx h))
  | 0x016 => some ((CR.parse x).map (.bfi h))
  | 0x017 => some ((CI.parse x).map (.li h))
  | 0x018 => some ((CI.parse x).map (.lih h))
  | 0x040 => some ((CB.parse x).map (.br h))
  | 0x041 => some ((CB.parse x).map (.brc h))
  | 0x042 => some ((CB.parse x).map (.bri h))
  | 0x043 => some ((CB.parse x).map (.call h))
  | 0x044 => some ((CB.parse x).map (.calli h))
  | 0x045 => some ((CB.parse x).map (.ret h))
  | 0x046 => some ((CL.parse x).map (.loop h))
  | 0x047 => some ((CL.parse x).map (.loopx h))
  | 0x080 => some ((CS.parse x).map (.exit h))
  | 0x081 => some ((CS.parse x).map (.spawn h))
  | 0x082 => some ((CS.parse x).map (.spawng h))
  | 0x083 => some ((CS.parse x).map (.bar h))
  | 0x084 => some ((CS.parse x).map (.bara h))
  | 0x085 => some ((CS.parse x).map (.barcfg h))
  | 0x086 => some ((CS.parse x).map (.wait h))
  | 0x087 => some ((CS.parse x).map (.phase h))
  | 0x088 => some ((CS.parse x).map (.fence h))
  | 0x089 => some ((CS.parse x).map (.xfence h))
  | 0x08A => some ((CS.parse x).map (.carve h))
  | 0x08B => some ((CS.parse x).map (.decpl h))
  | 0x08C => some ((CS.parse x).map (.rejoin h))
  | 0x0C0 => some ((CS.parse x).map (.crrd h))
  | 0x0C1 => some ((CS.parse x).map (.crwr h))
  | 0x0C2 => some ((CS.parse x).map (.crset h))
  | 0x0C3 => some ((CS.parse x).map (.crclr h))
  | 0x0C4 => some ((CS.parse x).map (.trap h))
  | 0x0C5 => some ((CS.parse x).map (.tret h))
  | 0x0C6 => some ((CS.parse x).map (.brk h))
  | 0x0C7 => some ((CS.parse x).map (.tlbi h))
  | 0x0C8 => some ((CS.parse x).map (.rdtime h))
  | 0x100 => some ((CB.parse x).map (.accb h))
  | 0x101 => some ((CB.parse x).map (.acce h))
  | 0x102 => some ((CS.parse x).map (.accinv h))
  | 0x201 => some ((CI.parse x).map (.addImm h))
  | 0x202 => some ((CI.parse x).map (.subImm h))
  | 0x203 => some ((CI.parse x).map (.mulImm h))
  | 0x204 => some ((CI.parse x).map (.mulhImm h))
  | 0x205 => some ((CI.parse x).map (.divImm h))
  | 0x206 => some ((CI.parse x).map (.remImm h))
  | 0x207 => some ((CI.parse x).map (.andImm h))
  | 0x208 => some ((CI.parse x).map (.orImm h))
  | 0x209 => some ((CI.parse x).map (.xorImm h))
  | 0x20A => some ((CI.parse x).map (.shlImm h))
  | 0x20B => some ((CI.parse x).map (.shrImm h))
  | _ => none

/-- The opcode map of the A slots: `none` for an unlisted opcode, `some none` for a nonzero reserved bit. -/
def decodeA (h : Header) (op : Nat) (x : BitVec 50) : Option (Option Instr) :=
  match op with
  | 0x000 => some (if x = 0#50 then some (.nop h) else none)
  | 0x001 => some ((AM.parse x).map (.ld h))
  | 0x002 => some ((AM.parse x).map (.st h))
  | 0x003 => some ((AM.parse x).map (.ldv h))
  | 0x004 => some ((AM.parse x).map (.stv h))
  | 0x005 => some ((AT.parse x).map (.amo h))
  | 0x006 => some ((AT.parse x).map (.cas h))
  | 0x007 => some ((AM.parse x).map (.pref h))
  | 0x010 => some ((AA.parse x).map (.amov h))
  | 0x011 => some ((AA.parse x).map (.aget h))
  | 0x012 => some ((AA.parse x).map (.aadd h))
  | 0x013 => some ((AA.parse x).map (.amode h))
  | 0x014 => some ((AA.parse x).map (.aupd h))
  | 0x015 => some ((AM.parse x).map (.lea h))
  | 0x020 => some ((AM.parse x).map (.hld h))
  | 0x021 => some ((AM.parse x).map (.hst h))
  | 0x022 => some ((AH.parse x).map (.hset h))
  | 0x023 => some ((AH.parse x).map (.hget h))
  | _ => none

/-- The opcode map of the V slot: `none` for an unlisted opcode, `some none` for a nonzero reserved bit. -/
def decodeV (h : Header) (op : Nat) (x : BitVec 50) : Option (Option Instr) :=
  match op with
  | 0x000 => some (if x = 0#50 then some (.nop h) else none)
  | 0x001 => some ((VR.parse x).map (.vadd h))
  | 0x002 => some ((VR.parse x).map (.vsub h))
  | 0x003 => some ((VR.parse x).map (.vmul h))
  | 0x004 => some ((VR.parse x).map (.vfma h))
  | 0x005 => some ((VR.parse x).map (.vmin h))
  | 0x006 => some ((VR.parse x).map (.vmax h))
  | 0x007 => some ((VR.parse x).map (.vrcp h))
  | 0x008 => some ((VR.parse x).map (.vrsq h))
  | 0x009 => some ((VR.parse x).map (.vexp2 h))
  | 0x00A => some ((VR.parse x).map (.vlog2 h))
  | 0x00B => some ((VR.parse x).map (.vtanh h))
  | 0x00C => some ((VR.parse x).map (.vcvt h))
  | 0x00D => some ((VR.parse x).map (.vcmp h))
  | 0x00E => some ((VR.parse x).map (.vsel h))
  | 0x010 => some ((VR.parse x).map (.vand h))
  | 0x011 => some ((VR.parse x).map (.vor h))
  | 0x012 => some ((VR.parse x).map (.vxor h))
  | 0x013 => some ((VR.parse x).map (.vshl h))
  | 0x014 => some ((VR.parse x).map (.vshr h))
  | 0x018 => some ((VR.parse x).map (.vmov h))
  | 0x019 => some ((VX.parse x).map (.vbcast h))
  | 0x01A => some ((VX.parse x).map (.vext h))
  | 0x01B => some ((VX.parse x).map (.vins h))
  | 0x01C => some ((VR.parse x).map (.vperm h))
  | 0x01D => some ((VX.parse x).map (.viota h))
  | 0x01E => some ((VX.parse x).map (.vred h))
  | 0x020 => some ((KR.parse x).map (.kand h))
  | 0x021 => some ((KR.parse x).map (.kor h))
  | 0x022 => some ((KR.parse x).map (.kxor h))
  | 0x023 => some ((KR.parse x).map (.kmov h))
  | 0x024 => some ((KR.parse x).map (.kpopc h))
  | 0x201 => some ((VI.parse x).map (.vaddImm h))
  | 0x202 => some ((VI.parse x).map (.vsubImm h))
  | 0x203 => some ((VI.parse x).map (.vmulImm h))
  | 0x204 => some ((VI.parse x).map (.vfmaImm h))
  | 0x205 => some ((VI.parse x).map (.vminImm h))
  | 0x206 => some ((VI.parse x).map (.vmaxImm h))
  | 0x210 => some ((VI.parse x).map (.vandImm h))
  | 0x211 => some ((VI.parse x).map (.vorImm h))
  | 0x212 => some ((VI.parse x).map (.vxorImm h))
  | 0x213 => some ((VI.parse x).map (.vshlImm h))
  | 0x214 => some ((VI.parse x).map (.vshrImm h))
  | _ => none

/-- The opcode map of the M slot: `none` for an unlisted opcode, `some none` for a nonzero reserved bit. -/
def decodeM (h : Header) (op : Nat) (x : BitVec 50) : Option (Option Instr) :=
  match op with
  | 0x000 => some (if x = 0#50 then some (.nop h) else none)
  | 0x001 => some ((ML.parse x).map (.mla h))
  | 0x002 => some ((ML.parse x).map (.mlb h))
  | 0x003 => some ((MM.parse x).map (.mma h))
  | 0x004 => some ((MM.parse x).map (.mzero h))
  | 0x005 => some ((MM.parse x).map (.mcfg h))
  | 0x006 => some ((MZ.parse x).map (.mstz h))
  | 0x007 => some ((MZ.parse x).map (.mldz h))
  | 0x008 => some ((MC.parse x).map (.mcall h))
  | 0x009 => some ((MQ.parse x).map (.msetq h))
  | 0x00A => some ((MF.parse x).map (.mfmt h))
  | 0x00B => some ((ML.parse x).map (.mcode h))
  | 0x00C => some ((MS.parse x).map (.mstore h))
  | 0x010 => some ((MC.parse x).map (.mloop h))
  | 0x011 => some ((MC.parse x).map (.mend h))
  | _ => none

/-- The opcode map of the E slot: `none` for an unlisted opcode, `some none` for a nonzero reserved bit. -/
def decodeE (h : Header) (op : Nat) (x : BitVec 50) : Option (Option Instr) :=
  match op with
  | 0x000 => some (if x = 0#50 then some (.nop h) else none)
  | 0x001 => some ((EC.parse x).map (.cpy h))
  | 0x002 => some ((EC.parse x).map (.chsend h))
  | 0x003 => some ((EC.parse x).map (.chrecv h))
  | 0x004 => some ((EC.parse x).map (.chred h))
  | 0x008 => some ((EC.parse x).map (.qprop h))
  | 0x009 => some ((EC.parse x).map (.qver h))
  | 0x00A => some ((EC.parse x).map (.qres h))
  | 0x00B => some ((EC.parse x).map (.bset h))
  | 0x00C => some ((EC.parse x).map (.bget h))
  | 0x010 => some ((EC.parse x).map (.sieve h))
  | 0x011 => some ((EC.parse x).map (.tokz h))
  | 0x012 => some ((EC.parse x).map (.detok h))
  | 0x013 => some ((EC.parse x).map (.gadv h))
  | 0x014 => some ((EC.parse x).map (.gmask h))
  | 0x018 => some ((EC.parse x).map (.sltick h))
  | 0x019 => some ((EC.parse x).map (.slpin h))
  | 0x01A => some ((EC.parse x).map (.slget h))
  | 0x020 => some ((EC.parse x).map (.dbar h))
  | _ => none

/-- The candidate instruction of a word by its slot. -/
def decodeSlot (h : Header) (op : Nat) (x : BitVec 50) : Option (Option Instr) :=
  match h.slot.toNat with
  | 0 => decodeC h op x
  | 1 | 2 => decodeA h op x
  | 3 => decodeV h op x
  | 4 => decodeM h op x
  | 5 => decodeE h op x
  | _ => none

/-- The decoder of one 80-bit word. -/
def decode (w : BitVec 80) : Except Reject Instr :=
  if 6 ≤ (Header.parse w).slot.toNat then .error .illegalSlot
  else
    match decodeSlot (Header.parse w) (w.extractLsb' 50 10).toNat (w.extractLsb' 0 50) with
    | none => .error .unlistedOpcode
    | some none => .error .reservedBits
    | some (some i) => if i.check then .ok i else .error .illegalField

/-- The word that ten bytes hold, lowest address first (R70). -/
def wordOfBytes : List Byte → BitVec 80
  | [] => 0#80
  | b :: r => (b.zeroExtend 80) ||| (wordOfBytes r <<< 8)

/-- Total on any bytes: fewer than ten bytes are no instruction. -/
def decodeBytes (bs : List Byte) : Except Reject (Instr × List Byte) :=
  if bs.length < 10 then .error .unlistedOpcode
  else (decode (wordOfBytes (bs.take 10))).map fun i => (i, bs.drop 10)

/-- The instruction read from a word whose bits are `w`, numbered as the operation table numbers them; the bits above
`nbits` are 0. -/
def decodeTableWord (nbits w : Nat) : Option Instr :=
  match decode (BitVec.ofNat 80 (w % 2 ^ nbits)) with
  | .ok i => some i
  | .error _ => none

/-! ### The encoder -/

/-- A word from its header, opcode and operand bits (R69). -/
def Header.word (h : Header) (op : BitVec 10) (x : BitVec 50) : BitVec 80 :=
  h.eb ++ h.slot ++ h.pd ++ h.av ++ h.tag ++ h.cmk ++ op ++ x

def CR.bits (o : CR) : BitVec 50 :=
  o.sd ++ o.sa ++ o.sb ++ o.fn ++ 0#28

def CI.bits (o : CI) : BitVec 50 :=
  o.sd ++ o.sa ++ o.fn ++ 0#2 ++ o.imm

def CB.bits (o : CB) : BitVec 50 :=
  o.cond ++ o.sa ++ 0#8 ++ o.off

def CL.bits (o : CL) : BitVec 50 :=
  o.isImm ++ o.level ++ o.reg ++ 0#10 ++ o.count ++ o.stop

def CS.bits (o : CS) : BitVec 50 :=
  o.sd ++ o.sa ++ o.sb ++ o.scope ++ o.clsA ++ o.clsB ++ o.imm ++ o.cr

def AM.bits (o : AM) : BitVec 50 :=
  o.data ++ o.ai ++ o.hb ++ o.b ++ o.size ++ o.sign ++ o.ord ++ o.scope ++ o.u ++ o.space ++ o.disp

def AA.bits (o : AA) : BitVec 50 :=
  o.ad ++ o.aa ++ o.ss ++ o.fn ++ o.imm

def AT.bits (o : AT) : BitVec 50 :=
  o.sd ++ o.ss ++ o.sc ++ o.ai ++ o.hb ++ o.b ++ o.op ++ o.size ++ o.ord ++ o.scope ++ o.space ++ 0#9

def AH.bits (o : AH) : BitVec 50 :=
  o.hd ++ o.hs ++ o.ss ++ o.id ++ o.imm

def VR.bits (o : VR) : BitVec 50 :=
  o.vd ++ o.va ++ o.vb ++ o.k ++ o.ty ++ o.negA ++ o.negB ++ o.absA ++ o.absB ++ o.sat ++ o.clamp ++ o.scale
    ++ o.rnd ++ o.bc

def VI.bits (o : VI) : BitVec 50 :=
  o.vd ++ o.va ++ o.imm ++ o.k ++ o.ty ++ o.sat ++ o.clamp ++ o.rnd ++ 0#4

def VX.bits (o : VX) : BitVec 50 :=
  o.v ++ o.s ++ o.lane ++ o.ty ++ o.k ++ o.fn ++ 0#16

def KR.bits (o : KR) : BitVec 50 :=
  o.kd ++ o.ka ++ o.kb ++ o.s ++ 0#35

def ML.bits (o : ML) : BitVec 50 :=
  o.latch ++ o.h ++ o.idx ++ o.row ++ o.gather ++ o.fmt ++ o.dec ++ o.cb ++ 0#23

def MM.bits (o : MM) : BitVec 50 :=
  o.z ++ o.la ++ o.lb ++ o.fmt ++ o.ta ++ o.neg ++ o.acc ++ 0#36

def MC.bits (o : MC) : BitVec 50 :=
  o.n ++ 0#42

def MQ.bits (o : MQ) : BitVec 50 :=
  o.q ++ o.s ++ 0#41

def MF.bits (o : MF) : BitVec 50 :=
  o.e ++ o.s ++ 0#40

def MZ.bits (o : MZ) : BitVec 50 :=
  o.z ++ o.h ++ o.idx ++ o.ty ++ o.sat ++ o.rnd ++ o.scale ++ 0#26

def MS.bits (o : MS) : BitVec 50 :=
  o.addr ++ o.h ++ o.count ++ 0#22

def EC.bits (o : EC) : BitVec 50 :=
  o.ha ++ o.hb ++ o.sa ++ o.sb ++ o.imm ++ o.fn ++ o.low

/-- The word of an instruction; a step of another agent has none. -/
def encode : Instr → Option (BitVec 80)
  | .add h o => some (h.word 0x001#10 o.bits)
  | .addImm h o => some (h.word 0x201#10 o.bits)
  | .sub h o => some (h.word 0x002#10 o.bits)
  | .subImm h o => some (h.word 0x202#10 o.bits)
  | .mul h o => some (h.word 0x003#10 o.bits)
  | .mulImm h o => some (h.word 0x203#10 o.bits)
  | .mulh h o => some (h.word 0x004#10 o.bits)
  | .mulhImm h o => some (h.word 0x204#10 o.bits)
  | .div h o => some (h.word 0x005#10 o.bits)
  | .divImm h o => some (h.word 0x205#10 o.bits)
  | .rem h o => some (h.word 0x006#10 o.bits)
  | .remImm h o => some (h.word 0x206#10 o.bits)
  | .and h o => some (h.word 0x007#10 o.bits)
  | .andImm h o => some (h.word 0x207#10 o.bits)
  | .or h o => some (h.word 0x008#10 o.bits)
  | .orImm h o => some (h.word 0x208#10 o.bits)
  | .xor h o => some (h.word 0x009#10 o.bits)
  | .xorImm h o => some (h.word 0x209#10 o.bits)
  | .shl h o => some (h.word 0x00A#10 o.bits)
  | .shlImm h o => some (h.word 0x20A#10 o.bits)
  | .shr h o => some (h.word 0x00B#10 o.bits)
  | .shrImm h o => some (h.word 0x20B#10 o.bits)
  | .sra h o => some (h.word 0x00C#10 o.bits)
  | .min h o => some (h.word 0x00D#10 o.bits)
  | .max h o => some (h.word 0x00E#10 o.bits)
  | .cmp h o => some (h.word 0x00F#10 o.bits)
  | .sel h o => some (h.word 0x010#10 o.bits)
  | .clz h o => some (h.word 0x011#10 o.bits)
  | .popc h o => some (h.word 0x012#10 o.bits)
  | .brev h o => some (h.word 0x013#10 o.bits)
  | .ext h o => some (h.word 0x014#10 o.bits)
  | .bfx h o => some (h.word 0x015#10 o.bits)
  | .bfi h o => some (h.word 0x016#10 o.bits)
  | .li h o => some (h.word 0x017#10 o.bits)
  | .lih h o => some (h.word 0x018#10 o.bits)
  | .br h o => some (h.word 0x040#10 o.bits)
  | .brc h o => some (h.word 0x041#10 o.bits)
  | .bri h o => some (h.word 0x042#10 o.bits)
  | .call h o => some (h.word 0x043#10 o.bits)
  | .calli h o => some (h.word 0x044#10 o.bits)
  | .ret h o => some (h.word 0x045#10 o.bits)
  | .loop h o => some (h.word 0x046#10 o.bits)
  | .loopx h o => some (h.word 0x047#10 o.bits)
  | .exit h o => some (h.word 0x080#10 o.bits)
  | .spawn h o => some (h.word 0x081#10 o.bits)
  | .spawng h o => some (h.word 0x082#10 o.bits)
  | .bar h o => some (h.word 0x083#10 o.bits)
  | .bara h o => some (h.word 0x084#10 o.bits)
  | .barcfg h o => some (h.word 0x085#10 o.bits)
  | .wait h o => some (h.word 0x086#10 o.bits)
  | .phase h o => some (h.word 0x087#10 o.bits)
  | .fence h o => some (h.word 0x088#10 o.bits)
  | .xfence h o => some (h.word 0x089#10 o.bits)
  | .carve h o => some (h.word 0x08A#10 o.bits)
  | .decpl h o => some (h.word 0x08B#10 o.bits)
  | .rejoin h o => some (h.word 0x08C#10 o.bits)
  | .crrd h o => some (h.word 0x0C0#10 o.bits)
  | .crwr h o => some (h.word 0x0C1#10 o.bits)
  | .crset h o => some (h.word 0x0C2#10 o.bits)
  | .crclr h o => some (h.word 0x0C3#10 o.bits)
  | .trap h o => some (h.word 0x0C4#10 o.bits)
  | .tret h o => some (h.word 0x0C5#10 o.bits)
  | .brk h o => some (h.word 0x0C6#10 o.bits)
  | .tlbi h o => some (h.word 0x0C7#10 o.bits)
  | .rdtime h o => some (h.word 0x0C8#10 o.bits)
  | .accb h o => some (h.word 0x100#10 o.bits)
  | .acce h o => some (h.word 0x101#10 o.bits)
  | .accinv h o => some (h.word 0x102#10 o.bits)
  | .nop h => some (h.word 0x000#10 0#50)
  | .ld h o => some (h.word 0x001#10 o.bits)
  | .st h o => some (h.word 0x002#10 o.bits)
  | .ldv h o => some (h.word 0x003#10 o.bits)
  | .stv h o => some (h.word 0x004#10 o.bits)
  | .amo h o => some (h.word 0x005#10 o.bits)
  | .cas h o => some (h.word 0x006#10 o.bits)
  | .pref h o => some (h.word 0x007#10 o.bits)
  | .amov h o => some (h.word 0x010#10 o.bits)
  | .aget h o => some (h.word 0x011#10 o.bits)
  | .aadd h o => some (h.word 0x012#10 o.bits)
  | .amode h o => some (h.word 0x013#10 o.bits)
  | .aupd h o => some (h.word 0x014#10 o.bits)
  | .lea h o => some (h.word 0x015#10 o.bits)
  | .hld h o => some (h.word 0x020#10 o.bits)
  | .hst h o => some (h.word 0x021#10 o.bits)
  | .hset h o => some (h.word 0x022#10 o.bits)
  | .hget h o => some (h.word 0x023#10 o.bits)
  | .vadd h o => some (h.word 0x001#10 o.bits)
  | .vaddImm h o => some (h.word 0x201#10 o.bits)
  | .vsub h o => some (h.word 0x002#10 o.bits)
  | .vsubImm h o => some (h.word 0x202#10 o.bits)
  | .vmul h o => some (h.word 0x003#10 o.bits)
  | .vmulImm h o => some (h.word 0x203#10 o.bits)
  | .vfma h o => some (h.word 0x004#10 o.bits)
  | .vfmaImm h o => some (h.word 0x204#10 o.bits)
  | .vmin h o => some (h.word 0x005#10 o.bits)
  | .vminImm h o => some (h.word 0x205#10 o.bits)
  | .vmax h o => some (h.word 0x006#10 o.bits)
  | .vmaxImm h o => some (h.word 0x206#10 o.bits)
  | .vrcp h o => some (h.word 0x007#10 o.bits)
  | .vrsq h o => some (h.word 0x008#10 o.bits)
  | .vexp2 h o => some (h.word 0x009#10 o.bits)
  | .vlog2 h o => some (h.word 0x00A#10 o.bits)
  | .vtanh h o => some (h.word 0x00B#10 o.bits)
  | .vcvt h o => some (h.word 0x00C#10 o.bits)
  | .vcmp h o => some (h.word 0x00D#10 o.bits)
  | .vsel h o => some (h.word 0x00E#10 o.bits)
  | .vand h o => some (h.word 0x010#10 o.bits)
  | .vandImm h o => some (h.word 0x210#10 o.bits)
  | .vor h o => some (h.word 0x011#10 o.bits)
  | .vorImm h o => some (h.word 0x211#10 o.bits)
  | .vxor h o => some (h.word 0x012#10 o.bits)
  | .vxorImm h o => some (h.word 0x212#10 o.bits)
  | .vshl h o => some (h.word 0x013#10 o.bits)
  | .vshlImm h o => some (h.word 0x213#10 o.bits)
  | .vshr h o => some (h.word 0x014#10 o.bits)
  | .vshrImm h o => some (h.word 0x214#10 o.bits)
  | .vmov h o => some (h.word 0x018#10 o.bits)
  | .vbcast h o => some (h.word 0x019#10 o.bits)
  | .vext h o => some (h.word 0x01A#10 o.bits)
  | .vins h o => some (h.word 0x01B#10 o.bits)
  | .vperm h o => some (h.word 0x01C#10 o.bits)
  | .viota h o => some (h.word 0x01D#10 o.bits)
  | .vred h o => some (h.word 0x01E#10 o.bits)
  | .kand h o => some (h.word 0x020#10 o.bits)
  | .kor h o => some (h.word 0x021#10 o.bits)
  | .kxor h o => some (h.word 0x022#10 o.bits)
  | .kmov h o => some (h.word 0x023#10 o.bits)
  | .kpopc h o => some (h.word 0x024#10 o.bits)
  | .mla h o => some (h.word 0x001#10 o.bits)
  | .mlb h o => some (h.word 0x002#10 o.bits)
  | .mma h o => some (h.word 0x003#10 o.bits)
  | .mzero h o => some (h.word 0x004#10 o.bits)
  | .mcfg h o => some (h.word 0x005#10 o.bits)
  | .mstz h o => some (h.word 0x006#10 o.bits)
  | .mldz h o => some (h.word 0x007#10 o.bits)
  | .mcall h o => some (h.word 0x008#10 o.bits)
  | .msetq h o => some (h.word 0x009#10 o.bits)
  | .mfmt h o => some (h.word 0x00A#10 o.bits)
  | .mcode h o => some (h.word 0x00B#10 o.bits)
  | .mstore h o => some (h.word 0x00C#10 o.bits)
  | .mloop h o => some (h.word 0x010#10 o.bits)
  | .mend h o => some (h.word 0x011#10 o.bits)
  | .cpy h o => some (h.word 0x001#10 o.bits)
  | .chsend h o => some (h.word 0x002#10 o.bits)
  | .chrecv h o => some (h.word 0x003#10 o.bits)
  | .chred h o => some (h.word 0x004#10 o.bits)
  | .qprop h o => some (h.word 0x008#10 o.bits)
  | .qver h o => some (h.word 0x009#10 o.bits)
  | .qres h o => some (h.word 0x00A#10 o.bits)
  | .bset h o => some (h.word 0x00B#10 o.bits)
  | .bget h o => some (h.word 0x00C#10 o.bits)
  | .sieve h o => some (h.word 0x010#10 o.bits)
  | .tokz h o => some (h.word 0x011#10 o.bits)
  | .detok h o => some (h.word 0x012#10 o.bits)
  | .gadv h o => some (h.word 0x013#10 o.bits)
  | .gmask h o => some (h.word 0x014#10 o.bits)
  | .sltick h o => some (h.word 0x018#10 o.bits)
  | .slpin h o => some (h.word 0x019#10 o.bits)
  | .slget h o => some (h.word 0x01A#10 o.bits)
  | .dbar h o => some (h.word 0x020#10 o.bits)
  | .engineFault _ => none
  | .grammarOverflow _ => none
  | .microFault _ => none
  | .numericLimit _ => none
  | .machineCheck _ _ _ => none
  | .stepTrap _ => none
  | .softwareTrapTaken _ => none
  | .variableResultLand _ _ => none
  | .engineCommandComplete _ => none
  | .translationWalkDone _ _ => none
  | .latchTransfer _ => none
  | .mmaStart _ => none
  | .mmaRetire _ => none
  | .tilePipeStart _ => none
  | .mcallRoutineRun _ => none
  | .dispatchDecision _ => none
  | .preemption _ => none
  | .emergencyAreaFree _ => none
  | .taskRestore _ => none
  | .parkRelease _ => none
  | .cellClearDone _ => none
  | .carveRelease _ => none
  | .spawnUnitEnqueue _ => none
  | .seedEnqueue _ => none
  | .launchEntryRead => none
  | .launchAdmit => none
  | .launchComplete _ => none
  | .lqtailWrite _ _ => none
  | .lqcfgWrite _ _ => none
  | .fclkWrite _ => none
  | .clockGlideEnd _ => none
  | .registerWrite _ _ => none
  | .throttleWindow _ _ _ => none
  | .fimeasClrpk _ => none
  | .packageReset _ _ _ => none
  | .frameRailOk _ => none
  | .frameBringupTimeout _ => none
  | .linkPortDown _ => none
  | .linkPortUp _ => none
  | .hostWriteAccept _ _ _ => none
  | .hostWritePerform _ => none
  | .hostRead _ _ => none
  | .reportRecord => none
  | .nxWindowStart _ => none
  | .efctlResume _ => none
  | .efctlAbandon _ => none
  | .fpreqWrite _ _ => none
  | .fastPathMapDone _ => none
  | .contextCreate => none
  | .contextDestroy => none
  | .contextInvalidate _ => none
  | .contextSetPool => none
  | .contextBadCommand _ => none
  | .quiesceAdvance => none
  | .quarantineRelease => none
  | .broodSnapshot => none
  | .roundDraftEnqueue _ => none
  | .quorumDecision _ => none
  | .sieveList _ => none
  | .outputDrain _ => none
  | .textInstallVocabulary _ => none
  | .textInstallGrammar _ => none
  | .textRemoveVocabulary _ => none
  | .textRemoveGrammar _ => none
  | .channelInstall _ _ => none
  | .channelRemove _ _ => none
  | .channelMessageArrival _ _ => none
  | .reduceResultArrival _ _ => none
  | .domainFlitReceive _ _ _ => none
  | .pderrWindow => none
  | .domainForm _ _ => none
  | .domainLeave => none
  | .domainRevoke => none
  | .tamperSensor _ => none
  | .rekeyBarrierComplete _ => none
  | .rekeyDrainTimeout _ => none
  | .mediaRingTailWrite _ => none
  | .mediaUeMessage _ _ _ _ => none
  | .mediaRecordArrival _ => none
  | .tick _ => none
  | .timeLockLoss => none
  | .timeRelock _ _ => none
  | .accordDecision _ => none
  | .accordSample _ => none
  | .accordEpoch _ _ => none
  | .accordDescriptorWrite _ _ => none
  | .cellAccessPerformed _ _ => none
  | .l1LineEviction _ _ _ => none
  | .waitTimeout _ => none
  | .mdcfgWrite _ => none
  | .peerInboundAccess _ _ _ _ => none
  | .rescalePhase1Result _ _ => none

end Sys2Proof
end

