-- ==== Sys2Proof/Config.lean ====
section
/-! DEFINITION. What the part fixes, and the values the spec leaves open. -/

namespace Sys2Proof.Config

/-- How far device time moves at step `n` of the model: left open by the spec, so nothing is known of it (log 5). -/
opaque timeAdvance : Nat → Nat

/-- Values that the spec leaves open where a word goes on, numbered by a counter of the state. -/
opaque freeWord : Nat → Word

/-- Bytes of a save area whose places the spec leaves open, by save and word (log 16). -/
opaque saveWord : Nat → Nat → Word

/-- The order in which an accord engine adds the terms of a sum while it trains, by sum and step: the spec gives the loss and
the rounding of each operation, but not their order (R306, log 24). -/
opaque accordOrder : Nat → Nat → Nat

/-- Which of several equal expressions an accord engine evaluates while it trains (R306, log 24). -/
opaque accordForm : Nat → Nat

/-- The hash of the affinity table, by launch, stage and level prefix: the spec names a hash of 1,024 entries and gives no
function (R59, log 45). -/
opaque affinityHash : Nat → Nat → Word → Nat

/-- Matrix cycles that the routine of a cell has still to run, by step and cell: lengths of time are not modelled, so
nothing is known of it (R63, log 18). -/
opaque matrixLeft : Nat → Nat → Nat

/-- The package's own id, by which a domain and a slot's HOME name it: a fact of the part that the spec does not give
(R254, R295, log 32). -/
opaque packageId : BitVec 16

/-- The hash of destination package and address by which traffic picks its plane (R21, log 18). -/
opaque planeHash : Nat → Nat → Nat

/-- HKDF-Extract over SHA-384, of salt and input key material: a standard that the spec names and does not restate (R293, log
11). -/
opaque hkdfExtract : List (BitVec 8) → List (BitVec 8) → List (BitVec 8)

/-- HKDF-Expand over SHA-384, of key, info and length (R293, log 11). -/
opaque hkdfExpand : List (BitVec 8) → List (BitVec 8) → Nat → List (BitVec 8)

/-- Whether a receiver of a channel in another package holds DEPTH messages at a step of the model: that state is the other
package's (R282, log 18). -/
opaque receiverFull : Nat → Nat → Bool

/-- Whether the switch holds another member's contribution to a round of a channel when this package arrives at the
re-keying barrier of a generation: that state is the switch's (R297, log 32). -/
opaque switchHolds : Nat → Nat → Nat → Bool

/-- The pages of a slot's KV cache, virtual and physical, by step and slot: the spec does not give the layout of the table
that KVPT names (R229, log 26). -/
opaque kvPages : Nat → Nat → List (Nat × Nat)

/-- Whether an aligned 8-byte unit of a line that is evicted stays dirty in the L1 for now, by step and unit: a line may be
evicted at any time, and a read that races with its bytes chooses unit by unit (R171, R180, log 6). -/
opaque unitStays : Nat → Nat → Bool

/-- A byte of the text region after a change of the images: the spec does not give the region's layout (R249, R443,
log 29). -/
opaque textByte : Nat → Nat → Byte

/-- Device identity register (R17). -/
def devid : Word := 0x0AD90002#64
def combCells : Nat := 256
def scoutCells : Nat := 48
/-- Granule of the scratchpad reservation in bytes (R38). -/
def granule : Nat := 32768
/-- Bytes of one stack (R219). -/
def stackBytes : Nat := 48 * 2 ^ 30
/-- Entries of a translation cache (R220). -/
def tlbEntries : Nat := 256
/-- Words of the matrix unit's queue (R163). -/
def mQueue : Nat := 8
/-- Entries of a die's affinity table (R59). -/
def affinityEntries : Nat := 1024
/-- Most fixed-latency results in flight (R198). -/
def flightMax : Nat := 32
/-- Slots of the brood table (R226). -/
def slots : Nat := 4096

/-- Positions of the service core's reserved regions in the stacks 0 to 2 (DESIGN CHOICE: the spec gives none, log 8). -/
def broodBase : Nat := 0x0_4000_0000
def broodBytes : Nat := 4096 * 512
def textBase : Nat := 0x0_8000_0000
def textBytes : Nat := 0x1_0000_0000
def channelBase : Nat := 0x0_4100_0000
def channelBytes : Nat := 1024 * 64
/-- The emergency save area of each die, one full context (R212). -/
def emergBase (scout : Bool) : Nat := if scout then 0x0_4300_0000 else 0x0_4200_0000
def emergBytes : Nat := 1536 * 1024

/-- First number of the capability chain (DESIGN CHOICE: R30 leaves the numbers open, log 17). -/
def capFirst : Nat := 0xE00

end Sys2Proof.Config
end

