-- ==== Sys2Proof/Machine/State.lean ====
section
/-! DEFINITION. The state of the part as plain data, and the state after reset. -/

namespace Sys2Proof.Machine

/-- Memory: address and byte, addresses rising, no byte equal to what an unlisted address reads as (zero, log 1). -/
abbrev Mem := List Host.Cell

/-! ### A cell -/

/-- A write of a result into its destination. `sh` names the shadow bank (R86); a row lands where `mask` is 1 (R119);
`rmw` reads a control register, sets or clears the bits of `v` in it and writes what it read into sd (R355). -/
inductive Land where
  | s (i : BitVec 6) (v : Word)
  | sh (i : BitVec 4) (v : Word)
  | a (i : BitVec 4) (v : Word)
  | m (i : BitVec 4) (v : Word)
  | h (i : BitVec 4) (v : BitVec 256)
  | k (i : BitVec 3) (v : BitVec 256)
  | q (i : BitVec 3) (v : Word)
  | row (i : BitVec 9) (v mask : Row)
  | cr (n : BitVec 12) (v : Word)
  | rmw (n : BitVec 12) (set : Bool) (v : Word) (sd : BitVec 6) (shadow : Bool)
  deriving DecidableEq, Repr

/-- A fixed-latency result that lands when `n` issue cycles have passed (R76), and the numeric event classes it counts
when it lands (R147). `age` counts the issue cycles since its word issued, 0 for the bundle that issues now (R84, R155); `id` is
the number of the scratchpad load that brought it, 0 for every other word (R205). -/
structure InFlight where
  land : Land
  n : Nat
  slot : BitVec 3
  ev : BitVec 8
  age : Nat := 0
  id : Nat := 0
  deriving DecidableEq, Repr

/-- A pending variable-latency access of the CELL path: what it writes when it lands and the tag it clears (R79), the slot and
the age of its word (R84), whether its page is a domain page (R218, R294), whether it is an ordered access, which later ones
wait for (R182), and whether it is a scratchpad load of a handle, which has a limit of its own (R371). -/
structure Access where
  id : Nat
  tag : Option (BitVec 3)
  lands : List Land
  write : Bool
  pa : Nat
  dom : Bool
  slot : BitVec 3
  age : Nat := 0
  ord : Bool := false
  soon : Bool := false
  deriving DecidableEq, Repr

/-- The scalar, address, mode, handle, mask and parameter registers (R85, R86). -/
structure Regs where
  s : Reg 6 Word
  sh : Reg 4 Word
  a : Reg 4 Word
  m : Reg 4 Word
  h : Reg 4 (BitVec 256)
  k : Reg 3 (BitVec 256)
  q : Reg 3 Word
  v : Reg 9 Row
  deriving DecidableEq, Repr

/-- The trap, debug and save registers of a cell (R203, R211, R215). -/
structure TrapRegs where
  cause : Word
  epc : Word
  tval : Word
  tvec : Word
  status : Word
  taddr : Word
  fpreq : Word
  fpstat : BitVec 2
  dbgctl : Word
  dbgpc : Word
  dbgtpc : Reg 3 Word
  savea : Word
  savel : Word
  savecur : Word
  deriving DecidableEq, Repr

/-- Rounding mode and numeric event registers (R127, R148). -/
structure Nx where
  rmode : Word
  cnt : Reg 3 Word
  thr : Reg 3 Word
  win : Word
  ctl : Word
  deriving DecidableEq, Repr

/-- An active loop: B, E, remaining count and iteration (R379, R380). -/
structure LoopSt where
  b : BitVec 32
  e : BitVec 32
  left : BitVec 32
  iter : BitVec 32
  deriving DecidableEq, Repr

/-- A run of bytes of one storage: main memory, the scratchpad of the cell or the staging slices. -/
inductive Space where
  | main
  | pad
  | staging
  deriving DecidableEq, Repr

/-- `dom` marks a run on a domain page (R218). -/
structure Seg where
  space : Space
  addr : Nat
  len : Nat
  dom : Bool := false
  deriving DecidableEq, Repr

/-- An operand latch: 64 lines and their scale bytes (R153). -/
structure Latch where
  lines : Reg 6 Row
  scales : Reg 6 (BitVec 128)
  deriving DecidableEq, Repr

/-- The source of a queued load, run by run: the bytes it read at issue, or the runs that it reads when it starts, because
an earlier M word is still to write them or because it is an MLDZ (R158, R161, R163). -/
inductive MSrc where
  | now (rows : List (List Byte))
  | later (rows : List (List Seg))
  deriving DecidableEq, Repr

/-- A queued M word with the operands and the data it read at issue (R158, R163, R364). `fmt` is already resolved (R138); a load
keeps the bits of a line and, where it decodes, the codebook table and the codewords of each line (R135). `id` is the number by
which an error in the data that the word reads names it, and by which it waits for responses of domain pages; `bad` are the
scratchpad bytes that are in error for the loads of a routine (R162, R205). -/
inductive MJob where
  | load (id : Nat) (isB : Bool) (latch : BitVec 2) (src : MSrc) (bits : Nat) (decode : Option (BitVec 2 × List Nat))
  | mma (z : BitVec 3) (la lb : BitVec 2) (fmt : BitVec 4) (ta neg acc : Bool)
  | zero (z : BitVec 3)
  | cfg (z : BitVec 3) (ty : BitVec 2)
  | store (id : Nat) (z : BitVec 3) (ty : BitVec 4) (sat : Bool) (rnd : BitVec 3) (scale : BitVec 5) (cols : Nat)
      (rows : List (List Seg))
  | fill (id : Nat) (z : BitVec 3) (src : MSrc)
  | call (id : Nat) (n : BitVec 8) (entry : Word) (a q : List Word) (iter : BitVec 4) (tag : Option (BitVec 3))
      (bad : List Nat)
  | fmt (e : BitVec 4) (v : Word)
  | code (id : Nat) (cb : BitVec 2) (src : MSrc)
  | micro (id addr count : Nat) (src : MSrc)
  deriving DecidableEq, Repr

/-- An MMA in the array: the tile it writes, the rows it leaves and the events it counts at retirement (R160). -/
structure MRun where
  z : BitVec 3
  rows : List Row
  ev : BitVec 8
  deriving DecidableEq, Repr

/-- The matrix unit (R150, R153, R136, R137, R165, R163). -/
structure Matrix where
  ztype : Reg 3 (BitVec 2)
  la : Reg 2 Latch
  lb : Reg 2 Latch
  cb : Reg 2 (Reg 8 Word)
  fmt : Reg 4 Word
  store : SMap (BitVec 80)
  queue : List MJob
  run : Option MRun
  deriving DecidableEq, Repr

/-- A line of the L1: 256 bytes, which of them it holds and which are dirty (R171). -/
structure Line where
  tag : Nat
  data : Row
  have_ : BitVec 256
  dirty : BitVec 256
  deriving DecidableEq, Repr

/-- A cached translation: context, level of the leaf, virtual address, entry (R220). -/
structure TlbEntry where
  ctx : BitVec 16
  level : Nat
  va : Nat
  pte : Word
  deriving DecidableEq, Repr

/-- What the running task is (R33 to R38, R49). -/
structure Task where
  gang : Nat
  launch : Nat
  lslot : BitVec 5
  stage : BitVec 4
  gsize : BitVec 6
  gmem : BitVec 6
  fused : Bool
  det : Bool
  ctx : BitVec 16
  code : BitVec 56
  data : BitVec 56
  ident : Word
  wf : List Word
  openPhase : BitVec 4
  deriving DecidableEq, Repr

/-- The stage a cell is bound to and the reservation it holds (R49). -/
structure Binding where
  launch : Nat
  stage : BitVec 4
  ctx : BitVec 16
  spr : BitVec 6
  l1r : BitVec 4
  tiles : BitVec 4
  qsl1 : Bool
  deriving DecidableEq, Repr

/-- The open accord region of a task: descriptor, whether it was opened on the true path, its engine, the inputs of the
ACCB, and for a decision in READY the surrogate's outputs that the body's are compared with (R303, R305, R308). -/
structure OpenRegion where
  va : Nat
  true_ : Bool
  engine : BitVec 2
  ins : List (BitVec 32)
  check : Option (List (BitVec 32))
  deriving DecidableEq, Repr

/-- An engine's decision: the body runs, or the outputs are written (scalars or a row) and the body is skipped (R302). -/
inductive AccAnswer where
  | body (r : OpenRegion)
  | skip (scalar : Bool) (at_ : Nat) (outs : List (BitVec 32))
  deriving DecidableEq, Repr

/-- What a cell waits for: a barrier or a CARVE, REJOIN, the decision on the ACCB of the bundle that has issued, whose target is
`t`, and the decision once it has come, ACCINV, the trap of a CARVE, a halt, a park, the retirement of the M words of a task
that ends (R53, R54, R56, R201, R215, R302, R321, R323). -/
inductive Wait where
  | none
  | bar (n scope : BitVec 4)
  | carve (n scope : BitVec 4)
  | carveDone (n scope : BitVec 4)
  | rejoin
  | accb (t : BitVec 32)
  | accbDone (t : BitVec 32) (a : AccAnswer)
  | accinv
  | misuse (n : BitVec 4)
  | halt
  | park
  | ending
  deriving DecidableEq, Repr

/-- A range that the spawn unit has taken from a SPAWNG of a cell (R48); `gang` is the fused gang whose member `gmem` issued it,
0 for a task that fetches alone (R418). -/
structure Range where
  cell : BitVec 9
  gang : Nat
  gmem : BitVec 6
  launch : Nat
  stage : BitVec 4
  field : BitVec 3
  base : Word
  next : Nat
  count : Nat
  barrier : Bool
  scope : BitVec 4
  deriving DecidableEq, Repr

/-- Pending boundary events of a cell, the oldest of a kind first (R196). `faulted` is the command whose fault the handler was
given (R213, R214). -/
structure Events where
  check : Option Nat
  engine : List Nat
  faulted : Option Nat
  grammar : List (BitVec 12)
  micro : List Word
  numeric : BitVec 8
  trap : List (BitVec 8)
  step : Option (BitVec 32)
  deriving DecidableEq, Repr

/-- What the last word did: bookkeeping of the model, not of the part (log 3). -/
inductive Verdict where
  | issued
  | trapped
  | frozen
  | polled
  | idle
  deriving DecidableEq, Repr


/-- Who has sent flits to domain pages that await their responses, cells' accesses apart: an engine command, an accord engine
for an arrival or an epoch, the seeds of a launch, the text engine for a slot, a poll of a WAIT, a fetch of code, a queued M
word, by their numbers (R294, log 32). -/
inductive Asker where
  | cmd (id : Nat)
  | accord (e : BitVec 2) (epoch : Bool)
  | seed (launch : Nat)
  | text (slot : Nat)
  | poll (id : Nat)
  | code (id : Nat)
  | job (id : Nat)
  deriving DecidableEq, Repr

/-- Issue state: program counter, bundle end, redirect, results in flight, variable-latency results that landed in the issue
cycle under way, flight record, tags, the tags that clear in the next issue cycle (R70, R76, R78, R84, R198, R403); of a polling
WAIT what it compares with, whether its time is over, and the value of the read that ended it, which a member of a fused gang
keeps until all issue (R440); the load that the cell has sent to a domain page for a poll or a fetch and awaits (R294); and the
bundle that has issued but for its withdrawn ACCB (R321). `ticked` and `pdSpent` are the model's own bookkeeping of issue cycles
(log 3). -/
structure Pipe where
  pc : BitVec 32
  seq : BitVec 32
  redirect : Option (BitVec 32)
  inflight : List InFlight
  late : List InFlight
  flight : List InFlight
  ticked : Bool
  pdSpent : Bool
  pend : BitVec 8
  engTag : BitVec 8
  untag : BitVec 8
  accs : List Access
  inner : Option LoopSt
  outer : Option LoopSt
  expired : Bool
  polled : Option Word
  asked : Option Asker
  got : Option Word
  rest : Option (BitVec 32)
  deriving DecidableEq, Repr

/-- One comb cell or scout cell. -/
structure Cell where
  regs : Regs
  pipe : Pipe
  tr : TrapRegs
  nx : Nx
  entry : Reg 8 Word
  mx : Matrix
  pad : Mem
  lines : List Line
  icache : List Line
  tlb : List TlbEntry
  running : Bool
  task : Task
  bound : Option Binding
  wait : Wait
  region : Option OpenRegion
  events : Events
  verdict : Verdict
  deriving DecidableEq, Repr

/-! ### Tasks, gangs, launches -/

/-- An arrival at a barrier (R53, R54). -/
structure Arrival where
  gmem : BitVec 6
  carve : Option (BitVec 12)
  waits : Bool
  deriving DecidableEq, Repr

structure Barrier where
  expect : Nat
  arrived : List Arrival
  deriving DecidableEq, Repr

/-- A gang, or a single task as a gang of one (R51 to R56). `carving` holds the barriers that a CARVE phase completed and
the split of each (R54). `step` is the brood slot of a tick-fired step (R274). -/
structure Gang where
  id : Nat
  launch : Nat
  stage : BitVec 4
  size : Nat
  ident : Word
  cells : List (BitVec 9)
  exited : List (BitVec 6)
  fused : Bool
  bars : Reg 4 Barrier
  rejoined : List (BitVec 6)
  carving : List (BitVec 4 × BitVec 12)
  step : Option (BitVec 12)
  deriving DecidableEq, Repr

/-- What reaches a saved context after its save: a result, bytes of its scratchpad, numeric events, the split of a CARVE
(R54, R149, R209). -/
inductive Redirected where
  | land (l : Land)
  | pad (at_ : Nat) (bs : List Byte)
  | events (ev : BitVec 8)
  | carve (v : BitVec 12)
  deriving DecidableEq, Repr

/-- A context saved by pre-emption (R208 to R212): the cell's image, the cell it left, what has reached it since, the scratchpad
bytes that the area holds of it, whether it is parked, the die in whose emergency area a part of it lies, and the cell that is
to restore it. -/
structure Saved where
  gang : Nat
  gmem : BitVec 6
  image : Cell
  at_ : BitVec 9
  landed : List Redirected
  padLen : Nat
  parked : Bool
  split : Option (BitVec 1)
  cell : Option (BitVec 9)
  deriving DecidableEq, Repr

/-- A stage header (R38) with the amounts the service core reports (R39). -/
structure Stage where
  entry : BitVec 32
  widths : List Nat
  affl : BitVec 3
  affFrame : Bool
  qlog : Nat
  prio : BitVec 2
  cw : BitVec 4
  det : Bool
  fuse : Bool
  qsl1 : Bool
  affm : BitVec 5
  gang : Nat
  down : BitVec 16
  minc : Nat
  maxc : Nat
  tiles : BitVec 4
  spr : BitVec 6
  l1r : BitVec 4
  stkg : BitVec 6
  minr : Nat
  deriving DecidableEq, Repr

/-- A queue entry: identifier, barrier flag, release scope (R43); the slot of a step entry (R274). -/
structure QEntry where
  ident : Word
  barrier : Bool
  scope : BitVec 4
  step : Option (BitVec 12)
  deriving DecidableEq, Repr

structure StageSt where
  hdr : Stage
  queue : List QEntry
  credit : Nat
  draining : Option (List (BitVec 9))
  deriving DecidableEq, Repr

/-- A launch, waiting or resident (R37 to R42). -/
structure Launch where
  id : Nat
  packet : Nat
  status : Nat
  ctx : BitVec 16
  code : BitVec 56
  data : BitVec 56
  comb : Option (BitVec 5)
  scout : Option (BitVec 5)
  stages : List StageSt
  seedAt : Nat
  seedLeft : Nat
  seedStage : BitVec 4
  seedBarrier : Bool
  resident : Bool
  deriving DecidableEq, Repr

/-- A remembered affinity: stage, level prefix, unit (R59). -/
structure Affinity where
  launch : Nat
  stage : BitVec 4
  pre : Word
  unit : Nat
  deriving DecidableEq, Repr

/-- Launches, gangs, saved contexts, the cells whose save waits for the emergency area (R212), pending SPAWNG ranges and the
dispatchers' own state (R33 to R63). A `ptr` holds
launch slot and stage; it resets to the place before slot 0, stage 0 (log 2). The affinity tables are indexed by the hash
of R59. -/
structure Tasks where
  launches : List Launch
  gangs : List Gang
  saved : List Saved
  combPtr : Reg 2 (Nat × BitVec 4)
  scoutPtr : Reg 2 (Nat × BitVec 4)
  combAff : SMap Affinity
  scoutAff : SMap Affinity
  preempt : List (BitVec 9)
  saving : List (BitVec 9)
  ranges : List Range
  deriving DecidableEq, Repr

/-! ### Package -/

structure LaunchQueue where
  base : Word
  cfg : Word
  tail : Word
  head : Word
  stopped : Bool
  deriving DecidableEq, Repr

/-- A report record, without its time (R207). -/
structure Report where
  kind : BitVec 8
  cause : BitVec 8
  cell : BitVec 9
  ctx : BitVec 16
  epc : Word
  tval : Word
  data : Word
  deriving DecidableEq, Repr

/-- The current and throttle registers of a frame (R25, R26). -/
structure Throttle where
  floor : BitVec 4
  limit : BitVec 12
  cur : BitVec 12
  peak : BitVec 12
  level : BitVec 4
  overLimit : Bool
  therm : Bool
  calm : Nat
  deriving DecidableEq, Repr

/-- A context's descriptor and its free save areas and pool (R222). -/
structure Context where
  id : BitVec 16
  root : Nat
  tvec : BitVec 56
  saveb : Nat
  saves : Nat
  free : List Nat
  used : List (Nat × Nat)
  pool : Nat
  poolN : Nat
  deriving DecidableEq, Repr

/-- A TLBI that has not taken effect everywhere: number, context, address (none for the whole context), and the first
access that was not translated before it (R223, R224). -/
structure Shoot where
  n : Nat
  first : Nat
  ctx : BitVec 16
  va : Option Nat
  deriving DecidableEq, Repr

/-- A leaf of a context's tables: the address and the place that it maps, and its size (R217). -/
structure Leaf where
  va : Nat
  pa : Nat
  size : Nat
  deriving DecidableEq, Repr

/-- A TLBI that was issued: number, context, address, and what of the translations that it names the tables still held
(R223, R225). -/
structure Tlbi where
  n : Nat
  ctx : BitVec 16
  va : Option Nat
  still : List Leaf
  deriving DecidableEq, Repr

/-- A physical page in quarantine: the context and address that mapped it, the number of the first TLBI that can have
unmapped it, its place and size (R225). -/
structure Freed where
  ctx : BitVec 16
  va : Nat
  since : Nat
  pa : Nat
  len : Nat
  deriving DecidableEq, Repr

/-- The BAR0 registers and the part's own configuration (R13, R15, R17 to R31, R206, R222 to R225, R250, R268 to R271,
R279, R289). `up` says that step 5 of bring-up is over (R23). -/
structure Package where
  devState : BitVec 2
  frames : BitVec 4
  scout : Bool
  crossings : BitVec 4
  ports : BitVec 16
  uePorts : BitVec 4
  glide : BitVec 4
  up : Bool
  bringup : Option (BitVec 2)
  fclk : Word
  lq : Reg 3 LaunchQueue
  lqTurn : BitVec 3
  rpBase : Word
  rpCfg : Word
  rpHead : Word
  rpTail : Word
  drops : BitVec 16
  reports : List Report
  msix : List Nat
  txImg : Word
  txStat : Word
  txCmd : Word
  md : LaunchQueue
  mdRecs : List (List Byte)
  mdue : Reg 3 Word
  chImg : Word
  chStat : Word
  chCmd : Word
  pdImg : Word
  pdCmd : Option Word
  cxImg : Word
  cxStat : Word
  cxCmd : Word
  throttle : Reg 2 Throttle
  contexts : List Context
  tlbiNext : Nat
  quiesce : Nat
  shoots : List Shoot
  tlbis : List Tlbi
  quarantine : List Freed
  emergBusy : Reg 1 Bool
  emergOwner : Reg 1 (BitVec 9)
  fastPath : List (BitVec 9)
  time : Nat
  tsrc : Word
  lock : Bool
  hold : Bool
  offset : BitVec 32
  deriving DecidableEq, Repr

/-! ### Engines -/

inductive EOp where
  | cpy | chsend | chrecv | chred | qprop | qver | qres | bset | bget | sieve
  | tokz | detok | gadv | gmask | sltick | slpin | slget | dbar
  deriving DecidableEq, Repr

/-- An engine command with the registers it read at issue (R315), its progress and the fault that holds it (R213). `num`
is the declaration number of a SIEVE or the round number of a CHRED; `round` tells the round a command belongs to;
`begun` says that its engine has started it (R188). -/
structure Cmd where
  id : Nat
  op : EOp
  cell : BitVec 9
  gang : Nat
  gmem : BitVec 6
  ctx : BitVec 16
  det : Bool
  tag : Option (BitVec 3)
  pc : BitVec 32
  ha : BitVec 256
  hb : BitVec 256
  sa : Word
  sb : Word
  sx : Word
  dst : BitVec 6
  imm : BitVec 8
  fn : BitVec 4
  low : BitVec 18
  progress : Nat
  num : Nat
  round : Nat
  started : Bool
  begun : Bool
  held : Option (BitVec 8 × Word)
  ev : BitVec 8
  deriving DecidableEq, Repr

/-- A shortlist of the sieve: tokens with p in 0.24, and the tail fraction (R237). -/
structure Shortlist where
  toks : List (Nat × Nat)
  tail : Nat
  deriving DecidableEq, Repr

/-- The round of a slot (R232): its copy of the fields, the proposal ring (R234), the declarations and lists (R236), and
the facts of the previous QVER that the depth controller uses (R243). -/
structure Round where
  active : Bool
  num : Nat
  copy : Reg 5 Word
  ring : List (BitVec 128)
  decls : Nat
  lists : SMap Shortlist
  qver : Option Nat
  cancelled : Bool
  enqueue : Bool
  seq : Nat
  home : BitVec 2
  qdet : Bool
  deriving DecidableEq, Repr

/-- One position of the grammar snapshot ring: GSTATE and the stack, top first (R233, R258). -/
structure GSnap where
  pos : Nat
  state : Word
  stack : List (BitVec 8)
  deriving DecidableEq, Repr

/-- Text state of a slot: grammar stack and snapshots, stop block, stop matcher, UTF-8 stage, output buffer (R255 to
R264). -/
structure TextSt where
  stack : List (BitVec 8)
  snaps : List GSnap
  stops : List (List Byte)
  dlim : Nat
  held : List Byte
  utf : List Byte
  out : List Byte
  finish : Option (BitVec 4 × BitVec 4 × BitVec 32)
  done : Bool
  discard : Bool
  deriving DecidableEq, Repr

/-- A media record in the window: ring entry, stamp, stream, arrival number (R273, R274). -/
structure MEntry where
  at_ : Nat
  stamp : Nat
  stream : BitVec 2
  arrival : Nat
  deriving DecidableEq, Repr

/-- The sillage window of a slot (R272 to R277): its pages, the context and address that SLPIN named, and the first TLBI
number after it. -/
structure Window where
  pages : List Nat
  ctx : BitVec 16
  va : Nat
  since : Nat
  sinks : Nat
  entries : List MEntry
  high : Reg 2 Nat
  dropOld : BitVec 32
  dropFull : BitVec 32
  arrivals : Nat
  deriving DecidableEq, Repr

/-- Released bytes of a slot's earlier generation that its stream has no room for yet: the stream, its context, the bytes, the
finish that follows them (R229, R264). -/
structure Leftover where
  va : Nat
  ctx : BitVec 16
  out : List Byte
  finish : Option (BitVec 4 × BitVec 4 × BitVec 32)
  deriving DecidableEq, Repr

/-- A brood slot: live and shadow fields by id, COMMIT, the round record, the slot's engine state, the start of the latest
window and the step index, the first TLBI number after the slot's admission (R225 to R229, R273, R274). -/
structure Slot where
  live : Reg 5 Word
  shadow : Reg 5 Word
  commit : Bool
  record : Reg 3 Word
  round : Round
  text : TextSt
  left : List Leftover
  window : Option Window
  start : Nat
  k : Nat
  since : Nat
  stepping : Bool
  deriving DecidableEq, Repr

/-- The brood table and its globals (R231). -/
structure Brood where
  slots : SMap Slot
  iter : Word
  dtab0 : Word
  dtab1 : Word
  qnext : Word
  stalew : BitVec 32
  decided : BitVec 32
  slstep : Word
  mdrop : BitVec 32
  mbad : BitVec 32
  deriving DecidableEq, Repr

/-- A resident vocabulary (R251). -/
structure Vocab where
  eot : Nat
  toks : List (List Byte)
  deriving DecidableEq, Repr

/-- A resident grammar: pair table, masks, transitions (R252). -/
structure Gram where
  vocab : Nat
  start : BitVec 12
  pairs : List Word
  masks : List (List Byte)
  trans : List (Word × Word)
  deriving DecidableEq, Repr

/-- The resident images; `changed` numbers the last change of the text region, 0 for none since bring-up (R172, R249). -/
structure Text where
  vocabs : SMap Vocab
  grams : SMap Gram
  changed : Nat
  deriving DecidableEq, Repr

/-- A round of a reduce channel at this package (R283, R285): its command, the elements it contributed, for RESCALE the
maxima of phase 1, and the result once it has arrived. -/
structure RedRound where
  k : Nat
  cmd : Nat
  sent : List (BitVec 32)
  maxima : Option (List (BitVec 32))
  result : Option (List (BitVec 128))
  deriving DecidableEq, Repr

/-- A channel: its entry's eight words and what the engine keeps for it (R278, R282, R283). -/
structure Chan where
  words : Reg 3 Word
  msgs : List Nat
  next : Nat
  started : Nat
  rounds : List RedRound
  deriving DecidableEq, Repr

/-- The way of a flit out of the package: the port of a scale-up plane, or Ultra Ethernet; `held` while no port is up (R21, R288,
log 18). -/
inductive Path where
  | plane (port : BitVec 4)
  | ultra
  | held
  deriving DecidableEq, Repr

/-- What seals a flit of the domain: the key of its link and generation, and the nonce (R293). -/
structure Seal where
  key : List Byte
  nonce : BitVec 96
  deriving DecidableEq, Repr

/-- A flit that left the package, on a channel or of an access to peer memory: channel, way, header, the seal of domain traffic,
payload before it is encrypted (R21, R194, R287, R288, R293). -/
structure OutMsg where
  chan : Option Nat
  path : Path
  hdr : BitVec 128
  crypt : Option Seal
  bytes : List Byte
  deriving DecidableEq, Repr

structure Chans where
  table : SMap Chan
  out : List OutMsg
  deriving DecidableEq, Repr

/-- A member record of the manifest: id, certificate slot, digests (R290). -/
structure MemberRec where
  id : BitVec 16
  slot : BitVec 3
  firmware : BitVec 384
  code : BitVec 384
  deriving DecidableEq, Repr

/-- The packages that owe it a response, one for each flit, and those whose responses it has taken. -/
structure Ask where
  by_ : Asker
  owed : List (BitVec 16)
  got : List (BitVec 16)
  deriving DecidableEq, Repr

/-- The propolis domain (R289 to R298). `next` is the membership that is being formed or that follows the barrier, `seqs`
holds the SEQ expected next by source, class and path, `seen` the recent ones of the Ultra Ethernet path, `sends` the SEQ that
the package sends next by destination and class. `flits` are accepted and not yet performed, oldest first; `tags` are the tags
of the firmware's DBARs that wait for the release. `asks` holds what awaits responses; `quiet` is the model's own: what is done
with the responses sends no flit a second time (log 32). -/
structure Propolis where
  state : BitVec 3
  self : BitVec 16
  domain : BitVec 32
  gen : BitVec 32
  secret : BitVec 384
  members : List (BitVec 16)
  next : List MemberRec
  seqErr : BitVec 32
  authErr : BitVec 32
  thr : Word
  tmo : Word
  alarm : Word
  seqs : SMap Nat
  seen : SMap (List Nat)
  sends : SMap Nat
  flits : List (BitVec 128)
  tags : BitVec 8
  arrived : Bool
  change : Bool
  asks : List Ask
  quiet : Bool
  deriving DecidableEq, Repr

/-- A region held by an accord engine (R299, R300, R308). `first` and `last` bound the region's code; `written` says that
another agent has written bytes 0 to 127 of it (R309). -/
structure Region where
  va : Nat
  ctx : BitVec 16
  state : BitVec 3
  why : BitVec 8
  ver : Nat
  viol : Nat
  nsmp : Nat
  inv : Nat
  first : Nat
  last : Nat
  written : Bool
  deriving DecidableEq, Repr

/-- An arrival at an accord engine: an ACCB with its inputs, an ACCE with its outputs, an ACCINV (R302, R304, R322). -/
inductive AccMsg where
  | enter (cell : BitVec 9) (gang : Nat) (gmem : BitVec 6) (ctx : BitVec 16) (va : Nat) (ins : List (BitVec 32))
      (off withdrawn : Bool) (tiles : Nat) (first last : Nat)
  | sample (cell : BitVec 9) (gang : Nat) (gmem : BitVec 6) (ctx : BitVec 16) (va : Nat) (ins outs : List (BitVec 32))
      (check : Option (List (BitVec 32)))
  | inval (cell : BitVec 9) (gang : Nat) (gmem : BitVec 6) (ctx : BitVec 16) (va : Nat)
  deriving DecidableEq, Repr

structure Accord where
  regions : Reg 2 (List Region)
  msgs : Reg 2 (List AccMsg)
  deriving DecidableEq, Repr

/-- A host or peer write accepted and not yet performed (R192). -/
structure Inbound where
  src : Origin
  pa : Nat
  bytes : List Byte
  deriving DecidableEq, Repr

/-- Whose turn is next: a cell issues, an agent takes one step of the operation table, the service core's firmware issues a
word (R296), or the service core writes a debug register of a cell for the host (R215) (log 3). -/
inductive Turn where
  | cell (c : BitVec 9)
  | event (i : Instr)
  | firmware (i : Instr)
  | debug (c : BitVec 9) (n : BitVec 12) (v : Word)
  deriving DecidableEq, Repr

/-- The part. `cur`, `core` (the service core is the issuer), `agenda`, `steps`,
`nextId` and `response` (the data last returned to the host or a peer) are the model's own (log 3, log 5, log 29). -/
structure State where
  cells : Reg 9 Cell
  cur : BitVec 9
  core : Bool
  agenda : List Turn
  steps : Nat
  nextId : Nat
  mem : Mem
  staging : Mem
  inbound : List Inbound
  response : List Byte
  tasks : Tasks
  pkg : Package
  cmds : List Cmd
  brood : Brood
  text : Text
  chans : Chans
  pd : Propolis
  accord : Accord
  deriving DecidableEq, Repr

/-- Why a step stops. -/
inductive Fault where
  /-- Raised by `step` when the agenda names a word of a program as a step of another agent: no such turn exists. Safe. -/
  | wordAsEvent
  deriving DecidableEq, Repr

/-- Why an instruction has no meaning. -/
inductive Refusal where
  /-- Raised by an arm of `exec` that has no meaning yet. Safe. -/
  | notModelled (mnemonic : String)
  deriving DecidableEq, Repr

/-! ### Reset -/

/-- Registers of a cell at reset: all zero; k0 reads all ones through its accessor (R33, R86, log 2). -/
def Regs.reset : Regs :=
  { s := Reg.fill 0, sh := Reg.fill 0, a := Reg.fill 0, m := Reg.fill 0, h := Reg.fill 0, k := Reg.fill 0,
    q := Reg.fill 0, v := Reg.fill 0 }

def TrapRegs.reset : TrapRegs :=
  { cause := 0, epc := 0, tval := 0, tvec := 0, status := 0, taddr := 0, fpreq := 0, fpstat := 0, dbgctl := 0, dbgpc := 0,
    dbgtpc := Reg.fill 0, savea := 0,
    savel := 0, savecur := 0 }

/-- The thresholds reset to 0xFFFF_FFFF, everything else to 0 (R148). -/
def Nx.reset : Nx :=
  { rmode := 0, cnt := Reg.fill 0, thr := Reg.fill 0xFFFFFFFF#64, win := 0, ctl := 0 }

def Latch.reset : Latch := { lines := Reg.fill 0, scales := Reg.fill 0 }

def Matrix.reset : Matrix :=
  { ztype := Reg.fill 0, la := Reg.fill Latch.reset, lb := Reg.fill Latch.reset, cb := Reg.fill (Reg.fill 0),
    fmt := Reg.fill 0, store := [], queue := [], run := none }

def Task.idle : Task :=
  { gang := 0, launch := 0, lslot := 0, stage := 0, gsize := 1, gmem := 0, fused := false, det := false, ctx := 0,
    code := 0, data := 0, ident := 0, wf := [], openPhase := 0 }

def Pipe.reset : Pipe :=
  { pc := 0, seq := 0, redirect := none, inflight := [], late := [], flight := [], ticked := false, pdSpent := false, pend := 0,
    engTag := 0, untag := 0, accs := [], inner := none, outer := none, expired := false
    polled := none, asked := none, got := none, rest := none }

def Events.none : Events :=
  { check := .none, engine := [], faulted := .none, grammar := [], micro := [], numeric := 0, trap := [], step := .none }

def Cell.reset : Cell :=
  { regs := Regs.reset, pipe := Pipe.reset, tr := TrapRegs.reset, nx := Nx.reset, entry := Reg.fill 0,
    mx := Matrix.reset, pad := [], lines := [], icache := [], tlb := [], running := false, task := Task.idle,
    bound := none, wait := .none, region := none, events := Events.none,
    verdict := .issued }

def LaunchQueue.reset : LaunchQueue := { base := 0, cfg := 0, tail := 0, head := 0, stopped := false }

/-- LIMIT resets to 2,560, everything else to 0 (R25). -/
def Throttle.reset : Throttle :=
  { floor := 0, limit := 2560, cur := 0, peak := 0, level := 0, overLimit := false, therm := false, calm := 0 }

/-- The package before bring-up: DEVSTAT is 0, BOOTING with nothing present (R17, R23, log 4). -/
def Package.reset : Package :=
  { devState := 0, frames := 0, scout := false, crossings := 0, ports := 0, uePorts := 0, glide := 0, up := false,
    bringup := none, fclk := 0x8888, lq := Reg.fill LaunchQueue.reset, lqTurn := 0, rpBase := 0, rpCfg := 0,
    rpHead := 0, rpTail := 0, drops := 0, reports := [], msix := [], txImg := 0, txStat := 0, txCmd := 0,
    md := LaunchQueue.reset, mdRecs := [], mdue := Reg.fill 0, chImg := 0, chStat := 0, chCmd := 0, pdImg := 0, pdCmd := none,
    cxImg := 0, cxStat := 0, cxCmd := 0, throttle := Reg.fill Throttle.reset, contexts := [], tlbiNext := 1,
    quiesce := 0, shoots := [], tlbis := [], quarantine := [], emergBusy := Reg.fill false, emergOwner := Reg.fill 0, fastPath := [],
    time := 0, tsrc := 0, lock := false, hold := false, offset := 0 }

def Tasks.reset : Tasks :=
  { launches := [], gangs := [], saved := [], combPtr := Reg.fill (32, 0), scoutPtr := Reg.fill (32, 0), combAff := [],
    scoutAff := [], preempt := [], saving := [], ranges := [] }

def Round.none : Round :=
  { active := false, num := 0, copy := Reg.fill 0, ring := [], decls := 0, lists := [], qver := .none,
    cancelled := false, enqueue := false, seq := 0, home := 0, qdet := false }

def TextSt.reset : TextSt :=
  { stack := [], snaps := [], stops := [], dlim := 64, held := [], utf := [], out := [], finish := none, done := false,
    discard := false }

/-- A slot after reset: GEN is 1, every other field 0 (R227, log 2). -/
def Slot.reset : Slot :=
  { live := (Reg.fill 0).wr 1 1, shadow := Reg.fill 0, commit := false, record := Reg.fill 0, round := Round.none,
    text := TextSt.reset, left := [], window := none, start := 0, k := 0, since := 0, stepping := false }

/-- BRDITER and the depth table reset as R231 gives them. -/
def Brood.reset : Brood :=
  { slots := [], iter := 2, dtab0 := 0x0403030202010100#64, dtab1 := 0x100C0A0807060504#64, qnext := 0, stalew := 0,
    decided := 0, slstep := 0, mdrop := 0, mbad := 0 }

/-- PDTHR and PDTMO reset as R295 gives them. -/
def Propolis.reset : Propolis :=
  { state := 0, self := 0, domain := 0, gen := 0, secret := 0, members := [], next := [], seqErr := 0, authErr := 0,
    thr := 0x006400000010#64, tmo := 1000#64, alarm := 0, seqs := [], seen := [], sends := [], flits := [],
    tags := 0, arrived := false, change := false, asks := [], quiet := false }

/-- The part right after reset. -/
def State.reset : State :=
  { cells := Reg.fill Cell.reset, cur := 0, core := false, agenda := [], steps := 0, nextId := 1, mem := [], staging := [],
    inbound := [], response := [], tasks := Tasks.reset, pkg := Package.reset, cmds := [], brood := Brood.reset,
    text := { vocabs := [], grams := [], changed := 0 }, chans := { table := [], out := [] }, pd := Propolis.reset,
    accord := { regions := Reg.fill [], msgs := Reg.fill [] } }

end Sys2Proof.Machine
end

