-- ==== Sys2Proof/Machine/Bytes.lean ====
section
/-! DEFINITION. Bytes, byte order and memory (R4): every wider access is made here from single bytes. -/

namespace Sys2Proof.Machine

/-- The byte at an address; an unlisted address reads 0 (log 1). -/
def Mem.rd (m : Mem) (a : Nat) : Byte := SMap.get 0 m a

/-- Writes one byte and keeps the canonical form: a zero byte is not listed. -/
def Mem.wr (m : Mem) (a : Nat) (b : Byte) : Mem := if b = 0 then SMap.del m a else SMap.put m a b

/-- The canonical form: addresses rise and no byte is zero. -/
def Mem.wf : Mem → Bool
  | [] => true
  | [(_, b)] => b ≠ 0
  | (a, b) :: (a', b') :: r => b ≠ 0 && decide (a < a') && Mem.wf ((a', b') :: r)

/-- `n` bytes from address `a` upward. -/
def Mem.bytes (m : Mem) (a : Nat) : Nat → List Byte
  | 0 => []
  | n + 1 => m.rd a :: Mem.bytes m (a + 1) n

/-- Stores bytes from address `a` upward. -/
def Mem.store (m : Mem) (a : Nat) : List Byte → Mem
  | [] => m
  | b :: r => Mem.store (m.wr a b) (a + 1) r

/-- The number a byte list stands for, lowest byte first (R4). -/
def leNat : List Byte → Nat
  | [] => 0
  | b :: r => b.toNat + 256 * leNat r

/-- The low `n` bytes of a number, lowest first (R4). -/
def toBytes : Nat → Nat → List Byte
  | 0, _ => []
  | n + 1, v => BitVec.ofNat 8 v :: toBytes n (v / 256)

def Mem.nat (m : Mem) (a n : Nat) : Nat := leNat (m.bytes a n)

def Mem.word (m : Mem) (a : Nat) : Word := BitVec.ofNat 64 (m.nat a 8)

def Mem.storeNat (m : Mem) (a n v : Nat) : Mem := m.store a (toBytes n v)

def rowBytes (r : Row) : List Byte := toBytes 256 r.toNat

def bytesRow (bs : List Byte) : Row := BitVec.ofNat 2048 (leNat bs)

/-- Drops every listed byte of a range: it reads 0 again. -/
def Mem.clear (m : Mem) (lo hi : Nat) : Mem := m.filter fun e => e.1 < lo || hi ≤ e.1

/-- Field [lo + w - 1 : lo] of a word, as a number. -/
def fld {n : Nat} (x : BitVec n) (lo w : Nat) : Nat := (x.extractLsb' lo w).toNat

def bit {n : Nat} (x : BitVec n) (i : Nat) : Bool := x.getLsbD i

/-- A word with field [lo + w - 1 : lo] replaced. -/
def setFld {n : Nat} (x : BitVec n) (lo w v : Nat) : BitVec n :=
  (x &&& ~~~(BitVec.ofNat n ((2 ^ w - 1) <<< lo))) ||| BitVec.ofNat n ((v % 2 ^ w) <<< lo)

/-- Element `i` of width `w` of a row (R125). -/
def lane (w : Nat) (r : Row) (i : Nat) : Nat := (r.toNat >>> (w * i)) % 2 ^ w

/-- A row from its elements of width `w`, element 0 lowest (R125). -/
def ofLanes (w : Nat) : List Nat → Nat
  | [] => 0
  | x :: r => x % 2 ^ w + 2 ^ w * ofLanes w r

def rowOf (w : Nat) (xs : List Nat) : Row := BitVec.ofNat 2048 (ofLanes w xs)

/-- The bits of a row that a lane mask governs, for lanes of width `w` (R125). -/
def laneMask (w n : Nat) (k : BitVec 256) : Row :=
  rowOf w ((List.range n).map fun i => if k.getLsbD i then 2 ^ w - 1 else 0)

/-- Signed reading of the low `w` bits. -/
def sgn (w x : Nat) : Int := if x % 2 ^ w < 2 ^ (w - 1) then (x % 2 ^ w : Nat) else (x % 2 ^ w : Nat) - (2 ^ w : Nat)

/-- A number reduced to `w` bits. -/
def wrap (w : Nat) (x : Int) : Nat := (x % (2 ^ w : Nat)).toNat

def ceilDiv (a b : Nat) : Nat := (a + b - 1) / b

/-- Word `i` of a byte list. -/
def wordAt (bs : List Byte) (i : Nat) : Nat := leNat ((bs.drop (8 * i)).take 8)

end Sys2Proof.Machine
end

