-- ==== Sys2Proof/Machine/Operands.lean ====
section
/-! DEFINITION. Operand forms: registers as the fields name them, handles, address indices, immediates. -/

namespace Sys2Proof.Machine

/-! ### Registers (R85, R86) -/

/-- STATUS.SUP (R203). -/
def Cell.sup (c : Cell) : Bool := bit c.tr.status 0

/-- s0 reads zero; in supervisor mode s48 to s63 name the shadow bank (R86). -/
def Cell.rdS (c : Cell) (i : BitVec 6) : Word :=
  if i = 0 then 0 else if c.sup && decide (48 ≤ i.toNat) then c.regs.sh.rd (i.extractLsb' 0 4) else c.regs.s.rd i

def Cell.rdA (c : Cell) (i : BitVec 4) : Word := c.regs.a.rd i
def Cell.rdM (c : Cell) (i : BitVec 4) : Word := c.regs.m.rd i
def Cell.rdH (c : Cell) (i : BitVec 4) : BitVec 256 := c.regs.h.rd i
/-- k0 reads all ones (R86). -/
def Cell.rdK (c : Cell) (i : BitVec 3) : BitVec 256 := if i = 0 then BitVec.allOnes 256 else c.regs.k.rd i
def Cell.rdV (c : Cell) (i : BitVec 9) : Row := c.regs.v.rd i

/-- Where a scalar result of this cell lands: the bank is chosen at issue (R86). -/
def Cell.dstS (c : Cell) (i : BitVec 6) (v : Word) : Land :=
  if c.sup && decide (48 ≤ i.toNat) then .sh (i.extractLsb' 0 4) v else .s i v

/-! ### Tensor handles (R91 to R93) -/

def hBase (h : BitVec 256) : Nat := fld h 0 56
def hSpace (h : BitVec 256) : Nat := fld h 56 8
def hDim (h : BitVec 256) (i : Nat) : Nat := fld h (64 + 16 * i) 16
/-- Byte stride of dimension `i`, from 1 to 3. -/
def hStride (h : BitVec 256) (i : Nat) : Nat := fld h (128 + 32 * (i - 1)) 32
def hType (h : BitVec 256) : BitVec 4 := h.extractLsb' 224 4
/-- An extent of 0 makes the tensor empty (R91). -/
def hEmpty (h : BitVec 256) : Bool := (List.range 4).any fun i => decide (hDim h i = 0)
def hBsm (h : BitVec 256) : Nat := fld h 228 4
def hSlice (h : BitVec 256) : Nat := fld h 232 12

/-- The check of R92; DIM0 of a block-scaled handle is a multiple of 32 (R133). -/
def hOk (h : BitVec 256) : Bool :=
  decide (fld h 244 12 = 0) && decide (hSlice h < 256) && decide (hBsm h ≤ 1) && decide ((hType h).toNat ≤ 12)
    && decide (hSpace h ≤ 5) && (decide (hBsm h = 0) || decide (hDim h 0 % 32 = 0))

/-- Position and width of a handle field by its id (R91, R93). -/
def hField (id : Nat) : Nat × Nat :=
  match id with
  | 0 => (0, 56)
  | 1 => (56, 8)
  | 2 => (64, 16)
  | 3 => (80, 16)
  | 4 => (96, 16)
  | 5 => (112, 16)
  | 6 => (128, 32)
  | 7 => (160, 32)
  | 8 => (192, 32)
  | 9 => (224, 4)
  | 10 => (228, 4)
  | _ => (232, 12)

/-! ### Address indices (R88, R89) -/

/-- The check of AMODE on a mode value (R88). -/
def modeOk (m : Word) : Bool :=
  decide (fld m 56 8 = 0) && decide (fld m 28 4 = 0) && decide (fld m 2 6 = 0) &&
    match fld m 0 2 with
    | 0 => true
    | 1 => decide (fld m 32 24 ≠ 0)
    | 2 => decide (2 ≤ fld m 32 24) && decide (fld m 32 24 ≤ 2 ^ 23)
        && decide (fld m 32 24 = 2 ^ Nat.log2 (fld m 32 24))
    | _ => false

/-- The lowest `n` bits of a number in reverse order. -/
def bitrev : Nat → Nat → Nat
  | 0, _ => 0
  | n + 1, x => x % 2 * 2 ^ n + bitrev n (x / 2)

/-- The post-update of an index under its mode register (R89). -/
def indexUpdate (m a : Word) : Word :=
  let step := sgn 20 (fld m 8 20)
  let len := fld m 32 24
  match fld m 0 2 with
  | 0 => BitVec.ofNat 64 (wrap 64 (a.toNat + step))
  | 1 => BitVec.ofNat 64 (((a.toNat : Int) + step) % (len : Int)).toNat
  | _ =>
    let n := Nat.log2 len
    BitVec.ofNat 64 (bitrev n (wrap n ((bitrev n (a.toNat % 2 ^ n) : Int) + step)))

/-! ### Immediates (R96) -/

/-- The signed 32-bit immediate extended to 64 bits (R96). -/
def sext32 (x : BitVec 32) : Word := x.signExtend 64

/-- The effective address of a memory word before its checks (R90). -/
def effAddr (c : Cell) (b : BitVec 1) (hb ai : BitVec 4) (disp : Int) : Word :=
  BitVec.ofNat 64 (wrap 64 ((if b = 1#1 then (hBase (c.rdH hb) : Int) else 0) + (c.rdA ai).toNat + disp))

/-- Which handle spaces a word of a space allows with B = 1 (R90). -/
def spaceAllows (space : Nat) (hs : Nat) : Bool :=
  match space with
  | 0 => decide (hs = 0) || decide (hs = 3) || decide (hs = 4) || decide (hs = 5)
  | 1 => decide (hs = 1)
  | 2 => decide (hs = 2)
  | _ => false

end Sys2Proof.Machine
end

