-- ==== Sys2Proof/Machine/Flags.lean ====
section
/-! DEFINITION. Numeric event classes and their counters (R147 to R149). -/

namespace Sys2Proof.Machine

def evInvalid : BitVec 8 := 0x01
def evOverflow : BitVec 8 := 0x02
def evUnderflow : BitVec 8 := 0x04
def evSaturate : BitVec 8 := 0x08
def evNaN : BitVec 8 := 0x10
def evRange : BitVec 8 := 0x20
def evW96 : BitVec 8 := 0x40
def evAccord : BitVec 8 := 0x80

/-- One more event in a counter: both halves stop at 0xFFFF_FFFF (R148). -/
def countOne (x : Word) : Word :=
  BitVec.ofNat 64 (min (fld x 32 32 + 1) 0xFFFFFFFF * 2 ^ 32 + min (fld x 0 32 + 1) 0xFFFFFFFF)

/-- Counts one event of class `i`. The action of the class fires once in a window, when WCOUNT exceeds the threshold
(R149): a trap becomes pending; a host interrupt is answered as `true`. -/
def countClass (c : Cell) (i : BitVec 3) : Cell × Bool :=
  let x := countOne (c.nx.cnt.rd i)
  let c1 := { c with nx := { c.nx with cnt := c.nx.cnt.wr i x } }
  if fld x 0 32 ≤ fld (c.nx.thr.rd i) 0 32 || bit c.nx.ctl (16 + i.toNat) then (c1, false)
  else
    let act := fld c.nx.ctl (2 * i.toNat) 2
    ({ c1 with
        nx := { c1.nx with ctl := c1.nx.ctl ||| BitVec.ofNat 64 (2 ^ (16 + i.toNat)) }
        events := { c1.events with
          numeric := if act % 2 = 1 then c1.events.numeric ||| BitVec.ofNat 8 (2 ^ i.toNat) else c1.events.numeric } },
      2 ≤ act)

/-- Counts one event in every class of the set; answers whether a host interrupt fired. -/
def countEvents (c : Cell) (ev : BitVec 8) : Cell × Bool :=
  (List.range 8).foldl
    (fun p i => if bit ev i then
        let r := countClass p.1 (BitVec.ofNat 3 i)
        (r.1, p.2 || r.2)
      else p) (c, false)

/-- A new window: every WCOUNT and FIRED bit clears (R149). -/
def newWindow (c : Cell) : Cell :=
  { c with nx := { c.nx with
      cnt := c.nx.cnt.map fun x => x &&& 0xFFFFFFFF00000000#64
      ctl := c.nx.ctl &&& 0xFFFFFFFFFF00FFFF#64 } }

/-- The lowest class of a set (R149). -/
def lowestClass (ev : BitVec 8) : Nat := ((List.range 8).find? fun i => bit ev i).getD 0

end Sys2Proof.Machine
end

