-- ==== Sys2Proof/Machine/Ops.lean ====
section
/-! DEFINITION. The named operations the meanings share: cells, results in flight, control-register writes, traps,
translation, the L1, phases, tags, and how a word issues. -/

namespace Sys2Proof.Machine

/-! ### Cells -/

def State.cellAt (s : State) (c : BitVec 9) : Cell := s.cells.rd c

/-- The cell that issues. -/
def State.cell (s : State) : Cell := s.cellAt s.cur

def State.setCell (s : State) (c : BitVec 9) (x : Cell) : State := { s with cells := s.cells.wr c x }

def State.updAt (s : State) (c : BitVec 9) (f : Cell → Cell) : State := s.setCell c (f (s.cellAt c))

def State.upd (s : State) (f : Cell → Cell) : State := s.updAt s.cur f

/-- Cells 0 to 255 are the comb cells, 256 to 303 the scout cells (R36). -/
def isScout (c : BitVec 9) : Bool := decide (256 ≤ c.toNat)

/-- Frame of a comb cell; 0 on the scout die (R36). -/
def frameOf (c : BitVec 9) : Nat := if isScout c then 0 else c.toNat / 64

/-- Cell number within its die (R36). -/
def cellNo (c : BitVec 9) : Nat := c.toNat % 256

/-- Whether the cell exists in this package: its frame, or the scout die, is present (R13, R15). -/
def cellPresent (s : State) (c : BitVec 9) : Bool :=
  if isScout c then s.pkg.scout && decide (c.toNat < 256 + Config.scoutCells) else bit s.pkg.frames (frameOf c)

/-! ### Control registers of a cell: writes under the access codes (R5) -/

/-- What a write of `v` leaves in control register `n` of the cell. Numbers of other owners leave the cell as it is. -/
def Cell.crPut (c : Cell) (n : Nat) (v : Word) : Cell :=
  if n = 0x011 then { c with tr := { c.tr with epc := v &&& 0xFFFFFFFF#64 } }
  else if n = 0x013 then { c with tr := { c.tr with tvec := v &&& 0xFFFFFFFFFFFFFF#64 } }
  else if n = 0x015 then { c with tr := { c.tr with status := (c.tr.status &&& 3#64) ||| (v &&& 0xC#64) } }
  else if n = 0x030 then { c with nx := { c.nx with rmode := v &&& 7#64 } }
  else if 0x040 ≤ n ∧ n ≤ 0x047 then { c with nx := { c.nx with cnt := c.nx.cnt.wr (BitVec.ofNat 3 n) v } }
  else if 0x048 ≤ n ∧ n ≤ 0x04F then
    { c with nx := { c.nx with thr := c.nx.thr.wr (BitVec.ofNat 3 n) (v &&& 0xFFFFFFFF#64) } }
  else if n = 0x050 then { c with nx := { c.nx with win := v &&& 0xFFFFFFFF#64 } }
  else if n = 0x051 then
    { c with nx := { c.nx with ctl := (v &&& 0xFFFF#64) ||| (c.nx.ctl &&& ~~~v &&& 0xFF0000#64) } }
  else if n = 0x080 then { c with tr := { c.tr with dbgctl := v &&& 7#64 } }
  else if n = 0x090 then { c with tr := { c.tr with savea := v &&& 0xFFFFFFFFFFF000#64 } }
  else if n = 0x091 then { c with tr := { c.tr with savel := v &&& 0xFFFFFFFF#64 } }
  else if 0x100 ≤ n ∧ n ≤ 0x1FF then
    { c with entry := c.entry.wr (BitVec.ofNat 8 n) (v &&& 0x83FF03FF#64) }
  else c

/-- What a read of one of those registers answers. -/
def Cell.crGet (c : Cell) (n : Nat) : Word :=
  if n = 0x011 then c.tr.epc
  else if n = 0x013 then c.tr.tvec
  else if n = 0x015 then c.tr.status
  else if n = 0x030 then c.nx.rmode
  else if 0x040 ≤ n ∧ n ≤ 0x047 then c.nx.cnt.rd (BitVec.ofNat 3 n)
  else if 0x048 ≤ n ∧ n ≤ 0x04F then c.nx.thr.rd (BitVec.ofNat 3 n)
  else if n = 0x050 then c.nx.win
  else if n = 0x051 then c.nx.ctl
  else if n = 0x080 then c.tr.dbgctl
  else if n = 0x090 then c.tr.savea
  else if n = 0x091 then c.tr.savel
  else c.entry.rd (BitVec.ofNat 8 n)

/-- Whether a write of the register lands in the cell itself, one issue cycle later (R317). -/
def crLocal (n : Nat) : Bool :=
  decide (n = 0x011) || decide (n = 0x013) || decide (n = 0x015) || decide (n = 0x030)
    || (decide (0x040 ≤ n) && decide (n ≤ 0x051)) || decide (n = 0x080) || decide (n = 0x090) || decide (n = 0x091)
    || (decide (0x100 ≤ n) && decide (n ≤ 0x1FF))

/-! ### Results in flight (R76, R84) -/

/-- Writes a result into its register; writes to s0 and k0 are discarded (R86). -/
def Regs.land (r : Regs) : Land → Regs
  | .s i v => if i = 0 then r else { r with s := r.s.wr i v }
  | .sh i v => { r with sh := r.sh.wr i v }
  | .a i v => { r with a := r.a.wr i v }
  | .m i v => { r with m := r.m.wr i v }
  | .h i v => { r with h := r.h.wr i v }
  | .k i v => if i = 0 then r else { r with k := r.k.wr i v }
  | .q i v => { r with q := r.q.wr i v }
  | .row i v mask => { r with v := r.v.wr i ((r.v.rd i &&& ~~~mask) ||| (v &&& mask)) }
  | .cr _ _ => r
  | .rmw _ _ _ _ _ => r

def Cell.land (c : Cell) : Land → Cell
  | .cr n v => c.crPut n.toNat v
  | .rmw n set v sd shadow =>
    let old := c.crGet n.toNat
    let c1 := c.crPut n.toNat (if set then old ||| v else old &&& ~~~v)
    { c1 with regs := c1.regs.land (if shadow then .sh (sd.extractLsb' 0 4) old else .s sd old) }
  | l => { c with regs := c.regs.land l }

/-- A tag clears (R79). -/
def clearTag (t : Option (BitVec 3)) (c : Cell) : Cell :=
  match t with
  | none => c
  | some t =>
    { c with
      pipe := { c.pipe with
        pend := c.pipe.pend &&& ~~~(BitVec.ofNat 8 (2 ^ t.toNat))
        engTag := c.pipe.engTag &&& ~~~(BitVec.ofNat 8 (2 ^ t.toNat)) }
      tr := { c.tr with dbgtpc := c.tr.dbgtpc.wr t (c.tr.dbgtpc.rd t &&& 0x7FFFFFFFFFFFFFFF#64) } }

/-- The tags of requests that were dropped at issue clear (R403). -/
def clearDropped (c : Cell) : Cell :=
  if c.pipe.untag = 0 then c
  else
    let c1 := (List.range 8).foldl (fun c i => if bit c.pipe.untag i then clearTag (some (BitVec.ofNat 3 i)) c else c) c
    { c1 with pipe := { c1.pipe with untag := 0 } }

/-- Fixed-latency results that land in one cycle, in the order in which they are written: by slot, then by issue (R84). -/
def landOrder (l : List InFlight) : List InFlight :=
  (List.range 6).flatMap fun k => l.filter fun x => decide (x.slot.toNat = k)

/-- The register that a result is written to: its file, numbered, and its number there. -/
def Land.reg : Land → Option (Nat × Nat)
  | .s i _ => some (0, i.toNat)
  | .sh i _ => some (1, i.toNat)
  | .a i _ => some (2, i.toNat)
  | .m i _ => some (3, i.toNat)
  | .h i _ => some (4, i.toNat)
  | .k i _ => some (5, i.toNat)
  | .q i _ => some (6, i.toNat)
  | .row i _ _ => some (7, i.toNat)
  | .cr _ _ => none
  | .rmw _ _ _ i shadow => some (if shadow then (1, i.toNat % 16) else (0, i.toNat))

/-- Of two results for one register in one cycle the second is kept: it comes from the higher slot, or from the later word of
the same one (R84). Commands of one engine slot are told apart by their numbers. -/
def outranks (x y : InFlight) : Bool :=
  decide (x.slot.toNat < y.slot.toNat)
    || (decide (x.slot = y.slot) && (decide (y.age < x.age) || (decide (y.age = x.age) && decide (x.id < y.id))))

/-- A result is lost to one of the list that aims at the same register. -/
def overruled (l : List InFlight) (x : InFlight) : Bool :=
  x.land.reg.isSome && l.any fun y => decide (y.land.reg = x.land.reg) && outranks x y

/-- Lands a result; where another of the same cycle is kept, the register keeps that one (R84). -/
def Cell.landIn (late : List InFlight) (c : Cell) (x : InFlight) : Cell :=
  if overruled late x then { c.land x.land with regs := c.regs } else c.land x.land

/-- Variable-latency results land. While issue cycles follow one another they belong to the next one, whose fixed-latency
results they meet (R84, log 3). -/
def Cell.landNow (c : Cell) (l : List InFlight) : Cell :=
  if c.pipe.ticked ∨ c.wait ≠ .none then l.foldl (fun c x => c.land x.land) c
  else
    let d := l.foldl (Cell.landIn c.pipe.late) c
    { d with pipe := { d.pipe with late := d.pipe.late ++ l } }

/-- The counters that this cycle's control-register writes set: their events of the cycle are lost (R149). -/
def writtenCounters (l : List InFlight) : BitVec 8 :=
  l.foldl (fun m x => match x.land with
    | .cr n _ => if 0x040 ≤ n.toNat ∧ n.toNat ≤ 0x047 then m ||| BitVec.ofNat 8 (2 ^ (n.toNat - 0x040)) else m
    | .rmw n _ _ _ _ => if 0x040 ≤ n.toNat ∧ n.toNat ≤ 0x047 then m ||| BitVec.ofNat 8 (2 ^ (n.toNat - 0x040)) else m
    | _ => m) 0

/-- The FIRED bits of NXCTL that this cycle's control-register writes clear: a fire of the cycle does not set them again
(R317). -/
def writtenFired (c : Cell) (l : List InFlight) : Word :=
  l.foldl (fun m x => match x.land with
    | .cr n v => if n = 0x051#12 then m ||| v else m
    | .rmw n set v _ _ => if n = 0x051#12 then m ||| (if set then c.nx.ctl ||| v else c.nx.ctl &&& ~~~v) else m
    | _ => m) 0 &&& 0xFF0000#64

/-- Keeps those bits clear. -/
def keepFired (m : Word) (c : Cell) : Cell :=
  if m = 0 then c else { c with nx := { c.nx with ctl := c.nx.ctl &&& ~~~m } }

/-- What an access writes when it lands, as results of one cycle. -/
def Access.results (a : Access) : List InFlight :=
  a.lands.map fun l => { land := l, n := 0, slot := a.slot, ev := 0, age := a.age, id := a.id }

/-- A handle that HLD reads from the scratchpad is there after 6 cycles, freezes among them, so after 6 issue cycles at the latest
(R371). -/
def Access.over (a : Access) : Bool := a.soon && decide (5 ≤ a.age)

/-- The access is no longer pending and its tag clears. -/
def endAccess (a : Access) (c : Cell) : Cell :=
  let c1 := clearTag a.tag c
  { c1 with pipe := { c1.pipe with accs := c1.pipe.accs.filter fun x => decide (x.id ≠ a.id) } }

/-- The access lands whole, against the fixed-latency results of its cycle (R78, R84). -/
def landAccess (a : Access) (c : Cell) : Cell := endAccess a (c.landNow a.results)

/-- One issue cycle passes: results whose latency has run out land, with the handle loads that are due and beside the late ones
of the cycle, the tags of dropped requests clear, then the events of those results are counted (R76, R84, R147, R403). The
answer tells whether a host interrupt fired. -/
def Cell.tick (c : Cell) : Cell × Bool :=
  let soon := c.pipe.accs.filter Access.over
  let due := landOrder (soon.flatMap Access.results ++ c.pipe.inflight.filter fun x => decide (x.n ≤ 1))
  let rest := (c.pipe.inflight.filter fun x => decide (1 < x.n)).map fun x => { x with n := x.n - 1, age := x.age + 1 }
  let c1 := due.foldl (Cell.landIn c.pipe.late) (clearDropped { c with pipe := { c.pipe with
    inflight := rest, late := [], flight := c.pipe.flight.map fun x => { x with age := x.age + 1 }
    accs := c.pipe.accs.map fun a => { a with age := a.age + 1 } } })
  let skip := writtenCounters due
  let r := due.foldl (fun p x =>
    let r := countEvents p.1 (x.ev &&& ~~~skip)
    (r.1, p.2 || r.2)) (c1, false)
  (soon.foldl (fun c a => endAccess a c) (keepFired (writtenFired c due) r.1), r.2)

/-- Adds a report record that waits for the service core (R207). -/
def State.report (s : State) (r : Report) : State := { s with pkg := { s.pkg with reports := s.pkg.reports ++ [r] } }

/-- A report about a cell (R207). The cause byte, EPC and TVAL of a kind that the spec does not fill are those of the
cell at the time (log 22). -/
def cellReport (s : State) (c : BitVec 9) (kind cause : BitVec 8) (epc tval data : Word) : Report :=
  { kind := kind, cause := cause, cell := c, ctx := (s.cellAt c).task.ctx, epc := epc, tval := tval, data := data }

/-- The interrupt report of the numeric counters (R149, R207): word 4 holds the FIRED bits. -/
def State.numericReport (s : State) (c : BitVec 9) : State :=
  let x := s.cellAt c
  s.report (cellReport s c 1 0x0D (x.pipe.pc.zeroExtend 64) 0 ((x.nx.ctl >>> 16) &&& 0xFF#64))

def State.tickAt (s : State) (c : BitVec 9) : State :=
  let r := (s.cellAt c).tick
  if r.2 then (s.setCell c r.1).numericReport c else s.setCell c r.1

/-- Counts the events of a word that completes outside the issue pipeline (R147). -/
def State.countAt (s : State) (c : BitVec 9) (ev : BitVec 8) : State :=
  let r := countEvents (s.cellAt c) ev
  if r.2 then (s.setCell c r.1).numericReport c else s.setCell c r.1

/-- Puts the results of a word in flight at the issuing cell. -/
def State.push (s : State) (l : List InFlight) : State :=
  s.upd fun c => { c with pipe := { c.pipe with inflight := c.pipe.inflight ++ l } }

/-! ### Physical addresses, translation (R217 to R220) -/

/-- Why a word does not issue: cause, access kind, TVAL (R204); `epc` only where it is not the bundle. -/
structure Trap where
  cause : BitVec 8
  kind : BitVec 4
  tval : Word
  deriving DecidableEq, Repr

def trapOf (cause : BitVec 8) (tval : Word) : Trap := { cause := cause, kind := 0, tval := tval }

/-- Not a cause of the table: the access waits for the re-keying barrier and the word stays frozen (R297). -/
def cWait : BitVec 8 := 0x00
def cIllegalOp : BitVec 8 := 0x01
def cIllegalSlot : BitVec 8 := 0x02
def cBundleForm : BitVec 8 := 0x03
def cIllegalTag : BitVec 8 := 0x04
def cPrivilege : BitVec 8 := 0x05
def cAlign : BitVec 8 := 0x06
def cSpRange : BitVec 8 := 0x07
def cPageFault : BitVec 8 := 0x08
def cProtection : BitVec 8 := 0x09
def cNoTile : BitVec 8 := 0x0A
def cMicroFault : BitVec 8 := 0x0B
def cEngineFault : BitVec 8 := 0x0C
def cNumericLimit : BitVec 8 := 0x0D
def cGrammar : BitVec 8 := 0x0E
def cDomainFault : BitVec 8 := 0x0F
def cBarrierMisuse : BitVec 8 := 0x10
def cMachineCheck : BitVec 8 := 0x11
def cLoopForm : BitVec 8 := 0x12
def cFrameOff : BitVec 8 := 0x13
def cBreakpoint : BitVec 8 := 0x20
def cStep : BitVec 8 := 0x21

/-- Target of a physical address, bits [55:52] (R218). -/
def paTarget (pa : Nat) : Nat := pa / 2 ^ 52 % 16

/-- The check of R219 on a block of `size` bytes: a byte that is illegal makes the block illegal (log 9). An access between
diagonal frames whose two intermediate frames are both absent passes: the spec gives it no route and no result, and this
is the model's choice (log 44). So is that an address for which R219 names PROTECTION gives it in a stack of an absent frame or
on an absent scout die as well, that FRAME_OFF comes before a missing permission, as R218 lists them, and PROTECTION for a
reserved region after both: R110 and R218 list the two causes in different orders (log 44). -/
def paCheck (s : State) (pa size : Nat) : Option (BitVec 8) :=
  let off := pa % 2 ^ 52
  match paTarget pa with
  | 0 =>
    if 2 ^ 40 ≤ off ∨ 12 ≤ off / 2 ^ 36 ∨ Config.stackBytes < off % 2 ^ 36 + size then some cProtection
    else if bit s.pkg.frames (off / 2 ^ 36 / 3) then none else some cFrameOff
  | 1 =>
    if 2 ^ 30 ≤ off ∨ 2 ^ 16 < size ∨ 636 * 2 ^ 20 ≤ off ∨ (off < 576 * 2 ^ 20 ∧ off % (12 * 2 ^ 20) < 1280 * 2 ^ 10) then
      some cProtection
    else if s.pkg.scout then none else some cFrameOff
  | 2 => none
  | 3 => if off / 2 ^ 40 % 16 = 0 then none else some cProtection
  | _ => some cProtection

/-- The regions the service core reserves (R219, R226, R249, R278, R212). -/
def reserved (pa : Nat) : Bool :=
  let inside := fun lo n => decide (lo ≤ pa) && decide (pa < lo + n)
  inside Config.broodBase Config.broodBytes || inside Config.textBase Config.textBytes
    || inside Config.channelBase Config.channelBytes || inside (Config.emergBase false) Config.emergBytes
    || inside (Config.emergBase true) Config.emergBytes

/-- Bytes of the block or page that a leaf of this level maps (R217). -/
def leafBytes (level : Nat) : Nat := 2 ^ (46 - 10 * level)

/-- Physical address of the block, page or table that an entry names: bits [55:13] (R218). -/
def pteAddr (e : Word) : Nat := fld e 13 43 * 2 ^ 13

/-- The reserved bits [60:56], [12:7] and [2] (R218). -/
def pteRsv (e : Word) : Bool := decide (fld e 56 5 ≠ 0) || decide (fld e 7 6 ≠ 0) || bit e 2

/-- The package is in a domain that is in force (R292, R297). -/
def inDomain (s : State) : Bool := decide (s.pd.state = 2) || decide (s.pd.state = 3)

/-- Whether domain traffic to a package may leave: both are members and the domain is in force (R218, R292). -/
def domainOk (s : State) (pkg : Nat) : Bool := inDomain s && s.pd.members.any fun m => decide (m.toNat = pkg)

/-- New domain traffic waits from the package's arrival at the re-keying barrier to its release (R297). -/
def rekeyHeld (s : State) : Bool := decide (s.pd.state = 3) && s.pd.arrived

/-- Walks the tables from `level`; answers the leaf's level and entry (R217, R218). A next-level entry that points into a
stack of an absent frame gives PROTECTION: R218 names FRAME_OFF for a leaf only, so this is the model's choice (log 44). -/
def walk (s : State) (va : Nat) : Nat → Nat → Nat → Except (BitVec 8) (Nat × Word)
  | 0, _, _ => .error cProtection
  | fuel + 1, level, table =>
    let e := s.mem.word (table + 8 * (va / leafBytes level % 1024))
    if !bit e 0 then .error cPageFault
    else if pteRsv e then .error cProtection
    else if bit e 1 then
      if level = 3 ∨ bit e 63 ∨ bit e 61 ∨ (paCheck s (pteAddr e) 8192).isSome then .error cProtection
      else walk s va fuel (level + 1) (pteAddr e)
    else if level = 0 then .error cProtection
    else .ok (level, e)

/-- The checks of a leaf for an access of `kind` (0 read, 1 write, 2 execute, 3 atomic), in the order of R218; answers
the physical address. -/
def leafCheck (s : State) (level : Nat) (e : Word) (va kind : Nat) (user : Bool) : Except (BitVec 8) Nat :=
  let size := leafBytes level
  let base := pteAddr e
  let pa := base + va % size
  if base % size ≠ 0 ∨ (bit e 63 ∧ paTarget base ≠ 3) ∨ (bit e 61 ∧ paTarget base ≠ 0) then .error cProtection
  else
    match paCheck s base size with
    | some x => .error x
    | none =>
      let allowed := match kind with
        | 0 => bit e 3
        | 1 => bit e 4
        | 2 => bit e 5
        | _ => bit e 3 && bit e 4
      if reserved pa ∨ !allowed ∨ (user ∧ !bit e 6) then .error cProtection
      else if bit e 63 ∧ !domainOk s (pa / 2 ^ 44 % 256) then .error cDomainFault
      else if bit e 63 ∧ rekeyHeld s = true then .error cWait
      else .ok pa

/-- The level-0 table of a context (R217, R222). -/
def rootOf (s : State) (ctx : BitVec 16) : Option Nat :=
  (s.pkg.contexts.find? fun x => decide (x.id = ctx)).map (·.root)

/-- A walk from the root: a context without a root table fails with PAGE_FAULT (R217). -/
def walkRoot (s : State) (ctx : BitVec 16) (va : Nat) : Except (BitVec 8) (Nat × Word) :=
  match rootOf s ctx with
  | none => .error cPageFault
  | some t => walk s va 4 0 t

/-- Translation by an engine: no cache, user access (R213, R220). -/
def engXlate (s : State) (ctx : BitVec 16) (va kind : Nat) : Except (BitVec 8) Nat :=
  if 2 ^ 56 ≤ va then .error cProtection
  else
    match walkRoot s ctx va with
    | .error x => .error x
    | .ok (l, e) => leafCheck s l e va kind true

/-- The cached translation of an address (R220). -/
def tlbFind (c : Cell) (ctx : BitVec 16) (va : Nat) : Option TlbEntry :=
  c.tlb.find? fun t => decide (t.ctx = ctx) && decide (t.va = va / leafBytes t.level)

/-- The causes that record the access kind; CAUSE[11:8] of any other is 0, which R203 does not say (log 44). -/
def kindCause (x : BitVec 8) : Bool := decide (x = cPageFault) || decide (x = cProtection) || decide (x = cDomainFault)

/-- Translation by a cell: its cache, else a walk that fills the cache (R217, R220). A failure is the trap. -/
def xlate (s : State) (ci : BitVec 9) (va : Word) (kind : Nat) : Except Trap (Nat × State) :=
  let c := s.cellAt ci
  let ctx := c.task.ctx
  let err := fun x => ({ cause := x, kind := if kindCause x then BitVec.ofNat 4 kind else 0, tval := va } : Trap)
  if 2 ^ 56 ≤ va.toNat then .error (err cProtection)
  else
    match tlbFind c ctx va.toNat with
    | some t =>
      match leafCheck s t.level t.pte va.toNat kind (!c.sup) with
      | .ok pa => .ok (pa, s)
      | .error x => .error (err x)
    | none =>
      match walkRoot s ctx va.toNat with
      | .error x => .error (err x)
      | .ok (l, e) =>
        match leafCheck s l e va.toNat kind (!c.sup) with
        | .error x => .error (err x)
        | .ok pa =>
          .ok (pa, s.updAt ci fun c => { c with
            tlb := ({ ctx := ctx, level := l, va := va.toNat / leafBytes l, pte := e } :: c.tlb).take Config.tlbEntries })

/-- Whether the address lies on a domain page: bit D of the leaf that the cell holds or the walk finds (R218). -/
def domainPage (s : State) (ci : BitVec 9) (va : Nat) : Bool :=
  let c := s.cellAt ci
  match tlbFind c c.task.ctx va with
  | some t => bit t.pte 63
  | none => match walkRoot s c.task.ctx va with
    | .error _ => false
    | .ok (_, e) => bit e 63

/-- Removes the translations of an address, or of the whole context (R223). -/
def tlbDrop (ctx : BitVec 16) (va : Option Nat) (c : Cell) : Cell :=
  { c with tlb := c.tlb.filter fun t => !(decide (t.ctx = ctx) &&
      match va with
      | none => true
      | some a => decide (t.va = a / leafBytes t.level)) }

/-! ### Writes at the home (R169, R309) -/

/-- The physical address of a region's descriptor, as the tables map it now, is hit. -/
def Region.hitBy (s : State) (hit : Nat → Bool) (r : Region) : Bool :=
  match engXlate s r.ctx r.va 0 with
  | .ok pa => hit pa
  | .error _ => false

/-- Marks the accord regions whose descriptor's bytes 0 to 127 an agent has written at their home (R309). -/
def State.poke (s : State) (hit : Nat → Bool) : State :=
  if s.accord.regions.toList.any fun l => l.any (Region.hitBy s hit) then
    { s with accord := { s.accord with
      regions := s.accord.regions.map fun l => l.map fun r => { r with written := r.written || r.hitBy s hit } } }
  else s

/-- Whether `n` bytes from `a` touch the first 128 bytes at `pa`. -/
def touches (a n pa : Nat) : Bool := decide (a < pa + 128) && decide (pa < a + n)

/-- Bytes written to main memory, at their home. -/
def State.store (s : State) (a : Nat) (bs : List Byte) : State :=
  { s with mem := s.mem.store a bs }.poke (touches a bs.length)

/-- The lines of the L1 that serve a descriptor are 256-byte blocks as it is: its first half is dirty. -/
def dirtyAt (ls : List Line) (pa : Nat) : Bool :=
  ls.any fun l => decide (l.tag = pa) && decide (l.dirty.extractLsb' 0 128 ≠ 0)

/-! ### The L1 (R171) -/

/-- The cell whose L1 serves an access: with a quad-shared L1 the four members share one (R55). -/
def l1Owner (s : State) (ci : BitVec 9) : BitVec 9 :=
  match (s.cellAt ci).bound with
  | some b => if b.qsl1 then ci &&& 0x1FC#9 else ci
  | none => ci

/-- Lines of HBM, and of scout SRAM on comb cells, are cached (R171). -/
def cacheable (ci : BitVec 9) (pa : Nat) : Bool :=
  decide (paTarget pa = 0) || (decide (paTarget pa = 1) && !isScout ci)

def lineOf (ls : List Line) (tag : Nat) : Line :=
  (ls.find? fun l => decide (l.tag = tag)).getD { tag := tag, data := 0, have_ := 0, dirty := 0 }

def putLine (ls : List Line) (l : Line) : List Line := ls.filter (fun x => decide (x.tag ≠ l.tag)) ++ [l]

/-- Brings in the bytes the line does not hold. -/
def Line.fill (l : Line) (m : Mem) : Line :=
  let own := laneMask 8 256 l.have_
  { l with data := (l.data &&& own) ||| (bytesRow (m.bytes l.tag 256) &&& ~~~own), have_ := BitVec.allOnes 256 }

/-- Writes bytes into a line without fetching it: they become held and dirty (R171). -/
def Line.write (l : Line) (off : Nat) (bs : List Byte) : Line :=
  let m := BitVec.ofNat 256 ((2 ^ bs.length - 1) <<< off)
  let own := laneMask 8 256 m
  { l with data := (l.data &&& ~~~own) ||| BitVec.ofNat 2048 (leNat bs <<< (8 * off)), have_ := l.have_ ||| m,
           dirty := l.dirty ||| m }

/-- Writes back the dirty bytes of a line, and only those (R171). -/
def Line.flush (l : Line) (m : Mem) : Mem :=
  (List.range 256).foldl (fun m i =>
    if bit l.dirty i then m.wr (l.tag + i) (BitVec.ofNat 8 (lane 8 l.data i)) else m) m

/-- The bytes of a line that lie in the 8-byte units of a set. -/
def Line.units (l : Line) (p : Nat → Bool) : BitVec 256 :=
  BitVec.ofNat 256 ((List.range 256).foldl (fun n i => if p ((l.tag + i) / 8) then n + 2 ^ i else n) 0)

/-- The part of a line that goes home at an eviction, and the part that stays dirty for now (R171, R180, log 6). -/
def Line.split (stays : Nat → Bool) (l : Line) : Line × Line :=
  let m := l.units stays
  ({ l with dirty := l.dirty &&& ~~~m }, { l with have_ := l.dirty &&& m, dirty := l.dirty &&& m })

/-- The dirty bytes of lines go home. -/
def State.flush (s : State) (ls : List Line) : State :=
  { s with mem := ls.foldl (fun m (l : Line) => l.flush m) s.mem }.poke (dirtyAt ls)

/-- Lines that the L1 of a bound cell holds: 2·L1R blocks of 32 KiB, four times that where a quad shares it (R55, R170). -/
def l1Lines (c : Cell) : Nat := match c.bound with
  | none => 0
  | some b => 256 * b.l1r.toNat * (if b.qsl1 then 4 else 1)

/-- Lines beyond the size of the L1 leave it, those allocated first before the others; dirty bytes go home. Which line
leaves is open: a line may be evicted at any time (R171, log 6). -/
def l1Trim (s : State) (o : BitVec 9) : State :=
  let c := s.cellAt o
  let n := c.lines.length - l1Lines c
  (s.updAt o fun c => { c with lines := c.lines.drop n }).flush (c.lines.take n)

/-- Plain bytes through the L1: a load allocates (R171). -/
def l1Load (s : State) (ci : BitVec 9) (pa n : Nat) : List Byte × State :=
  if cacheable ci pa then
    let o := l1Owner s ci
    let l := (lineOf (s.cellAt o).lines (pa / 256 * 256)).fill s.mem
    (((rowBytes l.data).drop (pa % 256)).take n, l1Trim (s.updAt o fun c => { c with lines := putLine c.lines l }) o)
  else (s.mem.bytes pa n, s)

/-- A plain store: into the line where the L1 takes it, else at the home (R171). -/
def l1Store (s : State) (ci : BitVec 9) (pa : Nat) (bs : List Byte) : State :=
  if cacheable ci pa then
    let o := l1Owner s ci
    let l := (lineOf (s.cellAt o).lines (pa / 256 * 256)).write (pa % 256) bs
    l1Trim (s.updAt o fun c => { c with lines := putLine c.lines l }) o
  else s.store pa bs

/-- An ordered access or atomic first writes back its line's dirty bytes and then invalidates it (R171). -/
def l1Purge (s : State) (ci : BitVec 9) (pa : Nat) : State :=
  let o := l1Owner s ci
  let l := lineOf (s.cellAt o).lines (pa / 256 * 256)
  (s.updAt o fun c => { c with lines := c.lines.filter fun x => decide (x.tag ≠ l.tag) }).flush [l]

/-- Writes back every dirty byte of the L1 that serves the cell; the lines become clean. -/
def l1Clean (s : State) (ci : BitVec 9) : State :=
  let o := l1Owner s ci
  (s.updAt o fun c => { c with lines := c.lines.map fun l => { l with dirty := 0 } }).flush (s.cellAt o).lines

/-- Invalidates every clean line, and the clean bytes of a line that has dirty ones: what was held of another agent's bytes is
read at its home again (R171, R177, R179, R189). -/
def l1Open (s : State) (ci : BitVec 9) : State :=
  s.updAt (l1Owner s ci) fun c => { c with
    lines := (c.lines.filter fun l => decide (l.dirty ≠ 0)).map fun l => { l with have_ := l.have_ &&& l.dirty } }

/-! ### Inbound writes and phases (R177, R192) -/

def Inbound.peer (w : Inbound) : Bool := match w.src with
  | .host => false
  | .peer _ _ => true

def Inbound.domain (w : Inbound) : Bool := match w.src with
  | .host => false
  | .peer _ d => d

/-- The stack that a write goes to: its home (R169, log 30). -/
def Inbound.home (w : Inbound) : Nat := w.pa / 2 ^ 36

/-- Two writes of one source to one home: they keep their order (R192). -/
def sameLane (a b : Inbound) : Bool :=
  decide (a.home = b.home) && match a.src, b.src with
    | .host, .host => true
    | .peer p _, .peer q _ => decide (p = q)
    | _, _ => false

/-- A host or peer write is performed at its home. One that lands in a reserved region is dropped (R443); the brood
table's shadow half follows R226 and is written by `broodShadow`, supplied by the caller. -/
def performInbound (shadow : State → Nat → Byte → State) (s : State) (w : Inbound) : State :=
  (List.range w.bytes.length).foldl (fun s i =>
    let a := w.pa + i
    let b := w.bytes.getD i 0
    if Config.broodBase ≤ a ∧ a < Config.broodBase + Config.broodBytes ∧ bit (BitVec.ofNat 64 a) 8 ∧ !w.peer then
      shadow s a b
    else if reserved a then s
    else s.store a [b]) s

/-- The fields of a slot that the host may write (R227). -/
def hostField (f : Nat) : Bool :=
  f ∈ [0, 2, 3, 5, 6, 7, 8, 12, 13, 14, 15, 16, 17, 18, 19, 20, 23, 24]

def State.slot (s : State) (i : Nat) : Slot := s.brood.slots.get Slot.reset i

def State.setSlot (s : State) (i : Nat) (x : Slot) : State :=
  { s with brood := { s.brood with slots := s.brood.slots.put i x } }

/-- The bits of a field that are used. -/
def fieldMask (id : Nat) : Word :=
  match id with
  | 0 | 11 => 0xFFFF#64
  | 1 | 6 | 9 | 23 => 0xFFFFFFFF#64
  | 2 => 0xF#64
  | 3 => 0xFFF#64
  | 4 => 0xFFFFFFFF07FFFFFF#64
  | 7 => 0x7FF#64
  | 8 | 10 | 12 | 13 => 0x1F#64
  | 14 | 15 | 16 | 24 => 0xFFFFFFFFFFFFFF#64
  | 19 => 0xFFFFFFFFFF#64
  | 20 => 0xFFFFF#64
  | _ => BitVec.allOnes 64

/-- A host write of one byte of a slot's shadow half: COMMIT[0] is set by a 1 and kept by a 0; the shadow of every field of
the table takes the listed bits of the byte, and the latch ignores those fields that the host may not write (R226 to R228). -/
def broodShadow (s : State) (a : Nat) (b : Byte) : State :=
  let i := (a - Config.broodBase) / 512
  let o := (a - Config.broodBase) % 256
  let x := s.slot i
  if o = 0xF8 then s.setSlot i { x with commit := x.commit || bit b 0 }
  else if o < 0xC8 then
    let f := BitVec.ofNat 5 (o / 8)
    s.setSlot i { x with shadow := x.shadow.wr f (setFld (x.shadow.rd f) (8 * (o % 8)) 8 b.toNat &&& fieldMask (o / 8)) }
  else s

/-- The writes to perform, and the others: an earlier write of the same source to the same home goes with a due one
(R192). -/
def splitDue (due : Inbound → Bool) : List Inbound → List Inbound × List Inbound
  | [] => ([], [])
  | w :: r =>
    let p := splitDue due r
    if due w || r.any (fun x => due x && sameLane w x) then (w :: p.1, p.2) else (p.1, w :: p.2)

/-- Performs, oldest first, the accepted writes that are due. -/
def drainInbound (s : State) (due : Inbound → Bool) : State :=
  let p := splitDue due s.inbound
  p.1.foldl (performInbound broodShadow) { s with inbound := p.2 }

/-- The inbound writes that an open drains: the host's at HOST, the peers' at POD and FABRIC, both at SYSTEM, and at DOMAIN
the domain traffic of a package in a domain (R175, R177). -/
def openDrains (s : State) (scope : Nat) (w : Inbound) : Bool :=
  match scope with
  | 6 => !w.peer
  | 7 | 9 => w.peer
  | 8 => inDomain s && w.domain
  | 10 => true
  | _ => false

/-- Whether the cell's L1 is the shared one of its quad (R55). -/
def sharedL1 (s : State) (ci : BitVec 9) : Bool :=
  match (s.cellAt ci).bound with
  | some b => b.qsl1
  | none => false

/-- Scopes at which a phase acts on memory: QUAD or wider, but not QUAD with a quad-shared L1 (R177). -/
def scopeActs (s : State) (ci : BitVec 9) (scope : Nat) : Bool :=
  decide (2 ≤ scope) && !(decide (scope = 2) && sharedL1 s ci)

/-- The close of a phase (R177). -/
def closePhase (s : State) (ci : BitVec 9) (scope : Nat) : State :=
  if scopeActs s ci scope then l1Clean s ci else s

/-- The open of a phase (R177). -/
def openPhase (s : State) (ci : BitVec 9) (scope : Nat) : State :=
  let s1 := if 6 ≤ scope then drainInbound s (openDrains s scope) else s
  if scopeActs s1 ci scope then l1Open s1 ci else s1

/-- The open of an acquire load, of WAIT, or of an AMO or CAS with acquire (R182). With a quad-shared L1 one at QUAD also
drops the clean lines, as an eviction might at any time (R171): what an engine released is then read at its home (R190). -/
def openAcquire (s : State) (ci : BitVec 9) (scope : Nat) : State :=
  if scope = 2 ∧ sharedL1 s ci = true then l1Open s ci else openPhase s ci scope

/-- A decision that has come lets the task go on before anything is taken (R321). -/
def answered (c : Cell) : Bool :=
  match c.wait with
  | .accbDone _ _ => true
  | _ => false

/-! ### Tags and pending accesses (R78 to R80) -/

/-- The tag of a word is allocated: it becomes pending and remembers the launching bundle (R79, R215). -/
def allocTag (h : Header) (c : Cell) : Cell :=
  if h.av = 1#1 then
    { c with
      pipe := { c.pipe with
        pend := c.pipe.pend ||| BitVec.ofNat 8 (2 ^ h.tag.toNat)
        engTag := if 4 ≤ h.slot.toNat then c.pipe.engTag ||| BitVec.ofNat 8 (2 ^ h.tag.toNat) else c.pipe.engTag }
      tr := { c.tr with dbgtpc := c.tr.dbgtpc.wr h.tag (c.pipe.pc.zeroExtend 64 ||| 0x8000000000000000#64) } }
  else c

def tagOf (h : Header) : Option (BitVec 3) := if h.av = 1#1 then some h.tag else none

/-- Remembers a variable-latency access of the issuing cell until it lands or is acknowledged (R79, log 6); `dom` says that it
goes to a domain page, `ord` that it is an ordered one. -/
def addAccess (s : State) (h : Header) (lands : List Land) (write : Bool) (pa : Nat) (dom ord : Bool) : State :=
  { s.upd (fun c => { c with pipe := { c.pipe with
      accs := c.pipe.accs ++ [{ id := s.nextId, tag := tagOf h, lands := lands, write := write, pa := pa, dom := dom
                                slot := h.slot, ord := ord }] } }) with
    nextId := s.nextId + 1 }

/-- An ordered access of an earlier bundle is not complete: every later access on any path waits for it, and every later command
of the E slot (R182). The wait holds the bundle (log 6). -/
def orderWaits (c : Cell) : Bool := c.pipe.accs.any fun a => a.ord && decide (0 < a.age)

/-- The close of a release waits for the stores and atomics of earlier bundles, a peer's acknowledgements among them (R177, R182,
R194). It holds the release's bundle (log 6). -/
def releaseWaits (c : Cell) (scope : Nat) : Bool :=
  decide (2 ≤ scope) && c.pipe.accs.any fun a => a.write && decide (0 < a.age)

/-! ### Where a task is -/

/-- Whether the cell runs the task. -/
def runsTask (c : Cell) (gang : Nat) (gmem : BitVec 6) : Bool :=
  c.running && decide (c.task.gang = gang) && decide (c.task.gmem = gmem)

/-- The cell that runs the task, if one does. -/
def cellOfTask (s : State) (gang : Nat) (gmem : BitVec 6) : Option (BitVec 9) :=
  match s.tasks.gangs.find? fun g => decide (g.id = gang) with
  | none => none
  | some g => g.cells.find? fun c => runsTask (s.cellAt c) gang gmem

def isSaved (s : State) (gang : Nat) (gmem : BitVec 6) : Bool :=
  s.tasks.saved.any fun x => decide (x.gang = gang) && decide (x.gmem = gmem)

/-- Acts on the task's cell, or on its saved image (R209); on nothing when the task has ended. -/
def onTask (s : State) (gang : Nat) (gmem : BitVec 6) (f : Cell → Cell) : State :=
  match cellOfTask s gang gmem with
  | some c => s.updAt c f
  | none =>
    { s with tasks := { s.tasks with saved := s.tasks.saved.map fun x =>
        if x.gang = gang ∧ x.gmem = gmem then { x with image := f x.image } else x } }

/-- The reservation of a cell that takes a CARVE's split: the scratchpad below both sizes is kept (R54). -/
def carveCell (v : BitVec 12) (x : Cell) : Cell :=
  match x.bound with
  | none => x
  | some b =>
    let spr := v.extractLsb' 0 6
    { x with
      pad := x.pad.clear (min b.spr.toNat spr.toNat * Config.granule) (64 * Config.granule)
      bound := some { b with spr := spr, l1r := v.extractLsb' 8 4 } }

/-- What reaches a saved context, on the context. -/
def Redirected.apply (c : Cell) : Redirected → Cell
  | .land l => c.land l
  | .pad a bs => { c with pad := c.pad.store a bs }
  | .events ev => (countEvents c ev).1
  | .carve v => carveCell v c

/-- It acts on the image at once, and is kept for the restore, which reads the area again (R209). -/
def Saved.redirect (y : Saved) (l : List Redirected) : Saved :=
  { y with image := l.foldl Redirected.apply y.image, landed := y.landed ++ l }

/-- Acts on the saved context of a task. -/
def redirectTo (s : State) (gang : Nat) (gmem : BitVec 6) (l : List Redirected) : State :=
  { s with tasks := { s.tasks with saved := s.tasks.saved.map fun y =>
      if y.gang = gang ∧ y.gmem = gmem then y.redirect l else y } }

/-- The task's cell or saved image. -/
def taskCell (s : State) (gang : Nat) (gmem : BitVec 6) : Option Cell :=
  match cellOfTask s gang gmem with
  | some c => some (s.cellAt c)
  | none => (s.tasks.saved.find? fun x => decide (x.gang = gang) && decide (x.gmem = gmem)).map (·.image)

/-! ### Barriers (R53, R54) -/

def gangOf (s : State) (id : Nat) : Option Gang := s.tasks.gangs.find? fun g => decide (g.id = id)

def setGang (s : State) (g : Gang) : State :=
  { s with tasks := { s.tasks with gangs := s.tasks.gangs.map fun x => if x.id = g.id then g else x } }

/-- Enters the handler (R197, R198). `pdDone` tells whether the bundle at EPC has spent its PD. -/
def enterHandler (t : Trap) (epc : BitVec 32) (pdDone : Bool) (c : Cell) : Cell :=
  { c with
    tr := { c.tr with
      cause := BitVec.ofNat 64 (t.cause.toNat + 256 * t.kind.toNat)
      epc := epc.zeroExtend 64
      tval := t.tval
      status := (c.tr.status &&& 0xC#64) ||| 1#64 ||| (if pdDone then 2#64 else 0#64) }
    pipe := { c.pipe with
      pc := 0, seq := 0, redirect := none, flight := c.pipe.inflight, inflight := [], late := [], ticked := false,
      pdSpent := false, polled := none, expired := false, asked := none, got := none } }

/-- Acts on the saved images of a gang's members. -/
def onSaved (s : State) (gid : Nat) (f : Cell → Cell) : State :=
  { s with tasks := { s.tasks with saved := s.tasks.saved.map fun x =>
      if x.gang = gid then { x with image := f x.image } else x } }

/-- What the completion of barrier `n` leaves of a CARVE's wait; another wait stays (R54). -/
def carveReleased (n : BitVec 4) (allCarve : Bool) : Wait → Wait
  | .carve m sc => if m = n then (if allCarve then .carveDone n sc else .misuse n) else .carve m sc
  | w => w

/-- The same for a saved member, whose BAR opens its phase when the member issues again (R53, R177, R209). -/
def savedReleased (n : BitVec 4) (allCarve : Bool) (x : Cell) : Cell :=
  match x.wait with
  | .bar m sc => if m = n then { x with wait := .none, task := { x.task with openPhase := sc } } else x
  | w => { x with wait := carveReleased n allCarve w }

/-- A barrier phase completes when arrivals plus exited members reach E. Every waiter is released: a BAR opens its
phase; when every arrival was a CARVE the split named last is applied by CARVE_RELEASE; a CARVE in a mixed phase traps
BARRIER_MISUSE once it is released (R53, R54). -/
def barrierCheck (s : State) (gid : Nat) (n : BitVec 4) : State :=
  match gangOf s gid with
  | none => s
  | some g =>
    let b := g.bars.rd n
    if b.arrived = [] ∨ b.arrived.length + g.exited.length < b.expect then s
    else
      let allCarve := b.arrived.all fun a => a.carve.isSome
      let last := (b.arrived.reverse.findSome? fun a => a.carve).getD 0
      let s1 := onSaved (setGang s { g with
        bars := g.bars.wr n { b with arrived := [] }
        carving := if allCarve then g.carving ++ [(n, last)] else g.carving }) gid (savedReleased n allCarve)
      g.cells.foldl (fun s c =>
        let x := s.cellAt c
        if runsTask x gid x.task.gmem then
          match x.wait with
          | .bar m sc => if m = n then openPhase (s.updAt c fun x => { x with wait := .none }) c sc.toNat else s
          | w => s.updAt c fun x => { x with wait := carveReleased n allCarve w }
        else s) s1

/-- The members of a gang that have not exited, on their cells or saved, in no particular order. -/
def membersOf (s : State) (g : Gang) : List Cell :=
  ((g.cells.map s.cellAt).filter fun x => x.running && decide (x.task.gang = g.id))
    ++ ((s.tasks.saved.filter fun x => decide (x.gang = g.id)).map (·.image))

/-- Fused again where `lead` is, with the loop state of `lead` (R56, R411). -/
def rejoined (lead : Pipe) (x : Cell) : Cell :=
  { x with
    wait := .none, task := { x.task with fused := true }
    pipe := { x.pipe with pc := lead.pc, seq := lead.pc, inner := lead.inner, outer := lead.outer } }

/-- REJOIN: when every member has issued it or exited, fused fetch resumes after the lowest live member's (R56). -/
def rejoinCheck (s : State) (gid : Nat) : State :=
  match gangOf s gid with
  | none => s
  | some g =>
    if g.rejoined = [] ∨ g.rejoined.length + g.exited.length < g.size then s
    else
      match (membersOf s g).foldl (fun (o : Option Cell) x => match o with
          | none => some x
          | some y => if x.task.gmem.toNat < y.task.gmem.toNat then some x else some y) none with
      | none => s
      | some lead =>
        g.cells.foldl (fun s c => s.updAt c fun x =>
            if x.running && decide (x.task.gang = gid) then rejoined lead.pipe x else x)
          (onSaved (setGang s { g with rejoined := [], fused := true }) gid (rejoined lead.pipe))

/-! ### The end of a task (R46, R50, R52) -/

/-- Lands everything still in flight, oldest first: fuel bounds the longest latency. -/
def drainFlight : Nat → State → BitVec 9 → State
  | 0, s, _ => s
  | f + 1, s, c => if (s.cellAt c).pipe.inflight = [] then s else drainFlight f (s.tickAt c) c

/-- Gives the task's save area back to its context's pool (R222). -/
def freeArea (s : State) (ctx : BitVec 16) (key : Nat) : State :=
  { s with pkg := { s.pkg with contexts := s.pkg.contexts.map fun x =>
      if x.id = ctx then
        { x with
          free := x.free ++ (x.used.filter fun u => decide (u.1 = key)).map (·.2)
          used := x.used.filter fun u => decide (u.1 ≠ key) }
      else x } }

/-- The key of a member's save area. -/
def areaKey (gang : Nat) (gmem : BitVec 6) : Nat := gang * 64 + gmem.toNat

/-- The task of a cell ends: the loops, the open region, the flight record and the pending accesses go; the member
counts as exited; when every member has exited the gang is released (R46, R52). -/
def endTask (s : State) (ci : BitVec 9) : State :=
  let c := s.cellAt ci
  let gid := c.task.gang
  let s1 := s.updAt ci fun c => { c with
    running := false, wait := .none, region := none, events := Events.none
    tr := { c.tr with status := 0 }
    pipe := { c.pipe with
      inflight := [], late := [], flight := [], accs := [], inner := none, outer := none, pend := 0, engTag := 0, untag := 0,
      redirect := none, ticked := false, pdSpent := false, expired := false, polled := none, asked := none, got := none
      rest := none } }
  let other := fun (l : List (BitVec 9)) => l.filter fun x => decide (x ≠ ci)
  let s2 := freeArea { s1 with tasks := { s1.tasks with preempt := other s1.tasks.preempt, saving := other s1.tasks.saving } }
    c.task.ctx (areaKey gid c.task.gmem)
  match gangOf s2 gid with
  | none => s2
  | some g =>
    let ex := g.exited ++ [c.task.gmem]
    if ex.length < g.size then
      let s3 := setGang s2 { g with exited := ex }
      rejoinCheck ((List.range 16).foldl (fun s n => barrierCheck s gid (BitVec.ofNat 4 n)) s3) gid
    else
      let s3 := { s2 with tasks := { s2.tasks with gangs := s2.tasks.gangs.filter fun x => decide (x.id ≠ gid) } }
      match g.step with
      | none => s3
      | some sl => s3.setSlot sl.toNat { s3.slot sl.toNat with stepping := false }

/-- Reduce rounds that have their result and whose command is gone are over (R214, R283). -/
def pruneRounds (s : State) : State :=
  let over_ := fun (r : RedRound) => r.result.isSome && !(s.cmds.any fun x => decide (x.id = r.cmd))
  { s with chans := { s.chans with table := s.chans.table.map fun p =>
      (p.1, { p.2 with rounds := p.2.rounds.filter fun r => !over_ r }) } }

/-- Abandons the commands of a task that its handler left held (R201, R214). -/
def dropHeld (s : State) (gang : Nat) (gmem : BitVec 6) : State :=
  pruneRounds { s with cmds := s.cmds.filter fun x =>
      !(decide (x.gang = gang) && decide (x.gmem = gmem) && x.held.isSome) }

/-- Every M word of the task has retired (R46). -/
def matrixIdle (c : Cell) : Bool := decide (c.mx.queue = []) && decide (c.mx.run = none)

/-- The flight record and the results in flight are discarded, and the cell waits for its M words. -/
def endWhenIdle (c : Cell) : Cell :=
  { c with
    wait := .ending, region := none, events := Events.none
    pipe := { c.pipe with inflight := [], late := [], flight := [], redirect := none } }

/-- The task ends as at ABORT: as at EXIT once its M words have retired, but with no wait for its tags; the flight record is
discarded, held commands are abandoned (R46, R201). -/
def abortTask (s : State) (ci : BitVec 9) : State :=
  let c := s.cellAt ci
  let s1 := dropHeld s c.task.gang c.task.gmem
  if matrixIdle c then endTask s1 ci else s1.updAt ci endWhenIdle

/-! ### Traps (R196 to R200) -/

/-- Takes a trap on a cell. In supervisor mode it is a double trap: the task ends as by ABORT with a report of kind 2
(R200). BREAKPOINT and STEP halt the cell under DBGCTL.HALT with a report of kind 5 (R215). Otherwise the handler is
entered (R197). A halted bundle has had its issue cycle, and its PD as far as `pdDone` says. No rule says when a trap is forwarded
in a report of kind 0: none is sent (R207, log 22). -/
def takeTrap (s : State) (ci : BitVec 9) (t : Trap) (epc : BitVec 32) (pdDone : Bool) : State :=
  let c := s.cellAt ci
  if c.sup then abortTask (s.report (cellReport s ci 2 t.cause (epc.zeroExtend 64) t.tval 0)) ci
  else if bit c.tr.dbgctl 1 ∧ (t.cause = cBreakpoint ∨ t.cause = cStep) then
    (s.report (cellReport s ci 5 t.cause (epc.zeroExtend 64) t.tval 0)).updAt ci fun c => { c with
      wait := .halt, pipe := { c.pipe with ticked := true, pdSpent := pdDone } }
  else s.updAt ci (enterHandler t epc pdDone)

/-! ### How a word issues -/

/-- What the issue of a word comes to. `poll` is a freeze in which the word has looked at memory (R440); `needIdle` asks for
one more PD idle cycle before the bundle (R155, R198). -/
inductive Issue where
  | go (s : State)
  | trap (t : Trap)
  | freeze
  | poll (s : State)
  | needIdle

/-- An issue that accesses memory or launches a command, behind an earlier ordered access (R182). -/
def orderedIssue (c : Cell) (r : Issue) : Issue :=
  match r with
  | .go s => if orderWaits c then .freeze else .go s
  | r => r

/-- Marks what the issuing cell's last word did (log 3). -/
def State.mark (s : State) (c : BitVec 9) (v : Verdict) : State := s.updAt c fun x => { x with verdict := v }

/-- The next state of a word: its effect, the trap it takes before issue (the bundle has spent its PD, R197), or the
unchanged machine of a cell that waits. -/
def finish (s : State) : Issue → Host.Outcome State Fault Refusal
  | .go s' => .next (s'.mark s.cur .issued)
  | .trap t =>
    if t.cause = cWait then .next (s.mark s.cur .frozen)
    else .next ((takeTrap s s.cur t s.cell.pipe.pc true).mark s.cur .trapped)
  | .freeze => .next (s.mark s.cur .frozen)
  | .poll s' => .next (s'.mark s.cur .polled)
  | .needIdle => .next (s.mark s.cur .idle)

/-- A tag that the word consumes is pending, or the one it allocates is (R75). -/
def tagWait (h : Header) (c : Cell) : Bool :=
  decide (c.pipe.pend &&& h.cmk ≠ 0) || (decide (h.av = 1#1) && bit c.pipe.pend h.tag.toNat)

/-- AV = 1 where R79 does not allow it, or AT ≠ 0 with AV = 0. -/
def tagBad (h : Header) (allowed : Bool) : Bool :=
  if h.av = 1#1 then !allowed else decide (h.tag ≠ 0)

/-- The checks that every word runs before its own, in the order of R110: the field values (and, in supervisor mode,
whether a handler may issue the word at all, R111, R199), the privilege, the tag. Then the word's own issue, and the
allocation of its tag. -/
def issueWord (h : Header) (legal handler priv tags : Bool) (s : State) (body : Cell → Issue) :
    Host.Outcome State Fault Refusal :=
  let c := s.cell
  finish s <|
    if tagWait h c then .freeze
    else if !legal || (c.sup && !handler) then .trap (trapOf cIllegalOp (h.slot.zeroExtend 64))
    else if priv && !c.sup then .trap (trapOf cPrivilege (h.slot.zeroExtend 64))
    else if tagBad h tags then .trap (trapOf cIllegalTag (h.slot.zeroExtend 64))
    else
      match body c with
      | .go s' => .go (s'.upd (allocTag h))
      | r => r

/-- A word whose only effects are results of one fixed latency. -/
def issueResults (h : Header) (legal handler : Bool) (s : State) (lands : Cell → List Land) (n : Nat) (ev : BitVec 8) :
    Host.Outcome State Fault Refusal :=
  issueWord h legal handler false false s fun c =>
    .go (s.push ((lands c).map fun l => { land := l, n := n, slot := h.slot, ev := ev }))

end Sys2Proof.Machine
end

