-- ==== Sys2Proof/Machine/AIdx.lean ====
section
/-! DEFINITION. The A slots' register words: address indices, modes, handle fields, LEA (R314, R319, R325, R328 to R331,
R370, R372, R377). All land at latency 1 and none touches memory. -/

namespace Sys2Proof.Machine

/-- A handle used as a base is checked at issue and its space must suit the word's (R90, R92); the scout die has no
staging window (R90). -/
def memLegal (s : State) (b : BitVec 1) (hb : BitVec 4) (space : BitVec 2) : Bool :=
  (decide (b = 0#1) || (hOk (s.cell.rdH hb) && spaceAllows space.toNat (hSpace (s.cell.rdH hb))))
    && !(decide (space = 2#2) && isScout s.cur)

/-- The post-update of a memory word with U = 1, at latency 1 (R77, R89). -/
def indexResult (h : Header) (c : Cell) (u : BitVec 1) (ai : BitVec 4) : List InFlight :=
  if u = 1#1 then [{ land := .a ai (indexUpdate (c.rdM ai) (c.rdA ai)), n := 1, slot := h.slot, ev := 0 }] else []

/-- The effective address of an AM word (R90). -/
def amAddr (c : Cell) (o : AM) : Word := effAddr c o.b o.hb o.ai o.disp.toInt

def execAmov (h : Header) (o : AA) (s : State) : Host.Outcome State Fault Refusal :=
  issueResults h (slotA h && aaMov o) true s (fun c => [.a o.ad (c.rdS o.ss + sext32 o.imm)]) 1 0

def execAget (h : Header) (o : AA) (s : State) : Host.Outcome State Fault Refusal :=
  issueResults h (slotA h && aaGet o) true s (fun c => [c.dstS o.ss (c.rdA o.aa)]) 1 0

def execAadd (h : Header) (o : AA) (s : State) : Host.Outcome State Fault Refusal :=
  issueResults h (slotA h && aaAdd o) true s (fun c => [.a o.ad (c.rdA o.aa + c.rdS o.ss + sext32 o.imm)]) 1 0

/-- The mode value is checked under R88 at issue (R328). -/
def execAmode (h : Header) (o : AA) (s : State) : Host.Outcome State Fault Refusal :=
  issueResults h (slotA h && aaMode o && modeOk (s.cell.rdS o.ss)) true s (fun c => [.m o.ad (c.rdS o.ss)]) 1 0

def execAupd (h : Header) (o : AA) (s : State) : Host.Outcome State Fault Refusal :=
  issueResults h (slotA h && aaUpd o) true s (fun c => [.a o.ad (indexUpdate (c.rdM o.ad) (c.rdA o.ad))]) 1 0

/-- LEA runs only the checks that trap ILLEGAL_OP and makes no access (R377). -/
def execLea (h : Header) (o : AM) (s : State) : Host.Outcome State Fault Refusal :=
  issueWord h (slotA h && amLea o && memLegal s o.b o.hb o.space) true false false s fun c =>
    .go (s.push ({ land := c.dstS (o.data.extractLsb' 0 6) (amAddr c o), n := 1, slot := h.slot, ev := 0 }
      :: indexResult h c o.u o.ai))

/-- A handle with one field replaced (R372). -/
def hSet (x : BitVec 256) (id : Nat) (v : Word) : BitVec 256 := setFld x (hField id).1 (hField id).2 v.toNat

def execHset (h : Header) (o : AH) (s : State) : Host.Outcome State Fault Refusal :=
  issueResults h (slotA h && ahSet o) true s
    (fun c => [.h o.hd (hSet (c.rdH o.hs) o.id.toNat (c.rdS o.ss + sext32 o.imm))]) 1 0

def execHget (h : Header) (o : AH) (s : State) : Host.Outcome State Fault Refusal :=
  issueResults h (slotA h && ahGet o) true s
    (fun c => [c.dstS o.ss (BitVec.ofNat 64 (fld (c.rdH o.hs) (hField o.id.toNat).1 (hField o.id.toNat).2))]) 1 0

end Sys2Proof.Machine
end

