-- ==== Sys2Proof/Machine/Flits.lean ====
section
/-! DEFINITION. Flits: their header, their way out of the package, their sequence numbers, the accesses to peer memory that they
carry, the accepted ones that are still to be performed, and who waits for the responses of domain pages (R21, R183, R194, R287,
R288, R292 to R294, R297). -/

namespace Sys2Proof.Machine

/-! ### What leaves (R21, R287, R293) -/

/-- The plane that a hash picks; the share of a port that is down goes to the next one that is up (R21). -/
def planeOf (up : BitVec 16) (h : Nat) : Option (BitVec 4) :=
  ((List.range 16).find? fun i => bit up ((h + i) % 16)).map fun i => BitVec.ofNat 4 (h + i)

/-- The plane of a flit to a destination, by the hash of it and an address; none while no port is up. -/
def planePath (s : State) (dest a : Nat) : Option Path := (planeOf s.pkg.ports (Config.planeHash dest a)).map .plane

/-- What a flit's header says beside SEQ, generation and source: domain traffic, kind, class, destination, package or group; and
the member at the other end of its link, for a group the switch that serves it. -/
structure FlitTo where
  dom : Bool
  kind : Nat
  tc : Nat
  dest : Nat
  group : Bool
  link : Nat
  deriving DecidableEq, Repr

/-- The header (R287). -/
def flitHeader (s : State) (t : FlitTo) (seq : Nat) : BitVec 128 :=
  BitVec.ofNat 128 (seq * 2 ^ 64 + (if t.dom then s.pd.gen.toNat % 2 ^ 24 * 2 ^ 40 + 2 ^ 35 else 0) + t.kind * 2 ^ 36
    + t.tc * 2 ^ 32 + t.dest * 2 ^ 16 + s.pd.self.toNat)

/-- The counter of SEQ: one for each destination, package or group, and class (R293). -/
def sendKey (t : FlitTo) : Nat := ((if t.group then 2 ^ 16 else 0) + t.dest) * 4 + t.tc

/-- The key of the link from `a` to `b` at a generation; the secret's bytes are taken lowest first (R293, log 11). -/
def linkKey (secret : BitVec 384) (gen : BitVec 32) (a b : Nat) : List Byte :=
  Config.hkdfExpand (Config.hkdfExtract (toBytes 4 gen.toNat) (toBytes 48 secret.toNat))
    ([0x50, 0x52, 0x4F, 0x50, 0x4F, 0x4C, 0x49, 0x53] ++ toBytes 2 a ++ toBytes 2 b) 32

/-- The nonce: SEQ, class and source (R293). -/
def flitNonce (self : BitVec 16) (t : FlitTo) (seq : Nat) : BitVec 96 :=
  BitVec.ofNat 96 (seq % 2 ^ 64 + t.tc % 4 * 2 ^ 64 + self.toNat * 2 ^ 80)

/-- What seals a flit of the package. -/
def flitSeal (s : State) (t : FlitTo) (seq : Nat) : Seal :=
  { key := linkKey s.pd.secret s.pd.gen s.pd.self.toNat t.link, nonce := flitNonce s.pd.self t seq }

/-- One flit leaves; on domain traffic it is sealed, and takes the next SEQ of its destination and class, elsewhere SEQ is 0. -/
def emitFlit (s : State) (chan : Option Nat) (t : FlitTo) (path : Option Path) (bs : List Byte) : State :=
  let seq := if t.dom then s.pd.sends.get 0 (sendKey t) else 0
  let m : OutMsg :=
    { chan := chan, path := path.getD .held, hdr := flitHeader s t seq, bytes := bs
      crypt := if t.dom then some (flitSeal s t seq) else none }
  { s with
    chans := { s.chans with out := s.chans.out ++ [m] }
    pd := if t.dom then { s.pd with sends := s.pd.sends.put (sendKey t) (seq + 1) } else s.pd }

/-! ### Peer memory (R183, R194, R218) -/

/-- The package that a peer address names. -/
def peerOf (pa : Nat) : Nat := pa / 2 ^ 44 % 256

/-- A flit of a memory access or of its response. R194 gives these a traffic class without saying which: they go at TC0, the
class whose latency R21 bounds; the payload kept is the data (log 19). What is done with responses that have come sends nothing
again. -/
def memoryFlit (s : State) (dom : Bool) (kind dest a : Nat) (bs : List Byte) : State :=
  if dom && s.pd.quiet then s
  else emitFlit s none { dom := dom, kind := kind, tc := 0, dest := dest, group := false, link := dest } (planePath s dest a) bs

/-- The flits of an access to an address, at most 256 bytes of data in each; none where the address is not a peer's. Kinds: 0
load, 1 store, 2 atomic (R287). -/
def peerFlits (s : State) (dom : Bool) (kind pa : Nat) (bs : List Byte) : State :=
  if paTarget pa = 3 then
    (List.range (max 1 ((bs.length + 255) / 256))).foldl
      (fun s i => memoryFlit s dom kind (peerOf pa) (pa + 256 * i) ((bs.drop (256 * i)).take 256)) s
  else s

/-- The flits of the runs of main memory that an engine or the matrix unit reads; `n` flits ask for `256 · n` bytes. -/
def loadFlits (s : State) (segs : List Seg) : State :=
  segs.foldl (fun s g =>
    if g.space = .main ∧ paTarget g.addr = 3 then
      (List.range ((g.len + 255) / 256)).foldl (fun s i => memoryFlit s g.dom 0 (peerOf g.addr) (g.addr + 256 * i) []) s
    else s) s

/-! ### What has come (R292, R294) -/

/-- Removes the first `n` members of a list that satisfy a test. -/
def dropFirst (p : BitVec 128 → Bool) : Nat → List (BitVec 128) → List (BitVec 128)
  | _, [] => []
  | 0, l => l
  | n + 1, x :: r => if p x then dropFirst p n r else x :: dropFirst p (n + 1) r

/-- A flit of a kind from a source. -/
def flitFrom (src : BitVec 16) (kind : Nat) (h : BitVec 128) : Bool :=
  decide (h.extractLsb' 0 16 = src) && decide (fld h 36 4 = kind)

/-- What domain traffic of a source carries is performed only where its flits were accepted: `n` flits of a kind are used up,
the oldest first; none where they are not there, or the domain is not in force (R292, R294). -/
def takeFlits (s : State) (src : BitVec 16) (kind n : Nat) : Option State :=
  let mine := flitFrom src kind
  if !inDomain s || decide ((s.pd.flits.filter mine).length < n) then none
  else some { s with pd := { s.pd with flits := dropFirst mine n s.pd.flits } }

/-- The response to an access: on a domain page it is a flit that passed its checks (R294). -/
def takeResponse (s : State) (a : Access) : Option State :=
  if a.dom && decide (paTarget a.pa = 3) then takeFlits s (BitVec.ofNat 16 (peerOf a.pa)) 3 1 else some s

/-- Number of a queued word that reads data: an error in them names it (R162, R205). -/
def jobId : MJob → Option Nat
  | .load id _ _ _ _ _ => some id
  | .fill id _ _ => some id
  | .call id _ _ _ _ _ _ _ => some id
  | .code id _ _ => some id
  | .micro id _ _ _ => some id
  | _ => none

/-- As what a queued word waits for responses: MSTZ for those of its stores as well. -/
def MJob.asker : MJob → Option Asker
  | .store id _ _ _ _ _ _ _ => some (.job id)
  | j => (jobId j).map .job

/-- What an asker has asked for. -/
def askOf (s : State) (k : Asker) : Ask :=
  (s.pd.asks.find? fun a => decide (a.by_ = k)).getD { by_ := k, owed := [], got := [] }

/-- Keeps an ask; one that neither is owed a response nor has taken one is none. -/
def setAsk (s : State) (a : Ask) : State :=
  let rest := s.pd.asks.filter fun x => decide (x.by_ ≠ a.by_)
  { s with pd := { s.pd with asks := if a.owed = [] ∧ a.got = [] then rest else rest ++ [a] } }

def dropAsk (s : State) (k : Asker) : State := setAsk s { by_ := k, owed := [], got := [] }

/-- One response of each package of a list, where all have come. -/
def takeResponses : List (BitVec 16) → State → Option State
  | [], s => some s
  | p :: r, s => (takeFlits s p 3 1).bind (takeResponses r)

/-- Takes the responses that an asker is owed, once all have come. -/
def collect (k : Asker) (s : State) : State :=
  let a := askOf s k
  match takeResponses a.owed s with
  | none => s
  | some t => setAsk t { a with owed := [], got := a.got ++ a.owed }

/-- The flits of loads, stores and atomics of domain pages that lie between two states. -/
def sentDomain (s t : State) : List OutMsg :=
  (t.chans.out.drop s.chans.out.length).filter fun m => m.chan.isNone && m.crypt.isSome && decide (fld m.hdr 36 4 < 3)

def OutMsg.dest (m : OutMsg) : BitVec 16 := m.hdr.extractLsb' 16 16

/-- The flits that have no response among those taken. -/
def unanswered : List OutMsg → List (BitVec 16) → List OutMsg
  | [], _ => []
  | m :: r, got => if m.dest ∈ got then unanswered r (got.erase m.dest) else m :: unanswered r got

/-- Such a flit leaves. -/
def resend (s : State) (m : OutMsg) : State :=
  emitFlit s none { dom := true, kind := fld m.hdr 36 4, tc := 0, dest := m.dest.toNat, group := false, link := m.dest.toNat }
    (some m.path) m.bytes

/-- The loads of a list of flits, and then the others. -/
def loadsFirst (l : List OutMsg) : List OutMsg :=
  l.filter (fun m => decide (fld m.hdr 36 4 = 0)) ++ l.filter fun m => decide (fld m.hdr 36 4 ≠ 0)

/-- Of the flits that have no response yet those that leave now: the loads, and stores once all of these have their data. -/
def askNow (l : List OutMsg) : List OutMsg :=
  let loads := l.filter fun m => decide (fld m.hdr 36 4 = 0)
  if loads = [] then l else loads

/-- What the engines do with domain pages takes effect only with accepted responses: `run` is what an engine does. Where it would
send flits to domain pages they leave first, and it is done once a response to each has passed its checks (R292, R294, log 32). -/
def awaitDomain (k : Asker) (run : State → State) (s : State) : State :=
  let s1 := collect k s
  let a := askOf s1 k
  let t := run s1
  let need := sentDomain s1 t
  if need = [] then t
  else if a.owed ≠ [] then s1
  else
    match unanswered (loadsFirst need) a.got with
    | [] =>
      let u := run { s1 with pd := { s1.pd with quiet := true } }
      dropAsk { u with pd := { u.pd with quiet := s.pd.quiet } } k
    | ms => (askNow ms).foldl resend (setAsk s1 { a with owed := (askNow ms).map OutMsg.dest })

/-- The responses to the flits that a word has sent at its issue are owed to it. -/
def asking (k : Asker) (s t : State) : State :=
  let l := (sentDomain s t).map OutMsg.dest
  if l = [] then t else setAsk t { by_ := k, owed := l, got := [] }

/-- A load of the cell to a domain page leaves, and the cell waits for its response. -/
def askLoad (s : State) (c : BitVec 9) (k : Asker) (pa : Nat) : State :=
  let s1 := setAsk (memoryFlit s true 0 (peerOf pa) pa []) { by_ := k, owed := [BitVec.ofNat 16 (peerOf pa)], got := [] }
  { s1.updAt c (fun x => { x with pipe := { x.pipe with asked := some k } }) with nextId := s.nextId + 1 }

/-- The response to the load that the cell awaits has come, where it is one of the wanted sort, and is taken. -/
def takeAsked (s : State) (c : BitVec 9) (wanted : Asker → Bool) : Option State :=
  match (s.cellAt c).pipe.asked with
  | none => none
  | some k =>
    let a := askOf s k
    if !wanted k || decide (a.owed = []) then none
    else (takeResponses a.owed s).map fun t =>
      (dropAsk t k).updAt c fun x => { x with pipe := { x.pipe with asked := none } }

def Asker.isCode : Asker → Bool
  | .code _ => true
  | _ => false

/-- What a load that holds its bundle comes to: the bytes can be read, its flit has left and the cell waits for the response, or
it still waits. -/
inductive HomeLoad where
  | ready (s : State)
  | sent (s : State)
  | waits

/-- A load of the cell from the home of an address, before its bundle goes on: from a peer by a flit, from a domain page with its
accepted response (R194, R287, R294). -/
def homeLoad (s : State) (c : BitVec 9) (dom : Bool) (pa : Nat) : HomeLoad :=
  if paTarget pa ≠ 3 then .ready s
  else if !dom then .ready (memoryFlit s false 0 (peerOf pa) pa [])
  else
    match (s.cellAt c).pipe.asked with
    | none => .sent (askLoad s c (.poll s.nextId) pa)
    | some _ =>
      match takeAsked s c fun k => !k.isCode with
      | none => .waits
      | some t => .ready t

/-- Whether somebody still waits for the responses of an asker. -/
def askLive (s : State) (k : Asker) : Bool :=
  let onCells := fun (f : Cell → Bool) => s.cells.toList.any f || s.tasks.saved.any fun y => f y.image
  match k with
  | .cmd id => s.cmds.any fun x => decide (x.id = id)
  | .seed l => s.tasks.launches.any fun x => decide (x.id = l)
  | .poll _ => onCells fun c => decide (c.pipe.asked = some k)
  | .code _ => onCells fun c => decide (c.pipe.asked = some k)
  | .job _ => onCells fun c => c.mx.queue.any fun j => decide (j.asker = some k)
  | .accord _ _ => true
  | .text _ => true

/-- Responses that nobody waits for any more have nothing left to do when they come. -/
def settleAsks (s : State) : State :=
  s.pd.asks.foldl (fun t a =>
    if askLive t a.by_ then t
    else match takeResponses (askOf t a.by_).owed t with
      | none => t
      | some u => dropAsk u a.by_) s

/-- Responses of a source that something still awaits: accesses of cells, running or saved, to its domain pages, and asks. -/
def awaiting (s : State) (src : BitVec 16) : Nat :=
  let of_ := fun (c : Cell) => (c.pipe.accs.filter fun a =>
    a.dom && decide (paTarget a.pa = 3) && decide (peerOf a.pa = src.toNat)).length
  s.cells.toList.foldl (fun n c => n + of_ c) 0 + s.tasks.saved.foldl (fun n y => n + of_ y.image) 0
    + s.pd.asks.foldl (fun n a => n + a.owed.count src) 0

end Sys2Proof.Machine
end

