-- ==== Sys2Proof/Machine/Float.lean ====
section
/-! DEFINITION. Element types, exact values, rounding and narrowing, the device functions, the window sum and W96 (R123 to
R146). Every value is exact until one rounding. -/

namespace Sys2Proof.Machine

/-! ### Values -/

/-- The value of an element: a NaN (signalling or quiet), an infinity, or ± m·2^e; m = 0 is a signed zero (R123, R124). -/
inductive FV where
  | nan (sig : Bool)
  | inf (neg : Bool)
  | fin (neg : Bool) (m : Nat) (e : Int)
  deriving DecidableEq, Repr

/-- Exponent bits, mantissa bits, bias of a float type (R123). -/
def fmtOf (ty : Nat) : Nat × Nat × Int :=
  match ty with
  | 0 => (8, 23, 127)
  | 1 => (8, 7, 127)
  | 2 => (5, 10, 15)
  | 3 => (4, 3, 7)
  | 4 => (5, 2, 15)
  | _ => (2, 1, 1)

def manBits (ty : Nat) : Nat := (fmtOf ty).2.1

/-- Exponent of the lowest subnormal bit. -/
def lsbExp (ty : Nat) : Int := 1 - (fmtOf ty).2.2 - (manBits ty : Int)

def isFloat (ty : Nat) : Bool := decide (ty ≤ 5)
def isSigned (ty : Nat) : Bool := decide (6 ≤ ty) && decide (ty ≤ 9)

/-- Width in bits of an element type. -/
def widthOf (ty : Nat) : Nat := tyBits (BitVec.ofNat 4 ty)

/-- Number of lanes of a row (R125). -/
def lanesOf (ty : Nat) : Nat := 2048 / widthOf ty

/-- The largest finite value, as significand and exponent (R123). -/
def maxFinite (ty : Nat) : Nat × Int :=
  match ty with
  | 3 => (14, 5)
  | 5 => (3, 1)
  | t => (2 ^ (manBits t + 1) - 1, (2 ^ (fmtOf t).1 : Nat) - 2 - (fmtOf t).2.2 - (manBits t : Int))

/-- The bounds of an integer type. -/
def intBounds (ty : Nat) : Int × Int :=
  if isSigned ty then (-(2 ^ (widthOf ty - 1) : Nat), (2 ^ (widthOf ty - 1) : Nat) - 1) else (0, (2 ^ widthOf ty : Nat) - 1)

def FV.ofInt (x : Int) : FV := .fin (decide (x < 0)) x.natAbs 0

/-- The value that element bits stand for (R123). -/
def FV.ofBits (ty bits : Nat) : FV :=
  if isFloat ty then
    let w := widthOf ty
    let mb := manBits ty
    let neg := bits.testBit (w - 1)
    let man := bits % 2 ^ mb
    let ex := bits / 2 ^ mb % 2 ^ (fmtOf ty).1
    if ty = 3 ∧ bits % 128 = 127 then .nan false
    else if ty ≠ 3 ∧ ty ≠ 5 ∧ ex = 2 ^ (fmtOf ty).1 - 1 then
      if man = 0 then .inf neg else .nan (decide (ty ≤ 2) && !man.testBit (mb - 1))
    else if ex = 0 then .fin neg man (lsbExp ty)
    else .fin neg (man + 2 ^ mb) ((ex : Int) - 1 + lsbExp ty)
  else if isSigned ty then FV.ofInt (sgn (widthOf ty) bits)
  else FV.ofInt (bits % 2 ^ widthOf ty : Nat)

/-- The canonical NaN (R123). -/
def canonNaN (ty : Nat) : Nat :=
  match ty with
  | 0 => 0x7FC00000
  | 1 => 0x7FC0
  | 2 => 0x7E00
  | 3 => 0x7F
  | _ => 0x7E

def infBits (ty : Nat) : Nat := (2 ^ (fmtOf ty).1 - 1) * 2 ^ manBits ty

def signBit (ty : Nat) (neg : Bool) : Nat := if neg then 2 ^ (widthOf ty - 1) else 0

/-! ### Comparing and combining -/

/-- The signed integer ± m·2^(e − e0), for e0 ≤ e. -/
def scaled (neg : Bool) (m : Nat) (e e0 : Int) : Int :=
  let x : Int := ((m <<< (e - e0).toNat : Nat) : Int)
  if neg then -x else x

/-- Order of two values that are not NaNs: −1, 0 or 1; zeros are equal. -/
def FV.cmp : FV → FV → Int
  | .inf a, .inf b => if a = b then 0 else if a then -1 else 1
  | .inf a, _ => if a then -1 else 1
  | _, .inf b => if b then 1 else -1
  | .fin na ma ea, .fin nb mb eb =>
    let e0 := min ea eb
    let x := scaled na ma ea e0
    let y := scaled nb mb eb e0
    if x < y then -1 else if x = y then 0 else 1
  | _, _ => 0

def FV.isNaN : FV → Bool
  | .nan _ => true
  | _ => false

def FV.isSig : FV → Bool
  | .nan s => s
  | _ => false

def FV.isZero : FV → Bool
  | .fin _ m _ => decide (m = 0)
  | _ => false

def FV.isFin : FV → Bool
  | .fin _ _ _ => true
  | _ => false

def FV.isNeg : FV → Bool
  | .fin n _ _ => n
  | .inf n => n
  | .nan _ => false

def FV.neg : FV → FV
  | .fin n m e => .fin (!n) m e
  | .inf n => .inf (!n)
  | x => x

def FV.abs : FV → FV
  | .fin _ m e => .fin false m e
  | .inf _ => .inf false
  | x => x

/-- x·2^k (R128). -/
def FV.scale (k : Int) : FV → FV
  | .fin n m e => .fin n m (e + k)
  | x => x

/-- min(1, max(−1, x)); a NaN passes (R128). -/
def FV.clamp1 (x : FV) : FV :=
  match x with
  | .nan _ => x
  | _ =>
    if x.cmp (.fin true 1 0) < 0 then .fin true 1 0 else if 0 < x.cmp (.fin false 1 0) then .fin false 1 0 else x

/-- The invalid event of signalling inputs (R130). -/
def sigEvent (x : FV) : BitVec 8 := if x.isSig then evInvalid else 0

/-- The exact product; 0 × ∞ is a NaN and counts invalid (R128, R147). -/
def FV.mul : FV → FV → FV × BitVec 8
  | .nan _, _ => (.nan false, 0)
  | _, .nan _ => (.nan false, 0)
  | .inf a, .inf b => (.inf (a != b), 0)
  | .inf a, .fin b m _ => if m = 0 then (.nan false, evInvalid) else (.inf (a != b), 0)
  | .fin a m _, .inf b => if m = 0 then (.nan false, evInvalid) else (.inf (a != b), 0)
  | .fin a ma ea, .fin b mb eb => (.fin (a != b) (ma * mb) (ea + eb), 0)

/-- The exact sum; ∞ − ∞ is a NaN and counts invalid. An exact zero sum of opposite signs is +0, and −0 under RDN
(R128). -/
def FV.add (rdn : Bool) : FV → FV → FV × BitVec 8
  | .nan _, _ => (.nan false, 0)
  | _, .nan _ => (.nan false, 0)
  | .inf a, .inf b => if a = b then (.inf a, 0) else (.nan false, evInvalid)
  | .inf a, _ => (.inf a, 0)
  | _, .inf b => (.inf b, 0)
  | .fin na ma ea, .fin nb mb eb =>
    let e0 := min ea eb
    let x := scaled na ma ea e0 + scaled nb mb eb e0
    if x = 0 then (.fin (if na = nb then na else rdn) 0 e0, 0) else (.fin (decide (x < 0)) x.natAbs e0, 0)

/-! ### Rounding (R126) -/

/-- Rounds m·2^(−d) to an integer under a mode; tells whether it was inexact. -/
def roundShift (mode : Nat) (neg : Bool) (m d : Nat) : Nat × Bool :=
  let n := m >>> d
  let r := m % 2 ^ d
  let up := match mode with
    | 0 => decide (2 ^ d < 2 * r) || (decide (2 * r = 2 ^ d) && decide (n % 2 = 1))
    | 1 => false
    | 2 => neg && decide (r ≠ 0)
    | 3 => !neg && decide (r ≠ 0)
    | _ => decide (r ≠ 0) && decide (2 ^ d ≤ 2 * r)
  (if up then n + 1 else n, decide (r ≠ 0))

/-- Rounds m·2^e to a multiple of 2^q: the multiple, and whether it was inexact. -/
def roundAt (mode : Nat) (neg : Bool) (m : Nat) (e q : Int) : Nat × Bool :=
  if q ≤ e then (m <<< (e - q).toNat, false) else roundShift mode neg m (q - e).toNat

/-- The mode of a rounding field; DYN takes RMODE, whose values 5 to 7 act as RNE (R95, R126, R127). -/
def roundMode (rmode : Word) (rnd : Nat) : Nat :=
  if rnd = 5 then (if fld rmode 0 3 ≤ 4 then fld rmode 0 3 else 0) else rnd

/-- Whether m·2^e exceeds m'·2^e'. -/
def magLt (m' : Nat) (e' : Int) (m : Nat) (e : Int) : Bool :=
  decide ((FV.fin false m' e').cmp (.fin false m e) < 0)

/-- What a destination makes of an exact value (R128, R131): its bits and the events. `conv` marks a conversion, `flt`
one from a float type. An exact infinity (an infinite operand, a pole of R144) stays one under saturate and counts nothing: R128
writes the largest finite value where y overflows and does not say whether an exact infinity does; R131 settles it for E4M3
and E2M1 only, and the rest is the model's choice (log 44). -/
def narrow (ty mode : Nat) (sat conv flt : Bool) (x : FV) : Nat × BitVec 8 :=
  if isFloat ty then
    match x with
    | .nan s =>
      if ty = 5 then (0, evInvalid) else (canonNaN ty, evNaN ||| (if s then evInvalid else 0))
    | .inf n =>
      if ty = 5 then (signBit ty n + 7, evSaturate)
      else if ty = 3 then
        if sat then (signBit ty n + 0x7E, evSaturate) else (canonNaN ty, evNaN)
      else (signBit ty n + infBits ty, 0)
    | .fin n m e =>
      if m = 0 then (signBit ty n, 0)
      else
        let q := max (lsbExp ty) ((Nat.log2 m : Int) + e - (manBits ty : Int))
        let r := roundAt mode n m e q
        let out := if conv then evRange else 0
        if magLt (maxFinite ty).1 (maxFinite ty).2 r.1 q then
          if sat ∨ ty = 5 then
            let b := maxFinite ty
            (signBit ty n + ((b.2 - lsbExp ty).toNat * 2 ^ manBits ty + b.1), evSaturate ||| out)
          else if ty = 3 then (canonNaN ty, evOverflow ||| evNaN ||| out)
          else (signBit ty n + infBits ty, evOverflow ||| out)
        else
          (signBit ty n + ((q - lsbExp ty).toNat * 2 ^ manBits ty + r.1),
            if r.2 ∧ r.1 < 2 ^ manBits ty then evUnderflow else 0)
  else
    let lo := (intBounds ty).1
    let hi := (intBounds ty).2
    match x with
    | .nan _ => (0, evInvalid)
    | .inf n => (wrap (widthOf ty) (if n then lo else hi), evSaturate)
    | .fin n m e =>
      let r := (roundAt mode n m e 0).1
      let v : Int := if n then -(r : Int) else r
      if lo ≤ v ∧ v ≤ hi then (wrap (widthOf ty) v, 0)
      else
        let out := if conv then evRange else 0
        if sat ∨ flt then (wrap (widthOf ty) (if v < lo then lo else hi), evSaturate ||| out)
        else (wrap (widthOf ty) v, out)

/-! ### FP32 steps -/

/-- One rounding to FP32 under RNE, as bits with its events. -/
def f32r (x : FV) : Nat × BitVec 8 := narrow 0 0 false false false x

/-- One rounding to FP32 under RNE (R143). -/
def rne (x : FV) : FV := FV.ofBits 0 (f32r x).1

def f32 (bits : Nat) : FV := FV.ofBits 0 bits

/-- a·b + c, exact. -/
def FV.fma (a b c : FV) : FV := ((a.mul b).1.add false c).1

def FV.sub (a b : FV) : FV := (a.add false b.neg).1
def FV.one : FV := .fin false 1 0

/-- A positive rational with enough bits and a sticky bit for one rounding. -/
def FV.ofRat (num den : Nat) : FV :=
  let q := num * 2 ^ 80 / den
  .fin false (2 * q + (if num * 2 ^ 80 % den = 0 then 0 else 1)) (-81)

/-! ### Constants (R142, R143, log 13) -/

/-- The integer square root, bit by bit from 2^k downward. -/
def isqrt (x : Nat) : Nat → Nat → Nat
  | 0, r => r
  | k + 1, r => if (r + 2 ^ k) * (r + 2 ^ k) ≤ x then isqrt x k (r + 2 ^ k) else isqrt x k r

/-- The 2^k-th root, by `k` square roots. -/
def root2 : Nat → Nat → Nat → Nat
  | 0, _, x => x
  | k + 1, b, x => root2 k (b / 2) (isqrt x (b / 2 + 1) 0)

/-- T[i] = RNE_FP32(2^(i/256)). -/
def expT (i : Nat) : FV :=
  if i = 0 then FV.one else rne (.fin false (2 * root2 8 (256 * 32 + i) (2 ^ (256 * 32 + i)) + 1) (-33))

/-- Binary digits of log2 of y, for y in [1, 2) given in units of 2^-192. -/
def logBits : Nat → Nat → Nat → Nat
  | 0, _, acc => acc
  | n + 1, y, acc =>
    let z := y * y / 2 ^ 192
    if 2 ^ 193 ≤ z then logBits n (z / 2) (2 * acc + 1) else logBits n z (2 * acc)

/-- L = RNE_FP32(log2(1 + j/256)). -/
def logL (j : Nat) : FV :=
  if j = 0 then .fin false 0 0 else rne (.fin false (2 * logBits 80 ((256 + j) * 2 ^ 184) 0 + 1) (-81))

def rcTable (j : Nat) : FV := rne (FV.ofRat 256 (256 + 2 * j + 1))

/-- RSC[j]: the reciprocal square root, with a sticky bit since it is never exact. -/
def rscTable (j : Nat) : FV :=
  rne (.fin false (2 * isqrt (128 * 2 ^ 128 / ((128 + 2 * (j % 64) + 1) * 2 ^ (j / 64))) 66 0 + 1) (-65))

/-! ### Device functions (R142, R143): an FP32 value and the events of its special inputs and last rounding -/

/-- Rounds the last step of a function. -/
def lastRound (x : FV) : FV × BitVec 8 :=
  let r := f32r x
  (f32 r.1, r.2)

/-- floor of a finite value and the fraction above it, as n, numerator, log2 of the denominator. -/
def floorFrac (neg : Bool) (m : Nat) (e : Int) : Int × Nat × Nat :=
  if 0 ≤ e then (scaled neg m e 0, 0, 0)
  else
    let d := (-e).toNat
    let y : Int := if neg then -(m : Int) else m
    (y / (2 ^ d : Nat), (y % (2 ^ d : Nat)).toNat, d)

def exp2Dev (y : FV) : FV × BitVec 8 :=
  match y with
  | .nan _ => (.nan false, 0)
  | .inf n => (if n then .fin false 0 0 else .inf false, 0)
  | .fin n m e =>
    if 0 ≤ y.cmp (.fin false 128 0) then (.inf false, evOverflow)
    else if y.cmp (.fin true 150 0) < 0 then (.fin false 0 0, evUnderflow)
    else
      let f := floorFrac n m e
      let i := f.2.1 * 256 / 2 ^ f.2.2
      let r := FV.fin false (f.2.1 * 256 % 2 ^ f.2.2) (-(f.2.2 : Int) - 8)
      let t := expT i
      let g := rne (FV.fma t ((f32 0x3F317218).mul r).1 t)
      lastRound (g.scale f.1)

/-- Significand in [1, 2) as 24 bits, and exponent, of a finite nonzero FP32 value, subnormals normalised (R143). -/
def normal (m : Nat) (e : Int) : Nat × Int :=
  let l := Nat.log2 m
  (m * 2 ^ (23 - l), e + (l : Int))

def withSign (neg : Bool) (r : FV × BitVec 8) : FV × BitVec 8 := (if neg then r.1.neg else r.1, r.2)

def vrcp (x : FV) : FV × BitVec 8 :=
  match x with
  | .nan _ => (.nan false, 0)
  | .inf n => (.fin n 0 0, 0)
  | .fin n m e =>
    if m = 0 then (.inf n, evOverflow)
    else
      let k := normal m e
      let v := FV.fin false k.1 (-23)
      let y0 := rcTable (k.1 / 2 ^ 16 % 128)
      let t := rne (FV.one.sub (v.mul y0).1)
      let y1 := rne (FV.fma y0 t y0)
      withSign n (lastRound (y1.scale (-k.2)))

def vrsq (x : FV) : FV × BitVec 8 :=
  match x with
  | .nan _ => (.nan false, 0)
  | .inf n => if n then (.nan false, evInvalid) else (.fin false 0 0, 0)
  | .fin n m e =>
    if m = 0 then (.inf n, evOverflow)
    else if n then (.nan false, evInvalid)
    else
      let k := normal m e
      let odd := k.2 % 2 = 1
      let v := FV.fin false k.1 (if odd then -22 else -23)
      let ex := if odd then k.2 - 1 else k.2
      let y0 := rscTable ((if odd then 64 else 0) + k.1 / 2 ^ 17 % 64)
      let u := rne (y0.mul y0).1
      let t := rne (FV.one.sub (v.mul u).1)
      let y1 := rne (FV.fma (y0.scale (-1)) t y0)
      lastRound (y1.scale (-(ex / 2)))

def vlog2 (x : FV) : FV × BitVec 8 :=
  match x with
  | .nan _ => (.nan false, 0)
  | .inf n => if n then (.nan false, evInvalid) else (.inf false, 0)
  | .fin n m e =>
    if m = 0 then (.inf true, evOverflow)
    else if n then (.nan false, evInvalid)
    else
      let k := normal m e
      let j := k.1 / 2 ^ 15 % 256
      let u := rne (((FV.fin false k.1 (-23)).mul (rne (FV.ofRat 256 (256 + j)))).1.sub FV.one)
      let p := rne (FV.fma u (f32 0xBF38AA3B) (f32 0x3FB8AA3B))
      let s := rne (FV.fma u p (logL j))
      lastRound ((FV.ofInt k.2).add false s).1

def vtanh (x : FV) : FV × BitVec 8 :=
  match x with
  | .nan _ => (.nan false, 0)
  | .inf n => (.fin n 1 0, 0)
  | .fin n m e =>
    if m = 0 then (x, 0)
    else
      let a := FV.fin false m e
      if 0 ≤ a.cmp (.fin false 9 0) then (.fin n 1 0, 0)
      else if a.cmp (.fin false 1 (-3)) < 0 then
        let x2 := rne (x.mul x).1
        let p := rne (FV.fma x2 (f32 0x3E088889) (f32 0xBEAAAAAB))
        lastRound (FV.fma (rne (x.mul x2).1) p x)
      else
        let g := (exp2Dev (rne (a.mul (f32 0xC038AA3B)).1)).1
        withSign n (lastRound ((rne (FV.one.sub g)).mul (vrcp (rne (FV.one.add false g).1)).1).1)

/-! ### The window sum (R141) -/

/-- floor(log2 |x|) of a finite nonzero value. -/
def FV.top : FV → Int
  | .fin _ m e => (Nat.log2 m : Int) + e
  | _ => 0

/-- The window sum of finite terms, before its rounding to FP32. -/
def windowSum (acc : FV) (terms : List FV) : FV :=
  let all := acc :: terms
  match all.filter (fun x => !x.isZero) with
  | [] => .fin (all.all FV.isNeg) 0 0
  | x0 :: xs =>
    let e := xs.foldl (fun t x => max t x.top) x0.top
    let r := (x0 :: xs).foldl (fun (p : Int × Bool) x =>
      match x with
      | .fin n m ex =>
        let k := roundAt 1 false m ex (e - 60)
        (p.1 + (if n then -(k.1 : Int) else k.1), p.2 || k.2)
      | _ => p) (0, false)
    if r.1 = 0 then .fin false 0 0
    else .fin (decide (r.1 < 0)) (2 * r.1.natAbs + (if r.2 then 1 else 0)) (e - 61)

/-! ### W96 (R145, R146) -/

/-- W96 of a value at binary point `p`: the number and its events. -/
def w96Of (x : FV) (p : Int) : Int × BitVec 8 :=
  let hi : Int := 2 ^ 95 - 1
  match x with
  | .nan _ => (0, evInvalid)
  | .inf n => (if n then -2 ^ 95 else hi, evW96)
  | .fin n m e =>
    let r := (roundAt 0 n m (e + p) 0).1
    let v : Int := if n then -(r : Int) else r
    if hi < v then (hi, evW96) else if v < -2 ^ 95 then (-2 ^ 95, evW96) else (v, 0)

/-- FP32 bits of a W96 value, with its events. -/
def w96To (w p : Int) : Nat × BitVec 8 := f32r ((FV.ofInt w).scale (-p))

/-- Sums of W96 values are taken mod 2^96 (R146). -/
def w96Add (a b : Int) : Int := sgn 96 (wrap 96 (a + b))

end Sys2Proof.Machine
end

