-- ==== Sys2Proof/Machine/Footprint.lean ====
section
/-! DEFINITION. What the queued words of the matrix unit do to the scratchpad, routines word by word included: the scratchpad
is performed in issue order (R49, R137, R138, R154 to R167, R174). -/

namespace Sys2Proof.Machine

/-! ### Formats, tiles, addresses -/

/-- Element type of the A and the B operand of a matrix format. -/
def operandType (fmt : Nat) (isB : Bool) : Nat :=
  match fmt with
  | 0 => 3
  | 1 => 4
  | 2 => if isB then 4 else 3
  | 3 => 5
  | 4 => 1
  | 5 => 2
  | 6 => 8
  | 7 => if isB then 12 else 8
  | 8 => 3
  | _ => 5

/-- Elements of a line: K (R153). -/
def lineLanes (fmt : Nat) : Nat := lanesOf (operandType fmt false)

/-- Columns of a tile (R150). -/
def tileCols (ty : BitVec 2) : Nat := if ty.toNat ≤ 1 then 64 else 128

def tilesOf (c : Cell) : Nat := match c.bound with
  | none => 0
  | some b => b.tiles.toNat

/-- Bytes of the scratchpad reservation, the stack's granules included: with SPG = 0 and STKB > 0 the stack is reached, as R49
says, although R39 lets every access trap; following R49 is the model's choice (log 44). -/
def padBytes (c : Cell) : Nat := match c.bound with
  | none => 0
  | some b => Config.granule * b.spr.toNat

/-- Address of row `r` of a handle at index value `a` (R154, R161). -/
def rowAddr (hv : BitVec 256) (a : Word) (r : Nat) : Nat := (hBase hv + a.toNat + r * hStride hv 1) % 2 ^ 64

/-- The address ranges of the rows of MSTZ and MLDZ: `cols` elements of each row (R161). -/
def tileRanges (hv : BitVec 256) (a : Word) (cols : Nat) : List (Option (Nat × Nat)) :=
  (List.range (min (hDim hv 1) 64)).map fun r => some (rowAddr hv a r, cols * widthOf (hType hv).toNat / 8)

def effFmt (mx : Matrix) (e : BitVec 4) : Word :=
  mx.queue.foldl (fun v j => match j with
    | .fmt e' v' => if e' = e then v' else v
    | _ => v) (mx.fmt.rd e)

def effType (mx : Matrix) (z : BitVec 3) : BitVec 2 :=
  mx.queue.foldl (fun t j => match j with
    | .cfg z' t' => if z' = z then t' else t
    | _ => t) (mx.ztype.rd z)

/-- The store with an MSTORE applied. -/
def storeWords (st : SMap (BitVec 80)) (addr : Nat) : List (BitVec 80) → SMap (BitVec 80)
  | [] => st
  | w :: r => storeWords (if w = 0 then SMap.del st addr else SMap.put st addr w) (addr + 1) r

/-- The words of a routine (R164, R166). -/
def routineWords (st : SMap (BitVec 80)) (entry : Word) : List (BitVec 80) :=
  (List.range (fld entry 16 10)).map fun i => SMap.get 0 st (fld entry 0 10 + i)

/-- Format and codebook of a word once format 15 is resolved (R137, R138, R156). With SCALE = 0 and FMT 8 or 9 the format
decides and the scales apply: R137 does not say which field rules, and this is the model's choice (log 44). -/
def resolveFmt (entry : Word) (isB : Bool) (fmt : BitVec 4) (dec : BitVec 1) (cb : BitVec 2) : Nat × Option (BitVec 2) :=
  if fmt = 15#4 then
    let f := fld entry 0 4
    (if fld entry 7 2 = 1 then (if f = 0 then 8 else if f = 3 then 9 else f) else f,
      if isB && bit entry 4 then some (entry.extractLsb' 5 2) else none)
  else (fmt.toNat, if dec = 1#1 then some cb else none)

/-- The ten-byte words of a byte list. -/
def wordsOf (bs : List Byte) (n : Nat) : List (BitVec 80) :=
  (List.range n).map fun i => BitVec.ofNat 80 (leNat ((bs.drop (10 * i)).take 10))

/-! ### Routines word by word (R166, R167, R384, R388) -/

/-- The private copies of a running routine, its matrix-cycle count, the events of its words (R147, R166), and the scratchpad
bytes that are in error (R205). -/
structure Routine where
  a : List Word
  q : List Word
  iter : BitVec 4
  count : Nat
  ev : List (BitVec 8)
  bad : List Nat := []
  deriving DecidableEq, Repr

/-- What an index field reads in a routine (R166). -/
def routineIdx (r : Routine) (i : BitVec 4) : Word :=
  if i.toNat < 8 then r.a.getD i.toNat 0 else ((r.q.getD (i.toNat - 8) 0).extractLsb' 0 32).signExtend 64

/-- After the word, copy qn[31:0] := qn[31:0] + qn[63:32] (R166). -/
def routineBump (r : Routine) (i : BitVec 4) : Routine :=
  if i.toNat < 8 then r
  else
    let q := r.q.getD (i.toNat - 8) 0
    { r with q := r.q.set (i.toNat - 8) (setFld q 0 32 (fld q 0 32 + fld q 32 32)) }

/-- The matrix cycles of a routine word; none for an opcode that a routine may not hold (R167). -/
def routineCost : Instr → Option Nat
  | .mla _ _ => some 40
  | .mlb _ _ => some 40
  | .mma _ _ => some 40
  | .mstz _ _ => some 40
  | .mldz _ _ => some 40
  | .mzero _ _ => some 1
  | .mcfg _ _ => some 1
  | .nop _ => some 1
  | .mloop _ _ => some 0
  | .mend _ _ => some 0
  | _ => none

/-- The header checks of a routine word; EB is ignored (R167). -/
def routineHeader (w : BitVec 80) : Bool :=
  let h := Header.parse w
  decide (h.slot = 4) && decide (h.pd = 0) && decide (h.av = 0) && decide (h.tag = 0) && decide (h.cmk = 0)

/-- Runs a routine from its word `i`, each word by `word`; `loops` holds the open MLOOPs, innermost first, with the passes left.
Answers the index of the word that faulted, if one did. The fuel exceeds every run: the count bounds the words that cost cycles,
four levels of at most 255 passes bound the others. A routine that ends with an MLOOP open faults at its innermost one: the spec
does not say which word faults, and this is the model's choice (log 44). -/
def runWords {σ : Type} (word : σ → Routine → Instr → Option (σ × Routine)) (ws : List (BitVec 80)) :
    Nat → Nat → List (Nat × Nat) → σ → Routine → σ × Routine × Option Nat
  | 0, _, _, s, r => (s, r, none)
  | f + 1, i, loops, s, r =>
    match ws[i]? with
    | none => (s, r, loops.head?.map (·.1))
    | some w =>
      if !routineHeader w then (s, r, some i)
      else
        match decode w with
        | .error _ => (s, r, some i)
        | .ok ins =>
          match routineCost ins with
          | none => (s, r, some i)
          | some k =>
            if 4096 < r.count + k then (s, r, some i)
            else
              match ins with
              | .mloop _ o =>
                if o.n = 0 ∨ 4 ≤ loops.length then (s, r, some i)
                else runWords word ws f (i + 1) ((i, o.n.toNat) :: loops) s r
              | .mend _ _ =>
                match loops with
                | [] => (s, r, some i)
                | (b, n) :: rest =>
                  if 1 < n then runWords word ws f (b + 1) ((b, n - 1) :: rest) s r
                  else runWords word ws f (i + 1) rest s r
              | ins =>
                match word s r ins with
                | none => (s, r, some i)
                | some (s1, r1) => runWords word ws f (i + 1) loops s1 { r1 with count := r1.count + k }

/-! ### Scratchpad bytes (R163, R174) -/

/-- A run of scratchpad bytes that a queued word still reads or writes. -/
structure PadUse where
  lo : Nat
  len : Nat
  write : Bool
  deriving DecidableEq, Repr

/-- The uses of address ranges. -/
def rangeUses (write : Bool) (rs : List (Option (Nat × Nat))) : List PadUse :=
  rs.filterMap fun r => r.map fun p => { lo := p.1, len := p.2, write := write }

/-- Elements and scale bytes of a line that a latch load reads (R133, R135, R154). -/
def lineReads (hv : BitVec 256) (f : Nat × Option (BitVec 2)) : Nat × Nat :=
  let k := if f.2.isSome then 32 else lineLanes f.1
  (min (hDim hv 0) k, if hBsm hv = 1 then (if f.2.isSome then 1 else min (k / 32) (hDim hv 0 / 32)) else 0)

/-- What a latch load of a routine reads, where its entry of the format table is `entry`: the lines' data and scales; of a
gathered one, every row of the tensor. -/
def loadUses (c : Cell) (entry : Word) (r : Routine) (isB : Bool) (o : ML) : List PadUse :=
  let hv := c.rdH o.h
  let p := lineReads hv (resolveFmt entry isB o.fmt o.dec o.cb)
  let w := widthOf (hType hv).toNat
  let a := routineIdx r o.idx
  if o.gather = 1#1 then
    [{ lo := rowAddr hv a 0, len := hDim hv 1 * hStride hv 1 + hDim hv 0 * w / 8 + p.2, write := false }]
  else
    (List.range (min 64 (hDim hv 1))).flatMap fun l =>
      [{ lo := rowAddr hv a l, len := (p.1 * w + 7) / 8, write := false },
        { lo := rowAddr hv a l + hDim hv 0 * w / 8, len := p.2, write := false }]

/-- What a word of a routine uses, given the routine's entry of the format table and the tile types so far. -/
def useWord (c : Cell) (entry : Word) (p : List PadUse × Reg 3 (BitVec 2)) (r : Routine) :
    Instr → Option ((List PadUse × Reg 3 (BitVec 2)) × Routine)
  | .mla _ o => some ((p.1 ++ loadUses c entry r false o, p.2), routineBump r o.idx)
  | .mlb _ o => some ((p.1 ++ loadUses c entry r true o, p.2), routineBump r o.idx)
  | .mcfg _ o => some ((p.1, p.2.wr o.z (o.fmt.extractLsb' 0 2)), r)
  | .mstz _ o =>
    let hv := c.rdH o.h
    let cols := min (hDim hv 0) (tileCols (p.2.rd o.z))
    some ((p.1 ++ rangeUses true (tileRanges hv (routineIdx r o.idx) cols), p.2), routineBump r o.idx)
  | .mldz _ o =>
    let hv := c.rdH o.h
    let cols := min (hDim hv 0) (tileCols (p.2.rd o.z))
    some ((p.1 ++ rangeUses false (tileRanges hv (routineIdx r o.idx) cols), p.2), routineBump r o.idx)
  | _ => some (p, r)

/-- What a routine may use, its checks apart, and the tile types that it leaves; it starts with the given types and entry of
the format table. -/
def routineUses (c : Cell) (entry : Word) (types : Reg 3 (BitVec 2)) (ws : List (BitVec 80)) (a q : List Word)
    (iter : BitVec 4) : List PadUse × Reg 3 (BitVec 2) :=
  (runWords (useWord c entry) ws (2 ^ 42) 0 [] ([], types) { a := a, q := q, iter := iter, count := 0, ev := [] }).1

/-- The tile types after a routine. One that faults may leave an earlier type, so the type with more columns is kept. -/
def typesAfter (before after : Reg 3 (BitVec 2)) : Reg 3 (BitVec 2) :=
  Vector.ofFn fun z =>
    let i := BitVec.ofNat 3 z.val
    if tileCols (after.rd i) < tileCols (before.rd i) then before.rd i else after.rd i

/-- The runs of a list that lie in the scratchpad. -/
def segUses (write : Bool) (rows : List (List Seg)) : List PadUse :=
  rows.flatMap fun g => (g.filter fun x => decide (x.space = .pad)).map fun x =>
    { lo := x.addr, len := x.len, write := write }

/-- What a queued word other than MCALL still does to the scratchpad. -/
def MJob.padUses : MJob → List PadUse
  | .load _ _ _ (.later g) _ _ => segUses false g
  | .fill _ _ (.later g) => segUses false g
  | .code _ _ (.later g) => segUses false g
  | .micro _ _ _ (.later g) => segUses false g
  | .store _ _ _ _ _ _ _ g => segUses true g
  | _ => []

/-- Two uses of a common byte that must keep their order. -/
def PadUse.clash (u v : PadUse) : Bool :=
  (u.write || v.write) && decide (u.lo < v.lo + v.len) && decide (v.lo < u.lo + u.len)

/-- The microprogram store as the queued words leave it; none once a word is queued that has still to read its source. -/
def storeAfter (st : Option (SMap (BitVec 80))) : MJob → Option (SMap (BitVec 80))
  | .micro _ a n (.now bs) => st.map fun m => storeWords m a (wordsOf bs.flatten n)
  | .micro _ _ _ (.later _) => none
  | _ => st

/-- What the queued words up to some point leave for the next: their uses of the scratchpad, the microprogram store while it
is known, the tile types, the format table. -/
structure Queued where
  uses : List PadUse
  store : Option (SMap (BitVec 80))
  types : Reg 3 (BitVec 2)
  fmt : Reg 4 Word

/-- The next queued word; a routine whose words are not known yet may use all. A routine meets the tile types and the format
table as the words before it leave them (R163, R384). -/
def Queued.next (c : Cell) (p : Queued) (j : MJob) : Queued :=
  match j with
  | .call _ _ e a q iter _ _ =>
    match p.store with
    | none => { p with uses := p.uses ++ [{ lo := 0, len := 2 ^ 64, write := true }] }
    | some st =>
      let r := routineUses c (p.fmt.rd iter) p.types (routineWords st e) a q iter
      { p with uses := p.uses ++ r.1, types := typesAfter p.types r.2 }
  | .cfg z ty => { p with types := p.types.wr z ty }
  | .fmt e v => { p with fmt := p.fmt.wr e v }
  | j => { p with uses := p.uses ++ j.padUses, store := storeAfter p.store j }

/-- Everything that the queued words still do to the scratchpad. -/
def queueUses (c : Cell) : List PadUse :=
  (c.mx.queue.foldl (Queued.next c) { uses := [], store := some c.mx.store, types := c.mx.ztype, fmt := c.mx.fmt }).uses

/-- An access to `n` bytes of the scratchpad has to wait for a queued word (R163, R174, log 20). -/
def padBusy (c : Cell) (lo n : Nat) (write : Bool) : Bool :=
  (queueUses c).any fun u => u.clash { lo := lo, len := n, write := write }

end Sys2Proof.Machine
end

