-- ==== Sys2Proof/Machine/AMem.lean ====
section
/-! DEFINITION. The A slots' memory words (R117, R118, R326, R346, R363, R371, R373, R375, R376, R402 to R405). -/

namespace Sys2Proof.Machine

/-! ### Tiles and the scratchpad against the matrix unit's queue (R163) -/

/-- A row outside the stage's tiles (R87). -/
def noTile (c : Cell) (row : BitVec 9) : Option Trap :=
  if tilesOf c ≤ row.toNat / 64 then some (trapOf cNoTile (BitVec.ofNat 64 (row.toNat / 64))) else none

/-- Whether a queued M word conflicts with an access to a row of tile `z`: writers of the tile with any access, an MSTZ
with a write (R163); a routine counts as touching every tile (R384). -/
def jobOnTile (z : Nat) (write : Bool) : MJob → Bool
  | .mma t _ _ _ _ _ _ => decide (t.toNat = z)
  | .zero t => decide (t.toNat = z)
  | .cfg t _ => decide (t.toNat = z)
  | .fill _ t _ => decide (t.toNat = z)
  | .store _ t _ _ _ _ _ _ => decide (t.toNat = z) && write
  | .call _ _ _ _ _ _ _ _ => true
  | _ => false

/-- A V or A word on a row of the tile freezes the cell (R163). -/
def rowBusy (c : Cell) (row : BitVec 9) (write : Bool) : Bool :=
  (match c.mx.run with
    | some r => decide (r.z.toNat = row.toNat / 64)
    | none => false) || c.mx.queue.any (jobOnTile (row.toNat / 64) write)

/-! ### Where an access goes (R90) -/

/-- The checks of R90 and R110 on an access of `size` bytes: range, alignment, then translation or the slice. -/
def resolve (s : State) (ea : Word) (space slice size kind : Nat) : Except Trap (Space × Nat × State) :=
  let prot := fun (x : BitVec 8) (v : Word) => ({ cause := x, kind := BitVec.ofNat 4 kind, tval := v } : Trap)
  if space = 1 ∧ padBytes s.cell ≤ ea.toNat then .error (trapOf cSpRange ea)
  else if ea.toNat % size ≠ 0 then .error (trapOf cAlign ea)
  else if space = 1 then .ok (.pad, ea.toNat, s)
  else if space = 2 then
    if 2 ^ 20 ≤ ea.toNat then .error (prot cProtection (BitVec.ofNat 64 slice))
    else if !bit s.pkg.frames (slice / 64) then .error (trapOf cFrameOff ea)
    else if 56 ≤ slice % 64 then .error (prot cProtection (BitVec.ofNat 64 slice))
    else .ok (.staging, slice * 2 ^ 20 + ea.toNat, s)
  else
    match xlate s s.cur ea kind with
    | .error t => .error t
    | .ok (pa, s') => .ok (.main, pa, s')

/-- Plain bytes: through the L1 in main memory (R171). -/
def readPlain (s : State) (sp : Space) (a n : Nat) : List Byte × State :=
  match sp with
  | .main => l1Load s s.cur a n
  | .pad => (s.cell.pad.bytes a n, s)
  | .staging => (s.staging.bytes a n, s)

def writePlain (s : State) (sp : Space) (a : Nat) (bs : List Byte) : State :=
  match sp with
  | .main => l1Store s s.cur a bs
  | .pad => s.upd fun c => { c with pad := c.pad.store a bs }
  | .staging => { s with staging := s.staging.store a bs }

/-- Bytes at the home: an ordered access bypasses the L1 and purges its line first (R171). -/
def readHome (s : State) (sp : Space) (a n : Nat) : List Byte × State :=
  match sp with
  | .main => let s1 := l1Purge s s.cur a; (s1.mem.bytes a n, s1)
  | .pad => (s.cell.pad.bytes a n, s)
  | .staging => (s.staging.bytes a n, s)

def writeHome (s : State) (sp : Space) (a : Nat) (bs : List Byte) : State :=
  match sp with
  | .main => (l1Purge s s.cur a).store a bs
  | .pad => s.upd fun c => { c with pad := c.pad.store a bs }
  | .staging => { s with staging := s.staging.store a bs }

/-- An access of the issuing cell goes out and is remembered until it lands or is acknowledged: `ea` is its address, `a` the
physical one, `bs` what a store carries, `ord` that it is ordered; one to peer memory leaves as flits (R79, R182, R194, R287). -/
def sendAccess (s : State) (h : Header) (lands : List Land) (kind : Nat) (sp : Space) (ea : Word) (a : Nat) (bs : List Byte)
    (ord : Bool) : State :=
  let dom := decide (sp = .main) && domainPage s s.cur ea.toNat
  addAccess (if sp = .main then peerFlits s dom kind a bs else s) h lands (decide (kind ≠ 0)) a dom ord

/-- The slice an access names (R90). -/
def amSlice (c : Cell) (hb : BitVec 4) : Nat := hSlice (c.rdH hb)

def amLegal (s : State) (o : AM) : Bool := memLegal s o.b o.hb o.space

/-! ### Loads -/

/-- The value of a scalar load: `n` bytes, sign- or zero-extended (R375). -/
def loadExt (sign : BitVec 1) (n : Nat) (bs : List Byte) : Word :=
  if sign = 1#1 then BitVec.ofNat 64 (wrap 64 (sgn (8 * n) (leNat bs))) else BitVec.ofNat 64 (leNat bs)

/-- A scratchpad load: a result in flight with a number of its own (R77, R205). -/
def padLoad (s : State) (h : Header) (land : Land) (n : Nat) : State :=
  { s.push [{ land := land, n := n, slot := h.slot, ev := 0, id := s.nextId }] with nextId := s.nextId + 1 }

def execLd (h : Header) (o : AM) (s : State) : Host.Outcome State Fault Refusal :=
  issueWord h (slotA h && amLd o && amLegal s o) true false (decide (o.space ≠ 1#2)) s fun c =>
    let n := 2 ^ o.size.toNat
    match resolve s (amAddr c o) o.space.toNat (amSlice c o.hb) n 0 with
    | .error t => .trap t
    | .ok (sp, a, s1) =>
      if sp = .pad ∧ padBusy c a n false then .freeze
      else
        let acq := decide (o.ord = 1#2)
        let r := if acq then readHome s1 sp a n else readPlain s1 sp a n
        let s2 := if acq then openAcquire r.2 s.cur o.scope.toNat else r.2
        let land := c.dstS (o.data.extractLsb' 0 6) (loadExt o.sign n r.1)
        let s3 := if sp = .pad then padLoad s2 h land 6 else sendAccess s2 h [land] 0 sp (amAddr c o) a [] acq
        orderedIssue c (.go (s3.push (indexResult h c o.u o.ai)))

/-- A whole row; every mask is ignored (R376). -/
def execLdv (h : Header) (o : AM) (s : State) : Host.Outcome State Fault Refusal :=
  issueWord h (slotA h && amRow o && amLegal s o) true false (decide (o.space ≠ 1#2)) s fun c =>
    match noTile c o.data with
    | some t => .trap t
    | none =>
      match resolve s (amAddr c o) o.space.toNat (amSlice c o.hb) 256 0 with
      | .error t => .trap t
      | .ok (sp, a, s1) =>
        if rowBusy c o.data true ∨ (sp = .pad ∧ padBusy c a 256 false) then .freeze
        else
          let r := readPlain s1 sp a 256
          let land := Land.row o.data (bytesRow r.1) (BitVec.allOnes 2048)
          let s3 := if sp = .pad then padLoad r.2 h land 8 else sendAccess r.2 h [land] 0 sp (amAddr c o) a [] false
          orderedIssue c (.go (s3.push (indexResult h c o.u o.ai)))

/-- The load that the cell has just sent is a scratchpad load of a handle, which has a limit (R371). -/
def markSoon (id : Nat) (c : Cell) : Cell :=
  { c with pipe := { c.pipe with accs := c.pipe.accs.map fun a => if a.id = id then { a with soon := true } else a } }

/-- A whole handle, variable-latency in every space; its bits are not checked (R371). -/
def execHld (h : Header) (o : AM) (s : State) : Host.Outcome State Fault Refusal :=
  issueWord h (slotA h && amHandle o && amLegal s o) true false true s fun c =>
    match resolve s (amAddr c o) o.space.toNat (amSlice c o.hb) 32 0 with
    | .error t => .trap t
    | .ok (sp, a, s1) =>
      if sp = .pad ∧ padBusy c a 32 false then .freeze
      else
        let r := readPlain s1 sp a 32
        let land := Land.h (o.data.extractLsb' 0 4) (BitVec.ofNat 256 (leNat r.1))
        let s3 := sendAccess r.2 h [land] 0 sp (amAddr c o) a [] false
        orderedIssue c (.go ((if sp = .pad then s3.upd (markSoon r.2.nextId) else s3).push (indexResult h c o.u o.ai)))

/-! ### Stores -/

def execSt (h : Header) (o : AM) (s : State) : Host.Outcome State Fault Refusal :=
  issueWord h (slotA h && amSt o && amLegal s o) true false (decide (o.space ≠ 1#2)) s fun c =>
    let n := 2 ^ o.size.toNat
    match resolve s (amAddr c o) o.space.toNat (amSlice c o.hb) n 1 with
    | .error t => .trap t
    | .ok (sp, a, s1) =>
      let rel := decide (o.ord = 2#2)
      if (sp = .pad ∧ padBusy c a n true) ∨ (rel = true ∧ releaseWaits c o.scope.toNat = true) then .freeze
      else
        let bs := toBytes n (c.rdS (o.data.extractLsb' 0 6)).toNat
        let s2 :=
          if rel then writeHome (closePhase s1 s.cur o.scope.toNat) sp a bs
          else writePlain s1 sp a bs
        let s3 := if sp = .pad then s2 else sendAccess s2 h [] 1 sp (amAddr c o) a bs rel
        orderedIssue c (.go (s3.push (indexResult h c o.u o.ai)))

/-- Stores a row as it stands; every mask is ignored (R405). -/
def execStv (h : Header) (o : AM) (s : State) : Host.Outcome State Fault Refusal :=
  issueWord h (slotA h && amRow o && amLegal s o) true false (decide (o.space ≠ 1#2)) s fun c =>
    match noTile c o.data with
    | some t => .trap t
    | none =>
      match resolve s (amAddr c o) o.space.toNat (amSlice c o.hb) 256 1 with
      | .error t => .trap t
      | .ok (sp, a, s1) =>
        if rowBusy c o.data false ∨ (sp = .pad ∧ padBusy c a 256 true) then .freeze
        else
          let bs := rowBytes (c.rdV o.data)
          let s2 := writePlain s1 sp a bs
          let s3 := if sp = .pad then s2 else sendAccess s2 h [] 1 sp (amAddr c o) a bs false
          orderedIssue c (.go (s3.push (indexResult h c o.u o.ai)))

def execHst (h : Header) (o : AM) (s : State) : Host.Outcome State Fault Refusal :=
  issueWord h (slotA h && amHandle o && amLegal s o) true false true s fun c =>
    match resolve s (amAddr c o) o.space.toNat (amSlice c o.hb) 32 1 with
    | .error t => .trap t
    | .ok (sp, a, s1) =>
      if sp = .pad ∧ padBusy c a 32 true then .freeze
      else
        let bs := toBytes 32 (c.rdH (o.data.extractLsb' 0 4)).toNat
        orderedIssue c
          (.go ((sendAccess (writePlain s1 sp a bs) h [] 1 sp (amAddr c o) a bs false).push (indexResult h c o.u o.ai)))

/-- The line that a PREF brings into the L1; none where the request is dropped (R403). -/
def prefLine (s : State) (o : AM) : Option State :=
  if o.space = 0#2 then
    match xlate s s.cur (amAddr s.cell o) 0 with
    | .error _ => none
    | .ok (pa, s1) => if cacheable s.cur pa then some (l1Load s1 s.cur pa 1).2 else none
  else none

/-- The tag of a dropped request clears in the cycle after issue (R403). -/
def dropTag (h : Header) (c : Cell) : Cell :=
  if h.av = 1#1 then { c with pipe := { c.pipe with untag := c.pipe.untag ||| BitVec.ofNat 8 (2 ^ h.tag.toNat) } } else c

/-- Brings a line into the L1 or drops the request; no cause is raised (R403). -/
def execPref (h : Header) (o : AM) (s : State) : Host.Outcome State Fault Refusal :=
  issueWord h (slotA h && amPref o && amLegal s o) true false true s fun c =>
    let s1 := match prefLine s o with
      | some t => addAccess t h [] false 0 false false
      | none => s.upd (dropTag h)
    orderedIssue c (.go (s1.push (indexResult h c o.u o.ai)))

/-! ### Atomics (R183, R326, R346) -/

/-- The new value of an AMO of width `w` bits (R326). -/
def amoNew (op w old v : Nat) : Nat :=
  match op with
  | 0 => (old + v) % 2 ^ w
  | 1 => old &&& v
  | 2 => old ||| v
  | 3 => old ^^^ v
  | 4 => if sgn w v < sgn w old then v else old
  | 5 => if sgn w old < sgn w v then v else old
  | 6 => min old v
  | 7 => max old v
  | 8 => v
  | _ => wrap 128 (sgn 96 (old + v))

/-- One step at the home: closes and opens the phases that the ordering names (R182), reads, and writes what `f` gives
(nothing where it gives none). -/
def atomic (s : State) (sp : Space) (a n : Nat) (ord scope : Nat) (f : Nat → Option Nat) : Nat × State :=
  let s1 := if 2 ≤ ord then closePhase s s.cur scope else s
  let r := readHome s1 sp a n
  let old := leNat r.1
  let s2 := match f old with
    | none => r.2
    | some v => writeHome r.2 sp a (toBytes n v)
  (old, if ord % 2 = 1 then openAcquire s2 s.cur scope else s2)

/-- An AMO or CAS whose close waits does not issue yet (R182). -/
def atomicWaits (c : Cell) (o : AT) : Bool := decide (2 ≤ o.ord.toNat) && releaseWaits c o.scope.toNat

def execAmo (h : Header) (o : AT) (s : State) : Host.Outcome State Fault Refusal :=
  issueWord h (slotA h && atAmo o && memLegal s o.b o.hb o.space) true false true s fun c =>
    let n := 4 * 2 ^ o.size.toNat
    match resolve s (effAddr c o.b o.hb o.ai 0) o.space.toNat (amSlice c o.hb) n 3 with
    | .error t => .trap t
    | .ok (sp, a, s1) =>
      let v :=
        if o.op = 9#4 then ((c.rdS (o.ss + 1)).toNat * 2 ^ 64 + (c.rdS o.ss).toNat) % 2 ^ 96
        else (c.rdS o.ss).toNat % 2 ^ (8 * n)
      let r := atomic s1 sp a n o.ord.toNat o.scope.toNat fun old => some (amoNew o.op.toNat (8 * n) old v)
      let lands :=
        if o.op = 9#4 then
          if o.sd = 0 then []
          else [c.dstS o.sd (BitVec.ofNat 64 r.1), c.dstS (o.sd + 1) (BitVec.ofNat 64 (r.1 / 2 ^ 64))]
        else [c.dstS o.sd (BitVec.ofNat 64 r.1)]
      if atomicWaits c o then .freeze
      else orderedIssue c (.go (sendAccess r.2 h lands 2 sp (effAddr c o.b o.hb o.ai 0) a (toBytes n v) (decide (o.ord ≠ 0))))

def execCas (h : Header) (o : AT) (s : State) : Host.Outcome State Fault Refusal :=
  issueWord h (slotA h && atCas o && memLegal s o.b o.hb o.space) true false true s fun c =>
    let n := 4 * 2 ^ o.size.toNat
    match resolve s (effAddr c o.b o.hb o.ai 0) o.space.toNat (amSlice c o.hb) n 3 with
    | .error t => .trap t
    | .ok (sp, a, s1) =>
      let r := atomic s1 sp a n o.ord.toNat o.scope.toNat fun old =>
        if old = (c.rdS o.sc).toNat % 2 ^ (8 * n) then some ((c.rdS o.ss).toNat % 2 ^ (8 * n)) else none
      if atomicWaits c o then .freeze
      else
        orderedIssue c (.go (sendAccess r.2 h [c.dstS o.sd (BitVec.ofNat 64 r.1)] 2 sp (effAddr c o.b o.hb o.ai 0) a
          (toBytes n (c.rdS o.ss).toNat) (decide (o.ord ≠ 0))))

end Sys2Proof.Machine
end

