-- ==== Sys2Proof/Machine/Fetch.lean ====
section
/-! DEFINITION. Instruction fetch: translation with execute permission, the instruction cache, the forward scan for
bundle ends (R70, R71, R186, R316, R367, R379). -/

namespace Sys2Proof.Machine

/-- Word 0 of the fetched code: CODE of the launch, or TVEC in supervisor mode (R70, R203, R316). -/
def codeBase (c : Cell) : Nat := if c.sup then c.tr.tvec.toNat else c.task.code.toNat

/-- The line of code is asked for, and the bundle waits: what a fetch ends in on a domain page until the response has come
(R292, R294). TVAL names the line. -/
def lineWanted (pa : Nat) : Trap := { cause := cWait, kind := 1, tval := BitVec.ofNat 64 pa }

def isWanted (t : Trap) : Bool := decide (t.cause = cWait) && decide (t.kind = 1)

/-- The load of that line leaves, unless one is on its way. -/
def askLine (s : State) (c : BitVec 9) (t : Trap) : State :=
  if isWanted t && !(((s.cellAt c).pipe.asked.map Asker.isCode).getD false) then askLoad s c (.code s.nextId) t.tval.toNat else s

/-- A line of code through the cell's instruction cache, which a miss fills from the home (R367): from a peer's memory by a load,
on a domain page with its accepted response (R194, R287, R294). -/
def codeLine (s : State) (ci : BitVec 9) (pa : Nat) (dom : Bool) : Except Trap (Line × State) :=
  let tag := pa / 256 * 256
  match (s.cellAt ci).icache.find? fun l => decide (l.tag = tag) with
  | some l => .ok (l, s)
  | none =>
    let l := (lineOf [] tag).fill s.mem
    let put := fun (s : State) => (l, s.updAt ci fun c => { c with icache := putLine c.icache l })
    if paTarget pa = 3 then
      if dom then
        match takeAsked s ci Asker.isCode with
        | none => .error (lineWanted tag)
        | some s1 => .ok (put s1)
      else .ok (put (memoryFlit s false 0 (peerOf pa) tag []))
    else .ok (put s)

/-- `n` bytes of code that lie in one 256-byte line. -/
def fetchPiece (s : State) (ci : BitVec 9) (va n : Nat) : Except Trap (List Byte × State) :=
  match xlate s ci (BitVec.ofNat 64 va) 2 with
  | .error t => .error t
  | .ok (pa, s1) =>
    match codeLine s1 ci pa (domainPage s1 ci va) with
    | .error t => .error t
    | .ok r => .ok (((rowBytes r.1.data).drop (pa % 256)).take n, r.2)

/-- The ten bytes of word `i`, translated with execute permission (R70). -/
def fetchBytes (s : State) (ci : BitVec 9) (i : BitVec 32) : Except Trap (List Byte × State) :=
  let va := codeBase (s.cellAt ci) + 10 * i.toNat
  let n := 256 - va % 256
  if 10 ≤ n then fetchPiece s ci va 10
  else
    match fetchPiece s ci va n with
    | .error t => .error t
    | .ok (b1, s1) =>
      match fetchPiece s1 ci (va + n) (10 - n) with
      | .error t => .error t
      | .ok (b2, s2) => .ok (b1 ++ b2, s2)

def fetchWord (s : State) (ci : BitVec 9) (i : BitVec 32) : Except Trap (BitVec 80 × State) :=
  match fetchBytes s ci i with
  | .error t => .error t
  | .ok (bs, s1) => .ok (BitVec.ofNat 80 (leNat bs), s1)

/-- The words of the bundle at `i`: up to and including the first with EB = 1 (R71). -/
def bundleWords (ci : BitVec 9) : Nat → State → BitVec 32 → Except Trap (List (BitVec 80) × State)
  | 0, s, _ => .ok ([], s)
  | f + 1, s, i =>
    match fetchWord s ci i with
    | .error t => .error t
    | .ok (w, s1) =>
      if w.getLsbD 79 then .ok ([w], s1)
      else
        match bundleWords ci f s1 (i + 1) with
        | .error t => .error t
        | .ok (ws, s2) => .ok (w :: ws, s2)

def wordSlot (w : BitVec 80) : Nat := fld w 76 3

/-- Index of the first word of the list, counted from `i`, that fails a test. -/
def firstBad (p : BitVec 80 → Bool) : List (BitVec 80) → BitVec 32 → Option (BitVec 32)
  | [], _ => none
  | w :: r, i => if p w then some i else firstBad p r (i + 1)

/-- Index of the first word whose slot does not exceed that of the word before it. -/
def firstFlat : List (BitVec 80) → BitVec 32 → Option (BitVec 32)
  | w :: w' :: r, i => if wordSlot w' ≤ wordSlot w then some (i + 1) else firstFlat (w' :: r) (i + 1)
  | _, _ => none

/-- The form checks of a bundle: ILLEGAL_SLOT before BUNDLE_FORM (R71, R72). -/
def bundleForm (ws : List (BitVec 80)) (i : BitVec 32) : Option Trap :=
  match firstBad (fun w => decide (6 ≤ wordSlot w)) ws i with
  | some j => some (trapOf cIllegalSlot (j.zeroExtend 64))
  | none => (firstFlat ws i).map fun j => trapOf cBundleForm (j.zeroExtend 64)

/-- The word index after the bundle at `i`, by its EB bits alone. The fuel is the whole code space. -/
def afterBundle (ci : BitVec 9) : Nat → State → BitVec 32 → Except Trap (BitVec 32 × State)
  | 0, s, i => .ok (i, s)
  | f + 1, s, i =>
    match fetchWord s ci i with
    | .error t => .error t
    | .ok (w, s1) => if w.getLsbD 79 then .ok (i + 1, s1) else afterBundle ci f s1 (i + 1)

/-- The first word of bundle number `n`, counting the bundle at `i` as 1 (R379). -/
def nthBundle (ci : BitVec 9) : Nat → State → BitVec 32 → Except Trap (BitVec 32 × State)
  | 0, s, i => .ok (i, s)
  | n + 1, s, i =>
    if n = 0 then .ok (i, s)
    else
      match afterBundle ci (2 ^ 32) s i with
      | .error t => .error t
      | .ok (j, s1) => nthBundle ci n s1 j

end Sys2Proof.Machine
end

