-- ==== Sys2Proof/Machine/CCtl.lean ====
section
/-! DEFINITION. The C slot's control words: branches, calls, loops, NOP (R114, R316, R338, R339, R341, R344, R379 to R382,
R398, R413). -/

namespace Sys2Proof.Machine

/-- The cell whose registers decide: the lowest live member of a fused gang, else the cell itself (R56, R316). -/
def leadCell (s : State) : Cell :=
  let c := s.cell
  if c.task.fused && !c.sup then
    match gangOf s c.task.gang with
    | none => c
    | some g =>
      match g.cells.find? fun x => (s.cellAt x).running && decide ((s.cellAt x).task.gang = c.task.gang) with
      | none => c
      | some x => s.cellAt x
  else c

/-- Fetch forms the next bundle at `t`, after the two bubbles of a taken word (R316). -/
def State.jump (s : State) (t : BitVec 32) : State :=
  s.upd fun c => { c with pipe := { c.pipe with redirect := some t } }

/-- The target of a direct word: W + offset mod 2^32 (R316). -/
def directTarget (c : Cell) (o : CB) : BitVec 32 := c.pipe.pc + o.off

/-- The target of an indirect word: s[sa][31:0] (R316). -/
def indirectTarget (c : Cell) (i : BitVec 6) : BitVec 32 := (c.rdS i).extractLsb' 0 32

/-- The conditions of BRC on a signed value (R339). -/
def brCond (cond : Nat) (x : Word) : Bool :=
  match cond with
  | 0 => decide (x = 0)
  | 1 => decide (x ≠ 0)
  | 2 => decide (x.toInt < 0)
  | 3 => decide (0 ≤ x.toInt)
  | 4 => decide (0 < x.toInt)
  | _ => decide (x.toInt ≤ 0)

def execBr (h : Header) (o : CB) (s : State) : Host.Outcome State Fault Refusal :=
  issueWord h (slotC h && cbDirect o) true false false s fun c => .go (s.jump (directTarget c o))

def execBrc (h : Header) (o : CB) (s : State) : Host.Outcome State Fault Refusal :=
  issueWord h (slotC h && cbCond o) true false false s fun c =>
    .go (if brCond o.cond.toNat ((leadCell s).rdS o.sa) then s.jump (directTarget c o) else s)

def execBri (h : Header) (o : CB) (s : State) : Host.Outcome State Fault Refusal :=
  issueWord h (slotC h && cbIndirect o) true false false s fun _ => .go (s.jump (indirectTarget (leadCell s) o.sa))

/-- The return word index W + n: the word after the bundle, landing in s63 (R344). -/
def linkResult (h : Header) (c : Cell) : List InFlight :=
  [{ land := c.dstS 63 (c.pipe.seq.zeroExtend 64), n := 1, slot := h.slot, ev := 0 }]

def execCall (h : Header) (o : CB) (s : State) : Host.Outcome State Fault Refusal :=
  issueWord h (slotC h && cbDirect o) true false false s fun c =>
    .go ((s.push (linkResult h c)).jump (directTarget c o))

def execCalli (h : Header) (o : CB) (s : State) : Host.Outcome State Fault Refusal :=
  issueWord h (slotC h && cbIndirect o) true false false s fun c =>
    .go ((s.push (linkResult h c)).jump (indirectTarget (leadCell s) o.sa))

/-- RET reads s63 at issue, the shadow one in supervisor mode (R413). -/
def execRet (h : Header) (o : CB) (s : State) : Host.Outcome State Fault Refusal :=
  issueWord h (slotC h && cbNone o) true false false s fun _ => .go (s.jump (indirectTarget (leadCell s) 63))

/-- The form checks of LOOP that need no fetch (R381). -/
def loopBad (c : Cell) (o : CL) : Bool :=
  decide (o.stop = 0) || (if o.level = 0#1 then c.pipe.inner.isSome else c.pipe.inner.isSome || c.pipe.outer.isSome)

/-- The count of a LOOP (R379). -/
def loopCount (s : State) (o : CL) : BitVec 32 :=
  if o.isImm = 1#1 then o.count.zeroExtend 32 else ((leadCell s).rdS o.reg).extractLsb' 0 32

/-- Activates the loop of a level (R380). -/
def State.startLoop (s : State) (level : BitVec 1) (l : LoopSt) : State :=
  s.upd fun c => { c with pipe :=
    if level = 0#1 then { c.pipe with inner := some l } else { c.pipe with outer := some l } }

/-- What the scan for a bundle's end comes to where it cannot fetch a word. -/
def fetchFails (s : State) (t : Trap) : Issue := if isWanted t then .poll (askLine s s.cur t) else .trap t

/-- B is the word after the LOOP's bundle; E is found by the EB bits; a count of 0 goes to the bundle after E (R379,
R380). -/
def execLoop (h : Header) (o : CL) (s : State) : Host.Outcome State Fault Refusal :=
  issueWord h (slotC h && clLoop o) false false false s fun c =>
    if loopBad c o then .trap (trapOf cLoopForm 0)
    else
      match nthBundle s.cur o.stop.toNat s c.pipe.seq with
      | .error t => fetchFails s t
      | .ok (e, s1) =>
        let beyond := match c.pipe.outer with
          | some l => decide (o.level = 0#1) && decide (l.e.toNat < e.toNat)
          | none => false
        if beyond then .trap (trapOf cLoopForm 0)
        else
          let n := loopCount s o
          if n = 0 then
            match afterBundle s.cur (2 ^ 32) s1 e with
            | .error t => fetchFails s t
            | .ok (j, s2) => .go (s2.jump j)
          else .go (s1.startLoop o.level { b := c.pipe.seq, e := e, left := n, iter := 0 })

/-- The active loop of the level finishes its current iteration and starts no further one (R382). -/
def execLoopx (h : Header) (o : CL) (s : State) : Host.Outcome State Fault Refusal :=
  issueWord h (slotC h && clLoopx o) false false false s fun c =>
    match if o.level = 0#1 then c.pipe.inner else c.pipe.outer with
    | none => .trap (trapOf cLoopForm 0)
    | some l => .go (s.startLoop o.level { l with left := 1 })

/-- A NOP acts only through its header, in every slot (R398). -/
def execNop (h : Header) (s : State) : Host.Outcome State Fault Refusal :=
  issueWord h (slotN h) true false false s fun _ => .go s

end Sys2Proof.Machine
end

