-- ==== Sys2Proof/Machine/CTask.lean ====
section
/-! DEFINITION. The C slot's task words: EXIT, SPAWN, SPAWNG, barriers, CARVE, DECPL, REJOIN (R45 to R56, R318, R332 to
R334, R345, R357, R360, R411, R418). A barrier phase and a REJOIN are completed by `settleGang` once the bundle has
issued. -/

namespace Sys2Proof.Machine

/-! ### Launches and queues (R34, R43, R47) -/

def launchOf (s : State) (id : Nat) : Option Launch := s.tasks.launches.find? fun l => decide (l.id = id)

def setLaunch (s : State) (l : Launch) : State :=
  { s with tasks := { s.tasks with launches := s.tasks.launches.map fun x => if x.id = l.id then l else x } }

def stageOf (s : State) (launch : Nat) (stage : BitVec 4) : Option StageSt :=
  match launchOf s launch with
  | none => none
  | some l => l.stages[stage.toNat]?

def setStage (s : State) (launch : Nat) (stage : BitVec 4) (x : StageSt) : State :=
  match launchOf s launch with
  | none => s
  | some l => setLaunch s { l with stages := l.stages.set stage.toNat x }

/-- Sum W of the field widths (R34). -/
def widthSum (st : Stage) : Nat := st.widths.foldl (· + ·) 0

/-- Bits [63:W] of an enqueued identifier are cleared (R34). -/
def maskIdent (st : Stage) (v : Word) : Word := BitVec.ofNat 64 (v.toNat % 2 ^ widthSum st)

/-- Position of the lowest bit of field `i`, and its width: field 0 is outermost (R34). -/
def fieldPos (st : Stage) (i : Nat) : Nat × Nat := ((st.widths.drop (i + 1)).foldl (· + ·) 0, st.widths.getD i 0)

def fieldOf (st : Stage) (i : Nat) (v : Word) : Nat := fld v (fieldPos st i).1 (fieldPos st i).2

def queueFull (q : StageSt) : Bool := decide (2 ^ q.hdr.qlog ≤ q.queue.length)

/-- Appends an entry to a stage's queue (R43). -/
def enqueue (s : State) (launch : Nat) (stage : BitVec 4) (e : QEntry) : State :=
  match stageOf s launch stage with
  | none => s
  | some q => setStage s launch stage { q with queue := q.queue ++ [{ e with ident := maskIdent q.hdr e.ident }] }

/-- The target stage of a SPAWN: it exists and the issuing stage's DOWN names it (R47). -/
def spawnTarget (s : State) (t : BitVec 4) : Option StageSt :=
  let c := s.cell
  match stageOf s c.task.launch c.task.stage with
  | none => none
  | some q => if bit q.hdr.down t.toNat then stageOf s c.task.launch t else none

/-- The range that the spawn unit still holds of a cell (R48). -/
def rangeOf (s : State) (c : BitVec 9) : Option Range := s.tasks.ranges.find? fun r => decide (r.cell = c)

/-- Replaces the range of a cell, or ends it. -/
def setRange (s : State) (c : BitVec 9) (r : Option Range) : State :=
  { s with tasks := { s.tasks with ranges := (s.tasks.ranges.filter fun x => decide (x.cell ≠ c)) ++ r.toList } }

/-- The close that belongs to a word's issue waits for the task's CELL-path accesses (R177, R400). -/
def closeWaits (c : Cell) (scope : Nat) : Bool := decide (2 ≤ scope) && decide (c.pipe.accs ≠ [])

/-! ### EXIT, SPAWN, SPAWNG -/

/-- The conditions of EXIT: tags clear, every M word retired (R46). -/
def exitReady (c : Cell) : Bool :=
  decide (c.pipe.pend = 0) && decide (c.mx.queue = []) && decide (c.mx.run = none)

/-- The task ends as EXIT ends it: what is in flight lands, for the cell keeps it for its next task (R50, R76), and so does what
a variable-latency access without a tag has still to bring, but from a domain page (log 37). -/
def exitTask (s : State) (ci : BitVec 9) : State :=
  let s1 := drainFlight Config.flightMax s ci
  endTask (s1.updAt ci fun c => (c.pipe.accs.filter fun a => !a.dom).foldl (fun c a => landAccess a c) c) ci

def execExit (h : Header) (o : CS) (s : State) : Host.Outcome State Fault Refusal :=
  issueWord h (slotC h && csNone o) false false false s fun c =>
    if exitReady c then .go (exitTask s s.cur) else .freeze

def execSpawn (h : Header) (o : CS) (s : State) : Host.Outcome State Fault Refusal :=
  let t := o.imm.extractLsb' 0 4
  issueWord h (slotC h && csSpawn o && (spawnTarget s t).isSome) false false false s fun c =>
    match spawnTarget s t with
    | none => .freeze
    | some q =>
      if (rangeOf s s.cur).isSome || queueFull q || closeWaits c o.scope.toNat then .freeze
      else .go (enqueue (closePhase s s.cur o.scope.toNat) c.task.launch t
        { ident := c.rdS o.sa, barrier := bit o.imm 4, scope := o.scope, step := none })

/-- SPAWNG traps where the range leaves field F of the target stage (R48). -/
def rangeOk (q : StageSt) (f : Nat) (base count : Word) : Bool :=
  decide (fieldOf q.hdr f (maskIdent q.hdr base) + count.toNat ≤ 2 ^ (fieldPos q.hdr f).2)

def execSpawng (h : Header) (o : CS) (s : State) : Host.Outcome State Fault Refusal :=
  let t := o.imm.extractLsb' 0 4
  let f := o.imm.extractLsb' 5 3
  let ok := match spawnTarget s t with
    | none => false
    | some q => rangeOk q f.toNat (s.cell.rdS o.sa) (s.cell.rdS o.sb)
  issueWord h (slotC h && csSpawng o && ok) false false false s fun c =>
    if (rangeOf s s.cur).isSome || closeWaits c o.scope.toNat then .freeze
    else
      let s1 := closePhase s s.cur o.scope.toNat
      if c.rdS o.sb = 0 then .go s1
      else
        let r : Range :=
          { cell := s.cur, gang := if c.task.fused then c.task.gang else 0, gmem := c.task.gmem, launch := c.task.launch
            stage := t, field := f, base := c.rdS o.sa, next := 0
            count := (c.rdS o.sb).toNat, barrier := bit o.imm 4, scope := o.scope }
        .go (setRange s1 s.cur (some r))

/-! ### Barriers -/

/-- Adds an arrival to barrier `n` of the issuing task's gang (R53). -/
def arrive (s : State) (n : BitVec 4) (a : Arrival) : State :=
  match gangOf s s.cell.task.gang with
  | none => s
  | some g => setGang s { g with bars := g.bars.wr n { g.bars.rd n with arrived := (g.bars.rd n).arrived ++ [a] } }

/-- A task whose stage has GANG = 1 traps BARRIER_MISUSE; otherwise the close at the word's scope, then `f` (R318). -/
def barrierWord (h : Header) (legal : Bool) (n scope : BitVec 4) (s : State) (f : Cell → State → State) :
    Host.Outcome State Fault Refusal :=
  issueWord h legal false false false s fun c =>
    if c.task.gsize = 1 then .trap (trapOf cBarrierMisuse (n.zeroExtend 64))
    else if closeWaits c scope.toNat then .freeze
    else .go (f c (closePhase s s.cur scope.toNat))

def execBar (h : Header) (o : CS) (s : State) : Host.Outcome State Fault Refusal :=
  let n := o.imm.extractLsb' 0 4
  barrierWord h (slotC h && csBar o) n o.scope s fun c s1 =>
    (arrive s1 n { gmem := c.task.gmem, carve := none, waits := true }).upd fun c => { c with wait := .bar n o.scope }

def execBara (h : Header) (o : CS) (s : State) : Host.Outcome State Fault Refusal :=
  let n := o.imm.extractLsb' 0 4
  barrierWord h (slotC h && csBar o) n o.scope s fun c s1 =>
    arrive s1 n { gmem := c.task.gmem, carve := none, waits := false }

/-- The member that decides for a fused gang is its lowest live one (R56). -/
def isLead (s : State) : Bool := decide ((leadCell s).task.gmem = s.cell.task.gmem)

/-- E := s[sa][5:0], 0 standing for g; in one cycle the lowest member's value stands (R334). -/
def execBarcfg (h : Header) (o : CS) (s : State) : Host.Outcome State Fault Refusal :=
  let n := o.imm.extractLsb' 0 4
  let e := fld (s.cell.rdS o.sa) 0 6
  issueWord h (slotC h && csBarcfg o && decide (e ≤ s.cell.task.gsize.toNat)) false false false s fun c =>
    let g := gangOf s c.task.gang
    let busy : Bool := match g with
      | none => false
      | some g => decide ((g.bars.rd n).arrived ≠ [])
    if c.task.gsize = 1 ∨ busy = true then .trap (trapOf cBarrierMisuse (n.zeroExtend 64))
    else
      match g with
      | none => .go s
      | some g =>
        if isLead s then
          .go (setGang s { g with bars := g.bars.wr n { g.bars.rd n with expect := if e = 0 then g.size else e } })
        else .go s

/-- The checks of CARVE on its split against the stage's header (R54, R345). -/
def carveOk (q : StageSt) (v : Word) : Bool :=
  let spr := fld v 0 6
  let l1r := fld v 8 4
  decide (1 ≤ l1r) && decide (l1r ≤ 12) && decide (fld v 6 2 = 0) && decide (fld v 12 52 = 0)
    && decide (spr * 32 + l1r * 64 ≤ q.hdr.spr.toNat * 32 + q.hdr.l1r.toNat * 64) && decide (q.hdr.stkg.toNat ≤ spr)

def execCarve (h : Header) (o : CS) (s : State) : Host.Outcome State Fault Refusal :=
  let n := o.imm.extractLsb' 0 4
  let ok := match stageOf s s.cell.task.launch s.cell.task.stage with
    | none => false
    | some q => carveOk q (s.cell.rdS o.sa)
  barrierWord h (slotC h && csCarve o && ok) n o.scope s fun c s1 =>
    (arrive s1 n { gmem := c.task.gmem, carve := some (((leadCell s).rdS o.sa).extractLsb' 0 12), waits := true }).upd
      fun c => { c with wait := .carve n o.scope }

/-! ### DECPL, REJOIN (R56, R357, R411) -/

/-- Every member of the fused gang issues DECPL together; each clears its own FUSED. -/
def execDecpl (h : Header) (o : CS) (s : State) : Host.Outcome State Fault Refusal :=
  issueWord h (slotC h && csNone o) false false false s fun c =>
    if c.task.fused then
      let s1 := s.upd fun c => { c with task := { c.task with fused := false } }
      match gangOf s1 c.task.gang with
      | none => .go s1
      | some g => .go (setGang s1 { g with fused := false, rejoined := [] })
    else .trap (trapOf cBarrierMisuse 0)

/-- Whether the task's gang was declared with FUSE (R38). -/
def fuseGang (s : State) (c : Cell) : Bool :=
  match stageOf s c.task.launch c.task.stage with
  | none => false
  | some q => q.hdr.fuse

def execRejoin (h : Header) (o : CS) (s : State) : Host.Outcome State Fault Refusal :=
  issueWord h (slotC h && csNone o) false false false s fun c =>
    if c.task.fused || !fuseGang s c then .trap (trapOf cBarrierMisuse 0)
    else
      let s1 := s.upd fun c => { c with wait := .rejoin }
      match gangOf s1 c.task.gang with
      | none => .go s1
      | some g => .go (setGang s1 { g with rejoined := g.rejoined ++ [c.task.gmem] })

/-- Completes, after a bundle has issued, every barrier phase and REJOIN of the gang that is now complete (R53, R56). -/
def settleGang (s : State) (gang : Nat) : State :=
  rejoinCheck ((List.range 16).foldl (fun s n => barrierCheck s gang (BitVec.ofNat 4 n)) s) gang

end Sys2Proof.Machine
end

