-- ==== Sys2Proof/Machine/Ctl.lean ====
section
/-! DEFINITION. The control registers: what a read answers and what a write does (R5, R30, R31, R317, R355). -/

namespace Sys2Proof.Machine

/-! ### The capability list (R30, R31) -/

def countBits (n x : Nat) : Nat := ((List.range n).filter fun i => x.testBit i).length

/-- Mask of the present stacks: three to a frame (R9). -/
def stackMask (frames : BitVec 4) : Nat :=
  (List.range 4).foldl (fun m f => if bit frames f then m + 7 * 2 ^ (3 * f) else m) 0

/-- Kinds and data registers of the capability records. -/
def capRecords (p : Package) : List (Nat × List Nat) :=
  let n := countBits 4 p.frames.toNat
  let sc := if p.scout then 1 else 0
  [(1, [138 * 2 ^ 16 + 0x100]),
   (2, [fld p.fclk 0 16 * 2 ^ 16 + p.crossings.toNat * 2 ^ 8 + p.frames.toNat]),
   (3, [48 * sc * 2 ^ 32 + 64 * 2 ^ 16 + 64 * n]),
   (4, [48 * 2 ^ 16 + stackMask p.frames, 3 * n * Config.stackBytes]),
   (5, [640 * sc * 2 ^ 16 + sc]),
   (6, [8 * 2 ^ 48 + 64 * 2 ^ 40 + 255 * 2 ^ 32 + 4096 * 2 ^ 16 + 18 * 2 ^ 8 + 16]),
   (7, [p.frames.toNat]),
   (8, [1024]),
   (9, [1 * 2 ^ 16 + 0x13 * 2 ^ 8 + 1]),
   (10, [4]),
   (11, [4096]),
   (12, [p.uePorts.toNat * 2 ^ 16 + p.ports.toNat])]

/-- The records as registers that follow one another from `at_` (log 17). -/
def capRegs : List (Nat × List Nat) → Nat → List Nat
  | [], _ => []
  | (id, ds) :: r, at_ =>
    let len := ds.length + 1
    ((if r = [] then 0 else at_ + len) * 2 ^ 32 + len * 2 ^ 24 + 2 ^ 16 + id) :: ds ++ capRegs r (at_ + len)

/-! ### Reads -/

/-- CELLID (R36). -/
def cellId (c : BitVec 9) (t : Task) : Nat :=
  t.lslot.toNat * 2 ^ 37 + (if t.fused then 2 ^ 36 else 0) + t.stage.toNat * 2 ^ 32 + t.gsize.toNat * 2 ^ 24
    + t.gmem.toNat * 2 ^ 16 + frameOf c * 2 ^ 10 + (if isScout c then 2 ^ 9 else 0) + cellNo c

/-- The current and throttle registers of frame `f` read zero for an absent frame (R25). -/
def frameReg (s : State) (f : BitVec 2) (v : Throttle → Nat) : Nat :=
  if bit s.pkg.frames f.toNat then v (s.pkg.throttle.rd f) else 0

/-- The value of control register `n` as the cell reads it; a number with no register reads 0 (R317). -/
def crRead (s : State) (ci : BitVec 9) (n : Nat) : Word :=
  let c := s.cellAt ci
  let f := BitVec.ofNat 2 n
  let flag := fun (b : Bool) => if b then 1 else 0
  if crLocal n then c.crGet n
  else if n = 0x000 then BitVec.ofNat 64 Config.capFirst
  else if n = 0x001 then BitVec.ofNat 64 (cellId ci c.task)
  else if n = 0x002 then c.task.ctx.zeroExtend 64
  else if n = 0x003 then c.task.data.zeroExtend 64
  else if 0x008 ≤ n ∧ n ≤ 0x00D then c.task.wf.getD (n - 8) 0
  else if n = 0x010 then c.tr.cause
  else if n = 0x012 then c.tr.tval
  else if n = 0x014 then BitVec.ofNat 64 c.pipe.flight.length
  else if n = 0x016 then c.tr.taddr
  else if n = 0x018 then c.pipe.pend.zeroExtend 64
  else if n = 0x019 then c.tr.fpstat.zeroExtend 64
  else if 0x060 ≤ n ∧ n ≤ 0x063 then
    BitVec.ofNat 64 (frameReg s f fun t => t.floor.toNat * 2 ^ 16 + t.limit.toNat)
  else if 0x064 ≤ n ∧ n ≤ 0x067 then
    BitVec.ofNat 64 (frameReg s f fun t => t.peak.toNat * 2 ^ 16 + t.cur.toNat)
  else if 0x068 ≤ n ∧ n ≤ 0x06B then
    BitVec.ofNat 64 (frameReg s f fun t => flag t.therm * 32 + flag t.overLimit * 16 + t.level.toNat)
  else if n = 0x070 then BitVec.ofNat 64 s.pkg.quiesce
  else if n = 0x081 then c.tr.dbgpc
  else if n = 0x082 then (c.pipe.engTag &&& c.pipe.pend).zeroExtend 64
  else if 0x083 ≤ n ∧ n ≤ 0x08A then c.tr.dbgtpc.rd (BitVec.ofNat 3 (n - 0x083))
  else if n = 0x092 then c.tr.savecur
  else if n = 0x093 then
    let d := BitVec.ofNat 1 (flag (isScout ci))
    BitVec.ofNat 64 (flag (s.pkg.emergBusy.rd d) * 2 ^ 63 + cellNo (s.pkg.emergOwner.rd d) * 2 ^ 48
      + (if s.pkg.devState = 1 then Config.emergBase (isScout ci) else 0))
  else if n = 0x0A0 then BitVec.ofNat 64 (s.pd.domain.toNat * 2 ^ 32 + s.pd.self.toNat * 2 ^ 16 + s.pd.state.toNat)
  else if n = 0x0A1 then s.pd.gen.zeroExtend 64
  else if n = 0x0A2 then BitVec.ofNat 64 (s.pd.authErr.toNat * 2 ^ 32 + s.pd.seqErr.toNat)
  else if n = 0x0A3 then s.pd.thr
  else if n = 0x0A4 then s.pd.tmo
  else if n = 0x0A5 then s.pd.alarm
  else if n = 0x0B0 then BitVec.ofNat 64 Config.broodBase
  else if n = 0x0B1 then s.brood.iter
  else if n = 0x0B2 then s.brood.dtab0
  else if n = 0x0B3 then s.brood.dtab1
  else if n = 0x0B4 then s.brood.qnext
  else if n = 0x0B5 then BitVec.ofNat 64 (s.brood.decided.toNat * 2 ^ 32 + s.brood.stalew.toNat)
  else if n = 0x0C0 then BitVec.ofNat 64 s.pkg.time
  else if n = 0x0C1 then s.pkg.tsrc
  else if n = 0x0C2 then BitVec.ofNat 64 (s.pkg.offset.toNat * 2 ^ 32 + flag s.pkg.hold * 2 + flag s.pkg.lock)
  else if n = 0x0C3 then BitVec.ofNat 64 (s.brood.mbad.toNat * 2 ^ 32 + s.brood.mdrop.toNat)
  else if n = 0x0C4 then s.brood.slstep
  else if Config.capFirst ≤ n then BitVec.ofNat 64 ((capRegs (capRecords s.pkg) Config.capFirst).getD (n - Config.capFirst) 0)
  else 0

/-! ### Writes -/

/-- Numbers whose map reserves writes to supervisor mode (R25, R111, R203, R211, R215, R231, R269, R295). -/
def crPrivileged (n : Nat) : Bool :=
  decide (n = 0x011) || decide (n = 0x013) || decide (n = 0x015) || decide (n = 0x017) || decide (n = 0x019)
    || (decide (0x060 ≤ n) && decide (n ≤ 0x06B)) || (decide (0x080 ≤ n) && decide (n ≤ 0x08F))
    || decide (n = 0x090) || decide (n = 0x091) || decide (n = 0x0A3) || decide (n = 0x0A4)
    || (decide (0x0B1 ≤ n) && decide (n ≤ 0x0B4)) || decide (n = 0x0C1) || decide (n = 0x0C4)

/-- The command whose fault the handler of a cell was given, while it is still held (R213). -/
def heldOf (s : State) (ci : BitVec 9) : Option Cmd :=
  match (s.cellAt ci).events.faulted with
  | none => none
  | some id => s.cmds.find? fun x => decide (x.id = id) && x.held.isSome

def setCmd (s : State) (x : Cmd) : State :=
  { s with cmds := s.cmds.map fun y => if y.id = x.id then x else y }

/-- A command is over; so is the round of one that had its result. -/
def dropCmd (s : State) (id : Nat) : State := pruneRounds { s with cmds := s.cmds.filter fun y => decide (y.id ≠ id) }

/-- EFCTL[0]: the held command resumes from its progress (R214). -/
def resumeHeld (s : State) (ci : BitVec 9) : State :=
  match heldOf s ci with
  | none => s
  | some x => setCmd s { x with held := none }

/-- EFCTL[1]: the held command is abandoned and its tag clears (R214). -/
def abandonHeld (s : State) (ci : BitVec 9) : State :=
  match heldOf s ci with
  | none => s
  | some x => (dropCmd s x.id).updAt ci (clearTag x.tag)

/-- A write of EFCTL; with both bits the command is abandoned (R214). -/
def writeEfctl (s : State) (ci : BitVec 9) (v : Word) : State :=
  if bit v 1 then abandonHeld s ci else if bit v 0 then resumeHeld s ci else s

/-- A write of FPREQ asks the service core to map a page: it reads busy until the service core answers (R221). -/
def writeFpreq (s : State) (ci : BitVec 9) (v : Word) : State :=
  { s.updAt ci (fun c => { c with tr := { c.tr with fpreq := v &&& 0xFFFFFFFFFF0001#64, fpstat := 0 } }) with
    pkg := { s.pkg with fastPath := s.pkg.fastPath.filter (fun x => decide (x ≠ ci)) ++ [ci] } }

def setThrottle (s : State) (f : BitVec 2) (g : Throttle → Throttle) : State :=
  if bit s.pkg.frames f.toNat then
    { s with pkg := { s.pkg with throttle := s.pkg.throttle.wr f (g (s.pkg.throttle.rd f)) } }
  else s

/-- CLRPK sets PEAK to CUR (R25). -/
def clearPeak (s : State) (f : BitVec 2) : State := setThrottle s f fun t => { t with peak := t.cur }

/-- A write of a register that belongs to the package; every other number leaves the state as it is. -/
def crWritePkg (s : State) (ci : BitVec 9) (n : Nat) (v : Word) : State :=
  let f := BitVec.ofNat 2 n
  if n = 0x017 then writeEfctl s ci v
  else if n = 0x019 then writeFpreq s ci v
  else if 0x060 ≤ n ∧ n ≤ 0x063 then
    setThrottle s f fun t => { t with floor := v.extractLsb' 16 4, limit := v.extractLsb' 0 12 }
  else if 0x064 ≤ n ∧ n ≤ 0x067 then if bit v 31 then clearPeak s f else s
  else if n = 0x0A3 then { s with pd := { s.pd with thr := v &&& 0xFFFF0000FFFF#64 } }
  else if n = 0x0A4 then { s with pd := { s.pd with tmo := v &&& 0xFFFFFFFF#64 } }
  else if n = 0x0A5 then { s with pd := { s.pd with alarm := s.pd.alarm &&& ~~~v } }
  else if n = 0x0B1 then { s with brood := { s.brood with iter := v &&& 0xFF#64 } }
  else if n = 0x0B2 then { s with brood := { s.brood with dtab0 := v &&& 0x1F1F1F1F1F1F1F1F#64 } }
  else if n = 0x0B3 then { s with brood := { s.brood with dtab1 := v &&& 0x1F1F1F1F1F1F1F1F#64 } }
  else if n = 0x0B4 then { s with brood := { s.brood with qnext := v &&& 0x8F9F0F9F#64 } }
  else if n = 0x0C1 then { s with pkg := { s.pkg with tsrc := v &&& 0xF#64 } }
  else if n = 0x0C4 then { s with brood := { s.brood with slstep := v &&& 0x80000F9F#64 } }
  else s

end Sys2Proof.Machine
end

