-- ==== Sys2Proof/Machine/Media.lean ====
section
/-! DEFINITION. The fields of a brood slot, and the media records that reach its window (R226 to R229, R270, R273). -/

namespace Sys2Proof.Machine

/-! ### Fields (R227) -/

/-- A live field. -/
def Slot.f (sl : Slot) (id : Nat) : Word := sl.live.rd (BitVec.ofNat 5 id)

/-- Stores the listed bits of a live field. -/
def Slot.put (sl : Slot) (id : Nat) (v : Word) : Slot := { sl with live := sl.live.wr (BitVec.ofNat 5 id) (v &&& fieldMask id) }

def Slot.putNat (sl : Slot) (id v : Nat) : Slot := sl.put id (BitVec.ofNat 64 v)

def Slot.state (sl : Slot) : Nat := fld (sl.f 0) 0 8
def Slot.gen (sl : Slot) : Nat := (sl.f 1).toNat
def Slot.len (sl : Slot) : Nat := (sl.f 9).toNat

def sFree : Nat := 0
def sAdmit : Nat := 1
def sActive : Nat := 2
def sDone : Nat := 3
def sError : Nat := 4

/-- What the engines use of a field: the round copy while a round is on, else the live field (R232). -/
def Slot.used (sl : Slot) (id : Nat) : Word := if sl.round.active then sl.round.copy.rd (BitVec.ofNat 5 id) else sl.f id

/-- ACTIVE goes to DONE or ERROR with its reason; in any other state nothing happens (R229). -/
def Slot.endWith (sl : Slot) (st reason : Nat) : Slot := if sl.state = sActive then sl.putNat 0 (st + 256 * reason) else sl

/-- The slot's context (R227, field 23). -/
def Slot.ctx (sl : Slot) : BitVec 16 := (sl.used 23).extractLsb' 16 16

def State.updSlot (s : State) (i : Nat) (f : Slot → Slot) : State := s.setSlot i (f (s.slot i))

/-! ### Records and their arrival (R270, R271, R273) -/

structure MediaRec where
  stamp : Nat
  slot : Nat
  stream : BitVec 2
  kind : Nat
  gen : Nat
  bad : Bool
  deriving DecidableEq, Repr

/-- A record of 512 bytes. Kinds 2 and 3 are malformed, and so is a record with a bit set that must be zero (log 27). -/
def parseRec (bs : List Byte) : MediaRec :=
  let w := BitVec.ofNat 64 (wordAt bs 1)
  let kind := fld w 14 2
  { stamp := wordAt bs 0, slot := fld w 0 12, stream := w.extractLsb' 12 2, kind := kind, gen := wordAt bs 2
    bad := decide (2 ≤ kind) || decide (fld w 50 14 ≠ 0) || ((bs.drop 24).take 232).any (fun b => decide (b ≠ 0))
      || (decide (kind = 0) && (bs.drop 256).any fun b => decide (b ≠ 0)) }

/-- A count of 32 bits that stops at all ones (R231, R294). -/
def satInc (x : BitVec 32) : BitVec 32 := if x = BitVec.allOnes 32 then x else x + 1

def dropBad (s : State) : State := { s with brood := { s.brood with mbad := satInc s.brood.mbad } }
def dropUnmatched (s : State) : State := { s with brood := { s.brood with mdrop := satInc s.brood.mdrop } }

/-- Entries of the ring: 128 to a page after the view page (R272). -/
def Window.ring (w : Window) : Nat := 128 * (w.pages.length - w.sinks - 1)

/-- Physical address of entry `i`. -/
def Window.at_ (w : Window) (i : Nat) : Nat := w.pages.getD (w.sinks + 1 + i / 128) 0 + 512 * (i % 128)

/-- The lowest free entry (log 27). -/
def Window.freeEntry (w : Window) : Option Nat :=
  (List.range w.ring).find? fun i => !(w.entries.any fun e => decide (e.at_ = i))

/-- Places a record in a window, or drops and counts it (R273). -/
def placeRec (s : State) (i : Nat) (w : Window) (r : MediaRec) (bs : List Byte) : State :=
  let put := fun (s : State) (w : Window) => s.updSlot i fun sl => { sl with window := some w }
  if r.stamp < (s.slot i).start then put s { w with dropOld := satInc w.dropOld }
  else
    match w.freeEntry with
    | none => put s { w with dropFull := satInc w.dropFull }
    | some e =>
      put (s.store (w.at_ e) bs)
        { w with
          entries := w.entries ++ [{ at_ := e, stamp := r.stamp, stream := r.stream, arrival := w.arrivals }]
          high := w.high.wr r.stream (max (w.high.rd r.stream) r.stamp)
          arrivals := w.arrivals + 1 }

/-- One record, in arrival order. -/
def acceptRec (s : State) (bs : List Byte) : State :=
  let r := parseRec bs
  let sl := s.slot r.slot
  if r.bad then dropBad s
  else if sl.state ≠ sActive ∨ (r.gen ≠ 0 ∧ r.gen ≠ sl.gen) then dropUnmatched s
  else
    match sl.window with
    | none => dropUnmatched s
    | some w => placeRec s r.slot w r bs

/-- Cuts a payload into records of 512 bytes; the fuel is the number of whole records. -/
def cutRecs : Nat → List Byte → List (List Byte)
  | 0, _ => []
  | n + 1, bs => bs.take 512 :: cutRecs n (bs.drop 512)

/-- An enabled binding names the port, the job and the process index (R271). -/
def mdBound (p : Package) (t : UltraTag) : Bool :=
  (List.range 8).any fun j =>
    let w := p.mdue.rd (BitVec.ofNat 3 j)
    bit w 52 && decide (fld w 40 12 = t.pidx.toNat) && decide (fld w 16 24 = t.job.toNat) && bit w t.port.toNat

/-- The media unit takes a bound message: its records, and a partial last one counts as malformed (R271). -/
def mediaMessage (s : State) (bytes : List Byte) : State :=
  let s1 := { s with pkg := { s.pkg with mdRecs := s.pkg.mdRecs ++ cutRecs (bytes.length / 512) bytes } }
  if bytes.length % 512 = 0 then s1 else dropBad s1

/-- Every accepted record goes to its home, in arrival order (R189, R270). -/
def drainMedia (s : State) : State := s.pkg.mdRecs.foldl acceptRec { s with pkg := { s.pkg with mdRecs := [] } }

end Sys2Proof.Machine
end

