-- ==== Sys2Proof/Machine/CSys.lean ====
section
/-! DEFINITION. The C slot's ordering and system words: WAIT, PHASE, FENCE, XFENCE, control registers, TRAP, TRET, BRK,
RDTIME (R115, R116, R177, R186, R189, R201, R202, R317, R342, R355, R366, R400, R410, R422, R423, R440, R441). -/

namespace Sys2Proof.Machine

/-! ### Ordering -/

/-- The read that ended the loop has given `v`. In a fused gang a member keeps it until all of them issue (R56, R440). -/
def waitEnds (h : Header) (o : CS) (c : Cell) (v : Word) (s : State) : Issue :=
  if c.task.fused ∧ c.pipe.got = none then .poll (s.upd fun c => { c with pipe := { c.pipe with got := some v } })
  else .go (s.push [{ land := c.dstS o.sd v, n := 1, slot := h.slot, ev := 0 }])

/-- One poll of the loop of R440: an acquire load at the home. The cell stays frozen until the value differs from the
s[sb] of the first poll or the time runs out, which WAIT_TIMEOUT marks; a read of a peer's memory is a load flit, on a domain page
one whose response is awaited (R194, R294). -/
def execWait (h : Header) (o : CS) (s : State) : Host.Outcome State Fault Refusal :=
  issueWord h (slotC h && csWait o) false false false s fun c =>
    match c.pipe.got with
    | some v => waitEnds h o c v s
    | none =>
      match resolve s (c.rdS o.sa) 0 0 8 0 with
      | .error t => .trap t
      | .ok (sp, a, s1) =>
        if orderWaits c then .freeze
        else
          let old := c.pipe.polled.getD (c.rdS o.sb)
          let polling := fun (s : State) => Issue.poll (s.upd fun c => { c with pipe := { c.pipe with polled := some old } })
          match homeLoad s1 s.cur (domainPage s1 s.cur (c.rdS o.sa).toNat) a with
          | .waits => .freeze
          | .sent s2 => polling s2
          | .ready s2 =>
            let r := readHome s2 sp a 8
            let v := BitVec.ofNat 64 (leNat r.1)
            let s3 := openAcquire r.2 s.cur o.scope.toNat
            if v ≠ old ∨ c.pipe.expired = true then waitEnds h o c v s3 else polling s3

/-- Close, then open (R177, R400). -/
def execPhase (h : Header) (o : CS) (s : State) : Host.Outcome State Fault Refusal :=
  issueWord h (slotC h && csPhase o) true false false s fun c =>
    if closeWaits c o.scope.toNat then .freeze
    else .go (openPhase (closePhase s s.cur o.scope.toNat) s.cur o.scope.toNat)

/-- Waits for the CELL path; `.i` also writes back the L1 and empties the instruction cache (R186, R366). -/
def execFence (h : Header) (o : CS) (s : State) : Host.Outcome State Fault Refusal :=
  issueWord h (slotC h && csFence o) true false false s fun c =>
    if c.pipe.accs ≠ [] then .freeze
    else if bit o.imm 0 then .go ((l1Clean s s.cur).upd fun c => { c with icache := [] })
    else .go s

/-- Whether the matrix unit still owes an access on the GATH path (R187, R364). -/
def gathPending (c : Cell) : Bool :=
  c.mx.queue.any fun j => match j with
    | .load _ _ _ _ _ _ => true
    | .store _ _ _ _ _ _ _ _ => true
    | .fill _ _ _ => true
    | .code _ _ _ => true
    | .micro _ _ _ _ => true
    | .call _ _ _ _ _ _ _ _ => true
    | _ => false

/-- What makes the covered accesses of class `a` visible to every class (R189): CELL writes every dirty byte of the L1 home,
at any scope, so that a phase close at the scope is part of it; MEDIA and HOSTIN drain what is accepted. An engine's accesses
are performed when its command completes. -/
def coverClass (s : State) (ci : BitVec 9) (a : Nat) : State :=
  match a with
  | 0 => l1Clean s ci
  | 7 => drainMedia s
  | 9 => drainInbound s fun _ => true
  | _ => s

/-- The covered set of class a is performed, then visible to class b (R189); b = CELL ends with a phase open and drops every
clean byte at any scope. -/
def execXfence (h : Header) (o : CS) (s : State) : Host.Outcome State Fault Refusal :=
  issueWord h (slotC h && csXfence o) true false false s fun c =>
    let a := o.clsA.toNat
    if (a = 0 ∧ c.pipe.accs ≠ []) ∨ (a = 1 ∧ gathPending c = true) then .freeze
    else
      let s1 := coverClass s s.cur a
      .go (if o.clsB = 0#4 then l1Open (openPhase s1 s.cur o.scope.toNat) s.cur else s1)

/-! ### Control registers (R317, R355) -/

def execCrrd (h : Header) (o : CS) (s : State) : Host.Outcome State Fault Refusal :=
  issueResults h (slotC h && csCrrd o) true s (fun c => [c.dstS o.sd (crRead s s.cur o.cr.toNat)]) 1 0

/-- A write lands in the cell at latency 1; one to a register of the package is performed at issue. -/
def execCrwr (h : Header) (o : CS) (s : State) : Host.Outcome State Fault Refusal :=
  let n := o.cr.toNat
  issueWord h (slotC h && csCrwr o) true (crPrivileged n) false s fun c =>
    if crLocal n then .go (s.push [{ land := .cr o.cr (c.rdS o.sa), n := 1, slot := h.slot, ev := 0 }])
    else .go (crWritePkg s s.cur n (c.rdS o.sa))

/-- CRSET and CRCLR: the read and the write fall at one instant. -/
def crUpdate (set : Bool) (h : Header) (o : CS) (s : State) : Host.Outcome State Fault Refusal :=
  let n := o.cr.toNat
  issueWord h (slotC h && csCr o) true (crPrivileged n) false s fun c =>
    let v := c.rdS o.sa
    if crLocal n then
      .go (s.push [{ land := .rmw o.cr set v o.sd (c.sup && decide (48 ≤ o.sd.toNat)), n := 1, slot := h.slot, ev := 0 }])
    else
      let old := crRead s s.cur n
      .go ((crWritePkg s s.cur n (if set then old ||| v else old &&& ~~~v)).push
        [{ land := c.dstS o.sd old, n := 1, slot := h.slot, ev := 0 }])

def execCrset (h : Header) (o : CS) (s : State) : Host.Outcome State Fault Refusal := crUpdate true h o s

def execCrclr (h : Header) (o : CS) (s : State) : Host.Outcome State Fault Refusal := crUpdate false h o s

def execRdtime (h : Header) (o : CS) (s : State) : Host.Outcome State Fault Refusal :=
  issueResults h (slotC h && csRdtime o) true s (fun c => [c.dstS o.sd (BitVec.ofNat 64 s.pkg.time)]) 1 0

/-! ### Traps and the return from one (R201, R202) -/

/-- The trap is taken at the next boundary (R422). -/
def execTrap (h : Header) (o : CS) (s : State) : Host.Outcome State Fault Refusal :=
  issueWord h (slotC h && csTrap o) true false false s fun _ =>
    .go (s.upd fun c => { c with events := { c.events with trap := c.events.trap ++ [o.imm] } })

/-- BREAKPOINT before issue; with SKIP1 the word passes once as a NOP and clears SKIP1 (R202, R342). -/
def execBrk (h : Header) (o : CS) (s : State) : Host.Outcome State Fault Refusal :=
  issueWord h (slotC h && csNone o) true false false s fun c =>
    if bit c.tr.dbgctl 2 then .go (s.upd fun c => { c with tr := { c.tr with dbgctl := c.tr.dbgctl &&& ~~~4#64 } })
    else .trap (trapOf cBreakpoint 0)

/-- Back to user mode at EPC: the flight record counts again, and the bundle issues without its PD under PDDONE (R201). A
member of a fused gang whose handler changed its EPC goes on from there on its own counter while the gang stays fused: R56
names no such case, and this is the model's choice (log 44). -/
def leaveHandler (c : Cell) : Cell :=
  { c with
    tr := { c.tr with status := 0 }
    events := { c.events with faulted := none }
    pipe := { c.pipe with
      pc := c.tr.epc.extractLsb' 0 32, seq := c.tr.epc.extractLsb' 0 32, redirect := none
      inflight := c.pipe.flight, flight := [], ticked := true, pdSpent := bit c.tr.status 1 } }

/-- The faulting VA of a park request: TADDR for an engine fault, TVAL for the others (R207, R214). -/
def parkVa (c : Cell) : Word := if fld c.tr.cause 0 8 = cEngineFault.toNat then c.tr.taddr else c.tr.tval

/-- Freezes until the handler's results have landed; ABORT, or a machine check, ends the task; PARK pre-empts it at EPC;
otherwise fetch resumes in user mode. A command still held resumes (R201, R205, R214, R221, R423). -/
def execTret (h : Header) (o : CS) (s : State) : Host.Outcome State Fault Refusal :=
  issueWord h (slotC h && csNone o) true true false s fun c =>
    if c.pipe.inflight ≠ [] then .needIdle
    else if bit c.tr.status 2 ∨ fld c.tr.cause 0 8 = cMachineCheck.toNat then .go (abortTask s s.cur)
    else
      let s1 := (resumeHeld s s.cur).upd leaveHandler
      if bit c.tr.status 3 then
        .go ((s1.report (cellReport s s.cur 4 (c.tr.cause.extractLsb' 0 8) c.tr.epc c.tr.tval (parkVa c))).upd fun c =>
          { c with wait := .park })
      else .go s1

end Sys2Proof.Machine
end

