-- ==== Sys2Proof/Machine/Engine.lean ====
section
/-! DEFINITION. What the engines share: launch of a command, memory of an engine, its faults and its completion, the
package's draws (R188, R213, R214, R239, R311, R315, R353). -/

namespace Sys2Proof.Machine

/-! ### Launch (R315) -/

/-- A command with the registers it reads at issue. `h` and `o` are the word's header and fields. -/
def mkCmd (s : State) (op : EOp) (h : Header) (o : EC) : Cmd :=
  let c := s.cell
  { id := s.nextId, op := op, cell := s.cur, gang := c.task.gang, gmem := c.task.gmem, ctx := c.task.ctx, det := c.task.det
    tag := tagOf h, pc := c.pipe.pc, ha := c.rdH o.ha, hb := c.rdH o.hb, sa := c.rdS o.sa
    sb := c.rdS o.sb, sx := c.rdS (o.sb + 1), dst := o.sb, imm := o.imm, fn := o.fn, low := o.low, progress := 0, num := 0
    round := 0, started := false, begun := false, held := none, ev := 0 }

/-- The command goes to its engine and issue continues. -/
def launchCmd (s : State) (x : Cmd) : State := { s with cmds := s.cmds ++ [x], nextId := s.nextId + 1 }

/-- A word of the E slot: its checks, then the launch, behind an ordered access (R182). A handler may issue none (R199, R315). -/
def engineWord (op : EOp) (h : Header) (o : EC) (legal : Bool) (s : State) (f : Cell → Cmd → Issue) :
    Host.Outcome State Fault Refusal :=
  issueWord h (slotE h && legal) false false true s fun c => orderedIssue c (f c (mkCmd s op h o))

def cmdOf (s : State) (id : Nat) : Option Cmd := s.cmds.find? fun x => decide (x.id = id)

/-- Engine class of a command (R187). -/
def EOp.cls : EOp → Nat
  | .cpy => 2
  | .chsend | .chrecv | .chred => 3
  | .sieve => 4
  | .qprop | .qver | .qres | .bset | .bget => 5
  | .tokz | .detok | .gadv | .gmask => 6
  | .sltick | .slpin | .slget => 7
  | .dbar => 3

/-! ### Memory of an engine -/

/-- Whether an engine's address lies on a domain page (R218). -/
def engDomain (s : State) (ctx : BitVec 16) (va : Nat) : Bool :=
  match walkRoot s ctx va with
  | .error _ => false
  | .ok (_, e) => bit e 63

/-- The storage behind `n` bytes from `ea` in a space, page by page; a fault names its cause and its address (R353). -/
def engSegs (s : State) (ctx : BitVec 16) (limit space slice kind : Nat) : Nat → Nat → Nat →
    Except (BitVec 8 × Nat) (List Seg)
  | 0, _, _ => .ok []
  | f + 1, ea, n =>
    if n = 0 then .ok []
    else if space = 1 then
      if limit < ea + n then .error (cProtection, max ea limit) else .ok [{ space := .pad, addr := ea, len := n }]
    else if space = 2 then
      if 2 ^ 20 < ea + n then .error (cProtection, max ea (2 ^ 20))
      else if !bit s.pkg.frames (slice / 64) then .error (cFrameOff, ea)
      else if 56 ≤ slice % 64 then .error (cProtection, ea)
      else .ok [{ space := .staging, addr := slice * 2 ^ 20 + ea, len := n }]
    else if space = 3 ∧ s.pkg.scout = false then .error (cFrameOff, ea)
    else
      let m := min n (65536 - ea % 65536)
      match engXlate s ctx ea kind with
      | .error x => .error (x, ea)
      | .ok pa =>
        match engSegs s ctx limit space slice kind f ((ea + m) % 2 ^ 64) (n - m) with
        | .error x => .error x
        | .ok r => .ok ({ space := .main, addr := pa, len := m, dom := engDomain s ctx ea } :: r)

/-- The cell, or the saved image, whose scratchpad a command reaches: that of its task, and once the task has ended that of
the cell that issued it (R353). -/
def cmdCell (s : State) (x : Cmd) : Cell := (taskCell s x.gang x.gmem).getD (s.cellAt x.cell)

/-- The runs of a command's access through a handle; the scratchpad reservation is that of the moment (R353). -/
def cmdSegs (s : State) (x : Cmd) (hv : BitVec 256) (kind ea n : Nat) : Except (BitVec 8 × Nat) (List Seg) :=
  engSegs s x.ctx (padBytes (cmdCell s x)) (hSpace hv) (hSlice hv) kind (n / 65536 + 2) (ea % 2 ^ 64) n

/-- Writes bytes of its scratchpad; those of a saved context are kept for the restore (R209). -/
def cmdPad (s : State) (x : Cmd) (a : Nat) (bs : List Byte) : State :=
  if isSaved s x.gang x.gmem then redirectTo s x.gang x.gmem [.pad a bs]
  else s.updAt ((cellOfTask s x.gang x.gmem).getD x.cell) fun c => { c with pad := c.pad.store a bs }

/-- Bytes into a run of main memory, at their home; those of a peer's memory leave as store flits. -/
def segStore (s : State) (g : Seg) (bs : List Byte) : State := peerFlits (s.store g.addr bs) g.dom 1 g.addr bs

def engBytes (s : State) (x : Cmd) (segs : List Seg) : List Byte :=
  segs.flatMap fun g => match g.space with
    | .main => s.mem.bytes g.addr g.len
    | .pad => (cmdCell s x).pad.bytes g.addr g.len
    | .staging => s.staging.bytes g.addr g.len

def engStore (x : Cmd) : List Seg → List Byte → State → State
  | [], _, s => s
  | g :: r, bs, s =>
    let now := bs.take g.len
    engStore x r (bs.drop g.len) (match g.space with
      | .main => segStore s g now
      | .pad => cmdPad s x g.addr now
      | .staging => { s with staging := s.staging.store g.addr now })

/-- Global memory of a context, at the home. -/
def ctxRead (s : State) (ctx : BitVec 16) (va n : Nat) : Except (BitVec 8 × Nat) (List Byte) :=
  match engSegs s ctx 0 0 0 0 (n / 65536 + 2) va n with
  | .error x => .error x
  | .ok g => .ok (g.flatMap fun g => s.mem.bytes g.addr g.len)

/-- The load flits of such a read, where it is of a peer's memory. -/
def ctxFlits (s : State) (ctx : BitVec 16) (va n : Nat) : State :=
  match engSegs s ctx 0 0 0 0 (n / 65536 + 2) va n with
  | .error _ => s
  | .ok g => loadFlits s g

/-- Such a read by an engine, with its flits (R194, R287). -/
def ctxLoad (s : State) (ctx : BitVec 16) (va n : Nat) : Except (BitVec 8 × Nat) (List Byte × State) :=
  match ctxRead s ctx va n with
  | .error x => .error x
  | .ok bs => .ok (bs, ctxFlits s ctx va n)

/-- Bytes into runs of main memory. -/
def mainStore : List Seg → List Byte → State → State
  | [], _, s => s
  | g :: r, bs, s => mainStore r (bs.drop g.len) (segStore s g (bs.take g.len))

def ctxWrite (s : State) (ctx : BitVec 16) (va : Nat) (bs : List Byte) : Except (BitVec 8 × Nat) State :=
  match engSegs s ctx 0 0 0 1 (bs.length / 65536 + 2) va bs.length with
  | .error x => .error x
  | .ok g => .ok (mainStore g bs s)

/-! ### Faults and completion -/

/-- The command suspends and ENGINE_FAULT becomes pending in its task (R213); a command whose task has ended, or ends with no
handler to come, is dropped (R201), and one that waits for the re-keying barrier stays (R297). -/
def cmdFault (s : State) (x : Cmd) (f : BitVec 8 × Nat) : State :=
  match taskCell s x.gang x.gmem with
  | none => dropCmd s x.id
  | some y =>
    if f.1 = cWait then setCmd s x
    else if y.wait = .ending then dropCmd s x.id
    else onTask (setCmd s { x with held := some (f.1, BitVec.ofNat 64 f.2) }) x.gang x.gmem fun c =>
      { c with events := { c.events with engine := c.events.engine ++ [x.id] } }

/-- Counts events in the counters of a task, running or saved; a fire that asks for the host is reported either way, for a
saved task with the cell that it left (R147, R149, log 22). -/
def countTask (s : State) (gang : Nat) (gmem : BitVec 6) (ev : BitVec 8) : State :=
  match cellOfTask s gang gmem with
  | some c => s.countAt c ev
  | none =>
    match s.tasks.saved.find? fun y => decide (y.gang = gang) && decide (y.gmem = gmem) with
    | none => s
    | some y =>
      let r := countEvents y.image ev
      let s1 := redirectTo s gang gmem [.events ev]
      if r.2 then
        s1.report { cellReport s y.at_ 1 0x0D (r.1.pipe.pc.zeroExtend 64) 0 ((r.1.nx.ctl >>> 16) &&& 0xFF#64) with
          ctx := r.1.task.ctx }
      else s1

/-- The results of a command on the cell of its task; the E slot's words rank last in their cycle (R84). -/
def cmdLands (x : Cmd) (lands : List Land) (c : Cell) : Cell :=
  c.landNow (lands.map fun l => { land := l, n := 0, slot := 5, ev := 0, id := x.id })

/-- The results reach the task, running or saved (R209). -/
def taskLands (s : State) (x : Cmd) (lands : List Land) : State :=
  match cellOfTask s x.gang x.gmem with
  | some c => s.updAt c (cmdLands x lands)
  | none => redirectTo s x.gang x.gmem (lands.map .land)

/-- The command completes: its events count, its results land, its tag clears (R188, R311). -/
def cmdDone (s : State) (x : Cmd) (ev : BitVec 8) (lands : List Land) : State :=
  onTask (taskLands (countTask (dropCmd s x.id) x.gang x.gmem ev) x lands) x.gang x.gmem (clearTag x.tag)

/-- The command's result in the register its `sb` field names (R86). -/
def cmdReg (x : Cmd) (v : Word) : List Land := [.s x.dst v]

/-- An older command of the same task and class has not started yet: the commands of a class start in issue order (R188). -/
def mustWait (s : State) (x : Cmd) : Bool :=
  s.cmds.any fun y => decide (y.id < x.id) && decide (y.gang = x.gang) && decide (y.gmem = x.gmem)
    && decide (y.op.cls = x.op.cls) && !y.begun

/-- A queued M word of the task has still to store to the scratchpad that the command uses (R174). -/
def padWaits (s : State) (x : Cmd) : Bool :=
  (decide (hSpace x.ha = 1) || decide (hSpace x.hb = 1)) && match taskCell s x.gang x.gmem with
    | none => false
    | some c => (queueUses c).any (·.write)

/-! ### Draws (R239) -/

def drawDraft : Nat := 1
def drawAccept : Nat := 2
def drawResid : Nat := 3
def drawBonus : Nat := 4
def drawAccord : Nat := 5

/-- A draw: a number below 2^24 (R239). -/
def draw (seed slot pos purpose : Nat) : Nat :=
  let k := (seed ^^^ (slot <<< 20) ^^^ (pos <<< 4) ^^^ purpose) % 2 ^ 32
  let x1 := k * 0x2C1B3C6D % 2 ^ 32
  let x2 := x1 ^^^ (x1 >>> 12)
  let x3 := x2 * 0x297A2D39 % 2 ^ 32
  (x3 ^^^ (x3 >>> 15)) >>> 8

end Sys2Proof.Machine
end

