-- ==== Sys2Proof/Machine/VArith.lean ====
section
/-! DEFINITION. The V slot's arithmetic words: lane operations, conversions, comparisons, device functions, reductions
(R119, R125 to R132, R142 to R144, R424 to R437). -/

namespace Sys2Proof.Machine

/-! ### Lanes (R125) -/

/-- Whether the mask governs element `i`: bit i, or the bit of its byte for a 4-bit type. -/
def governed (ty : Nat) (k : BitVec 256) (i : Nat) : Bool := if widthOf ty = 4 then bit k (i / 2) else bit k i

/-- The bits of a row that the mask governs. -/
def maskRow (ty : Nat) (k : BitVec 256) : Row :=
  if widthOf ty = 4 then laneMask 8 256 k else laneMask (widthOf ty) (lanesOf ty) k

/-- A row from its governed lanes, and the union of their events (R147). -/
def laneRow (ty : Nat) (k : BitVec 256) (f : Nat → Nat × BitVec 8) : Row × BitVec 8 :=
  let rs := (List.range (lanesOf ty)).map fun i => if governed ty k i then f i else (0, 0)
  (rowOf (widthOf ty) (rs.map (·.1)), rs.foldl (fun e r => e ||| r.2) 0)

/-- The lane of b: the lane itself, or lane 0 with broadcast (R128). -/
def bLane (ty : Nat) (bc : BitVec 2) (r : Row) (i : Nat) : Nat := lane (widthOf ty) r (if bc = 1#2 then 0 else i)

/-- Lane bits of an immediate (R97): a NaN acts as the canonical NaN of the type. -/
def immLane (ty : Nat) (imm : BitVec 16) : Nat :=
  let b :=
    match ty with
    | 0 => imm.toNat * 2 ^ 16
    | 1 => imm.toNat
    | 2 => imm.toNat
    | 3 => fld imm 0 8
    | 4 => fld imm 0 8
    | t => if isSigned t then wrap (widthOf t) (sgn 16 imm.toNat) else imm.toNat % 2 ^ widthOf t
  if isFloat ty && (FV.ofBits ty b).isNaN then canonNaN ty else b

/-! ### Issue -/

/-- The rows a word names, each with whether it is written: a row outside the reservation traps NO_TILE, a row in
conflict with the matrix unit freezes the cell (R87, R163, R424). -/
def vecWord (h : Header) (legal : Bool) (rows : List (BitVec 9 × Bool)) (n : Nat) (s : State)
    (body : Cell → List Land × BitVec 8) : Host.Outcome State Fault Refusal :=
  issueWord h legal false false false s fun c =>
    match rows.findSome? fun r => noTile c r.1 with
    | some t => .trap t
    | none =>
      if rows.any fun r => rowBusy c r.1 r.2 then .freeze
      else
        let r := body c
        .go (s.push (r.1.map fun l => { land := l, n := n, slot := h.slot, ev := r.2 }))

/-- The result of a row word: the governed lanes of vd (R119). -/
def rowResult (ty : Nat) (k : BitVec 256) (vd : BitVec 9) (f : Nat → Nat × BitVec 8) : List Land × BitVec 8 :=
  let r := laneRow ty k f
  ([.row vd r.1 (maskRow ty k)], r.2)

def vrRows (o : VR) : List (BitVec 9 × Bool) := [(o.vd, true), (o.va, false), (o.vb, false)]
def viRows (o : VI) : List (BitVec 9 × Bool) := [(o.vd, true), (o.va, false)]

/-! ### Lane operations (R128) -/

/-- abs, then negate (R128). -/
def modify (ab ng : BitVec 1) (x : FV) : FV :=
  let y := if ab = 1#1 then x.abs else x
  if ng = 1#1 then y.neg else y

def srcA (o : VR) (a : Nat) : FV := modify o.absA o.negA (FV.ofBits o.ty.toNat a)
def srcB (o : VR) (b : Nat) : FV := modify o.absB o.negB (FV.ofBits o.ty.toNat b)

/-- Scale exponent −16 to 15 (R94). -/
def scaleExp (x : BitVec 5) : Int := x.toInt

inductive LaneOp where
  | add
  | sub
  | mul
  | fma
  deriving DecidableEq, Repr

/-- The exact result of a lane operation with the events of its operands. -/
def exactOp (op : LaneOp) (rdn : Bool) (a b c : FV) : FV × BitVec 8 :=
  let r := match op with
    | .add => a.add rdn b
    | .sub => a.add rdn b.neg
    | .mul => a.mul b
    | .fma =>
      let p := a.mul b
      let q := p.1.add rdn c
      (q.1, p.2 ||| q.2 ||| sigEvent c)
  (r.1, r.2 ||| sigEvent a ||| sigEvent b)

/-- Scale, clamp, one rounding, overflow (R128). -/
def finishLane (ty mode : Nat) (sat clamp : Bool) (k : Int) (x : FV) : Nat × BitVec 8 :=
  let y := x.scale k
  narrow ty mode sat false false (if clamp then y.clamp1 else y)

def arithLane (op : LaneOp) (ty mode : Nat) (sat clamp : Bool) (k : Int) (a b c : FV) : Nat × BitVec 8 :=
  let x := exactOp op (decide (mode = 2)) a b c
  let r := finishLane ty mode sat clamp k x.1
  (r.1, r.2 ||| x.2)

def cellMode (c : Cell) (rnd : BitVec 3) : Nat := roundMode c.nx.rmode rnd.toNat

/-- The register form of an arithmetic word (R425, R432). -/
def vecArith (op : LaneOp) (n : Nat) (h : Header) (o : VR) (s : State) : Host.Outcome State Fault Refusal :=
  vecWord h (slotV h && vrArith o) (vrRows o) n s fun c =>
    let ty := o.ty.toNat
    let w := widthOf ty
    rowResult ty (c.rdK o.k) o.vd fun i =>
      arithLane op ty (cellMode c o.rnd) (decide (o.sat = 1)) (decide (o.clamp = 1)) (scaleExp o.scale)
        (srcA o (lane w (c.rdV o.va) i)) (srcB o (bLane ty o.bc (c.rdV o.vb) i)) (FV.ofBits ty (lane w (c.rdV o.vd) i))

/-- The immediate form: negate, abs, scale and broadcast act as 0 (R424). -/
def vecArithImm (op : LaneOp) (n : Nat) (h : Header) (o : VI) (s : State) : Host.Outcome State Fault Refusal :=
  vecWord h (slotV h && viArith o) (viRows o) n s fun c =>
    let ty := o.ty.toNat
    let w := widthOf ty
    rowResult ty (c.rdK o.k) o.vd fun i =>
      arithLane op ty (cellMode c o.rnd) (decide (o.sat = 1)) (decide (o.clamp = 1)) 0
        (FV.ofBits ty (lane w (c.rdV o.va) i)) (FV.ofBits ty (immLane ty o.imm)) (FV.ofBits ty (lane w (c.rdV o.vd) i))

def execVadd (h : Header) (o : VR) (s : State) : Host.Outcome State Fault Refusal := vecArith .add 2 h o s
def execVaddImm (h : Header) (o : VI) (s : State) : Host.Outcome State Fault Refusal := vecArithImm .add 2 h o s
def execVsub (h : Header) (o : VR) (s : State) : Host.Outcome State Fault Refusal := vecArith .sub 2 h o s
def execVsubImm (h : Header) (o : VI) (s : State) : Host.Outcome State Fault Refusal := vecArithImm .sub 2 h o s
def execVmul (h : Header) (o : VR) (s : State) : Host.Outcome State Fault Refusal := vecArith .mul 4 h o s
def execVmulImm (h : Header) (o : VI) (s : State) : Host.Outcome State Fault Refusal := vecArithImm .mul 4 h o s
def execVfma (h : Header) (o : VR) (s : State) : Host.Outcome State Fault Refusal := vecArith .fma 4 h o s
def execVfmaImm (h : Header) (o : VI) (s : State) : Host.Outcome State Fault Refusal := vecArithImm .fma 4 h o s

/-! ### Minimum and maximum (R130, R434) -/

/-- The smaller or larger operand: the one that is no NaN, −0 below +0. -/
def pick (isMax : Bool) (a b : FV) : FV :=
  if a.isNaN then (if b.isNaN then .nan false else b)
  else if b.isNaN then a
  else
    let less := decide (a.cmp b < 0) || (decide (a.cmp b = 0) && a.isNeg)
    if less != isMax then a else b

/-- The operand's bits again, or the canonical NaN; an absolute value outside the type wraps (R128). -/
def pickLane (isMax : Bool) (ty : Nat) (a b : FV) : Nat × BitVec 8 :=
  let r := narrow ty 0 false false false (pick isMax a b)
  (r.1, r.2 ||| sigEvent a ||| sigEvent b)

def vecPick (isMax : Bool) (h : Header) (o : VR) (s : State) : Host.Outcome State Fault Refusal :=
  vecWord h (slotV h && vrMinMax o) (vrRows o) 2 s fun c =>
    let ty := o.ty.toNat
    rowResult ty (c.rdK o.k) o.vd fun i =>
      pickLane isMax ty (srcA o (lane (widthOf ty) (c.rdV o.va) i)) (srcB o (bLane ty o.bc (c.rdV o.vb) i))

def vecPickImm (isMax : Bool) (h : Header) (o : VI) (s : State) : Host.Outcome State Fault Refusal :=
  vecWord h (slotV h && viPlain o) (viRows o) 2 s fun c =>
    let ty := o.ty.toNat
    rowResult ty (c.rdK o.k) o.vd fun i =>
      pickLane isMax ty (FV.ofBits ty (lane (widthOf ty) (c.rdV o.va) i)) (FV.ofBits ty (immLane ty o.imm))

def execVmin (h : Header) (o : VR) (s : State) : Host.Outcome State Fault Refusal := vecPick false h o s
def execVminImm (h : Header) (o : VI) (s : State) : Host.Outcome State Fault Refusal := vecPickImm false h o s
def execVmax (h : Header) (o : VR) (s : State) : Host.Outcome State Fault Refusal := vecPick true h o s
def execVmaxImm (h : Header) (o : VI) (s : State) : Host.Outcome State Fault Refusal := vecPickImm true h o s

/-! ### Comparison (R130, R428) -/

def vecCond (cond : Nat) (a b : FV) : Bool :=
  let un := a.isNaN || b.isNaN
  match cond with
  | 0 => !un && decide (a.cmp b = 0)
  | 1 => un || decide (a.cmp b ≠ 0)
  | 2 => !un && decide (a.cmp b < 0)
  | 3 => !un && decide (a.cmp b ≤ 0)
  | 4 => !un && decide (0 < a.cmp b)
  | 5 => !un && decide (0 ≤ a.cmp b)
  | 6 => un
  | _ => !un

/-- A mask from a test per lane. -/
def maskOfLanes (n : Nat) (f : Nat → Bool) : BitVec 256 :=
  BitVec.ofNat 256 (ofLanes 1 ((List.range n).map fun i => if f i then 1 else 0))

/-- kd is written whole: masked-off lanes keep kd as read at issue, bits above the lanes are 0 (R428). -/
def execVcmp (h : Header) (o : VR) (s : State) : Host.Outcome State Fault Refusal :=
  vecWord h (slotV h && vrCmp o) [(o.va, false), (o.vb, false)] 2 s fun c =>
    let ty := o.ty.toNat
    let kd := o.vd.extractLsb' 0 3
    let a := fun i => srcA o (lane (widthOf ty) (c.rdV o.va) i)
    let b := fun i => srcB o (bLane ty o.bc (c.rdV o.vb) i)
    let m := maskOfLanes (lanesOf ty) fun i =>
      if bit (c.rdK o.k) i then vecCond o.scale.toNat (a i) (b i) else bit (c.rdK kd) i
    let ev := (List.range (lanesOf ty)).foldl (fun e i =>
      if bit (c.rdK o.k) i then e ||| sigEvent (a i) ||| sigEvent (b i) else e) 0
    ([.k kd m], ev)

/-! ### Conversion (R131, R132, R429) -/

/-- Converts one element under a word's scale, clamp, rounding and saturation. -/
def convLane (dst src mode : Nat) (sat clamp : Bool) (k : Int) (x : FV) : Nat × BitVec 8 :=
  let y := x.scale k
  let r := narrow dst mode sat true (isFloat src) (if clamp then y.clamp1 else y)
  (r.1, r.2 ||| sigEvent x)

/-- An integer has no zero of its own sign: the negated 0 is 0. -/
def unsignZero (src : Nat) (x : FV) : FV := if !isFloat src && x.isZero then .fin false 0 0 else x

def execVcvt (h : Header) (o : VR) (s : State) : Host.Outcome State Fault Refusal :=
  vecWord h (slotV h && vrCvt o) [(o.vd, true), (o.va, false)] 3 s fun c =>
    let ty := o.ty.toNat
    let src := fld o.vb 0 4
    rowResult ty (c.rdK o.k) o.vd fun i =>
      if i < lanesOf src then
        convLane ty src (cellMode c o.rnd) (decide (o.sat = 1)) (decide (o.clamp = 1)) (scaleExp o.scale)
          (unsignZero src (modify o.absA o.negA (FV.ofBits src (lane (widthOf src) (c.rdV o.va) i))))
      else (0, 0)

/-! ### Device functions (R144, R430) -/

/-- A function of the FP32 value, then scale, clamp and the narrowing into T. A signalling NaN operand counts an invalid event:
R130 and R147 say so of any operation, R144 lists the events of these functions without it and R143 names no NaN, and that the
general rules stand is the model's choice (log 36). -/
def vecDev (f : FV → FV × BitVec 8) (h : Header) (o : VR) (s : State) : Host.Outcome State Fault Refusal :=
  vecWord h (slotV h && vrDev o) [(o.vd, true), (o.va, false)] 8 s fun c =>
    let ty := o.ty.toNat
    rowResult ty (c.rdK o.k) o.vd fun i =>
      let a := srcA o (lane (widthOf ty) (c.rdV o.va) i)
      let x := f a
      let r := finishLane ty (cellMode c o.rnd) (decide (o.sat = 1)) (decide (o.clamp = 1)) (scaleExp o.scale) x.1
      (r.1, r.2 ||| x.2 ||| sigEvent a)

def execVrcp (h : Header) (o : VR) (s : State) : Host.Outcome State Fault Refusal := vecDev vrcp h o s
def execVrsq (h : Header) (o : VR) (s : State) : Host.Outcome State Fault Refusal := vecDev vrsq h o s
def execVexp2 (h : Header) (o : VR) (s : State) : Host.Outcome State Fault Refusal := vecDev exp2Dev h o s
def execVlog2 (h : Header) (o : VR) (s : State) : Host.Outcome State Fault Refusal := vecDev vlog2 h o s
def execVtanh (h : Header) (o : VR) (s : State) : Host.Outcome State Fault Refusal := vecDev vtanh h o s

/-! ### Reduction (R437) -/

/-- One step of a float reduction: the accumulator, absent before the first lane, and the events. -/
def redStep (fn : Nat) (p : Option FV × BitVec 8) (x : FV) : Option FV × BitVec 8 :=
  match p.1 with
  | none => (some x, p.2 ||| sigEvent x)
  | some a =>
    if fn = 0 then
      let e := a.add false x
      let r := f32r e.1
      (some (f32 r.1), p.2 ||| e.2 ||| r.2 ||| sigEvent x)
    else (some (pick (decide (fn = 2)) a x), p.2 ||| sigEvent x)

def redFloat (fn : Nat) (xs : List FV) : Nat × BitVec 8 :=
  let r := xs.foldl (redStep fn) (none, 0)
  let acc := r.1.getD (match fn with
    | 0 => .fin false 0 0
    | 1 => .inf false
    | _ => .inf true)
  let b := f32r acc
  (b.1, r.2 ||| b.2)

/-- A lane as a number: sign- or zero-extended (R437). -/
def laneInt (ty x : Nat) : Int := if isSigned ty then sgn (widthOf ty) x else ((x % 2 ^ widthOf ty : Nat) : Int)

def redInt (ty fn : Nat) (xs : List Nat) : Int :=
  let vs := xs.map (laneInt ty)
  match fn with
  | 0 => vs.foldl (· + ·) 0
  | 1 => vs.foldl min (intBounds ty).2
  | 2 => vs.foldl max (intBounds ty).1
  | 3 => laneInt ty (xs.foldl (· &&& ·) (2 ^ widthOf ty - 1))
  | 4 => laneInt ty (xs.foldl (· ||| ·) 0)
  | _ => laneInt ty (xs.foldl (· ^^^ ·) 0)

def execVred (h : Header) (o : VX) (s : State) : Host.Outcome State Fault Refusal :=
  vecWord h (slotV h && vxRed o) [(o.v, false)] 6 s fun c =>
    let ty := o.ty.toNat
    let xs := ((List.range (lanesOf ty)).filter fun i => bit (c.rdK o.k) i).map fun i => lane (widthOf ty) (c.rdV o.v) i
    if isFloat ty then
      let r := redFloat o.fn.toNat (xs.map (FV.ofBits ty))
      ([c.dstS o.s (BitVec.ofNat 64 r.1)], r.2)
    else ([c.dstS o.s (BitVec.ofInt 64 (redInt ty o.fn.toNat xs))], 0)

end Sys2Proof.Machine
end

