-- ==== Sys2Proof/Machine/MArith.lean ====
section
/-! DEFINITION. The multiply of the matrix unit, codebook decode and the conversions of tile rows (R133 to R141, R150,
R153, R159, R161). -/

namespace Sys2Proof.Machine

/-! ### Formats (R139, R153) -/

/-- Products of one group (R139). -/
def groupSize (fmt : Nat) : Nat :=
  match fmt with
  | 3 => 16
  | 9 => 16
  | 4 => 4
  | 5 => 4
  | _ => 8

/-- Which tile types a format suits (R139). -/
def fmtSuits (fmt : Nat) (ty : BitVec 2) : Bool := decide (fmt = 6 ∨ fmt = 7) == decide (ty = 1#2)

/-- Element type code of a tile type (R150, R391). -/
def tileElem (ty : BitVec 2) : Nat :=
  match ty.toNat with
  | 0 => 0
  | 1 => 6
  | 2 => 1
  | _ => 2

/-! ### Codebook decode (R135) -/

/-- The 8 weights of a codeword, as one number. -/
def decodeWord (cb : Reg 8 Word) (cw : Nat) : Nat :=
  let v := (cb.rd (BitVec.ofNat 8 (cw / 256))).toNat
  v ^^^ ((List.range 8).foldl (fun m j => if cw.testBit j then m + 128 * 2 ^ (8 * j) else m) 0)

/-- A line of weights from its codewords; beyond them it is zero. -/
def decodeLine (cb : Reg 8 Word) (cws : List Nat) : Row := rowOf 64 (cws.map (decodeWord cb))

/-! ### Panels (R153, R159) -/

/-- A value under an E8M0 scale; 0xFF is a NaN (R133). -/
def FV.scaleBy (e : Nat) (x : FV) : FV := if e = 255 then .nan false else x.scale ((e : Int) - 127)

/-- Row `i` of a panel as element bits: line `i`, or element 64·k + i when transposed (R159). -/
def panelRow (ty : Nat) (l : Latch) (ta : Bool) (i : Nat) : List Nat :=
  let w := widthOf ty
  let n := lanesOf ty
  if ta then (List.range n).map fun k =>
    lane w (l.lines.rd (BitVec.ofNat 6 ((64 * k + i) / n))) ((64 * k + i) % n)
  else (List.range n).map (lane w (l.lines.rd (BitVec.ofNat 6 i)))

/-- The exact values of a panel row, under its block scales in formats 8 and 9 (R134, R140). -/
def panelValues (fmt ty : Nat) (l : Latch) (ta : Bool) (i : Nat) : List FV :=
  let xs := (panelRow ty l ta i).map (FV.ofBits ty)
  if 8 ≤ fmt then
    let sc := l.scales.rd (BitVec.ofNat 6 i)
    xs.mapIdx fun k x => x.scaleBy (fld sc (8 * (k / 32)) 8)
  else xs

/-! ### One element (R140) -/

/-- A product and its events: a signalling operand and 0 × ∞ count invalid (R147). -/
def product (neg : Bool) (a b : FV) : FV × BitVec 8 :=
  let p := a.mul b
  (if neg then p.1.neg else p.1, p.2 ||| sigEvent a ||| sigEvent b)

/-- One step over the terms of a group, rounded once to FP32. The first case of R140 names a NaN operand, a NaN scale and 0·∞; that
an acc which is NaN already comes under it as well, so that infinite terms of both signs in such a step count no invalid event, is
the model's choice (log 36). -/
def groupStep (window : Bool) (acc : FV) (terms : List FV) : FV × BitVec 8 :=
  if acc.isNaN ∨ (terms.any FV.isNaN = true) then (.nan false, evNaN)
  else if window && acc.isFin && terms.all FV.isFin then lastRound (windowSum acc terms)
  else
    let r := terms.foldl (fun p t =>
      let x := p.1.add false t
      (x.1, p.2 ||| x.2)) (acc, (0 : BitVec 8))
    let q := lastRound r.1
    (q.1, r.2 ||| q.2)

/-- The steps of one element in order, `g` terms at a time; `n` is the number of steps. -/
def groupSteps (window : Bool) (g : Nat) : Nat → FV × BitVec 8 → List (FV × BitVec 8) → FV × BitVec 8
  | 0, acc, _ => acc
  | n + 1, acc, ts =>
    let now := ts.take g
    let r := groupStep window acc.1 (now.map (·.1))
    groupSteps window g n (r.1, now.foldl (fun e t => e ||| t.2) (acc.2 ||| r.2)) (ts.drop g)

/-- An element of a float tile, as bits of the tile's type (R140). -/
def floatElem (fmt ty : Nat) (neg : Bool) (acc : FV) (as bs : List FV) : Nat × BitVec 8 :=
  let r := groupSteps (decide (fmt = 4 ∨ fmt = 5)) (groupSize fmt) (lineLanes fmt / groupSize fmt) (acc, sigEvent acc)
    (List.zipWith (product neg) as bs)
  let q := narrow ty 0 false false false r.1
  (q.1, r.2 ||| q.2)

/-- An element of an INT32 tile (R140). -/
def intElem (neg : Bool) (acc : Int) (as bs : List Int) : Nat :=
  let x := (List.zipWith (· * ·) as bs).foldl (· + ·) 0
  wrap 32 (if neg then acc - x else acc + x)

def intValues (ty : Nat) (l : Latch) (ta : Bool) (i : Nat) : List Int :=
  (panelRow ty l ta i).map fun x => if isSigned ty then sgn 8 x else (x : Int)

/-! ### A whole MMA (R159) -/

/-- Row `r` of tile `z`. -/
def tileRow (c : Cell) (z : BitVec 3) (r : Nat) : Row := c.regs.v.rd (z ++ BitVec.ofNat 6 r)

def setTileRows (c : Cell) (z : BitVec 3) (rows : List Row) : Cell :=
  let v := (List.range 64).foldl (fun v r => v.wr (z ++ BitVec.ofNat 6 r) (rows.getD r 0)) c.regs.v
  { c with regs := { c.regs with v := v } }

/-- The new rows of the tile and the events. A 16-bit tile changes in the half that lb selects. -/
def mmaRows (c : Cell) (z : BitVec 3) (la lb : BitVec 2) (fmt : Nat) (ta neg acc : Bool) : List Row × BitVec 8 :=
  let ty := tileElem (c.mx.ztype.rd z)
  let w := widthOf ty
  let base := if w = 16 then 64 * (lb.toNat % 2) else 0
  let tyA := operandType fmt false
  let tyB := operandType fmt true
  let A := c.mx.la.rd la
  let B := c.mx.lb.rd lb
  let elems : List (List (Nat × BitVec 8)) :=
    if ty = 6 then
      let bs := (List.range 64).map (intValues tyB B false)
      (List.range 64).map fun i =>
        let a := intValues tyA A ta i
        bs.mapIdx fun j b => (intElem neg (if acc then sgn 32 (lane 32 (tileRow c z i) j) else 0) a b, 0)
    else
      let bs := (List.range 64).map (panelValues fmt tyB B false)
      (List.range 64).map fun i =>
        let a := panelValues fmt tyA A ta i
        bs.mapIdx fun j b =>
          floatElem fmt ty neg (if acc then FV.ofBits ty (lane w (tileRow c z i) (base + j)) else .fin false 0 0) a b
  (elems.mapIdx fun i es =>
      let old := (List.range (lanesOf ty)).map (lane w (tileRow c z i))
      rowOf w (old.take base ++ es.map (·.1) ++ old.drop (base + 64)),
    elems.foldl (fun e es => es.foldl (fun e x => e ||| x.2) e) 0)

/-! ### MSTZ (R161, R395) -/

/-- The bytes of the first `cols` elements of a tile row, converted to the output type, and the events. -/
def storeRow (tile ty mode cols : Nat) (sat : Bool) (k : Int) (r : Row) : List Byte × BitVec 8 :=
  let xs := (List.range cols).map fun j =>
    convLane ty tile mode sat false k (FV.ofBits tile (lane (widthOf tile) r j))
  (toBytes (cols * widthOf ty / 8) (ofLanes (widthOf ty) (xs.map (·.1))), xs.foldl (fun e x => e ||| x.2) 0)

end Sys2Proof.Machine
end

