-- ==== Sys2Proof/Machine/Accord.lean ====
section
/-! DEFINITION. The accord engines: ACCB, ACCE, ACCINV, decisions, samples, epochs, and TLBI, which may end a region (R223,
R299 to R309, R320 to R323, R420). -/

namespace Sys2Proof.Machine

/-! ### Descriptors (R299) -/

structure AccDesc where
  en : Bool
  isrc : Bool
  osrc : Bool
  nin : Nat
  nout : Nat
  inAt : Nat
  outAt : Nat
  hidden : Nat
  units : Nat
  act : BitVec 2
  ns : Nat
  vlim : Nat
  mean : Nat
  maxe : Nat
  lr : Nat
  mom : Nat
  nobs : Nat
  ring : Nat
  wts : Nat
  trn : Nat
  osc : List Nat
  deriving DecidableEq, Repr

/-- FP32 `i` of a byte list. -/
def floatAt (bs : List Byte) (i : Nat) : Nat := leNat ((bs.drop (4 * i)).take 4)

def parseDesc (bs : List Byte) : AccDesc :=
  let w := BitVec.ofNat 64 (wordAt bs 0)
  let isrc := bit w 1
  let osrc := bit w 2
  { en := bit w 0, isrc := isrc, osrc := osrc, nin := fld w 8 7, nout := fld w 16 5
    inAt := if isrc then fld w 21 6 else fld w 21 9
    outAt := if osrc then fld w 30 6 else fld w 30 9
    hidden := fld w 40 2, units := fld w 42 7, act := w.extractLsb' 49 2, ns := fld w 52 4, vlim := fld w 56 8
    mean := floatAt bs 2, maxe := floatAt bs 3, lr := floatAt bs 4, mom := floatAt bs 5
    nobs := wordAt bs 3 % 2 ^ 17, ring := wordAt bs 4 % 2 ^ 56, wts := wordAt bs 5 % 2 ^ 56, trn := wordAt bs 6 % 2 ^ 56
    osc := (List.range 16).map fun j => floatAt bs (16 + j) }

/-- Layer widths: NIN, U repeated H times, NOUT. -/
def layerWidths (d : AccDesc) : List Nat := d.nin :: (List.replicate d.hidden d.units ++ [d.nout])

/-- C: the sum of (fan-in + 1) × fan-out. -/
def weightCount : List Nat → Nat
  | a :: b :: r => (a + 1) * b + weightCount (b :: r)
  | _ => 0

def malformed (d : AccDesc) (tiles : Nat) : Bool :=
  decide (d.nin < 1 ∨ 64 < d.nin ∨ d.nout < 1 ∨ 16 < d.nout ∨ d.units < 1 ∨ 64 < d.units ∨ d.act = 3#2)
    || decide (d.nobs < 256 ∨ 65536 < d.nobs ∨ d.ring % 65536 ≠ 0 ∨ d.wts % 16384 ≠ 0)
    || decide (16384 < 2 * weightCount (layerWidths d))
    || (if d.isrc then decide (64 < d.inAt + d.nin) else decide (tiles ≤ d.inAt / 64))
    || (if d.osrc then decide (64 < d.outAt + d.nout) else decide (tiles ≤ d.outAt / 64))

/-- Values of a row's first lanes or of scalars from a base (R299). -/
def readVals (c : Cell) (scalar : Bool) (at_ n : Nat) : List (BitVec 32) :=
  (List.range n).map fun i =>
    if scalar then (c.rdS (BitVec.ofNat 6 (at_ + i))).extractLsb' 0 32
    else BitVec.ofNat 32 (lane 32 (c.rdV (BitVec.ofNat 9 at_)) i)

/-- Where the outputs land; other lanes and scalars stay. What bits [63:32] of an output scalar hold is left open. -/
def outLands (free : Nat) (scalar : Bool) (at_ : Nat) (vs : List (BitVec 32)) : List Land :=
  if scalar then
    (List.range vs.length).map fun i =>
      .s (BitVec.ofNat 6 (at_ + i)) ((Config.freeWord (free + i)).extractLsb' 32 32 ++ vs.getD i 0)
  else [.row (BitVec.ofNat 9 at_) (rowOf 32 (vs.map (·.toNat))) (BitVec.ofNat 2048 (2 ^ (32 * vs.length) - 1))]

/-! ### Regions (R300, R309) -/

/-- The region of a descriptor and the engine that holds it. -/
def findRegion (s : State) (ctx : BitVec 16) (va : Nat) : Option (BitVec 2 × Region) :=
  (List.range 4).findSome? fun e =>
    ((s.accord.regions.rd (BitVec.ofNat 2 e)).find? fun r => decide (r.ctx = ctx) && decide (r.va = va)).map fun r =>
      (BitVec.ofNat 2 e, r)

/-- Words 16 to 18 as the engine writes them. -/
def statusBytes (r : Region) : List Byte :=
  toBytes 8 (r.why.toNat * 256 + r.state.toNat) ++ toBytes 4 r.ver ++ toBytes 4 r.viol
    ++ toBytes 4 (min r.nsmp 65536) ++ toBytes 4 r.inv

/-- Writes of engine `e`; those that cannot be translated are lost (log 24). For the regions that it holds itself they count as no
write to a descriptor (R309). -/
def ctxTry (s : State) (e : BitVec 2) (ctx : BitVec 16) (va : Nat) (bs : List Byte) : State :=
  match ctxWrite s ctx va bs with
  | .error _ => s
  | .ok s1 => { s1 with accord := { s1.accord with regions := s1.accord.regions.wr e (s.accord.regions.rd e) } }

/-- Puts a region into an engine's table and writes its status words. -/
def putRegion (s : State) (e : BitVec 2) (r : Region) : State :=
  let l := s.accord.regions.rd e
  let l1 := if l.any fun x => decide (x.ctx = r.ctx) && decide (x.va = r.va) then
      l.map fun x => if x.ctx = r.ctx ∧ x.va = r.va then r else x
    else l ++ [r]
  ctxTry { s with accord := { s.accord with regions := s.accord.regions.wr e l1 } } e r.ctx (r.va + 128) (statusBytes r)

/-- Every region of a set that is not OFF returns to OFF with WHY 3; VER is kept (R309). -/
def invalidate (s : State) (p : Region → Bool) : State :=
  (List.range 4).foldl (fun s e =>
    (s.accord.regions.rd (BitVec.ofNat 2 e)).foldl (fun s r =>
      if p r && decide (r.state ≠ 0) then
        putRegion s (BitVec.ofNat 2 e) { r with state := 0, why := 3, nsmp := 0, inv := 0, written := false }
      else s) s) s

/-! ### TLBI (R223, R309, R420) -/

/-- The level at which the walk of an address ends: that of its leaf, or of the entry that stops it. -/
def walkLevel (s : State) (va : Nat) : Nat → Nat → Nat → Nat
  | 0, level, _ => level
  | fuel + 1, level, table =>
    let e := s.mem.word (table + 8 * (va / leafBytes level % 1024))
    if level < 3 ∧ bit e 0 = true ∧ bit e 1 = true ∧ pteRsv e = false then walkLevel s va fuel (level + 1) (pteAddr e)
    else level

/-- The VAs that a translation covers: its page or block. Where the entry is unmapped already, all that the entry that
stops the walk could map (log 24). -/
def leafRange (s : State) (ctx : BitVec 16) (va : Nat) : Nat × Nat :=
  let n := match rootOf s ctx with
    | some t => leafBytes (walkLevel s va 3 0 t)
    | none => leafBytes 0
  (va / n * n, n)

/-- Regions with a word of code in the range of a TLBI. -/
def tlbiRegions (s : State) (ctx : BitVec 16) (va : Option Nat) (r : Region) : Bool :=
  decide (r.ctx = ctx) &&
    match va with
    | none => true
    | some a => decide ((leafRange s ctx a).1 ≤ r.last) && decide (r.first < (leafRange s ctx a).1 + (leafRange s ctx a).2)

/-- The entries of a table that are not all zero. -/
def tableEntries (s : State) (table : Nat) : List Nat :=
  ((s.mem.filter fun x => decide (table ≤ x.1) && decide (x.1 < table + 8192)).map fun x => (x.1 - table) / 8).eraseDups

/-- The leaves below a table of a level that maps from `va` (R217, R218). -/
def leavesOf (s : State) : Nat → Nat → Nat → Nat → List Leaf
  | 0, _, _, _ => []
  | fuel + 1, level, va, table =>
    (tableEntries s table).flatMap fun i =>
      let e := s.mem.word (table + 8 * i)
      let here := va + i * leafBytes level
      if !bit e 0 || pteRsv e then []
      else if bit e 1 then leavesOf s fuel (level + 1) here (pteAddr e)
      else if level = 0 then []
      else [{ va := here, pa := pteAddr e, size := leafBytes level }]

/-- What the tables hold of the translations that a TLBI names (R223, R225). -/
def stillMapped (s : State) (ctx : BitVec 16) (va : Option Nat) : List Leaf :=
  match rootOf s ctx, va with
  | none, _ => []
  | some t, none => leavesOf s 4 0 0 t
  | some t, some a => match walk s a 4 0 t with
    | .error _ => []
    | .ok (l, e) => [{ va := a / leafBytes l * leafBytes l, pa := pteAddr e, size := leafBytes l }]

/-- A leaf of the tables still maps the page. -/
def Leaf.holds (q : Freed) (l : Leaf) : Bool :=
  decide (l.va ≤ q.va) && decide (q.va < l.va + l.size) && decide (l.pa + (q.va - l.va) = q.pa)

/-- A TLBI names a page and found it mapped no longer. -/
def unmaps (q : Freed) (t : Tlbi) : Bool :=
  decide (t.ctx = q.ctx)
    && (match t.va with
      | none => true
      | some va => decide (va / 65536 = q.va / 65536))
    && !t.still.any (Leaf.holds q)

/-- A TLBI takes the next number; the caches follow under QUIESCE_ADVANCE (R223, R224, R309). -/
def numberTlbi (s : State) (ctx : BitVec 16) (va : Option Nat) : State :=
  let s1 := invalidate s (tlbiRegions s ctx va)
  let x : Shoot := { n := s1.pkg.tlbiNext, first := s1.nextId, ctx := ctx, va := va }
  let t : Tlbi := { n := x.n, ctx := ctx, va := va, still := stillMapped s1 ctx va }
  { s1 with pkg := { s1.pkg with
      tlbiNext := x.n + 1, shoots := s1.pkg.shoots ++ [x], tlbis := s1.pkg.tlbis ++ [t] } }

/-- The issuing cell loses its translations at once (R223). -/
def takeTlbi (s : State) (ci : BitVec 9) (ctx : BitVec 16) (va : Option Nat) : State :=
  numberTlbi (s.updAt ci (tlbDrop ctx va)) ctx va

def execTlbi (h : Header) (o : CS) (s : State) : Host.Outcome State Fault Refusal :=
  issueWord h (slotC h && csTlbi o) true true false s fun c =>
    let ctx := (c.rdS o.sb).extractLsb' 0 16
    let va := if bit o.imm 0 then none else some (fld (c.rdS o.sa) 0 56)
    .go ((takeTlbi s s.cur ctx va).push
      [{ land := c.dstS o.sd (BitVec.ofNat 64 s.pkg.tlbiNext), n := 1, slot := h.slot, ev := 0 }])

/-! ### ACCB, ACCE, ACCINV -/

/-- The descriptor's 256 bytes, which must translate for reading and for writing (R301, R320). -/
def descAccess (s : State) (va : Word) : Except Trap (Nat × State) :=
  if va.toNat % 256 ≠ 0 then .error (trapOf cAlign va)
  else
    match xlate s s.cur va 0 with
    | .error t => .error t
    | .ok (pa, s1) =>
      match xlate s1 s.cur va 1 with
      | .error t => .error t
      | .ok (_, s2) => .ok (pa, s2)

def sendAccord (s : State) (e : BitVec 2) (m : AccMsg) : State :=
  { s with accord := { s.accord with msgs := s.accord.msgs.wr e (s.accord.msgs.rd e ++ [m]) } }

/-- The engine that holds a region, else that of the cell's frame (R300). -/
def engineFor (s : State) (ctx : BitVec 16) (va : Nat) : BitVec 2 :=
  match findRegion s ctx va with
  | some (e, _) => e
  | none => BitVec.ofNat 2 (frameOf s.cur)

/-- The arrival that an ACCB sends: what the decision needs of the task (R302, R320). -/
def accbMsg (ci : BitVec 9) (c : Cell) (o : CB) (d : AccDesc) : AccMsg :=
  let w := codeBase c + 10 * c.pipe.pc.toNat
  .enter ci c.task.gang c.task.gmem c.task.ctx (c.rdS o.sa).toNat
    (if malformed d (tilesOf c) then [] else readVals c d.isrc d.inAt d.nin) (c.task.det || c.task.fused) false (tilesOf c)
    w (w + 10 * o.off.toNat - 1)

/-- A row of the descriptor in conflict with the matrix unit (R163). -/
def accbBusy (c : Cell) (d : AccDesc) : Bool :=
  !malformed d (tilesOf c) && ((!d.isrc && rowBusy c (BitVec.ofNat 9 d.inAt) false)
    || (!d.osrc && rowBusy c (BitVec.ofNat 9 d.outAt) true))

/-- What a decision does to the cell: the region opens and the body follows, or the outputs land, before anything in flight, and
fetch is to go to the target `t` (R302, R303, R320). -/
def takeAnswer (free : Nat) (t : BitVec 32) (a : AccAnswer) (x : Cell) : Cell :=
  match a with
  | .body r => { x with wait := .none, region := some r }
  | .skip scalar at_ outs =>
    let y := (outLands free scalar at_ outs).foldl Cell.land { x with wait := .none, region := none }
    { y with pipe := { y.pipe with redirect := some t } }

/-- ACCB issues: its arrival is sent, and the cell freezes until the decision lands; the other words of its bundle have issued with
it (R302, R320, log 28). Its descriptor is read at issue, in a peer's memory by a load (R194, R294). -/
def execAccb (h : Header) (o : CB) (s : State) : Host.Outcome State Fault Refusal :=
  issueWord h (slotC h && cbRegion o) false false false s fun c =>
    match descAccess s (c.rdS o.sa) with
    | .error t => .trap t
    | .ok (pa, s1) =>
      if orderWaits c then .freeze
      else
        match homeLoad s1 s.cur (domainPage s1 s.cur (c.rdS o.sa).toNat) pa with
        | .waits => .freeze
        | .sent s2 => .poll s2
        | .ready s2 =>
          let d := parseDesc (s2.mem.bytes pa 256)
          if accbBusy c d then .freeze
          else
            .go ((sendAccord s2 (engineFor s2 c.task.ctx (c.rdS o.sa).toNat) (accbMsg s.cur c o d)).upd fun c =>
              { c with wait := .accb (directTarget c o) })

/-- A sample of the open region, if it was opened on the true path; the region closes, whichever path opened it: of the NOP of
the OFF path this is the model's reading (R302, R303, R322, log 24). The descriptor is the one that its ACCB has brought: no
flit asks for it again, and ACCE waits for nothing (log 24). -/
def execAcce (h : Header) (o : CB) (s : State) : Host.Outcome State Fault Refusal :=
  issueWord h (slotC h && cbIndirect o) false false false s fun c =>
    match c.region with
    | none => .go s
    | some r =>
      if r.va ≠ (c.rdS o.sa).toNat then .go s
      else
        let s1 := s.upd fun c => { c with region := none }
        match ctxRead s c.task.ctx r.va 256 with
        | .error _ => .go s1
        | .ok bs =>
          let d := parseDesc bs
          if r.true_ then
            .go (sendAccord s1 r.engine (.sample s.cur c.task.gang c.task.gmem c.task.ctx r.va r.ins
              (readVals c d.osrc d.outAt d.nout) r.check))
          else .go s1

def execAccinv (h : Header) (o : CS) (s : State) : Host.Outcome State Fault Refusal :=
  issueWord h (slotC h && csAccinv o) false false false s fun c =>
    let va := c.rdS o.sa
    match descAccess s va with
    | .error t => .trap t
    | .ok (_, s1) =>
      let s2 := s1.upd fun c => match c.region with
        | some r => if r.va = va.toNat then { c with region := none } else c
        | none => c
      orderedIssue c (match findRegion s2 c.task.ctx va.toNat with
        | none => .go s2
        | some (e, _) =>
          .go ((sendAccord s2 e (.inval s.cur c.task.gang c.task.gmem c.task.ctx va.toNat)).upd fun c =>
            { c with wait := .accinv }))

/-! ### The network (R307) -/

def toBf16 (x : FV) : FV := FV.ofBits 1 (narrow 1 0 false false false x).1

/-- The weights of a unit and then its bias: the inputs in groups of 4 by the window sum. -/
def unitOut (ws ins : List FV) : FV :=
  let n := ins.length
  (groupSteps true 4 (ceilDiv n 4) (ws.getD n (.fin false 0 0), 0) (List.zipWith (product false) ws ins)).1

def accAct (act : BitVec 2) (x : FV) : FV :=
  if act = 0#2 then (if x.isNaN || !x.isNeg then x else .fin false 0 0)
  else if act = 1#2 then (vtanh x).1
  else
    let e := (exp2Dev (rne (x.neg.mul (f32 0x3FB8AA3B)).1)).1
    rne (x.mul (vrcp (rne (FV.one.add false e).1)).1).1

/-- The layers in order; hidden results pass the activation and round to BF16. Weights lie unit by unit, each unit's
weights before its bias (log 24). -/
def network (act : BitVec 2) : List Nat → List FV → List FV → List FV
  | a :: b :: r, ws, ins =>
    let outs := (List.range b).map fun u => unitOut ((ws.drop (u * (a + 1))).take (a + 1)) ins
    if r = [] then outs else network act (b :: r) (ws.drop ((a + 1) * b)) (outs.map fun x => toBf16 (accAct act x))
  | _, _, ins => ins

def netOut (d : AccDesc) (ws : List FV) (ins : List (BitVec 32)) : List FV :=
  network d.act (layerWidths d) ws (ins.map fun x => toBf16 (f32 x.toNat))

/-- The surrogate's outputs: y_j·OSC_j in FP32. -/
def surrogate (d : AccDesc) (ws : List FV) (ins : List (BitVec 32)) : List (BitVec 32) :=
  List.zipWith (fun y o => BitVec.ofNat 32 (f32r (y.mul (f32 o)).1).1) (netOut d ws ins) d.osc

/-- The buffer that is live at version `ver` (R299). -/
def weightsAt (d : AccDesc) (ver : Nat) : Nat := d.wts + 16384 * (ver % 2)

/-- The live weights, in BF16, of version `ver`. -/
def liveWeights (s : State) (ctx : BitVec 16) (d : AccDesc) (ver : Nat) : List FV :=
  let n := weightCount (layerWidths d)
  match ctxRead s ctx (weightsAt d ver) (2 * n) with
  | .error _ => []
  | .ok bs => (List.range n).map fun i => FV.ofBits 1 (leNat ((bs.drop (2 * i)).take 2))

/-! ### Decisions (R302, R304) -/

/-- The decision reaches the waiting cell; a withdrawn ACCB has none that waits (R302, R321). -/
def answerAccb (s : State) (gang : Nat) (gmem : BitVec 6) (a : AccAnswer) : State :=
  match cellOfTask s gang gmem with
  | none => s
  | some ci => s.updAt ci fun c => match c.wait with
    | .accb t => { c with wait := .accbDone t a }
    | _ => c

/-- An open region that the true path, or the OFF path, left. -/
def openRegion (va : Nat) (on : Bool) (e : BitVec 2) (ins : List (BitVec 32)) (check : Option (List (BitVec 32))) :
    OpenRegion :=
  { va := va, true_ := on, engine := e, ins := ins, check := check }

/-- Regions of an engine that are not OFF; 64 fill it (R300). -/
def engineFull (s : State) (e : BitVec 2) : Bool :=
  decide (64 ≤ ((s.accord.regions.rd e).filter fun r => decide (r.state ≠ 0)).length)

def newRegion (ctx : BitVec 16) (va : Nat) : Region :=
  { va := va, ctx := ctx, state := 0, why := 0, ver := 0, viol := 0, nsmp := 0, inv := 0, first := 0, last := 0
    written := false }

/-- Before an engine acts, the regions whose descriptor another agent has written return to OFF (R309). -/
def settleRegions (s : State) : State := invalidate s Region.written

/-- A malformed or crowded-out region stays OFF, held by no engine: only its status words say so (R299, R300). -/
def stayOff (s : State) (e : BitVec 2) (r : Region) (why : BitVec 8) : State :=
  match findRegion s r.ctx r.va with
  | some _ => putRegion s e { r with state := 0, why := why }
  | none => ctxTry s e r.ctx (r.va + 128) (statusBytes { r with why := why })

/-- What an arrival does to a region in OFF: with EN it starts OBSERVE, for the arrivals after it (R299, R300, R304, R309). -/
def leaveOff (s : State) (e : BitVec 2) (r : Region) (first last : Nat) (d : AccDesc) : State :=
  if !d.en then s
  else if engineFull s e then stayOff s e r 2
  else
    putRegion s e { r with
      state := 1, why := 0, nsmp := 0, inv := 0, first := first, last := last, written := false }

/-- One arrival at the engine that holds the region, in arrival order: the path is that of the state at its arrival (R302,
R304). -/
def decideEnter (s : State) (e : BitVec 2) (gang : Nat) (gmem : BitVec 6) (ctx : BitVec 16) (va : Nat)
    (ins : List (BitVec 32)) (off withdrawn : Bool) (tiles first last : Nat) : State :=
  let say := fun (s : State) (a : AccAnswer) => if withdrawn then s else answerAccb s gang gmem a
  let off_ := .body (openRegion va false e [] none)
  if off then say s off_
  else
    match ctxLoad s ctx va 256 with
    | .error _ => say s off_
    | .ok (bs, s) =>
      let d := parseDesc bs
      let r := match findRegion s ctx va with
        | some (_, r) => r
        | none => newRegion ctx va
      if malformed d tiles then say (stayOff s e r 1) off_
      else if r.state = 0 then say (leaveOff s e r first last d) off_
      else
        let r1 := { r with first := first, last := last }
        if r.state = 3 then
          let s1 := putRegion s e { r1 with inv := (r.inv + 1) % 2 ^ 32 }
          let outs := surrogate d (liveWeights s1 ctx d r.ver) ins
          let s2 := ctxFlits s1 ctx (weightsAt d r.ver) (2 * weightCount (layerWidths d))
          if r.inv % 2 ^ d.ns = 0 then say s2 (.body (openRegion va true e ins (some outs)))
          else say s2 (.skip d.osrc d.outAt outs)
        else say (putRegion s e r1) (.body (openRegion va true e ins none))

def dropMsg (s : State) (e : BitVec 2) : State :=
  { s with accord := { s.accord with msgs := s.accord.msgs.wr e ((s.accord.msgs.rd e).drop 1) } }

/-- What the engine does on its oldest arrival, when it is an ACCB or an ACCINV. An arrival whose region another engine holds by
now goes on to that engine (R300, R302, R304, R309). -/
def decideHead (e : BitVec 2) (s : State) : State :=
  match s.accord.msgs.rd e with
  | .enter ci gang gmem ctx va ins off wd tiles first last :: _ =>
    let s1 := settleRegions (dropMsg s e)
    match findRegion s1 ctx va with
    | some (e', _) =>
      if e' = e then decideEnter s1 e gang gmem ctx va ins off wd tiles first last
      else sendAccord s1 e' (.enter ci gang gmem ctx va ins off wd tiles first last)
    | none => decideEnter s1 e gang gmem ctx va ins off wd tiles first last
  | .inval _ gang gmem ctx va :: _ =>
    onTask (invalidate (dropMsg s e) fun r => decide (r.ctx = ctx) && decide (r.va = va)) gang gmem fun c =>
      match c.wait with
      | .accinv => { c with wait := .none }
      | _ => c
  | _ => s

/-- The engine's reads and writes of domain pages wait for their responses (R294). -/
def execAccordDecision (e : BitVec 2) (s : State) : Host.Outcome State Fault Refusal :=
  .next (awaitDomain (.accord e false) (decideHead e) s)

/-! ### Samples (R305, R308) -/

/-- a / b with one rounding to FP32. -/
def divF (a b : FV) : FV :=
  match a, b with
  | .nan _, _ => .nan false
  | _, .nan _ => .nan false
  | .inf _, .inf _ => .nan false
  | .inf x, y => .inf (x != y.isNeg)
  | x, .inf y => .fin (x.isNeg != y) 0 0
  | .fin x m e, .fin y m' e' =>
    if m' = 0 then (if m = 0 then .nan false else .inf (x != y))
    else if m = 0 then .fin (x != y) 0 0
    else
      let q := (FV.ofRat m m').scale (e - e')
      rne (if x != y then q.neg else q)

def f32Bytes (x : FV) : List Byte := toBytes 4 (f32r x).1

/-- The 512 bytes of a sample: inputs, then outputs divided by OSC. -/
def sampleBytes (d : AccDesc) (ins outs : List (BitVec 32)) : List Byte :=
  let i := ins.flatMap fun x => toBytes 4 x.toNat
  let o := (List.zipWith (fun x k => divF (f32 x.toNat) (f32 k)) outs d.osc).flatMap f32Bytes
  ((i ++ List.replicate (256 - i.length) 0) ++ o) ++ List.replicate (256 - o.length) 0

/-- Where the ring holds sample `j` (R305). -/
def sampleAt (d : AccDesc) (j : Nat) : Nat := d.ring + 512 * (j % 65536)

/-- (u/2^24 − 1/2)·2/√f, rounded once (R306). -/
def initWeight (va idx f : Nat) : FV :=
  let u := draw va 0 idx drawAccord
  let m := if u < 2 ^ 23 then 2 ^ 23 - u else u - 2 ^ 23
  let x := m * m * 2 ^ 120
  let r := isqrt (x / f) 84 0
  rne (.fin (decide (u < 2 ^ 23)) (2 * r + (if r * r * f = x then 0 else 1)) (-84))

/-- The weights before training, in the order of TRN: biases start at 0. -/
def initLayers (va : Nat) : List Nat → Nat → List FV
  | a :: b :: r, i =>
    ((List.range ((a + 1) * b)).map fun k =>
      if k % (a + 1) = a then .fin false 0 0 else initWeight va (i + k) a) ++ initLayers va (b :: r) (i + (a + 1) * b)
  | _, _ => []

/-- TRN when training starts: the weights, then momenta of 0. -/
def initTraining (va : Nat) (d : AccDesc) : List Byte :=
  (initLayers va (layerWidths d) 0).flatMap f32Bytes ++ List.replicate (4 * weightCount (layerWidths d)) 0

/-- Whether some output differs from the surrogate's by more than MAXE, or is a NaN (R308). -/
def violates (d : AccDesc) (outs mine : List (BitVec 32)) : Bool :=
  (List.zip outs mine).any fun p =>
    let x := (f32 p.1.toNat).sub (f32 p.2.toNat)
    x.isNaN || decide (0 < x.abs.cmp (f32 d.maxe))

/-- A violation counts; beyond VLIM the region falls back (R308). A comparison that comes when the region has left READY and
FALLBACK meanwhile changes nothing (log 24). -/
def addViolation (r : Region) (d : AccDesc) : Region :=
  { r with viol := r.viol + 1, state := if d.vlim < r.viol + 1 then 4 else r.state }

def takeSample (s : State) (e : BitVec 2) (gang : Nat) (gmem : BitVec 6) (ctx : BitVec 16) (va : Nat)
    (ins outs : List (BitVec 32)) (check : Option (List (BitVec 32))) : State :=
  match findRegion s ctx va, ctxLoad s ctx va 256 with
  | some (_, r), .ok (bs, s) =>
    let d := parseDesc bs
    if r.state = 0 then s
    else
      let s1 := ctxTry s e ctx (sampleAt d r.nsmp) (sampleBytes d ins outs)
      let r1 := { r with nsmp := r.nsmp + 1 }
      let starts := decide (r1.state = 1) && decide (d.nobs ≤ r1.nsmp)
      let s2 := if starts then ctxTry s1 e ctx d.trn (initTraining va d) else s1
      let r2 := if starts then { r1 with state := 2 } else r1
      match check with
      | none => putRegion s2 e r2
      | some mine =>
        if (r2.state = 3 ∨ r2.state = 4) ∧ violates d outs mine = true then
          countTask (putRegion s2 e (addViolation r2 d)) gang gmem evAccord
        else putRegion s2 e r2
  | _, _ => s

/-- What the engine does on its oldest arrival, when it is a sample. -/
def sampleHead (e : BitVec 2) (s : State) : State :=
  match s.accord.msgs.rd e with
  | .sample _ gang gmem ctx va ins outs check :: _ => takeSample (settleRegions (dropMsg s e)) e gang gmem ctx va ins outs check
  | _ => s

def execAccordSample (e : BitVec 2) (s : State) : Host.Outcome State Fault Refusal :=
  .next (awaitDomain (.accord e false) (sampleHead e) s)

/-! ### Training (R306) -/

/-- A sample as the ring holds it: inputs and targets. -/
def readSample (d : AccDesc) (bs : List Byte) : List (BitVec 32) × List (BitVec 32) :=
  ((List.range d.nin).map fun i => BitVec.ofNat 32 (floatAt bs i),
    (List.range d.nout).map fun i => BitVec.ofNat 32 (floatAt bs (64 + i)))

/-- The samples numbered in a list, as far as the ring can be read. -/
def readSamples (s : State) (ctx : BitVec 16) (d : AccDesc) (js : List Nat) : List (List (BitVec 32) × List (BitVec 32)) :=
  js.filterMap fun j => match ctxRead s ctx (sampleAt d j) 512 with
    | .ok bs => some (readSample d bs)
    | .error _ => none

/-- A sum in an order that the spec leaves open: two of the terms are added and the result rounded, until one is left
(log 24). -/
def sumAnyhow (key : Nat) : Nat → List FV → FV
  | 0, l => l.headD (.fin false 0 0)
  | n + 1, l =>
    let i := Config.accordOrder key (2 * n) % l.length
    let rest := l.eraseIdx i
    if rest = [] then l.headD (.fin false 0 0)
    else
      let j := Config.accordOrder key (2 * n + 1) % rest.length
      let x := rne ((l.getD i (.fin false 0 0)).add false (rest.getD j (.fin false 0 0))).1
      sumAnyhow key n (x :: rest.eraseIdx j)

def trainSum (key : Nat) (l : List FV) : FV := sumAnyhow key l.length l

def trainMul (a b : FV) : FV := rne (a.mul b).1

def trainAdd (a b : FV) : FV := rne (a.add false b).1

/-- One of several expressions for the same number: which of them the engine evaluates is open (log 24). -/
def oneOf (key : Nat) (l : List FV) : FV := l.getD (Config.accordForm key % l.length) (.fin false 0 0)

/-- The slope of the activation at `z`; that of ReLU at 0 is either side's. -/
def actSlope (act : BitVec 2) (z : FV) : FV :=
  let one := FV.one
  let zero : FV := .fin false 0 0
  let y := rne (accAct act z)
  if act = 0#2 then (if z.isNaN then z else if z.isZero then oneOf 0 [zero, one] else if z.isNeg then zero else one)
  else if act = 1#2 then
    oneOf 1 [trainAdd one (trainMul y y).neg, trainMul (trainAdd one y.neg) (trainAdd one y)]
  else
    let g := rne (vrcp (trainAdd one (exp2Dev (trainMul z.neg (f32 0x3FB8AA3B))).1)).1
    let h := trainAdd one g.neg
    oneOf 2 [trainMul g (trainAdd one (trainMul z h)), trainAdd g (trainMul (trainMul z g) h),
      trainAdd g (trainMul y h), trainAdd y (trainMul g (trainAdd one y.neg))]

/-- The slope of the loss (1/NOUT)·(y − t)² in an output. -/
def lossSlope (nout : Nat) (y t : FV) : FV :=
  let d := trainAdd y t.neg
  oneOf 3 [divF (d.scale 1) (FV.ofInt nout), trainMul d (divF (FV.ofInt 2) (FV.ofInt nout)),
    (divF d (FV.ofInt nout)).scale 1]

/-- The gradient of the loss in the weights of layer `k` and those above it, unit by unit with each unit's bias last, and in
the layer's inputs: every operation rounds to FP32 (R306, log 24). -/
def gradient (d : AccDesc) (ts : List FV) : Nat → List Nat → List FV → List FV → List FV × List FV
  | k, a :: b :: r, ws, ins =>
    let own := fun u => (ws.drop (u * (a + 1))).take (a + 1)
    let key := fun (back : Nat) (i : Nat) => (2 * k + back) * 128 + i
    let zs := (List.range b).map fun u =>
      trainSum (key 0 u) ((own u).getD a (.fin false 0 0) :: List.zipWith trainMul (own u) ins)
    let q := if r = [] then (([] : List FV), List.zipWith (lossSlope d.nout) zs ts)
      else
        let up := gradient d ts (k + 1) (b :: r) (ws.drop ((a + 1) * b)) (zs.map fun z => rne (accAct d.act z))
        (up.1, List.zipWith (fun z g => trainMul (actSlope d.act z) g) zs up.2)
    (q.2.flatMap (fun g => ins.map (trainMul g) ++ [g]) ++ q.1,
      (List.range a).map fun i =>
        trainSum (key 1 i) ((List.range b).map fun u => trainMul ((own u).getD i (.fin false 0 0)) (q.2.getD u (.fin false 0 0))))
  | _, _, _, _ => ([], [])

/-- The gradient of one sample's loss, in the order of TRN. -/
def sampleGradient (d : AccDesc) (ws : List FV) (x : List (BitVec 32) × List (BitVec 32)) : List FV :=
  let num := fun (v : BitVec 32) => f32 v.toNat
  (gradient d (x.2.map num) 0 (layerWidths d) ws (x.1.map num)).1

/-- The mean gradient of a batch: sums in ascending sample order, each addition rounded. -/
def meanGradient (d : AccDesc) (ws : List FV) (batch : List (List (BitVec 32) × List (BitVec 32))) : List FV :=
  let gs := batch.map (sampleGradient d ws)
  (List.range ws.length).map fun i =>
    rne ((gs.foldl (fun t g => rne (t.add false (g.getD i (.fin false 0 0))).1) (.fin false 0 0)).scale (-5))

/-- One batch: v := MOM·v + g, then w := w − LR·v, each rounded. -/
def trainBatch (d : AccDesc) (p : List FV × List FV) (batch : List (List (BitVec 32) × List (BitVec 32))) :
    List FV × List FV :=
  let g := meanGradient d p.1 batch
  let v := List.zipWith (fun v g => rne (FV.fma (f32 d.mom) v g)) p.2 g
  (List.zipWith (fun w v => rne (FV.fma (f32 d.lr).neg v w)) p.1 v, v)

/-- Batches of 32; a last smaller one is dropped. -/
def trainBatches (d : AccDesc) : Nat → List (List (BitVec 32) × List (BitVec 32)) → List FV × List FV →
    List FV × List FV
  | 0, _, p => p
  | n + 1, xs, p => trainBatches d n (xs.drop 32) (trainBatch d p (xs.take 32))

/-- |y − t|·|OSC| over a list of held-out samples. -/
def errorsOf (d : AccDesc) (ws : List FV) (xs : List (List (BitVec 32) × List (BitVec 32))) : List FV :=
  xs.flatMap fun x =>
    List.zipWith (fun yt o => rne ((rne (yt.1.sub (f32 yt.2.toNat))).abs.mul (f32 o).abs).1)
      (List.zip (netOut d ws x.1) x.2) d.osc

def meanOf (xs : List FV) : FV :=
  divF (xs.foldl (fun t x => rne (t.add false x).1) (.fin false 0 0)) (FV.ofInt xs.length)

def maxOf (xs : List FV) : FV :=
  xs.foldl (fun t x => if t.isNaN || x.isNaN then .nan false else if t.cmp x < 0 then x else t) (.fin false 0 0)

def below (x : FV) (limit : Nat) : Bool :=
  !x.isNaN && !(f32 limit).isNaN && decide (x.cmp (f32 limit) < 0)

/-- One epoch over the training samples, then validation on the others; weights that pass are published and the region
enters READY. -/
def trainEpoch (s : State) (e : BitVec 2) (r : Region) (d : AccDesc) : State :=
  let n := weightCount (layerWidths d)
  let js := (List.range (min r.nsmp 65536)).map fun i => r.nsmp - min r.nsmp 65536 + i
  match ctxLoad s r.ctx d.trn (8 * n) with
  | .error _ => s
  | .ok (bs, s0) =>
    let s := js.foldl (fun s j => ctxFlits s r.ctx (sampleAt d j) 512) s0
    let at_ := fun i => f32 (floatAt bs i)
    let train := readSamples s r.ctx d (js.filter fun j => decide (j % 8 ≠ 7))
    let p := trainBatches d (train.length / 32) train ((List.range n).map at_, (List.range n).map fun i => at_ (n + i))
    let s1 := ctxTry s e r.ctx d.trn ((p.1 ++ p.2).flatMap f32Bytes)
    let ws := p.1.map toBf16
    let es := errorsOf d ws (readSamples s r.ctx d (js.filter fun j => decide (j % 8 = 7)))
    let s2 := ctxTry s1 e r.ctx (r.va + 152) (f32Bytes (meanOf es) ++ f32Bytes (maxOf es))
    if below (meanOf es) d.mean && below (maxOf es) d.maxe then
      let s3 := ctxTry s2 e r.ctx (weightsAt d (r.ver + 1))
        (p.1.flatMap fun w => toBytes 2 (narrow 1 0 false false false w).1)
      putRegion s3 e { r with ver := (r.ver + 1) % 2 ^ 32, viol := 0, state := 3 }
    else s2

/-- An epoch of a region in TRAIN or FALLBACK. -/
def epochOf (e : BitVec 2) (key : RegionKey) (s : State) : State :=
  let s1 := settleRegions s
  match (s1.accord.regions.rd e).find? fun r =>
      decide (r.ctx = key.ctx) && decide (r.va = key.va.toNat) && (decide (r.state = 2) || decide (r.state = 4)) with
  | none => s
  | some r =>
    match ctxLoad s1 r.ctx r.va 256 with
    | .error _ => s
    | .ok (bs, s2) => trainEpoch s2 e r (parseDesc bs)

def execAccordEpoch (e : BitVec 2) (key : RegionKey) (s : State) : Host.Outcome State Fault Refusal :=
  .next (awaitDomain (.accord e true) (epochOf e key) s)

/-- The engine takes notice of a write by another agent to bytes 0 to 127 of a descriptor, performed at its home: the write
itself has marked the region (R309). -/
def execAccordDescriptorWrite (ctx : BitVec 16) (va : BitVec 64) (s : State) : Host.Outcome State Fault Refusal :=
  .next (invalidate s fun r => decide (r.ctx = ctx) && decide (r.va = va.toNat) && r.written)

end Sys2Proof.Machine
end

