-- ==== Sys2Proof/Machine/CAlu.lean ====
section
/-! DEFINITION. The C slot's arithmetic words (R112, R113, R313, R362): results of fixed latency, no numeric event. -/

namespace Sys2Proof.Machine

/-- A register-form ALU word: `f a b d` from s[sa], s[sb] and the old s[sd], landing in s[sd] (R313). -/
def aluReg (legal : Bool) (n : Nat) (f : Word → Word → Word → Word) (h : Header) (o : CR) (s : State) :
    Host.Outcome State Fault Refusal :=
  issueResults h legal true s (fun c => [c.dstS o.sd (f (c.rdS o.sa) (c.rdS o.sb) (c.rdS o.sd))]) n 0

/-- An immediate-form ALU word: the last source is the sign-extended imm32 (R96, R313). -/
def aluImm (legal : Bool) (n : Nat) (f : Word → Word → Word → Word) (h : Header) (o : CI) (s : State) :
    Host.Outcome State Fault Refusal :=
  issueResults h legal true s (fun c => [c.dstS o.sd (f (c.rdS o.sa) (sext32 o.imm) (c.rdS o.sd))]) n 0

/-! ### The functions -/

/-- The high half of the product, signed or unsigned (R113). -/
def fMulh (u : Bool) (a b : Word) : Word :=
  if u then BitVec.ofNat 64 (a.toNat * b.toNat / 2 ^ 64) else BitVec.ofInt 64 (a.toInt * b.toInt / 2 ^ 64)

/-- Quotient truncated toward zero; a zero divisor gives all ones; MIN by −1 gives MIN (R359). -/
def fDiv (u : Bool) (a b : Word) : Word :=
  if b = 0 then BitVec.allOnes 64
  else if u then BitVec.ofNat 64 (a.toNat / b.toNat)
  else BitVec.ofInt 64 (a.toInt.tdiv b.toInt)

/-- Remainder with the dividend's sign; a zero divisor gives the dividend; MIN by −1 gives 0 (R412). -/
def fRem (u : Bool) (a b : Word) : Word :=
  if b = 0 then a
  else if u then BitVec.ofNat 64 (a.toNat % b.toNat)
  else BitVec.ofInt 64 (a.toInt.tmod b.toInt)

def fShl (a b : Word) : Word := a <<< (b.toNat % 64)
/-- Right shift by b mod 64, arithmetic or logical (R113). -/
def fShr (arith : Bool) (a b : Word) : Word := if arith then a.sshiftRight (b.toNat % 64) else a >>> (b.toNat % 64)

def fLess (u : Bool) (a b : Word) : Bool := if u then decide (a.toNat < b.toNat) else decide (a.toInt < b.toInt)
def fMin (u : Bool) (a b : Word) : Word := if fLess u b a then b else a
def fMax (u : Bool) (a b : Word) : Word := if fLess u a b then b else a

/-- The conditions of CMP (R351). -/
def fCond (fn : Nat) (a b : Word) : Bool :=
  match fn with
  | 0 => decide (a = b)
  | 1 => decide (a ≠ b)
  | 2 => decide (a.toInt < b.toInt)
  | 3 => decide (a.toInt ≤ b.toInt)
  | 4 => decide (b.toInt < a.toInt)
  | 5 => decide (b.toInt ≤ a.toInt)
  | 6 => decide (a.toNat < b.toNat)
  | 7 => decide (a.toNat ≤ b.toNat)
  | 8 => decide (b.toNat < a.toNat)
  | _ => decide (b.toNat ≤ a.toNat)

def fCmp (fn : Nat) (a b : Word) : Word := if fCond fn a b then 1 else 0

/-- Leading zeros, 64 for 0 (R350). -/
def fClz (a : Word) : Word := if a = 0 then 64 else BitVec.ofNat 64 (63 - Nat.log2 a.toNat)

/-- Count of 1 bits of the low `n` bits of a number. -/
def popcount : Nat → Nat → Nat
  | 0, _ => 0
  | n + 1, x => x % 2 + popcount n (x / 2)

def fPopc (a : Word) : Word := BitVec.ofNat 64 (popcount 64 a.toNat)

/-- Bit i of the result is bit 63 − i (R340). -/
def fBrev (a : Word) : Word := BitVec.ofNat 64 (bitrev 64 a.toNat)

/-- Extends the low 8, 16 or 32 bits (R361). -/
def fExt (fn : BitVec 4) (a : Word) : Word :=
  match fld fn 0 2, bit fn 2 with
  | 0, false => (a.extractLsb' 0 8).signExtend 64
  | 0, true => (a.extractLsb' 0 8).zeroExtend 64
  | 1, false => (a.extractLsb' 0 16).signExtend 64
  | 1, true => (a.extractLsb' 0 16).zeroExtend 64
  | _, false => (a.extractLsb' 0 32).signExtend 64
  | _, true => (a.extractLsb' 0 32).zeroExtend 64

/-- Position and width of a bit field from s[sb] (R335, R336). -/
def bfPos (b : Word) : Nat := fld b 0 6
def bfWidth (b : Word) : Nat := fld b 8 7

/-- Extracts a field; bits above 63 read as 0 (R336). -/
def fBfx (signed : Bool) (a b : Word) : Word :=
  let w := bfWidth b
  let f := (a.toNat >>> bfPos b) % 2 ^ w
  if signed ∧ 0 < w ∧ 2 ^ (w - 1) ≤ f then BitVec.ofNat 64 (wrap 64 ((f : Int) - (2 ^ w : Nat)))
  else BitVec.ofNat 64 f

/-- Inserts the low bits of s[sa] into a field of s[sd]; bits beyond 63 are dropped (R335). -/
def fBfi (a b d : Word) : Word :=
  let mask := BitVec.ofNat 64 ((2 ^ bfWidth b - 1) <<< bfPos b)
  (d &&& ~~~mask) ||| ((a <<< bfPos b) &&& mask)

/-- A width above 64 is illegal in BFX and BFI (R113). -/
def bfOk (s : State) (o : CR) : Bool := decide (bfWidth (s.cell.rdS o.sb) ≤ 64)

/-! ### The meanings -/

def execAdd (h : Header) (o : CR) := aluReg (slotC h && fnZero o) 1 (fun a b _ => a + b) h o
def execAddImm (h : Header) (o : CI) := aluImm (slotC h && ciZero o) 1 (fun a b _ => a + b) h o
def execSub (h : Header) (o : CR) := aluReg (slotC h && fnZero o) 1 (fun a b _ => a - b) h o
def execSubImm (h : Header) (o : CI) := aluImm (slotC h && ciZero o) 1 (fun a b _ => a - b) h o
def execMul (h : Header) (o : CR) := aluReg (slotC h && fnZero o) 3 (fun a b _ => a * b) h o
def execMulImm (h : Header) (o : CI) := aluImm (slotC h && ciZero o) 3 (fun a b _ => a * b) h o
def execMulh (h : Header) (o : CR) := aluReg (slotC h && fnLow1 o) 3 (fun a b _ => fMulh (bit o.fn 0) a b) h o
def execMulhImm (h : Header) (o : CI) := aluImm (slotC h && ciLow1 o) 3 (fun a b _ => fMulh (bit o.fn 0) a b) h o
def execDiv (h : Header) (o : CR) := aluReg (slotC h && fnLow1 o) 18 (fun a b _ => fDiv (bit o.fn 0) a b) h o
def execDivImm (h : Header) (o : CI) := aluImm (slotC h && ciLow1 o) 18 (fun a b _ => fDiv (bit o.fn 0) a b) h o
def execRem (h : Header) (o : CR) := aluReg (slotC h && fnLow1 o) 18 (fun a b _ => fRem (bit o.fn 0) a b) h o
def execRemImm (h : Header) (o : CI) := aluImm (slotC h && ciLow1 o) 18 (fun a b _ => fRem (bit o.fn 0) a b) h o
def execAnd (h : Header) (o : CR) := aluReg (slotC h && fnZero o) 1 (fun a b _ => a &&& b) h o
def execAndImm (h : Header) (o : CI) := aluImm (slotC h && ciZero o) 1 (fun a b _ => a &&& b) h o
def execOr (h : Header) (o : CR) := aluReg (slotC h && fnZero o) 1 (fun a b _ => a ||| b) h o
def execOrImm (h : Header) (o : CI) := aluImm (slotC h && ciZero o) 1 (fun a b _ => a ||| b) h o
def execXor (h : Header) (o : CR) := aluReg (slotC h && fnZero o) 1 (fun a b _ => a ^^^ b) h o
def execXorImm (h : Header) (o : CI) := aluImm (slotC h && ciZero o) 1 (fun a b _ => a ^^^ b) h o
def execShl (h : Header) (o : CR) := aluReg (slotC h && fnZero o) 1 (fun a b _ => fShl a b) h o
def execShlImm (h : Header) (o : CI) := aluImm (slotC h && ciZero o) 1 (fun a b _ => fShl a b) h o
def execShr (h : Header) (o : CR) := aluReg (slotC h && fnLow1 o) 1 (fun a b _ => fShr (bit o.fn 0) a b) h o
def execShrImm (h : Header) (o : CI) := aluImm (slotC h && ciLow1 o) 1 (fun a b _ => fShr (bit o.fn 0) a b) h o
def execSra (h : Header) (o : CR) := aluReg (slotC h && fnZero o) 1 (fun a b _ => fShr true a b) h o
def execMin (h : Header) (o : CR) := aluReg (slotC h && fnLow1 o) 1 (fun a b _ => fMin (bit o.fn 0) a b) h o
def execMax (h : Header) (o : CR) := aluReg (slotC h && fnLow1 o) 1 (fun a b _ => fMax (bit o.fn 0) a b) h o
def execCmp (h : Header) (o : CR) := aluReg (slotC h && fnCmp o) 1 (fun a b _ => fCmp o.fn.toNat a b) h o
/-- sd := sa if the old sd is not 0, else sb (R113). -/
def execSel (h : Header) (o : CR) := aluReg (slotC h && fnZero o) 1 (fun a b d => if d = 0 then b else a) h o
def execClz (h : Header) (o : CR) := aluReg (slotC h && fnUnary o) 1 (fun a _ _ => fClz a) h o
def execPopc (h : Header) (o : CR) := aluReg (slotC h && fnUnary o) 1 (fun a _ _ => fPopc a) h o
def execBrev (h : Header) (o : CR) := aluReg (slotC h && fnUnary o) 1 (fun a _ _ => fBrev a) h o
def execExt (h : Header) (o : CR) := aluReg (slotC h && fnExt o) 1 (fun a _ _ => fExt o.fn a) h o
def execBfx (h : Header) (o : CR) (s : State) :=
  aluReg (slotC h && fnLow1 o && bfOk s o) 1 (fun a b _ => fBfx (bit o.fn 0) a b) h o s
def execBfi (h : Header) (o : CR) (s : State) :=
  aluReg (slotC h && fnZero o && bfOk s o) 1 (fun a b d => fBfi a b d) h o s
def execLi (h : Header) (o : CI) := aluImm (slotC h && ciLoad o) 1 (fun _ b _ => b) h o
/-- sd[63:32] := imm32, the low half kept as read at issue (R378). -/
def execLih (h : Header) (o : CI) := aluImm (slotC h && ciLoad o) 1 (fun _ b d => (b <<< 32) ||| (d &&& 0xFFFFFFFF#64)) h o

end Sys2Proof.Machine
end

