-- ==== Sys2Proof/Machine/Channel.lean ====
section
/-! DEFINITION. Channels: the table, CHSEND, CHRECV, CHRED, arrivals from the fabric, DBAR (R278 to R288, R292, R347 to
R349, R356). -/

namespace Sys2Proof.Machine

/-! ### Entries (R278) -/

def chanOf (s : State) (ch : Nat) : Option Chan := s.chans.table.find ch

def setChan (s : State) (ch : Nat) (x : Chan) : State := { s with chans := { s.chans with table := s.chans.table.put ch x } }

def Chan.w (x : Chan) (i : Nat) : Word := x.words.rd (BitVec.ofNat 3 i)
def Chan.valid (x : Chan) : Bool := bit (x.w 0) 0
def Chan.kind (x : Chan) : Nat := fld (x.w 0) 1 2
def Chan.dom (x : Chan) : Bool := bit (x.w 0) 3
def Chan.etype (x : Chan) : Nat := fld (x.w 0) 4 4
def Chan.oper (x : Chan) : Nat := fld (x.w 0) 8 2
def Chan.point (x : Chan) : Int := sgn 8 (fld (x.w 0) 12 8)
def Chan.depth (x : Chan) : Nat := fld (x.w 0) 20 8
def Chan.ctx (x : Chan) : BitVec 16 := (x.w 0).extractLsb' 32 16
def Chan.dim (x : Chan) (i : Nat) : Nat := fld (x.w 1) (16 * i) 16
def Chan.elems (x : Chan) : Nat := x.dim 0 * x.dim 1 * x.dim 2 * x.dim 3
/-- Bytes of a message before and after the rounding to 256. -/
def Chan.bytes (x : Chan) : Nat := (x.elems * widthOf x.etype + 7) / 8
def Chan.size (x : Chan) : Nat := ceilDiv x.bytes 256 * 256
def Chan.flag (x : Chan) : Nat := fld (x.w 3) 0 56
def Chan.buf (x : Chan) : Nat := fld (x.w 4) 0 56

/-- The channel number of a word: [17:16] above imm8 (R280). -/
def chanNo (x : Cmd) : Nat := fld x.low 16 2 * 256 + x.imm.toNat

/-- Traffic class. -/
def Chan.tc (x : Chan) : Nat := fld (x.w 0) 10 2
/-- Destination package, or switch group. -/
def Chan.peer (x : Chan) : Nat := fld (x.w 2) 0 16
def Chan.switch (x : Chan) : Nat := fld (x.w 2) 48 16
/-- Messages go over Ultra Ethernet: UE, or a package outside the pod, which the 8 bits of a peer address cannot name (R218,
R288, log 18). -/
def Chan.ultra (x : Chan) : Bool := bit (x.w 2) 32 || (decide (x.kind = 1) && decide (256 ≤ x.peer))
/-- The oldest round that has not completed, or the next one (R283). -/
def Chan.oldest (x : Chan) : Nat := x.rounds.foldl (fun n r => min n r.k) x.started

/-- Packages or switches that a DOM entry must find in the domain: PEER of a remote channel, SWITCH of a group (R292,
R312). -/
def chanParty (x : Chan) : Option Nat :=
  match x.kind with
  | 0 => none
  | 1 => some x.peer
  | _ => some x.switch

/-- DOM traffic may leave: the domain is in force and names the party (R292). -/
def chanDomain (s : State) (x : Chan) : Bool :=
  !x.dom || (match chanParty x with
    | none => inDomain s
    | some p => domainOk s p)

/-- From its arrival at the re-keying barrier the package holds back DOM commands, but for a reduce round that the switch has
opened for another member; what is already sent goes on (R297, log 32). -/
def chanHeld (s : State) (x : Cmd) (c : Chan) : Bool :=
  c.dom && rekeyHeld s && match x.op with
    | .chsend => true
    | .chred => !Config.switchHolds s.pd.gen.toNat (chanNo x) c.started
    | _ => false

/-- A handle suits an entry (R281). -/
def chanHandle (x : Chan) (hv : BitVec 256) : Bool :=
  decide ((hType hv).toNat = x.etype) && decide (hSpace hv ≤ 3)
    && decide (hDim hv 0 = x.dim 0 ∧ hDim hv 1 = x.dim 1 ∧ hDim hv 2 = x.dim 2 ∧ hDim hv 3 = x.dim 3)

/-- The start checks (R281, R285): none, or the cause that ends the command. -/
def chanStart (s : State) (x : Cmd) (c : Option Chan) : Option (BitVec 8) :=
  match c with
  | none => some cProtection
  | some c =>
    if !c.valid || decide (c.ctx ≠ x.ctx) then some cProtection
    else if decide (c.kind = 3) != decide (x.op = .chred) then some cIllegalOp
    else if !chanHandle c x.ha || (x.op = .chred && !chanHandle c x.hb) then some cIllegalOp
    else if c.kind = 3 ∧ c.oper = 3 ∧ c.dim 0 < 3 then some cIllegalOp
    else if !chanDomain s c then some cDomainFault
    else if chanHeld s x c then some cWait
    else none

/-! ### Tensors as one run of elements -/

/-- The offsets of the dim0 rows from BASE, in order. -/
def tensorRows (hv : BitVec 256) : List Nat :=
  (List.range (hDim hv 3)).flatMap fun i3 => (List.range (hDim hv 2)).flatMap fun i2 =>
    (List.range (hDim hv 1)).map fun i1 => i1 * hStride hv 1 + i2 * hStride hv 2 + i3 * hStride hv 3

def readTensorRows (s : State) (x : Cmd) (hv : BitVec 256) : List Nat → Except (BitVec 8 × Nat) (List Nat)
  | [] => .ok []
  | r :: rest =>
    let w := widthOf (hType hv).toNat
    match cmdSegs s x hv 0 (hBase hv + r) ((hDim hv 0 * w + 7) / 8) with
    | .error f => .error f
    | .ok g =>
      match readTensorRows s x hv rest with
      | .error f => .error f
      | .ok xs =>
        let v := leNat (engBytes s x g)
        .ok ((List.range (hDim hv 0)).map (fun i => (v >>> (w * i)) % 2 ^ w) ++ xs)

/-- Every element of a tensor in order, as bits. -/
def readTensor (s : State) (x : Cmd) (hv : BitVec 256) : Except (BitVec 8 × Nat) (List Nat) :=
  readTensorRows s x hv (tensorRows hv)

/-- Writes the elements of the rows; the upper nibble of a last half byte stays. -/
def writeTensorRows (x : Cmd) (hv : BitVec 256) : List Nat → List Nat → State → Except (BitVec 8 × Nat) State
  | [], _, s => .ok s
  | r :: rest, xs, s =>
    let w := widthOf (hType hv).toNat
    let n := hDim hv 0
    match cmdSegs s x hv 1 (hBase hv + r) ((n * w + 7) / 8) with
    | .error f => .error f
    | .ok g =>
      let old := leNat (engBytes s x g) >>> (n * w)
      writeTensorRows x hv rest (xs.drop n)
        (engStore x g (toBytes ((n * w + 7) / 8) (ofLanes w (xs.take n) + old * 2 ^ (n * w))) s)

/-- The load flits of a tensor in a peer's memory (R287). -/
def tensorFlits (s : State) (x : Cmd) (hv : BitVec 256) : State :=
  (tensorRows hv).foldl (fun t r =>
    match cmdSegs t x hv 0 (hBase hv + r) ((hDim hv 0 * widthOf (hType hv).toNat + 7) / 8) with
    | .error _ => t
    | .ok g => loadFlits t g) s

def writeTensor (s : State) (x : Cmd) (hv : BitVec 256) (xs : List Nat) : Except (BitVec 8 × Nat) State :=
  writeTensorRows x hv (tensorRows hv) xs s

/-! ### Messages (R282) -/

/-- Puts a message into the next free slot of BUF, which lies on HBM pages; on others the write ends with PROTECTION
(R278, log 18). -/
def putMessage (s : State) (ch : Nat) (c : Chan) (bs : List Byte) : Except (BitVec 8 × Nat) State :=
  let at_ := c.buf + c.next % c.depth * c.size
  match engSegs s c.ctx 0 0 0 1 (bs.length / 65536 + 2) at_ bs.length with
  | .error f => .error f
  | .ok g =>
    if g.any fun y => decide (paTarget y.addr ≠ 0) then .error (cProtection, at_)
    else .ok (setChan (mainStore g bs s) ch { c with msgs := c.msgs ++ [c.next % c.depth], next := c.next + 1 })

/-- The flag word is written and released (R190). -/
def setFlag (s : State) (c : Chan) (f : Nat → Nat) : Except (BitVec 8 × Nat) State :=
  if c.flag = 0 then .ok s
  else
    match ctxRead s c.ctx c.flag 8 with
    | .error e => .error e
    | .ok bs => ctxWrite (ctxFlits s c.ctx c.flag 8) c.ctx c.flag (toBytes 8 (f (leNat bs)))

/-! ### Flits (R21, R287, R288, R293, R294) -/

/-- The way of flit `i` of a message; none while no port is up. The address that the hash takes is the flit's place behind BUF
(log 18). -/
def flitPath (s : State) (c : Chan) (i : Nat) : Option Path :=
  if c.ultra then (if s.pkg.uePorts = 0 then none else some .ultra)
  else planePath s c.peer (c.buf + 256 * i)

/-- Where the flits of a channel go: those of a group channel to the group, over its switch. -/
def Chan.to (c : Chan) (kind : Nat) : FlitTo :=
  { dom := c.dom, kind := kind, tc := c.tc, dest := c.peer, group := decide (2 ≤ c.kind)
    link := if 2 ≤ c.kind then c.switch else c.peer }

/-- One flit leaves on a channel. -/
def sendFlit (ch : Nat) (c : Chan) (kind : Nat) (bs : List Byte) (s : State) (i : Nat) : State :=
  emitFlit s (some ch) (c.to kind) (flitPath s c i) ((bs.drop (256 * i)).take 256)

/-- A message leaves as flits of up to 256 bytes of payload. -/
def sendOut (s : State) (ch : Nat) (c : Chan) (kind : Nat) (bs : List Byte) : State :=
  (List.range (ceilDiv bs.length 256)).foldl (sendFlit ch c kind bs) s

/-- Some port carries the channel's traffic. While none does a message waits at its engine; R21 gives no rule for that, nor for a
cell's access to peer memory, which the model lets go through with its flits held: both are the model's choice (log 18). -/
def canSend (s : State) (c : Chan) : Bool := (flitPath s c 0).isSome

/-- What arrives on a channel uses up its flits, whether it is then performed or dropped as malformed: those of a DOM channel
must have been accepted (R278, R294). Bit DOM of the entry decides, of one that is not valid as well. -/
def takeChannel (s : State) (c : Option Chan) (src : BitVec 16) (kind n : Nat) : Option State :=
  if (c.map Chan.dom).getD false then takeFlits s src kind (ceilDiv n 256) else some s

/-! ### Sending and receiving (R282) -/

/-- A message to another package is sent once no receiver is full; the command completes when its engine hears that every
receiver's BUF holds it, at a later turn of ENGINE_COMMAND_COMPLETE (R280, R282). -/
def runSend (s : State) (x : Cmd) (ch : Nat) (c : Chan) : State :=
  if x.started then cmdDone s x 0 []
  else if if c.kind = 0 then decide (c.depth ≤ c.msgs.length) else Config.receiverFull s.steps ch || !canSend s c then s
  else
    match readTensor s x x.ha with
    | .error f => cmdFault s x f
    | .ok xs =>
      let bs := toBytes c.bytes (ofLanes (widthOf c.etype) xs)
      let t := tensorFlits s x x.ha
      if c.kind = 0 then
        match putMessage t ch c bs with
        | .error f => cmdFault s x f
        | .ok s1 => cmdDone s1 x 0 []
      else setCmd (sendOut t ch c 4 bs) { x with started := true }

def runRecv (s : State) (x : Cmd) (ch : Nat) (c : Chan) : State :=
  match c.msgs with
  | [] => s
  | slot :: rest =>
    match ctxRead s c.ctx (c.buf + slot * c.size) c.bytes with
    | .error f => cmdFault s x f
    | .ok bs =>
      let w := widthOf c.etype
      let v := leNat bs
      match writeTensor s x x.ha ((List.range c.elems).map fun i => (v >>> (w * i)) % 2 ^ w) with
      | .error f => cmdFault s x f
      | .ok s1 =>
        match setFlag s1 c fun n => n + 1 with
        | .error f => cmdFault s x f
        | .ok s2 => cmdDone (setChan s2 ch { c with msgs := rest }) x 0 []

/-! ### Reduce rounds (R283 to R285) -/

/-- The elements of RESCALE rows without their element 0. -/
def withoutHeads (d : Nat) (xs : List Nat) : List (Nat × Nat) :=
  ((List.range xs.length).filter fun i => decide (i % d ≠ 0)).map fun i => (i / d, xs.getD i 0)

/-- x·2^k for a W96 contribution; the exponent is cut where the result no longer changes. -/
def rescaleBy (k : Int) (x : Nat) : FV := (f32 x).scale (max (-1000) (min 1000 k))

def containers (xs : List (Int × BitVec 8)) : List Byte := xs.flatMap fun x => toBytes 16 (wrap 128 x.1)

def unionEv {α : Type} (xs : List (α × BitVec 8)) : BitVec 8 := xs.foldl (fun e x => e ||| x.2) 0

/-- A CHRED takes the next round and contributes; RESCALE first sends the exponents. The engine keeps DEPTH rounds open
past the oldest. -/
def startRed (s : State) (x : Cmd) (ch : Nat) (c : Chan) : State :=
  if c.oldest + c.depth < c.started ∨ canSend s c = false then s
  else
    match readTensor s x x.hb with
    | .error f => cmdFault s x f
    | .ok xs =>
      let ws := xs.map fun v => w96Of (f32 v) c.point
      let ev := if c.oper = 0 then unionEv ws else 0
      let r : RedRound :=
        { k := c.started, cmd := x.id, sent := xs.map (BitVec.ofNat 32), maxima := none, result := none }
      let s1 := setCmd (setChan (tensorFlits s x x.hb) ch { c with started := c.started + 1, rounds := c.rounds ++ [r] })
        { x with started := true, num := c.started, ev := ev }
      if c.oper = 0 then sendOut s1 ch c 6 (containers ws)
      else if c.oper = 3 then
        sendOut s1 ch c 5 (((List.range xs.length).filter fun i => decide (i % c.dim 0 = 0)).flatMap fun i =>
          toBytes 4 (xs.getD i 0))
      else sendOut s1 ch c 6 (xs.flatMap (toBytes 4))

/-- The elements that a result leaves in ha, and the events of the conversions (R284, R285). -/
def redResult (c : Chan) (r : RedRound) (vals : List (BitVec 128)) : List (Nat × BitVec 8) :=
  let fromW := fun (v : BitVec 128) => w96To (sgn 96 v.toNat) c.point
  if c.oper = 0 then vals.map fromW
  else if c.oper = 3 then
    let d := c.dim 0
    (List.range r.sent.length).map fun i =>
      if i % d = 0 then (((r.maxima.getD []).getD (i / d) 0).toNat, 0)
      else fromW (vals.getD (i / d * (d - 1) + (i % d - 1)) 0)
  else vals.map fun v => (v.toNat % 2 ^ 32, 0)

/-- Writes an arrived result into ha, then k + 1 into the flag word (R283). -/
def finishRed (s : State) (x : Cmd) (ch : Nat) (c : Chan) (r : RedRound) (vals : List (BitVec 128)) : State :=
  let res := redResult c r vals
  match writeTensor s x x.ha (res.map (·.1)) with
  | .error f => cmdFault s x f
  | .ok s1 =>
    match setFlag s1 c fun _ => r.k + 1 with
    | .error f => cmdFault s x f
    | .ok s2 =>
      cmdDone (setChan s2 ch { c with rounds := c.rounds.filter fun y => decide (y.k ≠ r.k) }) x (x.ev ||| unionEv res) []

def runRed (s : State) (x : Cmd) (ch : Nat) (c : Chan) : State :=
  if !x.started then startRed s x ch c
  else
    match c.rounds.find? fun r => decide (r.cmd = x.id) with
    | none => s
    | some r =>
      match r.result with
      | none => s
      | some v => finishRed s x ch c r v

/-! ### The words (R280, R347 to R349) -/

/-- An earlier command of the task with the same word on the same channel has not started: commands of a class start in
issue order, and messages arrive in it (R188, R282). -/
def olderChan (s : State) (x : Cmd) : Bool :=
  s.cmds.any fun y => decide (y.id < x.id) && decide (y.gang = x.gang) && decide (y.gmem = x.gmem) && decide (y.op = x.op)
    && decide (chanNo y = chanNo x) && !y.started

/-- The work of a command that has passed its checks. -/
def workChan (s : State) (x : Cmd) (c : Chan) : State :=
  match x.op with
  | .chsend => runSend s x (chanNo x) c
  | .chrecv => runRecv s x (chanNo x) c
  | _ => runRed s x (chanNo x) c

/-- The channel engine acts on a command: its start checks, then its work as far as it goes. An empty tensor moves nothing
and completes (R91). -/
def runChan (s : State) (x : Cmd) : State :=
  match chanOf s (chanNo x) with
  | none => if olderChan s x then s else cmdFault s x (cProtection, 0)
  | some c =>
    if x.started then workChan s x c
    else if olderChan s x then s
    else
      match chanStart s x (some c) with
      | some f => cmdFault s x (f, 0)
      | none => if c.elems = 0 then cmdDone s x 0 [] else workChan s x c

def execChsend (h : Header) (o : EC) (s : State) : Host.Outcome State Fault Refusal :=
  engineWord .chsend h o (ecChan1 o && hOk (s.cell.rdH o.ha)) s fun _ x => .go (launchCmd s x)

def execChrecv (h : Header) (o : EC) (s : State) : Host.Outcome State Fault Refusal :=
  engineWord .chrecv h o (ecChan1 o && hOk (s.cell.rdH o.ha)) s fun _ x => .go (launchCmd s x)

def execChred (h : Header) (o : EC) (s : State) : Host.Outcome State Fault Refusal :=
  engineWord .chred h o (ecChan o && hOk (s.cell.rdH o.ha) && hOk (s.cell.rdH o.hb)) s fun _ x => .go (launchCmd s x)

/-- DBAR of the service core's firmware: with a change pending in a domain that is in force the package arrives, and the word's
tag waits for the release; else the word completes at once. It does not issue while it waits for a tag; what becomes of one that
breaks its encoding is the firmware's own affair and changes nothing here (R296, log 32). -/
def coreDbar (h : Header) (o : EC) (s : State) : State :=
  let tag := if h.av = 1#1 then BitVec.ofNat 8 (2 ^ h.tag.toNat) else 0
  if s.pd.tags &&& (h.cmk ||| tag) ≠ 0 ∨ (slotE h && ecNone o) = false ∨ tagBad h true = true then s
  else if s.pd.state = 3 ∧ s.pd.change = true then { s with pd := { s.pd with arrived := true, tags := s.pd.tags ||| tag } }
  else s

/-- The service core's firmware arrives at the re-keying barrier; a cell may not issue the word (R111, R296, R356). -/
def execDbar (h : Header) (o : EC) (s : State) : Host.Outcome State Fault Refusal :=
  if s.core then .next (coreDbar h o s)
  else issueWord h (slotE h && ecNone o) false true true s fun _ => .go s

/-! ### Arrivals from the fabric -/

/-- A message fits an entry: a point-to-point or multicast channel of its size; a DOM multicast comes from the switch that
serves the group (R278, R282, R312). -/
def messageFits (c : Chan) (m : Message) : Bool :=
  c.valid && decide (c.kind = 1 ∨ c.kind = 2) && decide (m.bytes.length = c.bytes)
    && (!c.dom || decide (c.kind = 1) || decide (m.src.toNat = c.switch))

/-- The channel engine takes a message whole into a free slot of BUF (R282, R288). One that does not fit the entry is dropped; one
for which no slot is free is not taken yet. -/
def channelMessage (s : State) (ch : BitVec 10) (m : Message) : State :=
  let c := chanOf s ch.toNat
  match takeChannel s c m.src 4 m.bytes.length, c with
  | none, _ => s
  | some s1, none => s1
  | some s1, some c =>
    if !messageFits c m then s1
    else if c.depth ≤ c.msgs.length then s
    else
      match putMessage s1 ch.toNat c m.bytes with
      | .error _ => s1
      | .ok s2 => s2

/-- A message arrives: one that an enabled binding matches goes to the media unit, every other to the channel engine (R271,
R288). -/
def takeMessage (ch : BitVec 10) (m : Message) (s : State) : State :=
  if (m.ultra.map (mdBound s.pkg)).getD false then mediaMessage s m.bytes else channelMessage s ch m

def execChannelMessageArrival (ch : BitVec 10) (m : Message) (s : State) :
    Host.Outcome State Fault Refusal := .next (takeMessage ch m s)

/-- The open round `k` of a channel, where what arrives comes from the switch that serves the group: a flit of another source
is dropped as malformed (R278). -/
def servedRound (c : Chan) (src : BitVec 16) (k : Nat) : Option RedRound :=
  if src.toNat = c.switch then c.rounds.find? fun r => decide (r.k = k) && r.result.isNone else none

/-- Bytes of the values of a result: containers of 16 bytes, or words. -/
def resultBytes (c : Chan) (vals : List (BitVec 128)) : Nat :=
  if c.oper = 0 ∨ c.oper = 3 then 16 * vals.length else 4 * vals.length

/-- The flits of a result of kind 7, and the open round that it serves, if it serves one; none where they have not been accepted
(R278, R287, R294). -/
def takeResult (s : State) (ch : Nat) (src : BitVec 16) (k : Nat) (bytes : Chan → Nat) :
    Option (State × Option (Chan × RedRound)) :=
  let c := chanOf s ch
  (takeChannel s c src 7 ((c.map bytes).getD 0)).map fun s1 =>
    (s1, c.bind fun c => if c.valid then (servedRound c src k).map fun r => (c, r) else none)

/-- The result of round `k` arrives, be it the oldest or not (R283, R286); for RESCALE that of phase 2, once the member has
sent it. A flit that serves no open round is dropped. A result that goes to domain pages is written when their responses have come,
at a later turn of the command (R294). -/
def execReduceResultArrival (ch : BitVec 10) (res : RoundResult 128) (s : State) :
    Host.Outcome State Fault Refusal :=
  match takeResult s ch.toNat res.src res.k fun c => resultBytes c res.vals with
  | none => .next s
  | some (s0, none) => .next s0
  | some (s0, some (c, r)) =>
    if c.oper = 3 ∧ r.maxima = none then .next s0
    else
      let c1 := { c with rounds := c.rounds.map fun y => if y.k = res.k then { y with result := some res.vals } else y }
      let s1 := setChan s0 ch.toNat c1
      match cmdOf s1 r.cmd with
      | none => .next (setChan s1 ch.toNat { c1 with rounds := c1.rounds.filter fun y => decide (y.k ≠ res.k) })
      | some x => .next (awaitDomain (.cmd r.cmd) (fun s => finishRed s x ch.toNat c1 r res.vals) s1)

/-- The scaled contribution of phase 2, with the events of its rounding (R285). -/
def rescaleTerms (c : Chan) (r : RedRound) (ms : List (BitVec 32)) : List (Int × BitVec 8) :=
  let d := c.dim 0
  let xs := r.sent.map (·.toNat)
  (withoutHeads d xs).map fun p =>
    w96Of (rescaleBy (sgn 32 (xs.getD (p.1 * d) 0) - (ms.getD p.1 0).toInt) p.2) c.point

/-- The maxima of phase 1 arrive, a result of kind 7 as the switch sends it; the member scales its contribution and sends
phase 2 (R285, R287). -/
def execRescalePhase1Result (ch : BitVec 10) (res : RoundResult 32) (s : State) :
    Host.Outcome State Fault Refusal :=
  match takeResult s ch.toNat res.src res.k fun _ => 4 * res.vals.length with
  | none => .next s
  | some (s0, none) => .next s0
  | some (s0, some (c, r)) =>
    if c.oper ≠ 3 ∨ r.maxima.isSome = true then .next s0
    else if canSend s c = false then .next s
    else
      let ws := rescaleTerms c r res.vals
      let c1 := { c with rounds := c.rounds.map fun y => if y.k = res.k then { y with maxima := some res.vals } else y }
      let s1 := setChan s0 ch.toNat c1
      let s2 := match cmdOf s1 r.cmd with
        | none => s1
        | some x => setCmd s1 { x with ev := x.ev ||| unionEv ws }
      .next (sendOut s2 ch.toNat c1 6 (containers ws))

/-! ### Installation (R279) -/

/-- A host physical address as the package addresses host memory (R218). -/
def hostAddr (a : Nat) : Nat := 2 * 2 ^ 52 + a % 2 ^ 52

/-- The reason to reject an entry, 0 for none: RSV and must-be-zero bits and alignment 1, ranges 2 (R222, R279). -/
def entryReason (x : Chan) : Nat :=
  let k := x.kind
  let group := decide (k = 2 ∨ k = 3)
  let w := x.w
  if fld (w 0) 28 4 ≠ 0 ∨ fld (w 0) 52 12 ≠ 0 ∨ fld (w 2) 33 15 ≠ 0 ∨ fld (w 3) 56 8 ≠ 0 ∨ fld (w 4) 56 8 ≠ 0
      ∨ w 5 ≠ 0 ∨ w 6 ≠ 0 ∨ w 7 ≠ 0 then 1
  else if !x.valid then 0
  else if (k = 3 ∧ ¬(x.etype = 0 ∨ (x.etype = 6 ∧ (x.oper = 1 ∨ x.oper = 2)))) ∨ 12 < x.etype then 2
  else if k ≠ 3 ∧ x.oper ≠ 0 then 1
  else if x.depth = 0 ∨ fld (w 0) 48 4 < 1 ∨ 4 < fld (w 0) 48 4 then 2
  else if (List.range 4).any (fun i => decide (fld (w 0) 48 4 ≤ i) && decide (x.dim i ≠ 1)) then 2
  else if k = 0 ∧ fld (w 2) 0 16 ≠ 0 then 1
  else if group = true ∧ (fld (w 2) 16 16 < 2 ∨ 144 < fld (w 2) 16 16) then 2
  else if group = false ∧ fld (w 2) 16 16 ≠ 0 then 1
  else if bit (w 2) 32 = true ∧ k ≠ 1 then 1
  else if group = true ∧ fld (w 2) 63 1 = 0 then 2
  else if group = false ∧ fld (w 2) 48 16 ≠ 0 then 1
  else if x.flag % 8 ≠ 0 ∨ x.buf % 256 ≠ 0 ∨ (k = 3 ∧ x.buf ≠ 0) then 1
  else 0

/-- Entry `i` of the image in host memory. -/
def imageEntry (s : State) (i : Nat) : Chan :=
  let a := hostAddr (fld s.pkg.chImg 6 58 * 64) + 64 * i
  { words := Vector.ofFn fun k => s.mem.word (a + 8 * k.val), msgs := [], next := 0, started := 0, rounds := [] }

/-- A command pending on one of the entries (R279). -/
def chanBusy (s : State) (first count : Nat) : Bool :=
  s.cmds.any fun x => (match x.op with
    | .chsend | .chrecv | .chred => true
    | _ => false) && decide (first ≤ chanNo x) && decide (chanNo x < first + count)

/-- Whether the service core may carry out a command: the write that started it made the status busy (R250, R279). -/
def cmdReady (stat cmd v : Word) : Bool := decide (fld stat 0 2 = 1) && decide (cmd = v)

def doneStat (reason : Nat) : Word := if reason = 0 then 2 else BitVec.ofNat 64 (3 + 256 * reason)

/-- CHCMD with a range of entries: rejected whole if any is bad (R279). -/
def chanCommand (remove : Bool) (first : BitVec 10) (count : BitVec 11) (s : State) : State :=
  let v := BitVec.ofNat 64 ((if remove then 2 ^ 21 else 0) + count.toNat * 1024 + first.toNat)
  if !cmdReady s.pkg.chStat s.pkg.chCmd v then s
  else
    let n := count.toNat
    let bad :=
      if n < 1 ∨ 1024 < n ∨ 1024 < first.toNat + n then 2
      else
        match if remove then none else ((List.range n).map fun i => entryReason (imageEntry s i)).find? (decide <| · ≠ 0) with
        | some r => r
        | none => if chanBusy s first.toNat n then 4 else 0
    let s1 := { s with pkg := { s.pkg with chStat := doneStat bad, chCmd := 0 } }
    if bad ≠ 0 then s1
    else
      (List.range n).foldl (fun t i =>
        let ch := first.toNat + i
        if remove then
          match chanOf t ch with
          | none => t
          | some c => setChan t ch { c with words := c.words.wr 0 (c.w 0 &&& ~~~1#64) }
        else setChan t ch (imageEntry s i)) s1

def execChannelInstall (first : BitVec 10) (count : BitVec 11) (s : State) : Host.Outcome State Fault Refusal :=
  .next (chanCommand false first count s)

def execChannelRemove (first : BitVec 10) (count : BitVec 11) (s : State) : Host.Outcome State Fault Refusal :=
  .next (chanCommand true first count s)

end Sys2Proof.Machine
end

