-- ==== Sys2Proof/Machine/Queues.lean ====
section
/-! DEFINITION. Rings in host memory that the host fills: the launch queues and the media ring (R19, R270). -/

namespace Sys2Proof.Machine

/-- Log of a ring's entries. -/
def LaunchQueue.log (q : LaunchQueue) : Nat := fld q.cfg 0 4

/-- A configuration enables the ring; n below 4 or above 12 acts as a cleared enable bit. R19 says so of the launch queues; for the
report ring R206 gives the range of n only, and that RPCFG acts alike is the model's choice (log 44). -/
def cfgOn (cfg : Word) : Bool := bit cfg 4 && decide (4 ≤ fld cfg 0 4) && decide (fld cfg 0 4 ≤ 12)

/-- The ring runs. -/
def LaunchQueue.on (q : LaunchQueue) : Bool := cfgOn q.cfg && !q.stopped

/-- A tail write that puts more than 2^n entries between head and tail is ignored, and stops the ring if it runs. -/
def LaunchQueue.writeTail (q : LaunchQueue) (v : Word) : LaunchQueue :=
  if 2 ^ q.log < (v - q.head).toNat then { q with stopped := q.stopped || q.on } else { q with tail := v }

/-- Enabling resets both indices and lifts the stop. It does so at every enable, also at the first one after reset and also
over a tail that was written before it: R19 speaks only of an enable that follows a disable, and this is the model's choice
(log 44). -/
def LaunchQueue.writeCfg (q : LaunchQueue) (v : Word) : LaunchQueue :=
  let c := v &&& 0x1F#64
  if cfgOn c && !cfgOn q.cfg then { q with cfg := c, tail := 0, head := 0, stopped := false } else { q with cfg := c }

/-- Host address of the entry at the head, for entries of `size` bytes; none for an empty or stopped ring. -/
def LaunchQueue.entry (q : LaunchQueue) (size : Nat) : Option Nat :=
  if q.on && decide (q.tail ≠ q.head) then some (q.base.toNat + size * (q.head.toNat % 2 ^ q.log)) else none

end Sys2Proof.Machine
end

