-- ==== Sys2Proof/Machine/Inbound.lean ====
section
/-! DEFINITION. The host's and the peers' side of the part: BAR0 registers, clocks, inbound writes and reads, peer
accesses, the report ring, the power windows, reset and bring-up, the ports (R5, R13, R16 to R28, R192, R193, R206, R207,
R443). -/

namespace Sys2Proof.Machine

/-! ### Clocks (R18) -/

/-- Steps 9 to 15 act as 8. -/
def stepOf (fclk : Word) (f : Nat) : Nat := min 8 (fld fclk (4 * f) 4)

/-- The cells of a present frame whose step changes freeze while its clock glides. -/
def writeFclk (s : State) (v : Word) : State :=
  let moved := fun f => decide (stepOf s.pkg.fclk f ≠ stepOf v f) && bit s.pkg.frames f
  let g := (List.range 4).foldl (fun n f => if moved f then n ||| BitVec.ofNat 4 (2 ^ f) else n) s.pkg.glide
  { s with pkg := { s.pkg with fclk := v &&& 0xFFFF#64, glide := g } }

def execFclkWrite (v : BitVec 64) (s : State) : Host.Outcome State Fault Refusal := .next (writeFclk s v)

def execClockGlideEnd (f : BitVec 2) (s : State) : Host.Outcome State Fault Refusal :=
  .next { s with pkg := { s.pkg with glide := s.pkg.glide &&& ~~~BitVec.ofNat 4 (2 ^ f.toNat) } }

/-! ### BAR0 (R5, R17, R206, R222, R250, R270, R271, R279, R289) -/

/-- An address whose bits [5:0] are reserved. -/
def ringBase (v : Word) : Word := v &&& ~~~0x3F#64

def setQueue (s : State) (q : BitVec 3) (f : LaunchQueue → LaunchQueue) : State :=
  { s with pkg := { s.pkg with lq := s.pkg.lq.wr q (f (s.pkg.lq.rd q)) } }

/-- A command register takes a command unless its status shows busy. -/
def busyIf (stat : Word) : Bool := decide (fld stat 0 2 = 1)

/-- A BAR0 write at a byte offset, under the access codes; a command register becomes busy with its command. -/
def bar0Write (s : State) (off : Nat) (v : Word) : State :=
  let p := s.pkg
  if off = 0x010 then writeFclk s v
  else if 0x100 ≤ off ∧ off < 0x200 then
    let q := BitVec.ofNat 3 ((off - 0x100) / 32)
    match off % 32 with
    | 0 => setQueue s q fun x => { x with base := ringBase v }
    | 8 => setQueue s q fun x => x.writeCfg v
    | 16 => setQueue s q fun x => x.writeTail v
    | _ => s
  else if 0x420 ≤ off ∧ off < 0x460 ∧ off % 8 = 0 then
    { s with pkg := { p with mdue := p.mdue.wr (BitVec.ofNat 3 ((off - 0x420) / 8)) (v &&& 0x1FFFFFFFFF000F#64) } }
  else
    match off with
    | 0x200 => { s with pkg := { p with rpBase := ringBase v } }
    | 0x208 => { s with pkg := { p with rpCfg := v &&& 0x3F#64 } }
    | 0x210 => { s with pkg := { p with rpHead := v } }
    | 0x300 => { s with pkg := { p with txImg := ringBase v } }
    | 0x308 => if busyIf p.txStat then s else { s with pkg := { p with txCmd := v &&& 0xFFF3#64, txStat := 1 } }
    | 0x400 => { s with pkg := { p with md := { p.md with base := ringBase v } } }
    | 0x408 => { s with pkg := { p with md := p.md.writeCfg v } }
    | 0x410 => { s with pkg := { p with md := p.md.writeTail v } }
    | 0x500 => { s with pkg := { p with chImg := ringBase v } }
    | 0x508 => if busyIf p.chStat then s else { s with pkg := { p with chCmd := v &&& 0x3FFFFF#64, chStat := 1 } }
    | 0x600 => { s with pkg := { p with pdImg := ringBase v } }
    | 0x608 => { s with pkg := { p with pdCmd := some (v &&& 3#64) } }
    | 0x700 => { s with pkg := { p with cxImg := ringBase v } }
    | 0x708 =>
      if busyIf p.cxStat then s
      else { s with pkg := { p with cxCmd := v &&& 0xF#64, cxStat := (p.cxStat &&& 0xFFFFFFFF00000000#64) ||| 1#64 } }
    | _ => s

def execRegisterWrite (off : BitVec 16) (v : BitVec 64) (s : State) : Host.Outcome State Fault Refusal :=
  .next (bar0Write s off.toNat v)

/-- DEVSTAT (R17). -/
def devStat (p : Package) : Word :=
  BitVec.ofNat 64 (p.devState.toNat + 16 * p.frames.toNat + (if p.scout then 256 else 0))

/-- What a BAR0 read answers; CRMIR mirrors the control registers of cell `c`. BAR0 selects no cell and R17 names none for the
registers that each cell has: that the host asks for one is the model's choice (log 44). -/
def bar0Read (s : State) (c : BitVec 9) (off : Nat) : Word :=
  let p := s.pkg
  if 0x1000 ≤ off ∧ off ≤ 0x8FF8 ∧ off % 8 = 0 then crRead s c ((off - 0x1000) / 8)
  else if 0x100 ≤ off ∧ off < 0x200 then
    let q := p.lq.rd (BitVec.ofNat 3 ((off - 0x100) / 32))
    match off % 32 with
    | 0 => q.base
    | 8 => q.cfg
    | 16 => q.tail
    | 24 => q.head
    | _ => 0
  else if 0x420 ≤ off ∧ off < 0x460 ∧ off % 8 = 0 then p.mdue.rd (BitVec.ofNat 3 ((off - 0x420) / 8))
  else
    match off with
    | 0x000 => Config.devid
    | 0x008 => devStat p
    | 0x010 => p.fclk
    | 0x200 => p.rpBase
    | 0x208 => p.rpCfg ||| BitVec.ofNat 64 (p.drops.toNat * 2 ^ 32)
    | 0x210 => p.rpHead
    | 0x218 => p.rpTail
    | 0x300 => p.txImg
    | 0x310 => p.txStat
    | 0x400 => p.md.base
    | 0x408 => p.md.cfg
    | 0x410 => p.md.tail
    | 0x418 => p.md.head
    | 0x500 => p.chImg
    | 0x510 => p.chStat
    | 0x600 => p.pdImg
    | 0x700 => p.cxImg
    | 0x710 => p.cxStat
    | _ => 0

/-! ### Inbound writes and reads (R16, R177, R192, R193, R443) -/

/-- HBM of present stacks: what the host and the peers reach (R13, R16, R218). -/
def hbmRange (s : State) (pa n : Nat) : Bool := decide (paTarget pa = 0) && (paCheck s pa n).isNone

/-- What lets an access of `n` bytes from outside in: the flits of domain traffic must have been accepted, and they are then
performed (R287, R294). -/
def admitOrigin (s : State) (src : Origin) (kind n : Nat) : Option State :=
  match src with
  | .peer p true => takeFlits s p kind (max 1 (ceilDiv n 256))
  | _ => some s

/-- The response to a peer's access goes back, with the data that it asks for (R194, R287). -/
def respond (s : State) (src : Origin) (a : Nat) (bs : List Byte) : State :=
  match src with
  | .host => s
  | .peer p dom => memoryFlit s dom 3 p.toNat a bs

/-- A write is accepted into the inbound buffer, and its completion goes back; a peer's of domain traffic is one store flit for
each 256 bytes, which passed their checks (R192). -/
def execHostWriteAccept (src : Origin) (pa : BitVec 56) (bytes : List Byte) (s : State) : Host.Outcome State Fault Refusal :=
  if bytes ≠ [] ∧ hbmRange s pa.toNat bytes.length then
    match admitOrigin s src 1 bytes.length with
    | none => .next s
    | some s1 =>
      .next (respond { s1 with inbound := s1.inbound ++ [{ src := src, pa := pa.toNat, bytes := bytes }] } src pa.toNat [])
  else .next s

/-- Entry `i` of the buffer is performed; writes of one source to one home keep their order (R192). -/
def execHostWritePerform (i : Nat) (s : State) : Host.Outcome State Fault Refusal :=
  match s.inbound[i]? with
  | none => .next s
  | some w =>
    if (s.inbound.take i).any (sameLane w) then .next s
    else .next (performInbound broodShadow { s with inbound := s.inbound.eraseIdx i } w)

/-- A byte of the brood table (R226, R240): live fields and the round record, then shadow fields and COMMIT; bits that the table
does not list read zero in both halves (R227). -/
def broodByte (s : State) (a : Nat) : Byte :=
  let x := s.slot ((a - Config.broodBase) / 512)
  let o := (a - Config.broodBase) % 512
  let of_ := fun (w : Word) => BitVec.ofNat 8 (fld w (8 * (o % 8)) 8)
  if o < 0xC8 then of_ (x.live.rd (BitVec.ofNat 5 (o / 8)))
  else if o < 0x100 then of_ (x.record.rd (BitVec.ofNat 3 ((o - 0xC8) / 8)))
  else if o < 0x1C8 then of_ (x.shadow.rd (BitVec.ofNat 5 ((o - 0x100) / 8)))
  else if o = 0x1F8 then (if x.commit then 1 else 0)
  else 0

def channelByte (s : State) (a : Nat) : Byte :=
  match s.chans.table.find ((a - Config.channelBase) / 64) with
  | none => 0
  | some c => BitVec.ofNat 8 (fld (c.w ((a - Config.channelBase) / 8 % 8)) (8 * (a % 8)) 8)

/-- The byte a host read finds at the home. The text region is zero before the first image; its layout is left open, so the
bytes of each later contents are free and stay what they are. After an erase all of HBM is unreadable: its bytes are free at
every read (R172, R249, R298, R443, log 29). -/
def hostByte (s : State) (free : Byte) (a : Nat) : Byte :=
  if s.pkg.devState = 3 then free
  else if Config.broodBase ≤ a ∧ a < Config.broodBase + Config.broodBytes then broodByte s a
  else if Config.channelBase ≤ a ∧ a < Config.channelBase + Config.channelBytes then channelByte s a
  else if Config.textBase ≤ a ∧ a < Config.textBase + Config.textBytes then
    if s.text.changed = 0 then 0 else Config.textByte s.text.changed a
  else s.mem.rd a

def hostBytes (s : State) (pa n : Nat) : List Byte :=
  (List.range n).map fun i => hostByte s (BitVec.ofNat 8 (Config.freeWord (4096 * s.steps + i)).toNat) (pa + i)

/-- A host read is served from the home; its data goes back to the host. -/
def execHostRead (pa : BitVec 56) (n : Nat) (s : State) : Host.Outcome State Fault Refusal :=
  if hbmRange s pa.toNat n then .next { s with response := hostBytes s pa.toNat n } else .next s

/-- A peer's load (operation 15), compare-and-swap (operation 14: the comparand in the high half of `v`) or AMO of R326 is
performed at its home, and the old value goes back (R169, R183, R194). Operation 9 is WADD, of 16 bytes; the others move
4 · 2^size bytes (log 19). -/
def execPeerInboundAccess (t : PeerTarget) (op : BitVec 4) (size : BitVec 2) (v : BitVec 128) (s : State) : Host.Outcome State Fault Refusal :=
  let n := if op = 9 then 16 else 4 * 2 ^ (size.toNat % 2)
  let a := t.pa.toNat
  if !hbmRange s a n || reserved a || decide (a % n ≠ 0) || decide (9 < op.toNat ∧ op.toNat < 14) then .next s
  else
    match admitOrigin s (.peer t.src t.domain) (if op = 15 then 0 else 2) n with
    | none => .next s
    | some s0 =>
      let old := s0.mem.nat a n
      let s1 := respond { s0 with response := toBytes n old } (.peer t.src t.domain) a (toBytes n old)
      if op = 15 then .next s1
      else if op = 14 then
        if old = fld v 64 64 % 2 ^ (8 * n) then .next (s1.store a (toBytes n (fld v 0 64))) else .next s1
      else
        let w := if op = 9 then v.toNat % 2 ^ 96 else v.toNat % 2 ^ (8 * n)
        .next (s1.store a (toBytes n (amoNew op.toNat (8 * n) old w)))

/-! ### The report ring (R206, R207) -/

/-- The words of a record. Words 5 to 7 of its 64 bytes, which R207 does not give, are written zero: the model's choice (log
22). -/
def reportWords (s : State) (r : Report) : List Nat :=
  [r.kind.toNat + r.cause.toNat * 2 ^ 8 + cellNo r.cell * 2 ^ 16 + (if isScout r.cell then 2 ^ 25 else 0)
      + r.ctx.toNat * 2 ^ 32,
    r.epc.toNat, r.tval.toNat, s.pkg.time, r.data.toNat, 0, 0, 0]

/-- The service core writes the oldest report, then RPTAIL, and raises vector 0; a full ring drops it. What happens to a report
while the ring is disabled R206 does not say, nor whether DROPS wraps: it waits for the ring, and DROPS stops at its highest
value, which are the model's choices (log 22). -/
def execReportRecord (s : State) : Host.Outcome State Fault Refusal :=
  let p := s.pkg
  let n := fld p.rpCfg 0 4
  match p.reports with
  | [] => .next s
  | r :: rest =>
    if !cfgOn p.rpCfg then .next s
    else if (p.rpTail - p.rpHead).toNat = 2 ^ n then
      .next { s with pkg := { p with reports := rest, drops := if p.drops = BitVec.allOnes 16 then p.drops else p.drops + 1 } }
    else
      let at_ := hostAddr (p.rpBase.toNat + 64 * (p.rpTail.toNat % 2 ^ n))
      .next { s.store at_ ((reportWords s r).flatMap (toBytes 8)) with
        pkg := { p with
          reports := rest, rpTail := p.rpTail + 1, msix := if bit p.rpCfg 5 then p.msix ++ [0] else p.msix } }

/-! ### Current and throttle (R25, R26) -/

/-- The end of a window in which the frame drew `cur` and its junction stood at `temp` degrees. -/
def throttleStep (cur : BitVec 12) (temp : Int) (t : Throttle) : Throttle :=
  let limit := max 400 (min 2560 t.limit.toNat)
  let over_ := decide (limit < cur.toNat)
  let low := decide (cur.toNat * 16 ≤ limit * 15)
  let calm := if low && !over_ then t.calm + 1 else 0
  let l0 := t.level.toNat
  let l1 := if over_ then min 15 (l0 + 1) else if calm = 4 then max t.floor.toNat (l0 - 1) else l0
  let l2 := max l1 t.floor.toNat
  let hot := decide (105 ≤ temp) || (t.therm && decide (95 < temp))
  { t with
    cur := cur, peak := if t.peak.toNat < cur.toNat then cur else t.peak, overLimit := over_
    calm := if calm = 4 then 0 else calm, therm := hot, level := BitVec.ofNat 4 (if hot then 15 else l2) }

def execThrottleWindow (f : BitVec 2) (cur : BitVec 12) (temp : Int) (s : State) : Host.Outcome State Fault Refusal :=
  .next (setThrottle s f (throttleStep cur temp))

def execFimeasClrpk (f : BitVec 2) (s : State) : Host.Outcome State Fault Refusal := .next (clearPeak s f)

/-! ### Reset, bring-up, ports (R15, R21, R23, R24) -/

/-- The crossings whose two frames are up: 0–1, 0–2, 1–3, 2–3 (R23, R31). -/
def crossingsOf (frames : BitVec 4) : BitVec 4 :=
  let on := fun a b (k : Nat) => if bit frames a && bit frames b then k else 0
  BitVec.ofNat 4 (on 0 1 1 + on 0 2 2 + on 1 3 4 + on 2 3 8)

/-- After frame 3: crossings, links, READY. -/
def bringupDone (p : Package) : Package :=
  { p with devState := 1, up := true, bringup := none, crossings := crossingsOf p.frames, ports := 0xFFFF, uePorts := 0xF }

/-- The package's own id shows in PDSTAT once the package is up (R295, log 32). -/
def ownId (s : State) : State :=
  if s.pkg.devState = 1 then { s with pd := { s.pd with self := Config.packageId } } else s

/-- A package reset: everything at its reset value, then steps 1 to 3 of bring-up; FAILED without the firmware or frame 0;
the scout die may stay absent. Frames 1 to 3 follow (R23). DEVSTAT[7:4] of a FAILED package stays 0, although R10 calls frame 0
always present: the spec does not say which holds there, and this is the model's choice (log 44). -/
def execPackageReset (firmware frame0 scout : Bool) (s : State) : Host.Outcome State Fault Refusal :=
  let r := State.reset
  let off := r.pkg
  let p : Package :=
    if !firmware then { off with devState := 2 }
    else if !frame0 then { off with devState := 2, scout := scout }
    else { off with frames := 1, scout := scout, bringup := some 1 }
  .next { r with pkg := p, agenda := s.agenda, cur := s.cur, steps := s.steps, nextId := s.nextId }

/-- The frame that bring-up waits for is settled: the next one follows (R23, R24). -/
def settleFrame (p : Package) (f : BitVec 2) (up : Bool) : Package :=
  if p.bringup ≠ some f then p
  else
    let p1 := if up then { p with frames := p.frames ||| BitVec.ofNat 4 (2 ^ f.toNat) } else p
    if f = 3 then bringupDone p1 else { p1 with bringup := some (f + 1) }

def execFrameRailOk (f : BitVec 2) (s : State) : Host.Outcome State Fault Refusal :=
  .next (ownId { s with pkg := settleFrame s.pkg f true })

def execFrameBringupTimeout (f : BitVec 2) (s : State) : Host.Outcome State Fault Refusal :=
  .next (ownId { s with pkg := settleFrame s.pkg f false })

/-- Ports 0 to 15 are the scale-up ports, 16 to 19 the Ultra Ethernet ports (R21, R22). -/
def setPort (p : Package) (n : Nat) (up : Bool) : Package :=
  if n < 16 then
    let m := BitVec.ofNat 16 (2 ^ n)
    { p with ports := if up then p.ports ||| m else p.ports &&& ~~~m }
  else if n < 20 then
    let m := BitVec.ofNat 4 (2 ^ (n - 16))
    { p with uePorts := if up then p.uePorts ||| m else p.uePorts &&& ~~~m }
  else p

def execLinkPortDown (p : Nat) (s : State) : Host.Outcome State Fault Refusal := .next { s with pkg := setPort s.pkg p false }
/-- Bring-up has passed its step 5, whatever DEVSTAT shows since: links and domain formation follow (R23). -/
def broughtUp (s : State) : Bool := s.pkg.up

/-- The links come up in step 6 of bring-up, behind frames and crossings: before it no port does (R23). -/
def execLinkPortUp (p : Nat) (s : State) : Host.Outcome State Fault Refusal :=
  .next (if broughtUp s then { s with pkg := setPort s.pkg p true } else s)


end Sys2Proof.Machine
end

