-- ==== Sys2Proof/Machine/Contexts.lean ====
section
/-! DEFINITION. Contexts, the TLBI sequence, quarantine (R217, R222 to R225). -/

namespace Sys2Proof.Machine

/-! ### CXCMD (R222) -/

/-- Word `i` of the context descriptor in host memory. -/
def cxWord (s : State) (i : Nat) : Word := s.mem.word (hostAddr (s.pkg.cxImg.toNat + 8 * i))

/-- Whether the service core may carry out a command: the write that started it made CXSTAT busy. -/
def cxReady (s : State) (code : Nat) : Bool := busyIf s.pkg.cxStat && decide (fld s.pkg.cxCmd 0 3 = code)

/-- Writes done, or rejected with a reason. -/
def cxDone (s : State) (reason : Nat) : State :=
  { s with pkg := { s.pkg with
      cxStat := (s.pkg.cxStat &&& 0xFFFFFFFF00000000#64) ||| doneStat reason, cxCmd := 0 } }

def contextAt (s : State) (id : BitVec 16) : Option Context := s.pkg.contexts.find? fun c => decide (c.id = id)

/-- An HBM address of a present stack. R222 asks for an HBM address only: that one in a stack of an absent frame is outside the
range as well, with reason 2, is the model's choice (log 31). -/
def hbmAddr (s : State) (pa n : Nat) : Bool := decide (paTarget pa = 0) && (paCheck s pa n).isNone

/-- The reason that a descriptor is rejected for create: reserved bits and alignment, then ranges, use, room; the order is the
model's choice (log 31). -/
def createReason (s : State) : Nat :=
  let w := cxWord s
  let wide := [w 1, w 2, w 3, w 5].any fun x => decide (2 ^ 56 ≤ x.toNat)
  let n := fld (w 4) 32 16
  if fld (w 0) 16 48 ≠ 0 ∨ wide = true ∨ fld (w 4) 48 16 ≠ 0 ∨ fld (w 6) 32 32 ≠ 0 ∨ w 7 ≠ 0
      ∨ (w 1).toNat % 8192 ≠ 0 ∨ (w 3).toNat % 4096 ≠ 0 ∨ (w 5).toNat % 8 ≠ 0 ∨ fld (w 4) 0 32 % 4096 ≠ 0 then 1
  else if n < 1 ∨ 4096 < n ∨ !hbmAddr s (w 1).toNat 8192 ∨ !hbmAddr s (w 5).toNat 8 then 2
  else if (contextAt s ((w 0).extractLsb' 0 16)).isSome then 4
  else if 64 ≤ s.pkg.contexts.length then 3
  else 0

def execContextCreate (s : State) : Host.Outcome State Fault Refusal :=
  let w := cxWord s
  if !cxReady s 0 then .next s
  else if createReason s ≠ 0 then .next (cxDone s (createReason s))
  else
    let c : Context :=
      { id := (w 0).extractLsb' 0 16, root := (w 1).toNat, tvec := (w 2).extractLsb' 0 56, saveb := (w 3).toNat
        saves := fld (w 4) 0 32, free := List.range (fld (w 4) 32 16), used := [], pool := (w 5).toNat
        poolN := fld (w 6) 0 32 }
    .next (cxDone { s with pkg := { s.pkg with contexts := s.pkg.contexts ++ [c] } } 0)

/-- A launch of the context, or work of an engine, the fast path or an accord engine. -/
def contextUsed (s : State) (id : BitVec 16) : Bool :=
  s.tasks.launches.any (fun l => decide (l.ctx = id)) || s.cmds.any (fun x => decide (x.ctx = id))
    || s.pkg.fastPath.any (fun c => decide ((s.cellAt c).task.ctx = id))
    || s.accord.msgs.toList.any (fun l => l.any fun m => match m with
      | .enter _ _ _ ctx _ _ _ _ _ _ _ => decide (ctx = id)
      | .sample _ _ _ ctx _ _ _ _ => decide (ctx = id)
      | .inval _ _ _ ctx _ => decide (ctx = id))
    || s.accord.regions.toList.any (fun l => l.any fun r => decide (r.ctx = id) && (decide (r.state = 2) || decide (r.state = 4)))

/-- Every cache of both dies loses the translations, under the next TLBI number (R222, R223). -/
def dropEverywhere (s : State) (id : BitVec 16) (va : Option Nat) : State :=
  numberTlbi { s with cells := s.cells.map (tlbDrop id va) } id va

/-- Destroy. Where two of the defects hold, the descriptor's form comes first, then a context that does not exist, then its use: no
rule orders them, and this is the model's choice (log 31). -/
def execContextDestroy (s : State) : Host.Outcome State Fault Refusal :=
  let w := cxWord s
  let id := (w 0).extractLsb' 0 16
  if !cxReady s 1 then .next s
  else if fld (w 0) 16 48 ≠ 0 ∨ w 7 ≠ 0 then .next (cxDone s 1)
  else if (contextAt s id).isNone then .next (cxDone s 5)
  else if contextUsed s id then .next (cxDone s 4)
  else
    let s1 := dropEverywhere s id none
    .next (cxDone { s1 with pkg := { s1.pkg with contexts := s1.pkg.contexts.filter fun c => decide (c.id ≠ id) } } 0)

/-- CXSTAT[63:32] takes the invalidation's number. The descriptor's form is checked before the context's absence, by the model's
choice (log 31). -/
def execContextInvalidate (whole : Bool) (s : State) : Host.Outcome State Fault Refusal :=
  let w := cxWord s
  let id := (w 0).extractLsb' 0 16
  if !cxReady s 2 || bit s.pkg.cxCmd 3 != whole then .next s
  else if fld (w 0) 16 48 ≠ 0 ∨ fld (w 7) 56 8 ≠ 0 then .next (cxDone s 1)
  else if (contextAt s id).isNone then .next (cxDone s 5)
  else
    let n := s.pkg.tlbiNext
    let s1 := cxDone (dropEverywhere s id (if whole then none else some (w 7).toNat)) 0
    .next { s1 with pkg := { s1.pkg with cxStat := BitVec.ofNat 64 (n % 2 ^ 32 * 2 ^ 32 + 2) } }

/-- Set pool. The descriptor's form comes before the pool's range, and that before the context's absence: no rule orders them,
and this is the model's choice (log 31). -/
def execContextSetPool (s : State) : Host.Outcome State Fault Refusal :=
  let w := cxWord s
  let id := (w 0).extractLsb' 0 16
  if !cxReady s 3 then .next s
  else if fld (w 0) 16 48 ≠ 0 ∨ fld (w 5) 56 8 ≠ 0 ∨ fld (w 6) 32 32 ≠ 0 ∨ w 7 ≠ 0 ∨ (w 5).toNat % 8 ≠ 0 then
    .next (cxDone s 1)
  else if !hbmAddr s (w 5).toNat 8 then .next (cxDone s 2)
  else if (contextAt s id).isNone then .next (cxDone s 5)
  else
    let f := fun (c : Context) => if c.id = id then { c with pool := (w 5).toNat, poolN := fld (w 6) 0 32 } else c
    .next (cxDone { s with pkg := { s.pkg with contexts := s.pkg.contexts.map f } } 0)

/-- Codes 4 to 7 are rejected with reason 1. -/
def execContextBadCommand (code : BitVec 3) (s : State) : Host.Outcome State Fault Refusal :=
  .next (if 4 ≤ code.toNat ∧ cxReady s code.toNat then cxDone s 1 else s)

/-! ### QUIESCE and the quarantine queue (R224, R225) -/

/-- A queued M word that has still to access what was translated when it issued (R158, R161, R162). -/
def heldRuns : MJob → Bool
  | .store _ _ _ _ _ _ _ _ => true
  | .load _ _ _ (.later _) _ _ => true
  | .fill _ _ (.later _) => true
  | .code _ _ (.later _) => true
  | .micro _ _ _ (.later _) => true
  | _ => false

/-- An access of a cell that was translated before access number `n`, or a queued M word that has still to access memory. -/
def olderAccess (n : Nat) (c : Cell) : Bool :=
  c.pipe.accs.any (fun a => decide (a.id < n)) || c.mx.queue.any heldRuns

/-- The oldest TLBI takes effect everywhere, once every access translated before it has been performed; engines hold no
translation between two of their accesses. -/
def execQuiesceAdvance (s : State) : Host.Outcome State Fault Refusal :=
  match s.pkg.shoots with
  | [] => .next s
  | x :: rest =>
    if s.cells.toList.any (olderAccess x.first) || s.tasks.saved.any (fun y => olderAccess x.first y.image) then .next s
    else
      .next { s with
        cells := s.cells.map (tlbDrop x.ctx x.va)
        pkg := { s.pkg with quiesce := x.n, shoots := rest } }

/-- The TLBI that unmapped a page: the first one, from the number that the page carries, that names its context and its
address and found it unmapped; one that was issued while the entry still mapped the page is none (R225, log 26). -/
def unmapping (s : State) (q : Freed) : Option Nat :=
  (s.pkg.tlbis.find? fun t => decide (q.since ≤ t.n) && unmaps q t).map (·.n)

/-- QUIESCE has reached the number of the TLBI that unmapped the page. -/
def releasable (s : State) (q : Freed) : Bool := match unmapping s q with
  | none => false
  | some n => decide (n ≤ s.pkg.quiesce)

/-- The oldest page that may be reused is released. -/
def execQuarantineRelease (s : State) : Host.Outcome State Fault Refusal :=
  match s.pkg.quarantine.find? (releasable s) with
  | none => .next s
  | some q => .next { s with pkg := { s.pkg with quarantine := s.pkg.quarantine.erase q } }

end Sys2Proof.Machine
end

