-- ==== Sys2Proof/Machine/Copy.lean ====
section
/-! DEFINITION. The copy engine: CPY (R131, R133, R352 to R354). Blocks of 32 elements are copied in ascending order
(log 14). -/

namespace Sys2Proof.Machine

/-- The word's mode: [2:0] of its low field, DYN read at issue; [3] saturates (R94, R95). -/
def execCpy (h : Header) (o : EC) (s : State) : Host.Outcome State Fault Refusal :=
  engineWord .cpy h o (ecCpy o && hOk (s.cell.rdH o.ha) && hOk (s.cell.rdH o.hb)) s fun c x =>
    .go (launchCmd s { x with num := roundMode c.nx.rmode (fld o.low 0 3) })

/-- The start checks (R353). -/
def cpyStart (x : Cmd) : Bool :=
  decide (hDim x.ha 0 = hDim x.hb 0 ∧ hDim x.ha 1 = hDim x.hb 1 ∧ hDim x.ha 2 = hDim x.hb 2 ∧ hDim x.ha 3 = hDim x.hb 3)
    && (!tyNib (hType x.ha) || decide (hDim x.ha 0 % 2 = 0))
    && (decide (hBsm x.ha = 0) || hType x.ha = 3#4 || hType x.ha = 4#4 || hType x.ha = 5#4)

def cpyBlocks (x : Cmd) : Nat := ceilDiv (hDim x.ha 0) 32 * hDim x.ha 1 * hDim x.ha 2 * hDim x.ha 3

/-- Address of the dim0 row that block `k` lies in, at an offset from BASE (R352). -/
def cpyRow (hv : BitVec 256) (off : Word) (k : Nat) : Nat :=
  let r := k / ceilDiv (hDim hv 0) 32
  let i1 := r % hDim hv 1
  let i2 := r / hDim hv 1 % hDim hv 2
  let i3 := r / hDim hv 1 / hDim hv 2
  hBase hv + off.toNat + i1 * hStride hv 1 + i2 * hStride hv 2 + i3 * hStride hv 3

/-- Address and bytes of the elements of block `b` of a row, and the address of its scale byte (R133, R352). -/
def cpyPlace (hv : BitVec 256) (row b n : Nat) : Nat × Nat × Nat :=
  let w := widthOf (hType hv).toNat
  (row + 32 * b * w / 8, (n * w + 7) / 8, row + hDim hv 0 * w / 8 + b)

/-- emax of a scaled destination (R352). -/
def cpyEmax (ty : Nat) : Int :=
  match ty with
  | 3 => 8
  | 4 => 15
  | _ => 2

/-- The scale byte of a block (R352). -/
def blockScale (ty : Nat) (xs : List FV) : Nat :=
  if xs.any FV.isNaN then 255
  else
    match xs.filter fun x => x.isFin && !x.isZero with
    | [] => 127
    | y :: ys =>
      let t := ys.foldl (fun t x => max t x.top) y.top
      (min 254 (max 0 (t - cpyEmax ty + 127))).toNat

/-- Element bytes, scale byte and events of a block, from the source bits and scale (R131, R352). -/
def cpyConvert (x : Cmd) (bits : List Nat) (scale : Nat) : List Nat × Nat × BitVec 8 :=
  let src := (hType x.hb).toNat
  let dst := (hType x.ha).toNat
  if hType x.ha = hType x.hb ∧ hBsm x.ha = hBsm x.hb then (bits, scale, 0)
  else
    let raw := bits.map (FV.ofBits src)
    let xs := if hBsm x.hb = 1 then raw.map (FV.scaleBy scale) else raw
    let sc := if hBsm x.ha = 1 then blockScale dst xs else 127
    let ys := xs.map fun v => convLane dst src x.num (bit x.low 3) false (127 - (sc : Int)) v
    (ys.map (·.1), sc, (ys.foldl (fun e y => e ||| y.2) 0) ||| raw.foldl (fun e v => e ||| sigEvent v) 0)

/-- Copies block `k`, or faults before it writes any of it. -/
def cpyBlock (s : State) (x : Cmd) (k : Nat) : Except (BitVec 8 × Nat) (State × BitVec 8) :=
  let b := k % ceilDiv (hDim x.ha 0) 32
  let n := min 32 (hDim x.ha 0 - 32 * b)
  let ps := cpyPlace x.hb (cpyRow x.hb x.sb k) b n
  let pd := cpyPlace x.ha (cpyRow x.ha x.sa k) b n
  let scaled := fun (hv : BitVec 256) => if hBsm hv = 1 then 1 else 0
  match cmdSegs s x x.hb 0 ps.1 ps.2.1, cmdSegs s x x.hb 0 ps.2.2 (scaled x.hb),
      cmdSegs s x x.ha 1 pd.1 pd.2.1, cmdSegs s x x.ha 1 pd.2.2 (scaled x.ha) with
  | .error f, _, _, _ => .error f
  | _, .error f, _, _ => .error f
  | _, _, .error f, _ => .error f
  | _, _, _, .error f => .error f
  | .ok gs, .ok gc, .ok gd, .ok ge =>
    let w := widthOf (hType x.hb).toNat
    let v := leNat (engBytes s x gs)
    let r := cpyConvert x ((List.range n).map fun i => (v >>> (w * i)) % 2 ^ w) ((engBytes s x gc).getD 0 0).toNat
    let out := toBytes pd.2.1 (ofLanes (widthOf (hType x.ha).toNat) r.1)
    .ok (engStore x ge [BitVec.ofNat 8 r.2.1] (engStore x gd out (loadFlits s (gs ++ gc))), r.2.2)

/-- Blocks from the held progress to the end; a fault suspends the command there (R213, R354). -/
def cpyRun : Nat → State → Cmd → State
  | 0, s, x => cmdDone s x x.ev []
  | n + 1, s, x =>
    match cpyBlock s x x.progress with
    | .error f => cmdFault s x f
    | .ok (s1, e) => cpyRun n s1 { x with progress := x.progress + 1, ev := x.ev ||| e }

/-- The command's work, to its end or to a fault. -/
def runCpy (s : State) (x : Cmd) : State :=
  if !cpyStart x then cmdFault s x (cIllegalOp, 0) else cpyRun (cpyBlocks x - x.progress) s x

end Sys2Proof.Machine
end

