-- ==== Sys2Proof/Machine/Domain.lean ====
section
/-! DEFINITION. The propolis domain: manifest, formation, flits, errors and alarms, re-keying, erasure (R289 to R298). -/

namespace Sys2Proof.Machine

/-! ### Alarms (R295, R298) -/

/-- Sets the level's bit and the source, and signals the host on vector 1. -/
def raiseAlarm (s : State) (level source : Nat) : State :=
  { s with
    pd := { s.pd with alarm := (s.pd.alarm &&& 7#64) ||| BitVec.ofNat 64 (2 ^ (level - 1) + source * 256) }
    pkg := { s.pkg with msix := s.pkg.msix ++ [1] } }

/-- Level 3: keys, scout SRAM and staging memory are erased, HBM becomes unreadable, every cell halts (log 29). -/
def erase (s : State) (source : Nat) : State :=
  let s1 := raiseAlarm s 3 source
  { s1 with
    mem := s1.mem.filter fun e => decide (2 ≤ paTarget e.1)
    staging := []
    pd := { s1.pd with
      state := 5, secret := 0, members := [], next := [], seqs := [], seen := [], sends := [], flits := [], tags := 0
      arrived := false, change := false }
    pkg := { s1.pkg with devState := 3, bringup := none } }

/-- Sources 3 to 6 are the sensors. -/
def execTamperSensor (source : BitVec 8) (s : State) : Host.Outcome State Fault Refusal :=
  .next (if 3 ≤ source.toNat ∧ source.toNat ≤ 6 then erase s source.toNat else s)

/-- Whether the security core may carry out a command: the host has written it to PDCMD (R289). -/
def pdReady (s : State) (code : Nat) : Bool :=
  match s.pkg.pdCmd with
  | none => false
  | some v => decide (fld v 0 2 = code)

def pdTaken (s : State) : State := { s with pkg := { s.pkg with pdCmd := none } }

def execDomainRevoke (s : State) : Host.Outcome State Fault Refusal :=
  .next (if pdReady s 2 then erase (pdTaken s) 7 else s)

/-! ### The manifest (R290) -/

def manifestBytes (s : State) (off n : Nat) : List Byte := s.mem.bytes (hostAddr (s.pkg.pdImg.toNat + off)) n

/-- A switch id has bit 15 set. -/
def isSwitch (id : BitVec 16) : Bool := bit id 15

structure Manifest where
  domain : BitVec 32
  recs : List MemberRec
  ok : Bool
  deriving DecidableEq, Repr

def recordId (bs : List Byte) : BitVec 16 := BitVec.ofNat 16 (leNat (bs.take 2))

/-- The record's id, slot and digests, a digest's bytes in their order (R290). -/
def parseMember (bs : List Byte) : MemberRec :=
  { id := recordId bs, slot := BitVec.ofNat 3 (bs.getD 2 0).toNat
    firmware := BitVec.ofNat 384 (leNat ((bs.drop 16).take 48)), code := BitVec.ofNat 384 (leNat ((bs.drop 64).take 48)) }

/-- Bits that must be zero, and a switch without a loaded-code digest. -/
def recordOk (bs : List Byte) : Bool :=
  decide ((bs.getD 2 0).toNat < 8) && ((bs.drop 3).take 13).all (fun b => decide (b = 0))
    && (!isSwitch (recordId bs) || ((bs.drop 64).take 48).all fun b => decide (b = 0))

/-- The manifest of PDIMG, with the rules that may break it. -/
def manifest (s : State) : Manifest :=
  let h := BitVec.ofNat 64 (leNat (manifestBytes s 0 8))
  let c := BitVec.ofNat 64 (leNat (manifestBytes s 8 8))
  let n := fld c 0 16
  let recs := (List.range (min n 160)).map fun i => manifestBytes s (16 + 112 * i) 112
  let ids := recs.map recordId
  { domain := h.extractLsb' 32 32, recs := recs.map parseMember
    ok := decide (fld h 0 32 = 0x01A9D0) && decide (2 ≤ n ∧ n ≤ 160) && decide (fld c 16 48 = 0) && recs.all recordOk
      && decide ((ids.filter fun i => !isSwitch i).length ≤ 144) && decide ((ids.filter isSwitch).length ≤ 16)
      && decide (ids.Nodup) && decide (s.pd.self ∈ ids) }

/-! ### Formation and changes (R291, R297) -/

/-- What was measured of a member equals its record: the chain of its slot passes, block 1 is the firmware digest, and for a
package block 2 is the loaded-code digest (R290, R291). -/
def measuredOk (reports : List Measured) (r : MemberRec) : Bool :=
  reports.any fun m => decide (m.id = r.id) && bit m.chains r.slot.toNat && decide (m.firmware = r.firmware)
    && (isSwitch r.id || decide (m.code = r.code))

/-- The leader: the package with the lowest id (R291). -/
def leaderOf (recs : List MemberRec) : Option (BitVec 16) :=
  (recs.map (·.id)).foldl (fun o i => if isSwitch i then o else match o with
    | none => some i
    | some j => some (if i.toNat < j.toNat then i else j)) none

/-- The members that are kept: those already known, and those that attestation passes. The leader attests each other
member, and each of them the leader; nobody asks a leader for its own measurements (log 32). -/
def vouched (s : State) (known : List (BitVec 16)) (reports : List Measured) (recs : List MemberRec) : List (BitVec 16) :=
  (recs.filter fun r => decide (r.id ∈ known) || measuredOk reports r
    || (decide (r.id = s.pd.self) && decide (leaderOf recs = some s.pd.self))).map (·.id)

/-- A member that failed attestation is left out and logged. -/
def logLeftOut (s : State) (recs : List MemberRec) (kept : List (BitVec 16)) : State :=
  if kept.length < recs.length then raiseAlarm s 1 8 else s

/-- The package is in the domain that `kept` leaves: it and the leader, from whom it has the secret, are kept. -/
def admitted (s : State) (recs : List MemberRec) (kept : List (BitVec 16)) : Bool :=
  decide (s.pd.self ∈ kept) && match leaderOf recs with
    | none => false
    | some l => decide (l ∈ kept)

/-- Formation ends: a new domain at generation 1, one after a suspension at g + 1. `secret` is what the leader drew. -/
def endForming (s : State) (reports : List Measured) (secret : BitVec 384) : State :=
  let kept := vouched s [] reports s.pd.next
  let s1 := logLeftOut s s.pd.next kept
  let ok := admitted s s.pd.next kept
  { s1 with pd := { s1.pd with
      state := if ok then 2 else 0, gen := if s.pd.change then s.pd.gen + 1 else 1, secret := if ok then secret else 0
      members := if ok then kept else [], next := [], seqs := [], seen := [], sends := [], flits := [], seqErr := 0, authErr := 0
      tags := 0, arrived := false, change := false } }

/-- PDCMD form or change, which waits for the end of bring-up (R23). Formation begins with the manifest and ends at a later
turn, with what attestation found; a domain in force goes to REKEYING and waits for its barrier (R291, R295, R297). -/
def execDomainForm (reports : List Measured) (secret : BitVec 384) (s : State) : Host.Outcome State Fault Refusal :=
  if s.pd.state = 1 then .next (endForming s reports secret)
  else if !pdReady s 0 || !broughtUp s then .next s
  else
    let s0 := pdTaken s
    let m := manifest s
    if s.pd.state = 5 then .next s0
    else if !m.ok then .next (raiseAlarm s0 1 8)
    else if inDomain s then .next { s0 with pd := { s0.pd with state := 3, next := m.recs, change := true } }
    else
      .next { s0 with pd := { s0.pd with
        state := 1, domain := m.domain, next := m.recs, change := decide (s.pd.state = 4), arrived := false } }

/-- A member that needs no attestation any more. -/
def knownRec (id : BitVec 16) : MemberRec := { id := id, slot := 0, firmware := 0, code := 0 }

/-- PDCMD leave: a membership change without this package. -/
def execDomainLeave (s : State) : Host.Outcome State Fault Refusal :=
  if !pdReady s 1 then .next s
  else
    let s0 := pdTaken s
    if inDomain s then
      let recs := if s.pd.change then s.pd.next else s.pd.members.map knownRec
      .next { s0 with pd := { s0.pd with state := 3, next := recs.filter fun r => decide (r.id ≠ s.pd.self), change := true } }
    else .next s0

/-! ### Re-keying (R297) -/

/-- The switch holds a contribution to a round of a DOM channel: one of this package without its result, or one of another
member to the round that comes next here. -/
def openRounds (s : State) : Bool :=
  s.chans.table.any fun p => p.2.dom && (p.2.rounds.any (fun r => r.result.isNone)
    || (decide (p.2.kind = 3) && p.2.valid && Config.switchHolds s.pd.gen.toNat p.1 p.2.started))

/-- A flit of the current generation is outstanding: accepted and not performed, sent by a CHSEND that no receiver has
acknowledged, or of an access to a member's domain page, of a cell, its matrix unit or an engine, that has had no response (R292,
R297, log 32). -/
def flitsOut (s : State) : Bool :=
  let peer := fun (c : Cell) => c.pipe.accs.any fun a => a.dom && decide (paTarget a.pa = 3) && domainOk s (peerOf a.pa)
  !s.pd.flits.isEmpty
    || s.cmds.any (fun x => decide (x.op = .chsend) && x.started && ((chanOf s (chanNo x)).map (·.dom)).getD false)
    || s.cells.toList.any peer || s.tasks.saved.any (fun y => peer y.image)
    || s.pd.asks.any fun a => a.owed.any fun p => domainOk s p.toNat

/-- Every security core moves to g + 1; the barrier and the tags that wait for it are released. A package that is no longer
named leaves. -/
def rekey (s : State) (reports : List Measured) : State :=
  let kept := vouched s s.pd.members reports s.pd.next
  let s1 := logLeftOut s s.pd.next kept
  let stays := decide (s.pd.self ∈ kept)
  { s1 with pd := { s1.pd with
      state := if stays then 2 else 0, gen := s1.pd.gen + 1, members := if stays then kept else []
      secret := if stays then s1.pd.secret else 0, next := [], seqs := [], seen := [], sends := [], flits := [], tags := 0
      arrived := false, change := false } }

/-- This package has arrived, none of its flits is outstanding and no round is open; that the other members have arrived is
what the turn says (log 32). -/
def execRekeyBarrierComplete (reports : List Measured) (s : State) : Host.Outcome State Fault Refusal :=
  let s1 := settleAsks s
  .next (if decide (s1.pd.state = 3) && s1.pd.change && s1.pd.arrived && !openRounds s1 && !flitsOut s1 then rekey s1 reports else s1)

/-- The open rounds of a DOM channel end: their commands fault with DOMAIN_FAULT. -/
def endRounds (s : State) (ch : Nat) (c : Chan) : State :=
  let open_ := c.rounds.filter fun r => r.result.isNone
  let s1 := open_.foldl (fun s r => match s.cmds.find? fun x => decide (x.id = r.cmd) with
    | none => s
    | some x => cmdFault s { x with started := false } (cDomainFault, 0)) s
  setChan s1 ch { c with rounds := c.rounds.filter fun r => r.result.isSome }

/-- PDTMO runs out after the last arrival: open rounds end and the barrier completes. -/
def execRekeyDrainTimeout (reports : List Measured) (s : State) : Host.Outcome State Fault Refusal :=
  if decide (s.pd.state = 3) && s.pd.change && s.pd.arrived then
    .next (rekey (s.chans.table.foldl (fun s p => if p.2.dom then endRounds s p.1 p.2 else s) s) reports)
  else .next s

/-! ### Flits (R287, R294, R298) -/

/-- A count above PDTHR suspends the package (R298). -/
def checkErrors (s : State) (source n : Nat) : State :=
  if fld s.pd.thr 0 16 < n then
    let s1 := raiseAlarm s 2 source
    { s1 with pd := { s1.pd with state := 4, flits := [] } }
  else s

def countSeq (s : State) : State :=
  let s1 := raiseAlarm { s with pd := { s.pd with seqErr := satInc s.pd.seqErr } } 1 1
  checkErrors s1 1 s1.pd.seqErr.toNat

def countAuth (s : State) : State :=
  let s1 := raiseAlarm { s with pd := { s.pd with authErr := satInc s.pd.authErr } } 1 2
  checkErrors s1 2 s1.pd.authErr.toNat

/-- A flit that passed its checks waits to be performed. A response does so where something still awaits one of its source, and
one that nobody needs any more goes with what it answers (R287, R294, log 32). -/
def admitFlit (s : State) (hdr : BitVec 128) : State :=
  let src := hdr.extractLsb' 0 16
  if fld hdr 36 4 = 3 ∧ awaiting s src ≤ (s.pd.flits.filter (flitFrom src 3)).length then s
  else settleAsks { s with pd := { s.pd with flits := s.pd.flits ++ [hdr] } }

/-- The flit is a member's, for this package or for a group, with an encrypted payload and of a kind that exists: other flits are
dropped as malformed and not counted. A group flit is taken for this package's (R287, R292, log 32). -/
def flitForm (s : State) (hdr : BitVec 128) : Bool :=
  inDomain s && decide (hdr.extractLsb' 0 16 ∈ s.pd.members) && decide (fld hdr 36 4 < 8) && bit hdr 35
    && (decide (hdr.extractLsb' 16 16 = s.pd.self) || isSwitch (hdr.extractLsb' 0 16))

/-- The number expected next on the scale-up path, one above the highest accepted on the other, by source and class. -/
def seqKey (hdr : BitVec 128) (ue : Bool) : Nat := fld hdr 0 16 * 8 + fld hdr 32 2 * 2 + (if ue then 1 else 0)

/-- A flit whose tag or generation fails is counted as an authentication failure; then its SEQ is checked. One from
outside the domain, or of kinds 8 to 15, is dropped (log 32). -/
def execDomainFlitReceive (hdr : BitVec 128) (ue tagOk : Bool) (s : State) : Host.Outcome State Fault Refusal :=
  let k := seqKey hdr ue
  let q := fld hdr 64 64
  let n := s.pd.seqs.get 0 k
  let seen := s.pd.seen.get [] k
  if !flitForm s hdr then .next s
  else if !tagOk || decide (fld hdr 40 24 ≠ s.pd.gen.toNat % 2 ^ 24) then .next (countAuth s)
  else if !ue then
    if q = n then .next (admitFlit { s with pd := { s.pd with seqs := s.pd.seqs.put k (q + 1) } } hdr) else .next (countSeq s)
  else if q + 256 < n ∨ q ∈ seen then .next (countSeq s)
  else
    let top := max n (q + 1)
    .next (admitFlit { s with pd := { s.pd with
      seqs := s.pd.seqs.put k top, seen := s.pd.seen.put k (q :: seen.filter fun x => decide (top ≤ x + 256)) } } hdr)

/-- A new window: the counts restart (R295). -/
def execPderrWindow (s : State) : Host.Outcome State Fault Refusal :=
  .next { s with pd := { s.pd with seqErr := 0, authErr := 0 } }

end Sys2Proof.Machine
end

