-- ==== Sys2Proof/Machine/Slots.lean ====
section
/-! DEFINITION. What the quorum unit, the sieve, the text engine and the media unit share: the slot operand, generations, the
order of commands, handles (R230, R231, R247, R267, R277). -/

namespace Sys2Proof.Machine

/-! ### The slot operand (R230) -/

def slotNo (x : Cmd) : Nat := fld x.sa 0 32

/-- A slot above 4,095 traps at issue (R230). -/
def slotOk (c : Cell) (o : EC) : Bool := decide (fld (c.rdS o.sa) 0 32 < Config.slots)

/-- The expected generation is 0 or the slot's. -/
def genOk (s : State) (x : Cmd) : Bool := decide (fld x.sa 32 32 = 0) || decide (fld x.sa 32 32 = (s.slot (slotNo x)).gen)

/-- A dropped write is counted; the count stops at all ones (R231). -/
def countStale (s : State) : State :=
  { s with brood := { s.brood with stalew := satInc s.brood.stalew } }

/-- The engine classes whose commands name a slot: SIEVE, QUOR, TEXT, MEDIA. -/
def onSlot (x : Cmd) : Bool := decide (4 ≤ x.op.cls) && decide (x.op.cls ≤ 7)

/-- An older command of the same task to the same slot, of whatever class, has still to be performed: commands of one task to
one slot are performed in issue order (R247, R267). A SIEVE is performed when its declaration has its number; its list may
come later (R416, log 25). -/
def olderSlot (s : State) (x : Cmd) : Bool :=
  s.cmds.any fun y => decide (y.id < x.id) && decide (y.gang = x.gang) && decide (y.gmem = x.gmem) && onSlot y
    && decide (slotNo y = slotNo x) && !(decide (y.op = .sieve) && y.started)

/-- The command ends with ENGINE_FAULT naming ILLEGAL_OP and no effect (R213). -/
def cmdIllegal (s : State) (x : Cmd) : State := cmdFault s x (cIllegalOp, 0)

/-- A one-dimensional handle of a type with DIM0 in a range; it may be empty by an extent of 0 of a higher dimension, and the
command then moves nothing (R91). An extent above 1 there makes it not one-dimensional, and the command ends as at a wrong
DIM0: that is the model's choice (log 25). -/
def handle1 (hv : BitVec 256) (ty lo hi : Nat) : Bool :=
  decide ((hType hv).toNat = ty) && decide (hDim hv 1 ≤ 1 ∧ hDim hv 2 ≤ 1 ∧ hDim hv 3 ≤ 1)
    && decide (lo ≤ hDim hv 0) && decide (hDim hv 0 ≤ hi)

/-- Reads `n` bytes at the BASE of ha. -/
def readHa (s : State) (x : Cmd) (n : Nat) : Except (BitVec 8 × Nat) (List Byte) :=
  match cmdSegs s x x.ha 0 (hBase x.ha) n with
  | .error f => .error f
  | .ok g => .ok (engBytes s x g)

/-- The load flits of such a read. -/
def haFlits (s : State) (x : Cmd) (n : Nat) : State :=
  match cmdSegs s x x.ha 0 (hBase x.ha) n with
  | .error _ => s
  | .ok g => loadFlits s g

/-- Writes bytes at the BASE of ha; nothing to an empty tensor (R91). -/
def writeHa (s : State) (x : Cmd) (bs : List Byte) : Except (BitVec 8 × Nat) State :=
  if hEmpty x.ha then .ok s
  else match cmdSegs s x x.ha 1 (hBase x.ha) bs.length with
  | .error f => .error f
  | .ok g => .ok (engStore x g bs s)

/-- The words of an element list, 32 bits each. -/
def words32 (bs : List Byte) : List Nat := (List.range (bs.length / 4)).map fun i => leNat ((bs.drop (4 * i)).take 4)

end Sys2Proof.Machine
end

