-- ==== Sys2Proof/Machine/Text.lean ====
section
/-! DEFINITION. The text engine: images, grammar, detokeniser, byte streams and the four text commands (R249 to R267, R358,
R365, R368, R369, R421). -/

namespace Sys2Proof.Machine

/-! ### Grammar (R252, R258, R259) -/

/-- GRAMMAR 0xFFF: no grammar. -/
def Slot.grammarId (sl : Slot) : Nat := fld (sl.used 3) 0 12
def Slot.vocabId (sl : Slot) : Nat := fld (sl.used 2) 0 4
def Slot.free (sl : Slot) : Bool := decide (sl.grammarId = 0xFFF)

def vocabOf (s : State) (sl : Slot) : Option Vocab := s.text.vocabs.find sl.vocabId
def gramOf (s : State) (sl : Slot) : Option Gram := if sl.free then none else s.text.grams.find sl.grammarId

/-- VOCAB and a GRAMMAR other than 0xFFF name resident images (R258). -/
def resident (s : State) (sl : Slot) : Bool := (vocabOf s sl).isSome && (sl.free || (gramOf s sl).isSome)

/-- A state of the automaton and its stack, top first. -/
abbrev GState := Nat × List (BitVec 8)

def pairOf (g : Gram) (st : GState) : Word := g.pairs.getD (256 * st.1 + (st.2.headD 0).toNat) 0

/-- The mask of a pair, token x at bit x. -/
def maskOf (g : Gram) (st : GState) : Nat := leNat (g.masks.getD (fld (pairOf g st) 0 16) [])

/-- The first transition of the pair that covers a token. -/
def transOf (g : Gram) (st : GState) (x : Nat) : Option (Word × Word) :=
  ((g.trans.drop (fld (pairOf g st) 16 32)).take (fld (pairOf g st) 48 8)).find? fun t =>
    decide (fld t.1 0 18 ≤ x) && decide (x ≤ fld t.1 32 18)

inductive Advance where
  | ok (st : GState)
  | dead
  | overflow
  deriving DecidableEq, Repr

/-- One advance on a grammar under a depth limit (R259). -/
def advance (g : Gram) (dlim : Nat) (st : GState) (x : Nat) : Advance :=
  if !(maskOf g st).testBit x then .dead
  else
    match transOf g st x with
    | none => .dead
    | some t =>
      let pop := fld t.2 16 2
      let push := fld t.2 20 2
      if st.2.length < pop then .dead
      else if dlim < st.2.length - pop + push then .overflow
      else
        let pushed := [t.2.extractLsb' 32 8, t.2.extractLsb' 40 8].take push
        .ok (fld t.2 0 12, pushed.reverse ++ st.2.drop pop)

/-- Sets the grammar state of a slot and records it in the snapshot ring of 17 (R233, R258). -/
def Slot.setGrammar (sl : Slot) (pos : Nat) (st : GState) : Slot :=
  let p := pos % 2 ^ 32
  let keep := sl.text.snaps.filter fun y => decide (p ≤ y.pos + 16) && decide (y.pos < p)
  { sl.putNat 4 (p * 2 ^ 32 + (st.2.headD 0).toNat * 2 ^ 19 + st.2.length * 2 ^ 12 + st.1) with
    text := { sl.text with stack := st.2, snaps := keep ++ [{ pos := p, state := BitVec.ofNat 64 st.1, stack := st.2 }] } }

def Slot.gstate (sl : Slot) : GState := (fld (sl.f 4) 0 12, sl.text.stack)
def Slot.gpos (sl : Slot) : Nat := fld (sl.f 4) 32 32

/-- The state at a position, from the snapshot ring. -/
def Slot.snapAt (sl : Slot) (pos : Nat) : Option GState :=
  (sl.text.snaps.find? fun y => decide (y.pos = pos)).map fun y => (fld y.state 0 12, y.stack)

/-- The state that tokens reach from the ring's state at `n`, without any effect (R238). -/
def reach (g : Gram) (dlim : Nat) : GState → List Nat → Option GState
  | st, [] => some st
  | st, x :: r => match advance g dlim st x with
    | .ok st' => reach g dlim st' r
    | _ => none

/-- The mask at position n + tokens: every bit 1 without a grammar (`none`), every bit 0 where no state is reached or an
image is missing (R238, R258). -/
def draftMask (s : State) (sl : Slot) (n : Nat) (toks : List Nat) : Option Nat :=
  if !resident s sl then some 0
  else
    match gramOf s sl with
    | none => none
    | some g =>
      match sl.snapAt n with
      | none => some 0
      | some st => some (((reach g sl.text.dlim st toks).map (maskOf g)).getD 0)

/-! ### Grammar overflow (R260, R311) -/

/-- GRAMMAR_OVERFLOW in the task of the command, or a kind-0 report where that task has ended. -/
def raiseOverflow (s : State) (x : Cmd) (slot : Nat) : State :=
  match taskCell s x.gang x.gmem with
  | some _ => onTask s x.gang x.gmem fun c =>
      { c with events := { c.events with grammar := c.events.grammar ++ [BitVec.ofNat 12 slot] } }
  | none => s.report
      { kind := 0, cause := cGrammar, cell := x.cell, ctx := x.ctx, epc := x.pc.zeroExtend 64, tval := BitVec.ofNat 64 slot,
        data := 0 }

/-- One advance of a slot; answers whether it was made (R258, R259, R260). -/
def advanceSlot (s : State) (x : Cmd) (slot tok : Nat) : Bool × State :=
  let sl := s.slot slot
  if !resident s sl then (false, s.updSlot slot fun y => y.endWith sError 2)
  else
    match gramOf s sl with
    | none => (true, s.updSlot slot fun y => y.setGrammar (y.gpos + 1) y.gstate)
    | some g =>
      match advance g sl.text.dlim sl.gstate tok with
      | .dead => (false, s.updSlot slot fun y => y.endWith sError 2)
      | .overflow => (false, raiseOverflow (s.updSlot slot fun y => y.endWith sError 3) x slot)
      | .ok st => (true, s.updSlot slot fun y => y.setGrammar (y.gpos + 1) st)

/-- A write of LEN moves the grammar to that position (R244). -/
def rollback (sl : Slot) (len : Nat) : Slot :=
  if sl.free then sl.setGrammar len sl.gstate
  else
    match sl.snapAt len with
    | none => sl.endWith sError 4
    | some st => sl.setGrammar len st

/-! ### Stop block and activation (R255, R258) -/

/-- The strings and DLIM of a stop block; a string of illegal length is kept empty and never matches. -/
def parseStops (bs : List Byte) : List (List Byte) × Nat :=
  let h := BitVec.ofNat 64 (leNat (bs.take 8))
  let d := fld h 16 7
  ((List.range (min 8 (fld h 0 4))).map fun i =>
      let e := bs.drop (8 + 72 * i)
      let n := leNat (e.take 8) % 128
      if n = 0 ∨ 64 < n then [] else (e.drop 8).take n,
    if d = 0 ∨ 64 < d then 64 else d)

/-- Reads the block: its first word, then the strings that it counts. -/
def readStops (s : State) (sl : Slot) : Except (BitVec 8 × Nat) (List (List Byte) × Nat) :=
  let va := fld (sl.used 16) 0 56
  if va = 0 then .ok ([], 64)
  else
    match ctxRead s sl.ctx va 8 with
    | .error f => .error f
    | .ok h =>
      match ctxRead s sl.ctx va (8 + 72 * min 8 (leNat h % 16)) with
      | .error f => .error f
      | .ok bs => .ok (parseStops bs)

/-- The load flits of that reading (R194). -/
def stopsFlits (s : State) (sl : Slot) : State :=
  let va := fld (sl.used 16) 0 56
  if va = 0 then s
  else
    match ctxLoad s sl.ctx va 8 with
    | .error _ => s
    | .ok (h, s1) => ctxFlits s1 sl.ctx (va + 8) (72 * min 8 (leNat h % 16))

/-- The block lies on a domain page during re-keying: the reading waits for the release (R255, R297). -/
def stopsHeld (s : State) (sl : Slot) : Bool :=
  resident s sl && match readStops s sl with
    | .error f => decide (f.1 = cWait)
    | .ok _ => false

/-- STATE has become ACTIVE: start state, empty stack, GPOS = LEN, the stop block; missing images or an unreadable block
end the slot (R255, R258). A missing image is found before a missing block (log 25). -/
def activateText (s : State) (slot : Nat) : State :=
  let sl := { s.slot slot with text := TextSt.reset }
  let ready := sl.setGrammar sl.len (((gramOf s sl).map fun g => g.start.toNat).getD 0, [])
  if !resident s sl then s.setSlot slot (ready.endWith sError 2)
  else
    match readStops s sl with
    | .error _ => s.setSlot slot (ready.endWith sError 6)
    | .ok r => (stopsFlits s sl).setSlot slot { ready with text := { ready.text with stops := r.1, dlim := r.2 } }

/-! ### Detokeniser (R262, R263) -/

/-- Length of the sequence a lead byte opens, and the range of its second byte (RFC 3629); 0 for no lead. -/
def utfLead (b : Nat) : Nat × Nat × Nat :=
  if 0xC2 ≤ b ∧ b ≤ 0xDF then (2, 0x80, 0xBF)
  else if b = 0xE0 then (3, 0xA0, 0xBF)
  else if b = 0xED then (3, 0x80, 0x9F)
  else if 0xE1 ≤ b ∧ b ≤ 0xEF then (3, 0x80, 0xBF)
  else if b = 0xF0 then (4, 0x90, 0xBF)
  else if 0xF1 ≤ b ∧ b ≤ 0xF3 then (4, 0x80, 0xBF)
  else if b = 0xF4 then (4, 0x80, 0x8F)
  else (0, 0, 0)

/-- What an ill-formed subpart becomes. -/
def utfBad (repl : Bool) (bs : List Byte) : List Byte := if repl then [0xEF, 0xBF, 0xBD] else bs

/-- A byte with nothing held: what comes out, what is held. -/
def utfFirst (repl : Bool) (b : Byte) : List Byte × List Byte :=
  if b.toNat < 0x80 then ([b], [])
  else if (utfLead b.toNat).1 = 0 then (utfBad repl [b], [])
  else ([], [b])

def utfByte (repl : Bool) (held : List Byte) (b : Byte) : List Byte × List Byte :=
  match held with
  | [] => utfFirst repl b
  | l :: r =>
    let k := utfLead l.toNat
    let lo := if r = [] then k.2.1 else 0x80
    let hi := if r = [] then k.2.2 else 0xBF
    if lo ≤ b.toNat ∧ b.toNat ≤ hi then
      if held.length + 1 = k.1 then (held ++ [b], []) else ([], held ++ [b])
    else
      let n := utfFirst repl b
      (utfBad repl held ++ n.1, n.2)

def utfBytes (repl : Bool) : List Byte → List Byte → List Byte × List Byte
  | held, [] => ([], held)
  | held, b :: r =>
    let n := utfByte repl held b
    let m := utfBytes repl n.2 r
    (n.1 ++ m.1, m.2)

/-- The stop matcher after one byte: the string that completes, or what is released and what stays held. -/
inductive Match where
  | hit (i : Nat) (out : List Byte)
  | more (out held : List Byte)
  deriving DecidableEq, Repr

def stopByte (stops : List (List Byte)) (stopx : Bool) (held : List Byte) (b : Byte) : Match :=
  let buf := held ++ [b]
  match (List.range stops.length).find? fun i => !(stops.getD i []).isEmpty && (stops.getD i []).isSuffixOf buf with
  | some i => .hit i (if stopx then buf.take (buf.length - (stops.getD i []).length) else buf)
  | none =>
    let k := (((List.range (min buf.length 63 + 1)).reverse).find? fun k =>
      decide (0 < k) && stops.any fun t => decide (k < t.length) && (buf.drop (buf.length - k)).isPrefixOf t).getD 0
    .more (buf.take (buf.length - k)) (buf.drop (buf.length - k))

def Slot.repl (sl : Slot) : Bool := bit (sl.used 8) 3
def Slot.stopx (sl : Slot) : Bool := bit (sl.used 8) 4

/-- Released bytes go through the UTF-8 stage into the output buffer. -/
def Slot.release (sl : Slot) (bs : List Byte) : Slot :=
  let r := utfBytes sl.repl sl.text.utf bs
  { sl with text := { sl.text with utf := r.2, out := sl.text.out ++ r.1 } }

/-- The finish: the UTF-8 stage is flushed, STATE is DONE with reason STOP, word 3 waits for the last byte (R263). -/
def Slot.finishText (sl : Slot) (idx pos : Nat) : Slot :=
  let out := if sl.text.utf = [] then sl.text.out else sl.text.out ++ utfBad sl.repl sl.text.utf
  { sl.endWith sDone 1 with text :=
      { sl.text with held := [], utf := [], out := out, done := true
                     finish := some (1, BitVec.ofNat 4 idx, BitVec.ofNat 32 pos) } }

/-- The bytes of a token through both stages; after a finish nothing more comes out. -/
def Slot.textBytes (pos : Nat) : Slot → List Byte → Slot
  | sl, [] => sl
  | sl, b :: r =>
    match stopByte sl.text.stops sl.stopx sl.text.held b with
    | .hit i out => (sl.release out).finishText i pos
    | .more out held => Slot.textBytes pos ({ sl.release out with text := { (sl.release out).text with held := held } }) r

/-- A token at a position; EOT finishes the slot with index 15. Nothing comes out of a slot that is not ACTIVE. -/
def Slot.detok (sl : Slot) (v : Vocab) (tok pos : Nat) : Slot :=
  if sl.state ≠ sActive then sl
  else if tok = v.eot then (sl.release sl.text.held).finishText 15 pos
  else sl.textBytes pos (v.toks.getD tok [])

/-! ### Byte streams (R253, R254, R264) -/

/-- VA of a slot's stream; 0 on a package that is not its home (R254). -/
def streamVa (s : State) (sl : Slot) (id : Nat) : Nat :=
  if fld (sl.used 23) 0 16 = s.pd.self.toNat then fld (sl.used id) 0 56 else 0

/-- A slot without a stream, or after a STREAM_FAULT, discards what is released. -/
def trimOut (s : State) (sl : Slot) : Slot :=
  if streamVa s sl 15 = 0 ∨ sl.text.discard = true then
    { sl with text := { sl.text with out := [], finish := none } }
  else sl

/-- The 4 KiB output buffer. -/
def outMax : Nat := 4096

/-- Bytes that wait in it, those of an earlier generation among them. -/
def outLen (sl : Slot) : Nat := sl.left.foldl (fun n l => n + l.out.length) sl.text.out.length

def outFits (sl : Slot) : Bool := decide (outLen sl ≤ outMax)

/-- A full buffer: DETOK, step 3 of a decision and the next round wait (R264). -/
def outFull (sl : Slot) : Bool := decide (outMax ≤ outLen sl)

structure StreamDesc where
  ring : Nat
  z : Nat
  prod : Nat
  cons : Nat
  fin_ : Nat
  deriving DecidableEq, Repr

/-- The acquire at HOST with which the engine reads a descriptor, through the device coherency cache: accepted host writes are
performed first (R182, R253). -/
def hostAcquire (s : State) : State := drainInbound s (openDrains s 6)

/-- The descriptor; none where z is malformed. -/
def readStream (s : State) (ctx : BitVec 16) (va : Nat) : Except (BitVec 8 × Nat) (Option StreamDesc) :=
  match ctxRead s ctx va 32 with
  | .error f => .error f
  | .ok bs =>
    let w := wordAt bs 0
    let z := w / 2 ^ 56
    .ok (if z < 8 ∨ 24 < z then none
      else some { ring := w % 2 ^ 56, z := z, prod := wordAt bs 1, cons := wordAt bs 2, fin_ := wordAt bs 3 })

/-- Bytes of the stream from number `k`. -/
def ringRead (s : State) (ctx : BitVec 16) (d : StreamDesc) : Nat → Nat → Nat → Except (BitVec 8 × Nat) (List Byte)
  | 0, _, _ => .ok []
  | f + 1, k, n =>
    if n = 0 then .ok []
    else
      let off := k % 2 ^ d.z
      let m := min n (2 ^ d.z - off)
      match ctxRead s ctx (d.ring + off) m with
      | .error e => .error e
      | .ok bs =>
        match ringRead s ctx d f (k + m) (n - m) with
        | .error e => .error e
        | .ok r => .ok (bs ++ r)

/-- The load flits of those bytes. -/
def ringFlits (s : State) (ctx : BitVec 16) (d : StreamDesc) (k n : Nat) : State :=
  let off := k % 2 ^ d.z
  let m := min n (2 ^ d.z - off)
  ctxFlits (ctxFlits s ctx (d.ring + off) m) ctx d.ring (min (n - m) (2 ^ d.z))

/-- Writes bytes to the stream from number `k`, at most once round the ring. -/
def ringWrite (s : State) (ctx : BitVec 16) (d : StreamDesc) (k : Nat) (bs : List Byte) : Except (BitVec 8 × Nat) State :=
  let off := k % 2 ^ d.z
  let m := min bs.length (2 ^ d.z - off)
  match ctxWrite s ctx (d.ring + off) (bs.take m) with
  | .error e => .error e
  | .ok s1 => ctxWrite s1 ctx d.ring (bs.drop m)

/-- STREAM_FAULT: the buffer and all later bytes are discarded (R253). -/
def streamFault (s : State) (slot : Nat) : State :=
  s.updSlot slot fun sl =>
    let e := sl.endWith sError 6
    { e with text := { e.text with out := [], finish := none, discard := true } }

/-- Word 3 of OUTS at a finish (R253, R263). -/
def finishWord (f : BitVec 4 × BitVec 4 × BitVec 32) : Nat :=
  f.2.2.toNat * 2 ^ 32 + f.2.1.toNat * 2 ^ 8 + f.1.toNat * 2 ^ 4 + 2

/-- Moves what the ring of a stream has room for, then PROD, and word 3 after the last byte; answers what is left to move
(R253, R263, R264). -/
def drainBytes (s : State) (l : Leftover) (d : StreamDesc) : Except (BitVec 8 × Nat) (State × Leftover) :=
  let used := (d.prod + 2 ^ 64 - d.cons) % 2 ^ 64
  let n := min l.out.length (2 ^ d.z - used)
  let rest := l.out.drop n
  match ringWrite s l.ctx d d.prod (l.out.take n) with
  | .error f => .error f
  | .ok s1 =>
    match ctxWrite s1 l.ctx (l.va + 8) (toBytes 8 (d.prod + n)) with
    | .error f => .error f
    | .ok s2 =>
      match l.finish with
      | none => .ok (s2, { l with out := rest })
      | some f =>
        if rest ≠ [] then .ok (s2, { l with out := rest })
        else
          match ctxWrite s2 l.ctx (l.va + 24) (toBytes 8 (finishWord f)) with
          | .error e => .error e
          | .ok s3 => .ok (s3, { l with out := [], finish := none })

/-- What waits for a stream goes to it: the new state and what is left; none where the stream cannot be used (R253). An access
that waits for the re-keying barrier leaves all as it is (R297). -/
def drainTo (s0 : State) (l : Leftover) : Option (State × Leftover) :=
  let s := ctxFlits (hostAcquire s0) l.ctx l.va 32
  let fault := fun (f : BitVec 8 × Nat) => if f.1 = cWait then some (s, l) else none
  match readStream s l.ctx l.va with
  | .error f => fault f
  | .ok none => none
  | .ok (some d) =>
    match drainBytes s l d with
    | .error f => fault f
    | .ok r => some r

/-- The slot's own bytes as they wait for its stream. -/
def pendingOut (s : State) (sl : Slot) : Leftover :=
  { va := streamVa s sl 15, ctx := sl.ctx, out := sl.text.out, finish := sl.text.finish }

/-- Bytes of an earlier generation go first; one whose stream cannot be used loses them, as its slot would by STREAM_FAULT. -/
def drainLeft (s : State) (i : Nat) (l : Leftover) (r : List Leftover) : State :=
  match drainTo s l with
  | none => s.updSlot i fun sl => { sl with left := r }
  | some (s1, l1) =>
    s1.updSlot i fun sl => { sl with left := if l1.out = [] ∧ l1.finish = none then r else l1 :: r }

/-! ### The commands (R256 to R267) -/

/-- The engine is in the middle of another DETOK of the slot: it serves one command at a time (R267). -/
def textBusy (s : State) (x : Cmd) (slot : Nat) : Bool :=
  s.cmds.any fun y => decide (y.id ≠ x.id) && decide (y.op = .detok) && y.started && decide (slotNo y = slot)

/-- The longest token of 256 or above that the bytes start with, else the byte itself (R256). -/
def longestToken (v : Vocab) (bs : List Byte) : Nat × Nat :=
  let ts := v.toks
  (List.range ts.length).foldl (fun b i =>
    let t := ts.getD i []
    if 256 ≤ i ∧ b.2 < t.length ∧ t.isPrefixOf bs = true then (i, t.length) else b) ((bs.headD 0).toNat, 1)

/-- Length of the longest token. -/
def lmax (v : Vocab) : Nat := v.toks.foldl (fun m t => max m t.length) 0

/-- Tokens, bytes left, FULL, HELD. Room is looked at first, so a stop for room is one also where no byte is left. -/
def tokenise (v : Vocab) (endSet : Bool) : Nat → List Byte → List Nat × Nat × Bool × Bool
  | 0, bs => ([], bs.length, true, false)
  | room + 1, bs =>
    if bs = [] then ([], 0, false, false)
    else if bs.length < lmax v ∧ endSet = false then ([], bs.length, false, true)
    else
      let t := longestToken v bs
      let r := tokenise v endSet room (bs.drop t.2)
      (t.1 :: r.1, r.2)

/-- R266: the images are not resident. -/
def textBad (s : State) (x : Cmd) : Bool := !resident s (s.slot (slotNo x))

/-- Tokenises what the input stream holds: the elements, then CONS (R253, R256, R257). -/
def runTokzStream (s : State) (x : Cmd) (v : Vocab) (sl : Slot) (va : Nat) : State :=
  match readStream s sl.ctx va with
  | .error f => cmdFault s x f
  | .ok none => cmdIllegal s x
  | .ok (some d) =>
    let room := hDim x.ha 0 - 1
    let avail := (d.prod + 2 ^ 64 - d.cons) % 2 ^ 64
    let n := min avail (lmax v * (room + 1))
    match ringRead s sl.ctx d (n / 2 ^ d.z + 2) d.cons n with
    | .error f => cmdFault s x f
    | .ok bs =>
      let e := d.fin_ % 2 = 1
      let r := tokenise v e room bs
      let left := avail - n + r.2.1
      let el := r.1.length + (if r.2.2.1 then 2 ^ 29 else 0) + (if r.2.2.2 then 2 ^ 30 else 0)
        + (if e ∧ left = 0 then 2 ^ 31 else 0)
      match writeHa (ringFlits s sl.ctx d d.cons n) x ((el :: r.1).flatMap (toBytes 4)) with
      | .error f => cmdFault s x f
      | .ok s1 =>
        match ctxWrite s1 sl.ctx (va + 16) (toBytes 8 (d.cons + (avail - left))) with
        | .error f => cmdFault s x f
        | .ok s2 => cmdDone s2 x 0 []

def runTokz (s : State) (x : Cmd) : State :=
  let slot := slotNo x
  let sl := s.slot slot
  let va := streamVa s sl 24
  let zero := fun (s : State) => match writeHa s x (toBytes 4 0) with
    | .error f => cmdFault s x f
    | .ok s1 => cmdDone s1 x 0 []
  match vocabOf s sl with
  | none => cmdIllegal s x
  | some v =>
    if textBad s x || !handle1 x.ha 10 2 65535 then cmdIllegal s x
    else if !genOk s x then zero (countStale s)
    else if sl.state = sFree ∨ va = 0 then zero s
    else if hEmpty x.ha then cmdDone s x 0 []
    else runTokzStream (ctxFlits (hostAcquire s) sl.ctx va 32) x v sl va

/-- Takes tokens while their bytes fit the buffer; a full buffer leaves the command waiting (R264, R358). -/
def detokRun (v : Vocab) (slot : Nat) : List Nat → State → Cmd → State
  | [], s, x => cmdDone s x 0 []
  | t :: r, s, x =>
    let n := trimOut s ((s.slot slot).detok v t 0xFFFFFFFF)
    if outFits n && !outFull (s.slot slot) then detokRun v slot r (s.setSlot slot n) { x with progress := x.progress + 1 }
    else setCmd s { x with started := true }

def runDetok (s : State) (x : Cmd) : State :=
  let slot := slotNo x
  let sl := s.slot slot
  if textBusy s x slot then s
  else
    match vocabOf s sl with
    | none => cmdIllegal s x
    | some v =>
      if textBad s x || !handle1 x.ha 10 1 4096 then cmdIllegal s x
      else if hEmpty x.ha then (if genOk s x then cmdDone s x 0 [] else cmdDone (countStale s) x 0 [])
      else
        match readHa s x (4 * hDim x.ha 0) with
        | .error f => cmdFault s x f
        | .ok bs =>
          let toks := words32 bs
          if toks.any fun t => decide (v.toks.length ≤ t) then cmdIllegal s x
          else if !genOk s x then cmdDone (countStale s) x 0 []
          else if sl.state ≠ sActive then cmdDone s x 0 []
          else detokRun v slot (toks.drop x.progress) (if x.started then s else haFlits s x (4 * hDim x.ha 0)) x

def runGadv (s : State) (x : Cmd) : State :=
  let slot := slotNo x
  let sl := s.slot slot
  let tok := fld x.sb 0 18
  if textBusy s x slot then s
  else
    match vocabOf s sl with
    | none => cmdIllegal s x
    | some v =>
      if textBad s x || decide (fld x.sb 18 46 ≠ 0) || decide (v.toks.length ≤ tok) then cmdIllegal s x
      else if !genOk s x then cmdDone (countStale s) x 0 []
      else if sl.state ≠ sActive then cmdDone s x 0 []
      else cmdDone (advanceSlot s x slot tok).2 x 0 []

/-- Lowest set bit of a mask below `n`, 0 for none. -/
def lowestToken (n m : Nat) : Nat := ((List.range n).find? fun i => m.testBit i).getD 0

def runGmask (s : State) (x : Cmd) : State :=
  let slot := slotNo x
  let sl := s.slot slot
  if textBusy s x slot then s
  else
    match vocabOf s sl with
    | none => cmdIllegal s x
    | some v =>
      let n := v.toks.length
      let k := ceilDiv n 8
      if textBad s x || decide ((hType x.ha).toNat ≠ 12) || decide (hDim x.ha 0 < k) then cmdIllegal s x
      else if !genOk s x then cmdDone (countStale s) x 0 (cmdReg x 0)
      else
        let m := match gramOf s sl with
          | none => 2 ^ n - 1
          | some g => maskOf g sl.gstate % 2 ^ n
        match writeHa s x (toBytes k m) with
        | .error f => cmdFault s x f
        | .ok s1 => cmdDone s1 x 0 (cmdReg x (BitVec.ofNat 64 (lowestToken n m * 2 ^ 32 + countBits n m)))

/-- The text engine acts on a command, after the earlier ones of its task to the slot. -/
def runText (s : State) (x : Cmd) : State :=
  if olderSlot s x then s
  else
    match x.op with
    | .tokz => if textBusy s x (slotNo x) then s else runTokz s x
    | .detok => runDetok s x
    | .gadv => runGadv s x
    | _ => runGmask s x

def execTokz (h : Header) (o : EC) (s : State) : Host.Outcome State Fault Refusal :=
  engineWord .tokz h o (ecSlotH o && slotOk s.cell o && hOk (s.cell.rdH o.ha)) s fun _ x => .go (launchCmd s x)

def execDetok (h : Header) (o : EC) (s : State) : Host.Outcome State Fault Refusal :=
  engineWord .detok h o (ecSlotH o && slotOk s.cell o && hOk (s.cell.rdH o.ha)) s fun _ x => .go (launchCmd s x)

def execGadv (h : Header) (o : EC) (s : State) : Host.Outcome State Fault Refusal :=
  engineWord .gadv h o (ecSlotS o && slotOk s.cell o) s fun _ x => .go (launchCmd s x)

def execGmask (h : Header) (o : EC) (s : State) : Host.Outcome State Fault Refusal :=
  engineWord .gmask h o (ecGmask o && slotOk s.cell o && hOk (s.cell.rdH o.ha)) s fun _ x => .go (launchCmd s x)

/-! ### Images (R250 to R252) -/

/-- Word at an offset of the image in host memory. -/
def imgWord (s : State) (off : Nat) : Word := s.mem.word (hostAddr (fld s.pkg.txImg 6 58 * 64) + off)

def imgBytes (s : State) (off n : Nat) : List Byte := s.mem.bytes (hostAddr (fld s.pkg.txImg 6 58 * 64) + off) n

def rising : List Nat → Bool
  | a :: b :: r => decide (a < b) && rising (b :: r)
  | _ => true

/-- A vocabulary image, or the reason to reject it. -/
def vocabImage (s : State) : Except Nat Vocab :=
  let n := (imgWord s 8).toNat
  let eot := (imgWord s 0x10).toNat
  if fld (imgWord s 0) 0 16 ≠ 0xA9B0 then .error 1
  else if n < 257 ∨ 262144 < n ∨ (n ≤ eot ∧ eot ≠ 0xFFFFFFFF) then .error 2
  else if imgWord s 0x18 ≠ 0 then .error 1
  else
    let offs := words32 (imgBytes s 0x20 (4 * (n + 1)))
    let area := ceilDiv (0x20 + 4 * (n + 1)) 8 * 8
    if !rising offs then .error 1
    else
      let toks := (List.range n).map fun i => imgBytes s (area + offs.getD i 0) (offs.getD (i + 1) 0 - offs.getD i 0)
      if (toks.drop 256).any fun t => decide (t.length < 2 ∨ 64 < t.length) then .error 2
      else if (toks.take 256) ≠ (List.range 256).map (fun b => [BitVec.ofNat 8 b]) ∨ ¬toks.Nodup then .error 1
      else .ok { eot := eot, toks := toks }

def pairReason (g : Gram) (n : Nat) (e : Word) : Nat :=
  let first := fld e 16 32
  let count := fld e 48 8
  if g.masks.length ≤ fld e 0 16 ∨ (count ≠ 0 ∧ g.trans.length < first + count) then 2
  else
    let m := leNat (g.masks.getD (fld e 0 16) [])
    let ts := (g.trans.drop first).take count
    if (List.range n).any fun x => m.testBit x && !(ts.any fun t => decide (fld t.1 0 18 ≤ x) && decide (x ≤ fld t.1 32 18))
    then 1 else 0

def transBad (states : Nat) (t : Word × Word) : Bool :=
  decide (states ≤ fld t.2 0 12) || decide (2 < fld t.2 16 2) || decide (2 < fld t.2 20 2)
    || (decide (1 ≤ fld t.2 20 2) && decide (fld t.2 32 8 = 0)) || (decide (2 ≤ fld t.2 20 2) && decide (fld t.2 40 8 = 0))

/-- A grammar image, or the reason to reject it. -/
def gramImage (s : State) : Except Nat Gram :=
  let vi := fld (imgWord s 8) 0 4
  let start := (imgWord s 8).extractLsb' 16 12
  let ns := (imgWord s 0x10).toNat
  let nm := (imgWord s 0x18).toNat
  let nt := (imgWord s 0x20).toNat
  if fld (imgWord s 0) 0 16 ≠ 0xA9B1 then .error 1
  else if ns < 1 ∨ 4096 < ns ∨ nm < 1 ∨ 65536 < nm ∨ ns ≤ start.toNat then .error 2
  else
    match s.text.vocabs.find vi with
    | none => .error 5
    | some v =>
      let n := v.toks.length
      let mb := ceilDiv n 8
      let mAt := 0x28 + 2048 * ns
      let tAt := mAt + nm * (ceilDiv mb 8 * 8)
      let g : Gram :=
        { vocab := vi, start := start
          pairs := (List.range (256 * ns)).map fun i => imgWord s (0x28 + 8 * i)
          masks := (List.range nm).map fun i => toBytes mb (leNat (imgBytes s (mAt + i * (ceilDiv mb 8 * 8)) mb) % 2 ^ n)
          trans := (List.range nt).map fun i => (imgWord s (tAt + 16 * i), imgWord s (tAt + 16 * i + 8)) }
      if g.trans.any (transBad ns) then .error 2
      else
        match (g.pairs.map (pairReason g n)).find? fun r => decide (r ≠ 0) with
        | some r => .error r
        | none => .ok g

/-- Bytes that a grammar takes in the text region. -/
def gramSize (g : Gram) : Nat :=
  0x28 + 8 * g.pairs.length + (g.masks.map fun m => ceilDiv m.length 8 * 8).sum + 16 * g.trans.length

/-- Room for grammars beside 16 vocabularies with their tries (log 8). -/
def gramRoom (s : State) (id : Nat) (g : Gram) : Bool :=
  decide (((s.text.grams.del id).map fun e => gramSize e.2).sum + gramSize g + 16 * 2 ^ 27 ≤ Config.textBytes)

/-- A slot that is not FREE names the image (R250). -/
def imageUsed (s : State) (field w id : Nat) : Bool :=
  s.brood.slots.any fun e => decide (e.2.state ≠ sFree) && decide (fld (e.2.f field) 0 w = id)

def txValue (kind remove : Bool) (id : BitVec 12) : Word :=
  BitVec.ofNat 64 (id.toNat * 16 + (if remove then 2 else 0) + (if kind then 1 else 0))

def textDone (s : State) (reason : Nat) : State :=
  { s with pkg := { s.pkg with txStat := doneStat reason, txCmd := 0 } }

/-- A change of the images is a change of the text region; where they stay as they are, as at the removal of an image that is
not there, the region does too (R250, R443, log 29). -/
def setVocabs (s : State) (v : SMap Vocab) : State :=
  if v = s.text.vocabs then s else { s with text := { s.text with vocabs := v, changed := s.steps + 1 } }

def setGrams (s : State) (g : SMap Gram) : State :=
  if g = s.text.grams then s else { s with text := { s.text with grams := g, changed := s.steps + 1 } }

/-- The reasons before an image is read: index, in use (R250). -/
def vocabReason (s : State) (i : Nat) : Nat :=
  if 15 < i then 2
  else if imageUsed s 2 4 i || s.text.grams.any (fun g => decide (g.2.vocab = i)) then 4
  else 0

def gramReason (s : State) (i : Nat) : Nat := if 4094 < i then 2 else if imageUsed s 3 12 i then 4 else 0

def execTextInstallVocabulary (idx : BitVec 12) (s : State) : Host.Outcome State Fault Refusal :=
  let i := idx.toNat
  if !cmdReady s.pkg.txStat s.pkg.txCmd (txValue false false idx) then .next s
  else if vocabReason s i ≠ 0 then .next (textDone s (vocabReason s i))
  else
    match vocabImage s with
    | .error r => .next (textDone s r)
    | .ok v => .next (textDone (setVocabs s (s.text.vocabs.put i v)) 0)

def execTextInstallGrammar (id : BitVec 12) (s : State) : Host.Outcome State Fault Refusal :=
  let i := id.toNat
  if !cmdReady s.pkg.txStat s.pkg.txCmd (txValue true false id) then .next s
  else if gramReason s i ≠ 0 then .next (textDone s (gramReason s i))
  else
    match gramImage s with
    | .error r => .next (textDone s r)
    | .ok g =>
      if gramRoom s i g then .next (textDone (setGrams s (s.text.grams.put i g)) 0)
      else .next (textDone s 3)

/-- The removal of an index that holds no image completes with done and changes nothing, whatever names the index (R250). -/
def execTextRemoveVocabulary (idx : BitVec 12) (s : State) : Host.Outcome State Fault Refusal :=
  let i := idx.toNat
  if !cmdReady s.pkg.txStat s.pkg.txCmd (txValue false true idx) then .next s
  else if i ≤ 15 ∧ s.text.vocabs.find i = none then .next (textDone s 0)
  else if vocabReason s i ≠ 0 then .next (textDone s (vocabReason s i))
  else .next (textDone (setVocabs s (s.text.vocabs.del i)) 0)

def execTextRemoveGrammar (id : BitVec 12) (s : State) : Host.Outcome State Fault Refusal :=
  let i := id.toNat
  if !cmdReady s.pkg.txStat s.pkg.txCmd (txValue true true id) then .next s
  else if i ≤ 4094 ∧ s.text.grams.find i = none then .next (textDone s 0)
  else if gramReason s i ≠ 0 then .next (textDone s (gramReason s i))
  else .next (textDone (setGrams s (s.text.grams.del i)) 0)

end Sys2Proof.Machine
end

