-- ==== Sys2Proof/Machine/Quorum.lean ====
section
/-! DEFINITION. Brood slots, rounds, the quorum unit and the sieve: QPROP, QVER, QRES, BSET, BGET, SIEVE, the snapshot, the
decision (R226 to R248, R337, R343, R406 to R409, R416). -/

namespace Sys2Proof.Machine

/-! ### Stages that QNEXT and SLSTEP name (R42, R231, R232) -/

/-- The die that a stage lies on: AFFM bit 4 is the scout die (R42). -/
def onScout (h : Stage) : Bool := bit h.affm 4

/-- The resident launch in a launch slot of a die. -/
def launchInSlot (s : State) (scout : Bool) (slot : Nat) : Option Launch :=
  s.tasks.launches.find? fun l => l.resident &&
    decide ((if scout then l.scout else l.comb) = some (BitVec.ofNat 5 slot))

/-- The stage that a field of QNEXT, or SLSTEP, names: launch, index, state. -/
def namedStage (s : State) (w : Word) (sh : Nat) : Option (Nat × BitVec 4 × StageSt) :=
  let scout := bit w (sh + 7)
  let i := w.extractLsb' (sh + 8) 4
  match launchInSlot s scout (fld w sh 5) with
  | none => none
  | some l =>
    match l.stages[i.toNat]? with
    | none => none
    | some q => if onScout q.hdr = scout then some (l.id, i, q) else none

/-- The draft and the verify stage of an enabled QNEXT; none while it acts as disabled. -/
def qnextStages (s : State) : Option ((Nat × BitVec 4 × StageSt) × (Nat × BitVec 4 × StageSt)) :=
  if !bit s.brood.qnext 31 then none
  else
    match namedStage s s.brood.qnext 0, namedStage s s.brood.qnext 16 with
    | some d, some v => some (d, v)
    | _, _ => none

/-! ### Depth and round start (R232, R243) -/

/-- Entry `j` of the depth table; above 16 acts as 16. -/
def depthEntry (s : State) (j : Nat) : Nat :=
  min 16 (if j < 8 then fld s.brood.dtab0 (8 * j) 5 else fld s.brood.dtab1 (8 * (j - 8)) 5)

/-- The verify queue is at three quarters or more. -/
def verifyFull (s : State) : Bool :=
  match qnextStages s with
  | none => false
  | some (_, v) => decide (3 * 2 ^ v.2.2.hdr.qlog ≤ v.2.2.queue.length * 4)

/-- The depth of a slot's next round, from its live fields. -/
def depthOf (s : State) (sl : Slot) : Nat :=
  let dmin := min 16 (fld (sl.f 12) 0 5)
  let dmax := min 16 (fld (sl.f 13) 0 5)
  let v := min dmax (max dmin (depthEntry s (fld (sl.f 11) 12 4)))
  let v1 :=
    if bit (sl.f 8) 2 || sl.round.qdet then v
    else
      let l := frameReg s sl.round.home fun t => t.level.toNat
      let a := v - v * l / 16
      max (if verifyFull s then a / 2 else a) (min dmin dmax)
  if s.pkg.scout then v1 else 0

/-- Steps 1 and 2 of a round's start; the enqueue of step 3 is ROUND_DRAFT_ENQUEUE. Each slot has one enqueue that waits: where
the one of the round before it has not been made yet, the two are one, and it is made also where the slot has left ACTIVE
meanwhile with its round still on; R232 says of neither, and both are the model's choice (log 25). -/
def startRound (s : State) (slot : Nat) : State :=
  let sl := s.slot slot
  let r := sl.round
  s.setSlot slot { sl.putNat 10 (depthOf s sl) with round :=
    { r with active := true, num := r.num + 1, copy := sl.live, ring := [], decls := 0, lists := [], qver := none
             cancelled := false, enqueue := true } }

/-- The first round of a slot that has become ACTIVE, once the output buffer, where bytes of an earlier generation may wait, is
not full (R232, R264). -/
def resumeRound (s : State) (slot : Nat) : State :=
  let sl := s.slot slot
  if sl.state = sActive ∧ sl.round.active = false ∧ outFull sl = false then startRound s slot else s

/-- Bytes that wait in the output buffer go to the stream; a round that the full buffer held starts (R253, R264). -/
def drainSlot (i : Nat) (s : State) : State :=
  let sl := s.slot i
  match sl.left with
  | l :: r => resumeRound (drainLeft s i l r) i
  | [] =>
    if sl.text.out = [] ∧ sl.text.finish = none then s
    else if streamVa s sl 15 = 0 then resumeRound (s.setSlot i (trimOut s sl)) i
    else
      match drainTo s (pendingOut s sl) with
      | none => streamFault s i
      | some (s1, l) =>
        resumeRound (s1.updSlot i fun sl => { sl with text := { sl.text with out := l.out, finish := l.finish } }) i

/-- A stream on domain pages is read and written with accepted responses (R294). -/
def execOutputDrain (slot : BitVec 12) (s : State) : Host.Outcome State Fault Refusal :=
  .next (awaitDomain (.text slot.toNat) (drainSlot slot.toNat) s)

/-- The draft stage receives GEN·4,096 + s with release at SYSTEM, once QNEXT is in force and the queue has room. -/
def execRoundDraftEnqueue (slot : BitVec 12) (s : State) : Host.Outcome State Fault Refusal :=
  let sl := s.slot slot.toNat
  if !sl.round.active || !sl.round.enqueue then .next s
  else
    match qnextStages s with
    | none => .next s
    | some (d, _) =>
      if queueFull d.2.2 then .next s
      else
        .next (enqueue (s.setSlot slot.toNat { sl with round := { sl.round with enqueue := false } }) d.1 d.2.1
          { ident := BitVec.ofNat 64 (sl.gen * 4096 + slot.toNat), barrier := false, scope := 10, step := none })

/-! ### Binding of QVERs (R409) -/

/-- The round of the slot takes no QVER yet, so this one binds. -/
def bindQver (s : State) (slot id : Nat) : State :=
  s.updSlot slot fun sl => { sl with round := { sl.round with qver := some id } }

def insertByNum (x : Cmd) : List Cmd → List Cmd
  | [] => [x]
  | y :: r => if x.num ≤ y.num then x :: y :: r else y :: insertByNum x r

/-- QVERs of a slot that have arrived, in arrival order. -/
def arrivedQvers (s : State) (slot : Nat) : List Cmd :=
  (s.cmds.filter fun y => decide (y.op = .qver) && y.started && decide (slotNo y = slot) && y.held.isNone).foldr insertByNum []

/-- A slot that is not ACTIVE, or a generation that does not match, decides nothing. -/
def qverStale (s : State) (x : Cmd) : Bool := decide ((s.slot (slotNo x)).state ≠ sActive) || !genOk s x

/-- The QVERs that wait for a round: the first binds when the slot has one, and those that never can complete. -/
def rebind (s : State) (slot : Nat) : State :=
  (arrivedQvers s slot).foldl (fun s y =>
    if (s.slot slot).round.qver.isSome then s
    else if qverStale s y then cmdDone (countStale s) y 0 []
    else bindQver s slot y.id) s

/-- The bound QVER ends with a fault and decides nothing (R240). -/
def qverFault (s : State) (slot : Nat) (x : Cmd) (f : BitVec 8 × Nat) : State :=
  let s1 := s.updSlot slot fun sl => { sl with round := { sl.round with qver := none } }
  rebind (cmdFault s1 { x with started := false } f) slot

/-! ### Rows (R234, R237, R240) -/

/-- What `f` gives for each member of a list, or the error of the first member that has one. -/
def seqExcept {ε α β : Type} (f : α → Except ε β) (l : List α) : Except ε (List β) :=
  l.foldr (fun a rest => (f a).bind fun b => rest.map (b :: ·)) (.ok [])

/-- Row `j` of the verifier's tensor: tokens with their p, ascending, those with p = 0 left out. -/
def probRow (s : State) (x : Cmd) (j : Nat) : Except (BitVec 8 × Nat) (List (Nat × Nat)) :=
  let n := hDim x.ha 0
  match seqExcept (fun i2 =>
      match cmdSegs s x x.ha 0 (hBase x.ha + j * hStride x.ha 1 + i2 * hStride x.ha 2) (4 * n) with
      | .error f => .error f
      | .ok g => .ok (words32 (engBytes s x g))) (List.range (hDim x.ha 2)) with
  | .error f => .error f
  | .ok rs =>
    let ps := rs.flatten
    if ps.any fun p => decide (2 ^ 24 < p) then .error (cIllegalOp, 0)
    else .ok (((List.range ps.length).map fun i => (i, ps.getD i 0)).filter fun e => decide (e.2 ≠ 0))

/-- The draft shortlist row that REF names in the scout die's shared SRAM. -/
def draftRow (s : State) (ref : Nat) : List (Nat × Nat) :=
  let a := 2 ^ 52 + 576 * 2 ^ 20 + ref
  let n := (s.mem.word a).toNat % 2 ^ 11
  (List.range n).map fun i =>
    let w := s.mem.word (a + 8 + 8 * i)
    (fld w 32 18, fld w 0 25)

def probOf (p : List (Nat × Nat)) (x : Nat) : Nat := ((p.find? fun e => decide (e.1 = x)).map (·.2)).getD 0

def probSum (p : List (Nat × Nat)) : Nat := (p.map (·.2)).sum

/-- The largest p, the lowest id on a tie. -/
def argmax (p : List (Nat × Nat)) : Nat :=
  (p.foldl (fun b e => if b.2 < e.2 then e else b) (0, 0)).1

/-- The first token in ascending id with 2^24·(cumulative sum) above w·total. -/
def invertFrom (w total : Nat) : List (Nat × Nat) → Nat → Nat
  | [], _ => 0
  | e :: r, cum => if w * total < 2 ^ 24 * (cum + e.2) then e.1 else invertFrom w total r (cum + e.2)

def invert (p : List (Nat × Nat)) (w : Nat) : Nat := invertFrom w (probSum p) p 0

/-- The one bit of a mask, if it has exactly one. -/
def forcedToken (m : Option Nat) : Option Nat :=
  match m with
  | none => none
  | some m => if m ≠ 0 ∧ m = 2 ^ Nat.log2 m then some (Nat.log2 m) else none

/-! ### The decision (R241) -/

def entryTok (e : BitVec 128) : Nat := fld e 32 18
def entryQ (e : BitVec 128) : Nat := fld e 64 25
def entryRef (e : BitVec 128) : Nat := fld e 96 32
def entryPos (e : BitVec 128) : Nat := fld e 0 32

/-- Outcome of a decision: drafts accepted, the further token (none: the slot is dead), forced, bonus. -/
structure Decided where
  a : Nat
  tok : Option Nat
  forced : Bool
  bonus : Bool
  deriving DecidableEq, Repr

/-- What one draft position comes to: accepted, or the round's token. -/
inductive Verified where
  | accept
  | stop (tok : Option Nat) (forced : Bool)
  deriving DecidableEq, Repr

/-- Draft position `i` with its row p. -/
def verifyDraft (s : State) (sl : Slot) (slot i : Nat) (e : BitVec 128) (p : List (Nat × Nat)) (mask : Option Nat) :
    Verified :=
  let x := entryTok e
  let pos := (sl.used 9).toNat + i
  let seed := (sl.used 5).toNat
  match forcedToken mask with
  | some f => if x = f then .accept else .stop (some f) true
  | none =>
    if probSum p = 0 then .stop none false
    else if fld (sl.used 8) 0 2 = 1 then
      if x = argmax p then .accept else .stop (some (argmax p)) false
    else
      let q := draftRow s (entryRef e)
      if 0 < probOf q x ∧ draw seed slot pos drawAccept * probOf q x < probOf p x * 2 ^ 24 then .accept
      else
        let r := p.map fun y => (y.1, y.2 - probOf q y.1)
        .stop (some (invert (if probSum r = 0 then p else r) (draw seed slot pos drawResid))) false

/-- The token after d accepted drafts. -/
def verifyBonus (sl : Slot) (slot d : Nat) (p : List (Nat × Nat)) (mask : Option Nat) : Option Nat × Bool :=
  match forcedToken mask with
  | some f => (some f, true)
  | none =>
    if probSum p = 0 then (none, false)
    else if fld (sl.used 8) 0 2 = 1 then (some (argmax p), false)
    else (some (invert p (draw (sl.used 5).toNat slot ((sl.used 9).toNat + d) drawBonus)), false)

/-- The loop over the draft entries, then the bonus position. -/
def decideFrom (s : State) (sl : Slot) (slot : Nat) (rows : List (List (Nat × Nat))) :
    List (BitVec 128) → Nat → List Nat → Decided
  | [], i, done =>
    let b := verifyBonus sl slot i (rows.getD i []) (draftMask s sl (sl.used 9).toNat done)
    { a := i, tok := b.1, forced := b.2, bonus := true }
  | e :: r, i, done =>
    match verifyDraft s sl slot i e (rows.getD i []) (draftMask s sl (sl.used 9).toNat done) with
    | .accept => decideFrom s sl slot rows r (i + 1) (done ++ [entryTok e])
    | .stop tok forced => { a := i, tok := tok, forced := forced, bonus := false }

/-! ### The writes of a decision (R242 to R245, R259) -/

/-- Advances through tokens from position `pos`; each goes to the detokeniser once its advance is made. -/
def advanceTokens (x : Cmd) (slot : Nat) : List Nat → Nat → State → State
  | [], _, s => s
  | t :: r, pos, s =>
    match advanceSlot s x slot t with
    | (false, s1) => s1
    | (true, s1) =>
      match vocabOf s1 (s1.slot slot) with
      | none => s1
      | some v => advanceTokens x slot r (pos + 1) (s1.updSlot slot fun sl => trimOut s1 (sl.detok v t pos))

/-- Step 3: the grammar goes to position n and takes the accepted tokens and tok. -/
def decideText (s : State) (x : Cmd) (slot n : Nat) (toks : List Nat) : State :=
  let sl := s.slot slot
  if !resident s sl then s.setSlot slot (sl.endWith sError 2)
  else if sl.free then advanceTokens x slot toks n (s.setSlot slot (sl.setGrammar n sl.gstate))
  else
    match sl.snapAt n with
    | none => s.setSlot slot (sl.endWith sError 4)
    | some st => advanceTokens x slot toks n (s.setSlot slot (sl.setGrammar n st))

/-- ACR after a decision of depth d with a accepted. -/
def nextAcr (acr a d : Nat) : Nat :=
  if d = 0 then acr else wrap 16 ((acr : Int) + (((a * 65536 / d : Nat) : Int) - acr) / 8)

/-- Steps 1 to 3 of a decision that is not cancelled; at d = 0 the ACR stays as it is (R242). -/
def decideWrites (s : State) (x : Cmd) (slot d : Nat) (r : Decided) : State :=
  let sl := s.slot slot
  let n := (sl.used 9).toNat
  match r.tok with
  | none => s.setSlot slot (sl.endWith sError 2)
  | some t =>
    let y := sl.putNat 9 (n + r.a + 1)
    let s1 := s.setSlot slot (if d = 0 then y else y.putNat 11 (nextAcr (sl.used 11).toNat r.a d))
    decideText s1 x slot n ((sl.round.ring.take r.a).map entryTok ++ [t])

/-- The record's words (R245). `r` is none for a cancelled round; `prob` tells the probability mode, whose rows have no
tail. -/
def recordWords (old : Slot) (now : Slot) (d depth : Nat) (prob : Bool) (r : Option Decided) : List Nat :=
  let flag := fun (b : Bool) (n : Nat) => if b then 2 ^ n else 0
  let w2 := match r with
    | none => d + 2 ^ 19
    | some r => d + r.a * 2 ^ 8 + flag r.bonus 16 + flag r.forced 17 + flag (decide (fld (old.used 8) 0 2 = 1)) 18
        + (if now.state = sActive then 0 else fld (now.f 0) 8 4 * 2 ^ 20)
  let tok := match r with
    | none => 0
    | some r => r.tok.getD 0
  let tail := match r with
    | none => 0
    | some r => if prob then 0 else ((old.round.lists.find r.a).map (·.tail)).getD 0
  [(old.round.copy.rd 1).toNat, (old.used 9).toNat, w2, tok % 2 ^ 18, (now.f 11).toNat + depth * 2 ^ 16, tail % 2 ^ 24,
    now.round.seq]

def writeRecord (sl : Slot) (ws : List Nat) : Slot :=
  { sl with record := (List.range ws.length).foldl (fun v i => v.wr (BitVec.ofNat 3 i) (BitVec.ofNat 64 (ws.getD i 0))) sl.record }

/-- The record, the counts, the next round, and the QVER's completion. `old` is the slot before the decision. -/
def decideEnd (s : State) (x : Cmd) (slot d : Nat) (old : Slot) (r : Option Decided) : State :=
  let det := x.det
  let home := BitVec.ofNat 2 (frameOf x.cell)
  let s1 := s.updSlot slot fun sl => { sl with round := { sl.round with
    seq := sl.round.seq + 1, home := home, qdet := det, qver := none, active := false } }
  let now := s1.slot slot
  let active := decide (now.state = sActive)
  let s2 := s1.setSlot slot (writeRecord now (recordWords old now d (if active then depthOf s1 now else 0) (x.fn = 1#4) r))
  let s3 := { s2 with brood := { s2.brood with decided := satInc s2.brood.decided } }
  rebind (cmdDone (if active then startRound s3 slot else s3) x 0 []) slot

/-- The output buffer of a slot holds back its next round (R264). -/
def roundHeld (sl : Slot) : Bool := decide (sl.state = sActive) && outFull sl

/-- A decision waits while the output buffer is full, or has no room for the bytes that it releases, or would be full at the
start of the next round (R264, log 25). -/
def decideReady (s t : State) (x : Cmd) (slot : Nat) : Bool :=
  !outFull (s.slot slot) && outFits (t.slot slot) && !roundHeld (t.slot slot) && !textBusy s x slot

/-- The rows of a QVER, its entries and lists being there; none while it waits (R240). -/
def qverRows (s : State) (x : Cmd) (sl : Slot) (d : Nat) : Except (BitVec 8 × Nat) (Option (List (List (Nat × Nat)))) :=
  if sl.round.ring.length < d then .ok none
  else if x.fn = 0 then
    let ls := (List.range (d + 1)).map sl.round.lists.find
    .ok (if ls.any Option.isNone then none else some (ls.map fun l => (l.map (·.toks)).getD []))
  else
    match seqExcept (probRow s x) (List.range (d + 1)) with
    | .error f => .error f
    | .ok rs => .ok (some rs)

/-- The checks of R240 and R408 that follow the binding. A handle with V = DIM0·DIM2 = 0 is illegal as one with V above 2^18 is:
R408 asks for V of at least 1 without naming the outcome, R240 leaves it out and R91 lets an empty tensor complete, so that this
is the model's choice (log 25). -/
def qverBad (x : Cmd) (sl : Slot) (d : Nat) : Bool :=
  decide ((sl.f 10).toNat < d) || (decide (x.fn = 1#4) && (decide ((hType x.ha).toNat ≠ 10)
    || decide (hDim x.ha 1 ≠ d + 1) || decide (hDim x.ha 3 ≠ 1) || decide (hDim x.ha 0 * hDim x.ha 2 < 1)
    || decide (2 ^ 18 < hDim x.ha 0 * hDim x.ha 2)))

/-- The bound QVER of a slot: it waits, faults, or decides. -/
def decideBound (s : State) (slot : Nat) (x : Cmd) : State :=
  let sl := s.slot slot
  let d := fld x.sb 0 5
  if !genOk s x then
    rebind (cmdDone (countStale (s.setSlot slot { sl with round := { sl.round with qver := none } })) x 0 []) slot
  else if sl.state = sActive ∧ sl.round.active = false then s
  else if sl.round.cancelled then if roundHeld sl then s else decideEnd s x slot d sl none
  else if qverBad x sl d then qverFault s slot x (cIllegalOp, 0)
  else
    match qverRows s x sl d with
    | .error f => qverFault s slot x f
    | .ok none => s
    | .ok (some rows) =>
      let t := if x.fn = 1 then tensorFlits s x x.ha else s
      let r := decideFrom t sl slot rows (sl.round.ring.take d) 0 []
      let s1 := decideWrites t x slot d r
      if decideReady s s1 x slot then decideEnd s1 x slot d sl (some r) else s

/-- The quorum unit takes up the QVER that is bound to a slot; its rows and the text engine's stop block on domain pages come with
accepted responses (R294). -/
def execQuorumDecision (slot : BitVec 12) (s : State) : Host.Outcome State Fault Refusal :=
  let s1 := rebind s slot.toNat
  match (s1.slot slot.toNat).round.qver with
  | none => .next s1
  | some id =>
    match cmdOf s1 id with
    | none => .next (s1.updSlot slot.toNat fun sl => { sl with round := { sl.round with qver := none } })
    | some x => .next (awaitDomain (.cmd id) (fun s => decideBound s slot.toNat x) s1)

/-! ### QVER, QPROP, QRES, BGET, BSET (R235, R240, R244, R246, R337, R343, R406 to R409) -/

/-- Arrival of a QVER: it completes at once where it can decide nothing, binds where the round is free, else waits. -/
def runQver (s : State) (x : Cmd) : State :=
  let slot := slotNo x
  if x.started then s
  else if fld x.sb 5 59 ≠ 0 then cmdIllegal s x
  else if qverStale s x then cmdDone (countStale s) x 0 []
  else
    let s1 := { setCmd s { x with started := true, num := s.nextId } with nextId := s.nextId + 1 }
    if (s.slot slot).round.qver.isSome then s1 else bindQver s1 slot x.id

def runQprop (s : State) (x : Cmd) : State :=
  let slot := slotNo x
  let sl := s.slot slot
  let n := hDim x.ha 0 / 4
  if !handle1 x.ha 10 4 64 || decide (hDim x.ha 0 % 4 ≠ 0) || decide (3 < hSpace x.ha) then cmdIllegal s x
  else if !genOk s x then cmdDone (countStale s) x 0 []
  else if sl.state ≠ sActive ∨ sl.round.active = false then cmdDone s x 0 []
  else if hEmpty x.ha then cmdDone s x 0 []
  else if 32 < sl.round.ring.length + n then s
  else
    match readHa s x (16 * n) with
    | .error f => cmdFault s x f
    | .ok bs =>
      let es := (List.range n).map fun i => BitVec.ofNat 128 (leNat ((bs.drop (16 * i)).take 16))
      let first := (sl.used 9).toNat + sl.round.ring.length
      if (List.range n).any fun i => decide (entryPos (es.getD i 0) ≠ (first + i) % 2 ^ 32) then cmdIllegal s x
      else cmdDone ((haFlits s x (16 * n)).setSlot slot { sl with round := { sl.round with ring := sl.round.ring ++ es } }) x 0 []

def recordBytes (sl : Slot) (i n : Nat) : List Byte :=
  (List.range n).flatMap fun k => toBytes 8 (sl.record.rd (BitVec.ofNat 3 (i + k))).toNat

/-- Words 0 to 5, then word 6. -/
def copyRecord (s : State) (x : Cmd) : State :=
  if !genOk s x then cmdDone (countStale s) x 0 []
  else
    match writeHa s x (recordBytes (s.slot (slotNo x)) 0 7) with
    | .error f => cmdFault s x f
    | .ok s1 => cmdDone s1 x 0 []

/-- A QRES starts in the order of its class and notes the QVER that is bound then; it copies the record once its task's earlier
commands to the slot have completed and that QVER is decided. A QVER that binds later does not hold it (R246). -/
def runQres (s : State) (x : Cmd) : State :=
  if hSpace x.ha = 1 ∨ hDim x.ha 0 * widthOf (hType x.ha).toNat < 448 then cmdIllegal s x
  else
    let bound := (s.slot (slotNo x)).round.qver
    let wait := if x.started then some x.num else bound
    if olderSlot s x || (wait.isSome && decide (bound = wait)) then
      setCmd s (if x.started then x else { x with started := true, num := bound.getD 0 })
    else copyRecord s x

def runBget (s : State) (x : Cmd) : State :=
  if genOk s x then cmdDone s x 0 (cmdReg x ((s.slot (slotNo x)).f x.imm.toNat))
  else cmdDone (countStale s) x 0 (cmdReg x 0)

/-- A write of STATE by BSET (R229); none for a transition that is not allowed. -/
def bsetState (s : State) (slot : Nat) (v : Word) : Option State :=
  let sl := s.slot slot
  let goal := fld v 0 8
  if goal = sl.state then some (s.setSlot slot (sl.put 0 v))
  else if sl.state = sActive ∧ goal = sDone then some (s.setSlot slot (sl.put 0 v))
  else if sl.state = sAdmit ∧ goal = sActive then
    some (resumeRound (activateText (s.setSlot slot (sl.put 0 v)) slot) slot)
  else none

/-- A write of LEN: rollback or raise, and the round in progress is cancelled (R233, R244). -/
def bsetLen (sl : Slot) (v : Word) : Slot :=
  let s1 := rollback (sl.put 9 v) (fld v 0 32)
  if s1.round.active then { s1 with round := { s1.round with cancelled := true } } else s1

/-- A BSET that takes the slot to ACTIVE waits while its stop block cannot be reached for the re-keying (R255, R297). -/
def bsetHeld (sl : Slot) (v : Word) (s : State) : Bool :=
  decide (sl.state = sAdmit) && decide (fld v 0 8 = sActive) && stopsHeld s sl

def runBset (s : State) (x : Cmd) : State :=
  let slot := slotNo x
  if !genOk s x then cmdDone (countStale s) x 0 []
  else if x.imm = 0#8 ∧ bsetHeld (s.slot slot) x.sb s = true then s
  else if x.imm = 0#8 then
    match bsetState s slot x.sb with
    | none => cmdIllegal s x
    | some s1 => cmdDone s1 x 0 []
  else if x.imm = 9#8 then cmdDone (s.updSlot slot fun sl => bsetLen sl x.sb) x 0 []
  else cmdDone (s.updSlot slot fun sl => sl.put x.imm.toNat x.sb) x 0 []

/-! ### The sieve (R236 to R238, R416) -/

/-- A run of the row: it must lie on SV pages of one stack. -/
def sieveRead (s : State) (x : Cmd) (va n : Nat) : Except (BitVec 8 × Nat) (List Byte) :=
  match cmdSegs s x x.ha 0 va n with
  | .error f => .error f
  | .ok g =>
    let sv := fun (a : Nat) => match walkRoot s x.ctx a with
      | .ok (_, e) => bit e 61
      | .error _ => false
    let home := (g.headD { space := .main, addr := 0, len := 0 }).addr / 2 ^ 36
    if g.all fun y => decide (y.addr / 2 ^ 36 = home) then
      match ((va % 2 ^ 64) :: (List.range (n / 65536 + 1)).map fun i => va / 65536 * 65536 + 65536 * (i + 1)).find? fun a =>
          decide (a < va + n) && !sv a with
      | some a => .error (cProtection, a)
      | none => .ok (engBytes s x g)
    else .error (cProtection, va)

/-- Stack of an address, to compare the segments of a row. -/
def stackOf (s : State) (x : Cmd) (va : Nat) : Nat :=
  match engXlate s x.ctx va 0 with
  | .ok pa => pa / 2 ^ 36
  | .error _ => 0

/-- The logits as FP32 bits, and the biases. -/
def sieveRow (s : State) (x : Cmd) : Except (BitVec 8 × Nat) (List Nat × List Nat) :=
  let bf := decide (hType x.ha = 1#4)
  let w := if bf then 2 else 4
  let d0 := hDim x.ha 0
  let base := hBase x.ha
  if hSpace x.ha ≠ 0 then .error (cProtection, base)
  else
    match seqExcept (fun i2 =>
        let va := base + i2 * hStride x.ha 2
        match sieveRead s x va (d0 * w) with
        | .error f => .error f
        | .ok bs => if stackOf s x va = stackOf s x base then .ok bs else .error (cProtection, va))
        (List.range (hDim x.ha 2)) with
    | .error f => .error f
    | .ok rs =>
      let bs := rs.flatten
      let v := d0 * hDim x.ha 2
      let ls := if bf then (List.range v).map fun i => leNat ((bs.drop (2 * i)).take 2) * 2 ^ 16 else words32 bs
      if hDim x.ha 1 = 1 then .ok (ls, List.replicate v 0)
      else
        match sieveRead s x (base + hStride x.ha 1) (4 * v) with
        | .error f => .error f
        | .ok bb => .ok (ls, words32 bb)

/-- Puts a token into a list of the `k` largest, descending, ties by ascending token. -/
def insertTop (k : Nat) (e : Nat × FV) : List (Nat × FV) → List (Nat × FV)
  | [] => if 0 < k then [e] else []
  | y :: r =>
    match k with
    | 0 => []
    | k + 1 => if y.2.cmp e.2 < 0 then e :: (y :: r).take k else y :: insertTop k e r

/-- TEMP is positive and finite, and the rule is not GREEDY (R237). -/
def samples (sl : Slot) : Bool :=
  let t := f32 (sl.used 6).toNat
  t.isFin && !t.isZero && !t.isNeg && decide (fld (sl.used 8) 0 2 ≠ 1)

/-- The shortlist of a row (R237); the answer also tells whether a non-finite sum was met. -/
def shortlist (sl : Slot) (mask : Option Nat) (ls bs : List Nat) : Shortlist × Bool :=
  let all := ((List.range ls.length).filter fun i => match mask with
      | none => true
      | some m => m.testBit i).map fun i => (i, rne ((f32 (ls.getD i 0)).add false (f32 (bs.getD i 0))).1)
  let live := all.filter fun e => e.2.isFin
  let odd := decide (live.length ≠ all.length)
  if samples sl then
    let c := divF (f32 0x3FB8AA3B) (f32 (sl.used 6).toNat)
    let ts := live.map fun e => (e.1, rne (e.2.mul c).1)
    let k := min 1024 (max 1 (fld (sl.used 7) 0 11))
    let top := ts.foldl (fun l e => insertTop k e l) []
    let m := (top.headD (0, .fin false 0 0)).2
    let e := fun (t : FV) => (w96Of (exp2Dev (rne (t.sub m))).1 64).1.toNat
    let z := (top.map fun y => e y.2).sum
    let tail := (ts.map fun y => e y.2).sum - z
    ({ toks := top.foldl (fun l y => SMap.put l y.1 (e y.2 * 2 ^ 24 / z)) [], tail := tail * 2 ^ 24 / (z + tail) }, odd)
  else
    match live.foldl (fun l e => insertTop 1 e l) [] with
    | [] => ({ toks := [], tail := 0 }, odd)
    | e :: _ => ({ toks := [(e.1, 2 ^ 24)], tail := 0 }, odd)

/-- The form of the row's handle (R236, R416). -/
def sieveForm (x : Cmd) : Bool :=
  let v := hDim x.ha 0 * hDim x.ha 2
  (decide (hType x.ha = 0#4) || decide (hType x.ha = 1#4)) && decide (1 ≤ v) && decide (v ≤ 2 ^ 18)
    && decide (hDim x.ha 3 = 1) && (decide (hDim x.ha 1 = 1) || decide (hDim x.ha 1 = 2))

/-- A declaration takes the next number of its round, or is dropped (R236, R416). -/
def runSieve (s : State) (x : Cmd) : State :=
  let slot := slotNo x
  let sl := s.slot slot
  if x.started || olderSlot s x then s
  else if !sieveForm x then cmdIllegal s x
  else if !genOk s x then cmdDone (countStale s) x 0 []
  else if sl.state ≠ sActive ∨ sl.round.active = false ∨ sl.round.cancelled = true then cmdDone s x 0 []
  else if (sl.f 10).toNat < sl.round.decls then cmdIllegal s x
  else
    match sieveRow s x with
    | .error f => cmdFault s x f
    | .ok _ =>
      setCmd (s.setSlot slot { sl with round := { sl.round with decls := sl.round.decls + 1 } })
        { x with started := true, num := sl.round.decls, round := sl.round.num }

/-- The sieve forms the list of a declaration, once the proposal entries of its positions are there; the list goes to the
quorum unit under the generation check (R230, R238). Images that it finds missing end the slot (R258). -/
def formList (s : State) (x : Cmd) : State :=
  let slot := slotNo x
  let sl := s.slot slot
  if !genOk s x then cmdDone (countStale s) x 0 []
  else if sl.round.active = false ∨ sl.round.num ≠ x.round ∨ sl.round.cancelled = true then cmdDone s x 0 []
  else if sl.round.ring.length < x.num then s
  else
    match sieveRow s x with
    | .error f => cmdFault s x f
    | .ok (ls, bs) =>
      let m := draftMask s sl (sl.used 9).toNat ((sl.round.ring.take x.num).map entryTok)
      let r := shortlist sl m ls bs
      let sl1 := if resident s sl then sl else sl.endWith sError 2
      cmdDone (s.setSlot slot { sl1 with round := { sl1.round with lists := sl1.round.lists.put x.num r.1 } }) x
        (if r.2 then evInvalid else 0) []

def execSieveList (id : Nat) (s : State) : Host.Outcome State Fault Refusal :=
  match cmdOf s id with
  | none => .next s
  | some x => if x.op = .sieve ∧ x.started = true ∧ x.held = none then .next (formList s x) else .next s

/-- The quorum unit acts on a command, after the earlier ones of its task to the slot (R247). -/
def runQuorum (s : State) (x : Cmd) : State :=
  if x.op = .qres then runQres s x
  else if olderSlot s x then s
  else
    match x.op with
    | .qprop => runQprop s x
    | .qver => runQver s x
    | .bset => runBset s x
    | _ => runBget s x

def execQprop (h : Header) (o : EC) (s : State) : Host.Outcome State Fault Refusal :=
  engineWord .qprop h o (ecSlotH o && slotOk s.cell o && hOk (s.cell.rdH o.ha)) s fun _ x => .go (launchCmd s x)

def execQver (h : Header) (o : EC) (s : State) : Host.Outcome State Fault Refusal :=
  engineWord .qver h o (ecQver o && slotOk s.cell o && (o.fn = 0#4 || hOk (s.cell.rdH o.ha))) s fun _ x => .go (launchCmd s x)

def execQres (h : Header) (o : EC) (s : State) : Host.Outcome State Fault Refusal :=
  engineWord .qres h o (ecSlotH o && slotOk s.cell o && hOk (s.cell.rdH o.ha)) s fun _ x => .go (launchCmd s x)

def execBset (h : Header) (o : EC) (s : State) : Host.Outcome State Fault Refusal :=
  engineWord .bset h o (ecBset o && slotOk s.cell o) s fun _ x => .go (launchCmd s x)

def execBget (h : Header) (o : EC) (s : State) : Host.Outcome State Fault Refusal :=
  engineWord .bget h o (ecField o && slotOk s.cell o) s fun _ x => .go (launchCmd s x)

def execSieve (h : Header) (o : EC) (s : State) : Host.Outcome State Fault Refusal :=
  engineWord .sieve h o (ecSlotH o && slotOk s.cell o && hOk (s.cell.rdH o.ha)) s fun _ x => .go (launchCmd s x)

/-! ### The snapshot (R228, R229) -/

/-- Freed physical pages enter the quarantine (R225, log 26). -/
def quarantine (s : State) (pages : List Freed) : State :=
  { s with pkg := { s.pkg with quarantine := s.pkg.quarantine ++ pages } }

/-- The pages of a slot's window. -/
def windowFreed (sl : Slot) : List Freed :=
  match sl.window with
  | none => []
  | some w => (List.range w.pages.length).map fun i =>
      { ctx := w.ctx, va := w.va + 65536 * i, since := w.since, pa := w.pages.getD i 0, len := 65536 }

/-- The TLBI that a page of a slot waits for at its retirement: one to come where the tables map it still, else the latest since
the slot's admission that found it unmapped (R225, log 26). -/
def freedSince (s : State) (sl : Slot) (q : Freed) : Nat :=
  if (stillMapped s q.ctx (some q.va)).any (Leaf.holds q) then s.pkg.tlbiNext
  else ((s.pkg.tlbis.reverse.find? fun t => decide (sl.since ≤ t.n) && unmaps q t).map (·.n)).getD s.pkg.tlbiNext

/-- The pages of a slot's KV cache, which the table behind KVPT names in the slot's context (log 26). -/
def kvFreed (s : State) (i : Nat) (sl : Slot) : List Freed :=
  (Config.kvPages s.steps i).map fun p =>
    let q : Freed := { ctx := sl.ctx, va := p.1, since := 0, pa := p.2, len := 65536 }
    { q with since := freedSince s sl q }

/-- Retirement: GEN + 1, skipping 0; the round, the record and the window go, and what is released waits for its stream
(R229, R264, R407). `old` is the slot as the snapshot finds it. -/
def retire (s : State) (old sl : Slot) : Slot :=
  let g := if sl.gen + 1 = 2 ^ 32 then 1 else sl.gen + 1
  let out := pendingOut s old
  { sl.putNat 1 g with
    round := { Round.none with num := sl.round.num + 1 }, window := none, record := Reg.fill 0, start := 0, k := 0
    text := TextSt.reset
    left := if out.va = 0 ∨ (out.out = [] ∧ out.finish = none) then sl.left else sl.left ++ [out] }

/-- The host-writable shadow fields but STATE reach the live half. -/
def latchFields (sl : Slot) : Slot :=
  ((List.range 25).filter fun f => hostField f && decide (f ≠ 0)).foldl
    (fun y f => y.put f (y.shadow.rd (BitVec.ofNat 5 f))) { sl with commit := false }

def admitRound (s : State) (sl : Slot) : Slot :=
  { (((sl.putNat 0 sAdmit).putNat 9 0).putNat 11 0).putNat 10 0 with text := TextSt.reset, since := s.pkg.tlbiNext }

/-- One committed slot at the snapshot. Where the shadow's STATE is the slot's own or names no allowed transition, state and reason
stay: that the shadow's reason byte is then not copied, as R228 copies host-writable fields, is the model's choice (log 25). -/
def snapshotSlot (s : State) (i : Nat) : State :=
  let old := s.slot i
  let sl := latchFields old
  let goal := fld (sl.shadow.rd 0) 0 8
  let pages := windowFreed old ++ kvFreed s i old
  if sl.state = sFree ∧ goal = sAdmit then s.setSlot i (admitRound s sl)
  else if sl.state ≠ sFree ∧ goal = sFree then rebind (quarantine (s.setSlot i ((retire s old sl).putNat 0 sFree)) pages) i
  else if (sl.state = sDone ∨ sl.state = sError) ∧ goal = sAdmit then
    rebind (quarantine (s.setSlot i (admitRound s (retire s old sl))) pages) i
  else s.setSlot i sl

def execBroodSnapshot (s : State) : Host.Outcome State Fault Refusal :=
  .next (((s.brood.slots.filter fun e => e.2.commit).map (·.1)).foldl snapshotSlot s)

end Sys2Proof.Machine
end

