-- ==== Sys2Proof/Machine/Sillage.lean ====
section
/-! DEFINITION. The media unit: arrival of records, ticks, device time, SLTICK, SLPIN, SLGET (R268 to R277, R417). -/

namespace Sys2Proof.Machine

/-! ### Arrival of records (R270, R271) -/

/-- The next record, of the host's ring or of the messages that have arrived. -/
def execMediaRecordArrival (ring : Bool) (s : State) : Host.Outcome State Fault Refusal :=
  if ring then
    match s.pkg.md.entry 512 with
    | none => .next s
    | some a =>
      .next (acceptRec { s with pkg := { s.pkg with md := { s.pkg.md with head := s.pkg.md.head + 1 } } }
        (s.mem.bytes (hostAddr a) 512))
  else
    match s.pkg.mdRecs with
    | [] => .next s
    | r :: rest => .next (acceptRec { s with pkg := { s.pkg with mdRecs := rest } } r)

def execMediaRingTailWrite (v : BitVec 64) (s : State) : Host.Outcome State Fault Refusal :=
  .next { s with pkg := { s.pkg with md := s.pkg.md.writeTail v } }

def execMdcfgWrite (v : BitVec 64) (s : State) : Host.Outcome State Fault Refusal :=
  .next { s with pkg := { s.pkg with md := s.pkg.md.writeCfg v } }

/-- A message of the Ultra Ethernet transport arrives: the same binding decides whose it is (R271). -/
def execMediaUeMessage (ch : BitVec 10) (src : BitVec 16) (tag : UltraTag) (bytes : List Byte) (s : State) :
    Host.Outcome State Fault Refusal := .next (takeMessage ch { src := src, bytes := bytes, ultra := some tag } s)

/-! ### Ticks (R274, R275) -/

/-- Period: 0 for none, 1 to 9,999 act as 10,000. -/
def period (p : Nat) : Nat := if p = 0 then 0 else max p 10000

def slstepStage (s : State) : Option (Nat × BitVec 4 × StageSt) := namedStage s s.brood.slstep 0

/-- Entries in the order of a view: by stamp, stream, arrival. -/
def entryBefore (a b : MEntry) : Bool :=
  decide (a.stamp < b.stamp) || (decide (a.stamp = b.stamp) && (decide (a.stream.toNat < b.stream.toNat)
    || (decide (a.stream = b.stream) && decide (a.arrival ≤ b.arrival))))

def insertEntry (e : MEntry) : List MEntry → List MEntry
  | [] => [e]
  | y :: r => if entryBefore e y then e :: y :: r else y :: insertEntry e r

def viewOf (es : List MEntry) (lo hi : Int) : List MEntry :=
  (es.filter fun e => decide (lo ≤ (e.stamp : Int)) && decide ((e.stamp : Int) ≤ hi)).foldr insertEntry []

/-- The status block's words (R277). -/
def statusWords (s : State) (sl : Slot) (w : Window) (t : Nat) (e : Int) (isPartial : Bool) (count : Nat) : List Nat :=
  [sl.k, t, wrap 64 e, count * 2 ^ 16 + (if s.pkg.hold then 2 else 0) + (if isPartial then 1 else 0),
    (sl.f 21).toNat, (sl.f 22).toNat, w.dropFull.toNat * 2 ^ 32 + w.dropOld.toNat, sl.gen]

/-- A stream of STM whose newest stamp lies before the due edge. -/
def behind (sl : Slot) (e : Int) : Bool :=
  (List.range 4).any fun j => bit (sl.used 20) (16 + j) &&
    decide (((match sl.window with
      | none => 0
      | some w => w.high.rd (BitVec.ofNat 2 j) : Nat) : Int) < e)

/-- The snapshot of a window: eviction, status block and view. A slot without a window has none of these, and its step
index and window start move as those of any other (R274). -/
def snapshotWindow (s : State) (i : Nat) (sl : Slot) (t : Nat) (e b : Int) (isPartial : Bool) : State :=
  let next := { sl with start := b.toNat, k := sl.k + 1 }
  match sl.window with
  | none => s.setSlot i next
  | some w =>
    let es := w.entries.filter fun x => decide (b ≤ (x.stamp : Int))
    let view := viewOf es b e
    let bs := (statusWords s sl w t e isPartial view.length).flatMap (toBytes 8) ++ view.flatMap fun x => toBytes 4 x.at_
    (s.setSlot i { next with window := some { w with entries := es } }).store (w.pages.getD w.sinks 0) bs

/-- A tick of an ACTIVE slot, or its skip. -/
def execTick (slot : BitVec 12) (s : State) : Host.Outcome State Fault Refusal :=
  let i := slot.toNat
  let sl := s.slot i
  let p := period (fld (sl.f 17) 0 32)
  let t := (sl.f 18).toNat
  if sl.state ≠ sActive ∨ p = 0 ∨ bit s.brood.slstep 31 = false ∨ s.pkg.time < t then .next s
  else
    let late := sl.putNat 18 (t + p)
    let skip := .next (s.setSlot i (late.putNat 22 ((sl.f 22).toNat + 1)))
    if sl.stepping then skip
    else
      match slstepStage s with
      | none => skip
      | some (l, st, q) =>
        if queueFull q then skip
        else
          let e : Int := (t : Int) - fld (sl.f 17) 32 32
          let b : Int := (t : Int) - fld (sl.used 19) 0 40
          let isPartial := behind sl e
          let sl1 := { (if isPartial then late.putNat 21 ((sl.f 21).toNat + 1) else late) with stepping := true }
          .next (enqueue (snapshotWindow s i sl1 t e b isPartial) l st
            { ident := BitVec.ofNat 64 (sl.gen * 4096 + i), barrier := false, scope := 10, step := some slot })

/-! ### Device time (R268, R275) -/

/-- Whether TSRC names a source that can lose lock. -/
def timeSource (p : Package) : Bool := decide (fld p.tsrc 0 2 = 1) || decide (fld p.tsrc 0 2 = 2)

def execTimeLockLoss (s : State) : Host.Outcome State Fault Refusal :=
  if timeSource s.pkg then .next { s with pkg := { s.pkg with lock := false, hold := true } } else .next s

/-- Ticks that a step of device time jumps past count in MISSED, and T moves beyond the jump. -/
def jumpTicks (s : State) (i : Nat) : State :=
  let sl := s.slot i
  let p := period (fld (sl.f 17) 0 32)
  let t := (sl.f 18).toNat
  if sl.state ≠ sActive ∨ p = 0 ∨ bit s.brood.slstep 31 = false ∨ s.pkg.time < t then s
  else
    let n := (s.pkg.time - t) / p + 1
    s.setSlot i ((sl.putNat 18 (t + n * p)).putNat 22 ((sl.f 22).toNat + n))

/-- Device time after an advance: a count of 64 bits that never decreases (R268). -/
def laterTime (t d : Nat) : Nat := min (2 ^ 64 - 1) (t + d)

/-- The source locks again with a measured offset, forward where the source is ahead. Device time steps over a forward offset
above 1 s and never decreases; any other offset is slewed within the advance of device time (log 5). -/
def execTimeRelock (offset : Nat) (forward : Bool) (s : State) : Host.Outcome State Fault Refusal :=
  if !timeSource s.pkg then .next s
  else
    let s1 := { s with pkg := { s.pkg with lock := true, hold := false, offset := BitVec.ofInt 32 (if forward then (offset : Int) else -offset) } }
    if !forward || decide (offset ≤ 10 ^ 9) then .next s1
    else
      let s2 := { s1 with pkg := { s1.pkg with time := laterTime s1.pkg.time offset } }
      .next ((s2.brood.slots.map (·.1)).foldl jumpTicks s2)

/-! ### The commands (R272, R277, R417) -/

/-- The least φ + j·P that is not below `now`; all ones for P = 0. -/
def firstTick (now phase p : Nat) : Nat :=
  if p = 0 then 2 ^ 64 - 1 else now + (((phase : Int) - now) % (p : Int)).toNat

def runSltick (s : State) (x : Cmd) : State :=
  let slot := slotNo x
  if !genOk s x then cmdDone (countStale s) x 0 []
  else
    let n := firstTick s.pkg.time x.sx.toNat (period (fld x.sb 0 32))
    cmdDone (s.updSlot slot fun sl => (sl.put 17 x.sb).putNat 18 n) x 0 []

/-- The leaf that maps an address has its P bit set (R218). -/
def pinned (s : State) (ctx : BitVec 16) (va : Nat) : Bool :=
  match walkRoot s ctx va with
  | .ok (_, e) => bit e 62
  | .error _ => false

/-- A page of the window area: an HBM page with P, R and W. -/
def windowPage (s : State) (x : Cmd) (va : Nat) : Except (BitVec 8 × Nat) Nat :=
  let a := va % 2 ^ 64
  match engXlate s x.ctx a 0, engXlate s x.ctx a 1 with
  | .ok pa, .ok _ => if paTarget pa = 0 ∧ pinned s x.ctx a = true then .ok pa else .error (cProtection, va)
  | _, _ => .error (cProtection, va)

/-- The new window keeps what belongs to the slot: the newest stamps and the counts (log 27). -/
def newWindow_ (old : Option Window) (pages : List Nat) (sinks : Nat) (ctx : BitVec 16) (va since : Nat) : Window :=
  match old with
  | none =>
    { pages := pages, ctx := ctx, va := va, since := since, sinks := sinks, entries := [], high := Reg.fill 0, dropOld := 0
      dropFull := 0, arrivals := 0 }
  | some w => { w with pages := pages, ctx := ctx, va := va, since := since, sinks := sinks, entries := [] }

def runSlpin (s : State) (x : Cmd) : State :=
  let slot := slotNo x
  let sl := s.slot slot
  let sinks := fld (sl.used 20) 0 16
  let n := hDim x.ha 0
  if !genOk s x then cmdDone (countStale s) x 0 []
  else if sl.state ≠ sActive then cmdDone s x 0 []
  else if hBase x.ha % 65536 ≠ 0 ∨ hSpace x.ha ≠ 0 ∨ n < sinks + 2 ∨ sinks + 128 < n then cmdIllegal s x
  else
    match seqExcept (fun i => windowPage s x (hBase x.ha + 65536 * i)) (List.range n) with
    | .error f => cmdFault s x f
    | .ok pages =>
      let s1 := quarantine s (windowFreed sl)
      let w := newWindow_ sl.window pages sinks x.ctx (hBase x.ha) s.pkg.tlbiNext
      cmdDone (s1.setSlot slot { sl with window := some w }) x 0 []

/-- The status block as the window's view page holds it; a slot without a window has none, so its words are open
(log 27). -/
def statusBlock (s : State) (sl : Slot) : List Byte :=
  match sl.window with
  | some w => s.mem.bytes (w.pages.getD w.sinks 0) 64
  | none => (List.range 8).flatMap fun i => toBytes 8 (Config.freeWord (64 * s.steps + i)).toNat

def runSlget (s : State) (x : Cmd) : State :=
  let sp := hSpace x.ha
  if sp = 1 ∨ sp = 4 ∨ sp = 5 ∨ hDim x.ha 0 * widthOf (hType x.ha).toNat < 512 then cmdIllegal s x
  else if !genOk s x then cmdDone (countStale s) x 0 []
  else
    match writeHa s x (statusBlock s (s.slot (slotNo x))) with
    | .error f => cmdFault s x f
    | .ok s1 => cmdDone s1 x 0 []

/-- The media unit acts on a command, after the earlier ones of its task to the slot. -/
def runMedia (s : State) (x : Cmd) : State :=
  if olderSlot s x then s
  else
    match x.op with
    | .sltick => runSltick s x
    | .slpin => runSlpin s x
    | _ => runSlget s x

def execSltick (h : Header) (o : EC) (s : State) : Host.Outcome State Fault Refusal :=
  engineWord .sltick h o (ecSltick o && slotOk s.cell o) s fun _ x => .go (launchCmd s x)

def execSlpin (h : Header) (o : EC) (s : State) : Host.Outcome State Fault Refusal :=
  engineWord .slpin h o (ecSlotH o && slotOk s.cell o && hOk (s.cell.rdH o.ha)) s fun _ x => .go (launchCmd s x)

def execSlget (h : Header) (o : EC) (s : State) : Host.Outcome State Fault Refusal :=
  engineWord .slget h o (ecSlotH o && slotOk s.cell o && hOk (s.cell.rdH o.ha)) s fun _ x => .go (launchCmd s x)

end Sys2Proof.Machine
end

