-- ==== Sys2Proof/Machine/Events.lean ====
section
/-! DEFINITION. Boundary events, landings, the completion of engine commands, translation walks, evictions, numeric
windows, the fast path (R79, R149, R171, R188, R196, R200, R205, R213, R214, R221). -/

namespace Sys2Proof.Machine

/-! ### Boundary events (R196 to R200) -/

/-- The boundary events, first taken first. -/
inductive Boundary where
  | check
  | engine
  | grammar
  | micro
  | numeric
  | trap
  | step
  deriving DecidableEq, Repr

/-- The oldest faulted command of the task that is still held (R213). -/
def heldFault (s : State) (c : Cell) : Option Cmd :=
  c.events.engine.findSome? fun id => s.cmds.find? fun x => decide (x.id = id) && x.held.isSome

/-- The event to take first; in supervisor mode only MACHINE_CHECK (R196, R200). -/
def firstEvent (s : State) (c : Cell) : Option Boundary :=
  let e := c.events
  if e.check.isSome then some .check
  else if c.sup then none
  else if (heldFault s c).isSome then some .engine
  else if e.grammar ≠ [] then some .grammar
  else if e.micro ≠ [] then some .micro
  else if e.numeric ≠ 0 then some .numeric
  else if e.trap ≠ [] then some .trap
  else if e.step.isSome then some .step
  else none

/-- Between two bundles: at an arrival at a barrier too, and where TRET has parked the task, whose pre-emption comes after every
other event of the boundary (R196, R208). A cell that waits in REJOIN, ACCB or ACCINV, is halted or ends is not (log 28). -/
def atBoundary (c : Cell) : Bool :=
  c.running && match c.wait with
    | .none => true
    | .bar _ _ => true
    | .carve _ _ => true
    | .carveDone _ _ => true
    | .misuse _ => true
    | .park => true
    | _ => false

/-- The engine-fault TVAL (R214). -/
def engineTval (x : Cmd) : Word :=
  let tag := match x.tag with
    | none => 0
    | some t => t.toNat * 2 ^ 32 + 2 ^ 35
  let cause := match x.held with
    | none => 0
    | some (k, _) => k.toNat * 2 ^ 40
  BitVec.ofNat 64 (x.pc.toNat + tag + x.op.cls * 2 ^ 36 + cause)

/-- One issue cycle passes before the boundary, unless the waiting bundle has already had it (R198). -/
def issueCycle (s : State) (c : BitVec 9) : State :=
  if (s.cellAt c).pipe.ticked then s.updAt c fun x => { x with pipe := { x.pipe with ticked := false } } else s.tickAt c

def updEvents (s : State) (c : BitVec 9) (f : Events → Events) : State := s.updAt c fun x => { x with events := f x.events }

/-- The trap of an event, and the state in which the event is no longer pending (R204, R213, R214). -/
def eventTrap (s : State) (c : BitVec 9) : Boundary → Trap × State
  | .check => (trapOf cMachineCheck (BitVec.ofNat 64 ((s.cellAt c).events.check.getD 0)), updEvents s c fun e => { e with check := none })
  | .engine =>
    match heldFault s (s.cellAt c) with
    | none => (trapOf cEngineFault 0, s)
    | some x =>
      (trapOf cEngineFault (engineTval x),
        s.updAt c fun y => { y with
          events := { y.events with engine := (y.events.engine.dropWhile (· ≠ x.id)).drop 1, faulted := some x.id }
          tr := { y.tr with taddr := (x.held.map (·.2)).getD 0 } })
  | .grammar =>
    (trapOf cGrammar (((s.cellAt c).events.grammar.headD 0).zeroExtend 64),
      updEvents s c fun e => { e with grammar := e.grammar.drop 1 })
  | .micro =>
    (trapOf cMicroFault ((s.cellAt c).events.micro.headD 0), updEvents s c fun e => { e with micro := e.micro.drop 1 })
  | .numeric =>
    (trapOf cNumericLimit (BitVec.ofNat 64 (lowestClass (s.cellAt c).events.numeric)), updEvents s c fun e => { e with numeric := 0 })
  | .trap => (trapOf ((s.cellAt c).events.trap.headD 0) 0, updEvents s c fun e => { e with trap := e.trap.drop 1 })
  | .step =>
    (trapOf cStep (((s.cellAt c).events.step.getD 0).zeroExtend 64), updEvents s c fun e => { e with step := none })

/-- Takes an event: EPC names the next bundle, PDDONE whether that bundle has spent its PD (R197). -/
def takeNow (s : State) (c : BitVec 9) (b : Boundary) : State :=
  let r := eventTrap s c b
  takeTrap r.2 c r.1 (r.2.cellAt c).pipe.pc (r.2.cellAt c).pipe.pdSpent

/-- The same, after the issue cycle in which the next bundle would have issued. -/
def takeEvent (s : State) (c : BitVec 9) (b : Boundary) : State := takeNow (issueCycle s c) c b

/-- The event that the cell takes now; a cell whose save waits for the emergency area is frozen (R212). -/
def pendingEvent (s : State) (c : BitVec 9) : Option Boundary :=
  let x := s.cellAt c
  if atBoundary x && decide (c ∉ s.tasks.saving) then firstEvent s x else none

def boundaryEvent (c : BitVec 9) (b : Boundary) (s : State) : Host.Outcome State Fault Refusal :=
  .next (if pendingEvent s c = some b then takeEvent s c b else s)

def execEngineFault (c : BitVec 9) (s : State) : Host.Outcome State Fault Refusal := boundaryEvent c .engine s
def execGrammarOverflow (c : BitVec 9) (s : State) : Host.Outcome State Fault Refusal := boundaryEvent c .grammar s
def execMicroFault (c : BitVec 9) (s : State) : Host.Outcome State Fault Refusal := boundaryEvent c .micro s
def execNumericLimit (c : BitVec 9) (s : State) : Host.Outcome State Fault Refusal := boundaryEvent c .numeric s
def execStepTrap (c : BitVec 9) (s : State) : Host.Outcome State Fault Refusal := boundaryEvent c .step s
def execSoftwareTrapTaken (c : BitVec 9) (s : State) : Host.Outcome State Fault Refusal := boundaryEvent c .trap s

/-- The cell holds the load of that number: a variable-latency access, a scratchpad load in flight, a queued word that reads
data. Number 0 is the word that a WAIT polls. -/
def holdsLoad (id : Nat) (c : Cell) : Bool :=
  if id = 0 then c.pipe.polled.isSome
  else
    c.pipe.accs.any (fun a => decide (a.id = id)) || c.pipe.inflight.any (fun x => decide (x.id = id))
      || c.pipe.flight.any (fun x => decide (x.id = id)) || c.mx.queue.any fun j => decide (jobId j = some id)

/-- The engine command of that number, if the task launched it: it reads the data (R205). -/
def readsFor (s : State) (id gang : Nat) (gmem : BitVec 6) : Option Cmd :=
  s.cmds.find? fun x => decide (x.id = id) && decide (x.gang = gang) && decide (x.gmem = gmem)

/-- The data that a queued word reads are in error: the word goes, and what it was to write keeps its value; a routine runs on, and
what its loads of the byte were to write keeps its value (R162, R205). -/
def checkJobs (access : Option Nat) (pa : Nat) (q : List MJob) : List MJob :=
  q.filterMap fun j => match j with
    | .call id n e a qs iter tag bad => some (if some id = access then .call id n e a qs iter tag (bad ++ [pa]) else j)
    | _ => if (jobId j).isSome && decide (jobId j = access) then none else some j

/-- The data that a task reads are in error: what the load was to write keeps its value, its tag clears, a WAIT's poll is undone,
and MACHINE_CHECK becomes pending with the physical address (R205). -/
def checkCell (access : Option Nat) (tag : Option (BitVec 3)) (pa : Nat) (y : Cell) : Cell :=
  let own := (y.pipe.accs.find? fun a => decide (some a.id = access)).bind (·.tag)
  let other := fun (x : InFlight) => x.id = 0 || !(decide (some x.id = access))
  let z := clearTag tag (clearTag own y)
  { z with
    pipe := { z.pipe with
      accs := z.pipe.accs.filter fun a => !(decide (some a.id = access))
      inflight := z.pipe.inflight.filter other, flight := z.pipe.flight.filter other
      polled := if access = some 0 then none else z.pipe.polled
      asked := if access = some 0 then none else z.pipe.asked
      got := if access = some 0 then none else z.pipe.got }
    mx := { z.mx with queue := checkJobs access pa z.mx.queue }
    events := { z.events with check := some (z.events.check.getD pa) } }

/-- The engine command that read the data ends with nothing more written; the task still learns of it at a boundary
(log 22). -/
def dropReader (s : State) (x : Option Cmd) : State :=
  match x with
  | none => s
  | some x => dropCmd s x.id

/-- An uncorrectable error in data that a task consumes: the destination keeps its value, a report of kind 2 goes out,
and the event becomes pending (R205). `access` names the load or the engine command that brought the data, 0 the word that a
WAIT polls, `none` the register file, for which the physical address is 0 (R204); the task is that of the cell, or the saved
one that still holds the load or launched the command (R209). -/
def execMachineCheck (c : BitVec 9) (access : Option Nat) (pa : BitVec 64) (s : State) : Host.Outcome State Fault Refusal :=
  let x := s.cellAt c
  let reader := fun (y : Cell) => access.bind fun id => readsFor s id y.task.gang y.task.gmem
  let holds := fun (y : Cell) => (access.map fun id => holdsLoad id y).getD false || (reader y).isSome
  let at_ := if access.isNone then 0 else pa
  if x.running && (access.isNone || holds x) then
    .next ((dropReader (s.report (cellReport s c 2 cMachineCheck (x.pipe.pc.zeroExtend 64) at_ 0)) (reader x)).updAt c
      (checkCell access ((reader x).bind (·.tag)) at_.toNat))
  else
    match s.tasks.saved.find? fun y => holds y.image with
    | none => .next s
    | some y =>
      let s1 := dropReader
        (s.report { cellReport s c 2 cMachineCheck (y.image.pipe.pc.zeroExtend 64) at_ 0 with ctx := y.image.task.ctx })
        (reader y.image)
      .next { s1 with tasks := { s1.tasks with saved := s1.tasks.saved.map fun z =>
        if z.gang = y.gang ∧ z.gmem = y.gmem then
          { z with image := checkCell access ((reader y.image).bind (·.tag)) at_.toNat z.image } else z } }

/-! ### Landings (R79, R209) -/

/-- A pending access of the wanted sort. -/
def accessOf (c : Cell) (id : Nat) (lands : Bool) : Option Access :=
  c.pipe.accs.find? fun a => decide (a.id = id) && (decide (a.lands ≠ []) == lands)

/-- What lands in a saved context is kept for the restore as well (R209). -/
def landSaved (lands : Bool) (id : Nat) (y : Saved) : Saved :=
  match accessOf y.image id lands with
  | some a => let z := y.redirect (a.lands.map .land); { z with image := endAccess a z.image }
  | none => y

/-- The pending access of that number, on the cell or in the image of a task that was saved meanwhile. -/
def pendingAccess (lands : Bool) (c : BitVec 9) (id : Nat) (s : State) : Option Access :=
  match accessOf (s.cellAt c) id lands with
  | some a => some a
  | none => s.tasks.saved.findSome? fun y => accessOf y.image id lands

/-- On the cell, or in that image; the response of a domain page must have passed its checks (R294). -/
def completeAccess (lands : Bool) (c : BitVec 9) (id : Nat) (s : State) : State :=
  match (pendingAccess lands c id s).bind (takeResponse s) with
  | none => s
  | some s1 =>
    match accessOf (s.cellAt c) id lands with
    | some a => s1.updAt c (landAccess a)
    | none => { s1 with tasks := { s1.tasks with saved := s1.tasks.saved.map (landSaved lands id) } }

def execVariableResultLand (c : BitVec 9) (id : Nat) (s : State) : Host.Outcome State Fault Refusal :=
  .next (completeAccess true c id s)

def execCellAccessPerformed (c : BitVec 9) (id : Nat) (s : State) : Host.Outcome State Fault Refusal :=
  .next (completeAccess false c id s)

/-! ### Engine commands (R188) -/

/-- The engine's turn on a command: it is carried out as far as it can be, and ends, faults, or stays. -/
def runCmd (s : State) (x : Cmd) : State :=
  match x.op with
  | .cpy => runCpy s x
  | .chsend | .chrecv | .chred => runChan s x
  | .qprop | .qver | .qres | .bset | .bget => runQuorum s x
  | .sieve => runSieve s x
  | .tokz | .detok | .gadv | .gmask => runText s x
  | .sltick | .slpin | .slget => runMedia s x
  | .dbar => s

/-- A command starts once the earlier ones of its class have, and once the scratchpad that it uses is up to date (R174,
R188); what it does with domain pages waits for the responses (R294). -/
def execEngineCommandComplete (id : Nat) (s : State) : Host.Outcome State Fault Refusal :=
  match cmdOf s id with
  | none => .next s
  | some x =>
    if x.held.isSome || mustWait s x || padWaits s x then .next s
    else
      let y := { x with begun := true }
      .next (settleAsks (awaitDomain (.cmd id) (fun s => runCmd s y) (setCmd s y)))

/-! ### Walks, evictions, waits, windows -/

/-- A walk for the running task of a cell fills its cache, or finds a fault and leaves it (R217, R220). -/
def execTranslationWalkDone (c : BitVec 9) (va : BitVec 64) (s : State) : Host.Outcome State Fault Refusal :=
  if !(s.cellAt c).running then .next s
  else
    match xlate s c va 0, xlate s c va 1, xlate s c va 2 with
    | .ok r, _, _ => .next r.2
    | _, .ok r, _ => .next r.2
    | _, _, .ok r => .next r.2
    | _, _, _ => .next s

/-- A line leaves the L1, its dirty bytes going home, or the instruction cache (R171, R367). Dirty bytes may go home at any time:
those of some 8-byte units go now, and those of the others stay in the line until a later eviction or close (R180, log 6). -/
def execL1LineEviction (c : BitVec 9) (line : Nat) (code : Bool) (s : State) : Host.Outcome State Fault Refusal :=
  if code then .next (s.updAt c fun x => { x with icache := x.icache.filter fun l => decide (l.tag ≠ line) })
  else
    let p := (lineOf (s.cellAt c).lines line).split (Config.unitStays s.steps)
    .next ((s.updAt c fun x => { x with
      lines := x.lines.filter (fun l => decide (l.tag ≠ line)) ++ (if p.2.dirty = 0 then [] else [p.2]) }).flush [p.1])

/-- The time of a polling WAIT runs out: its next poll ends it (R440). -/
def execWaitTimeout (c : BitVec 9) (s : State) : Host.Outcome State Fault Refusal :=
  .next (s.updAt c fun x => if x.pipe.polled.isSome then { x with pipe := { x.pipe with expired := true } } else x)

/-- A new window of the counters of a running task with a window length (R149). -/
def execNxWindowStart (c : BitVec 9) (s : State) : Host.Outcome State Fault Refusal :=
  .next (s.updAt c fun x => if x.running ∧ x.nx.win ≠ 0 then newWindow x else x)

/-! ### Held commands and the fast path, as a handler's writes (R214, R221) -/

def inHandler (s : State) (c : BitVec 9) : Bool := (s.cellAt c).running && (s.cellAt c).sup

def execEfctlResume (c : BitVec 9) (s : State) : Host.Outcome State Fault Refusal :=
  .next (if inHandler s c then resumeHeld s c else s)

def execEfctlAbandon (c : BitVec 9) (s : State) : Host.Outcome State Fault Refusal :=
  .next (if inHandler s c then abandonHeld s c else s)

def execFpreqWrite (c : BitVec 9) (v : BitVec 64) (s : State) : Host.Outcome State Fault Refusal :=
  .next (if inHandler s c then writeFpreq s c v else s)

/-- Address of the level-3 entry of a VA, where every table above it is there (R217, R222). -/
def leafSlot (s : State) (va : Nat) : Nat → Nat → Nat → Option Nat
  | 0, level, table => some (table + 8 * (va / leafBytes level % 1024))
  | fuel + 1, level, table =>
    let e := s.mem.word (table + 8 * (va / leafBytes level % 1024))
    if bit e 0 && bit e 1 && !pteRsv e && !bit e 63 && !bit e 61 && (paCheck s (pteAddr e) 8192).isNone then
      leafSlot s va fuel (level + 1) (pteAddr e)
    else none

/-- The service core takes the last page of the pool and writes the level-3 entry with R and U, and W for a write; it
declines when the pool is empty or a table is missing. A page that a valid pinned entry maps is mapped already: its entry
stays (R220 to R222). -/
def execFastPathMapDone (c : BitVec 9) (s : State) : Host.Outcome State Fault Refusal :=
  if c ∉ s.pkg.fastPath then .next s
  else
    let x := s.cellAt c
    let s1 := { s with pkg := { s.pkg with fastPath := s.pkg.fastPath.filter (fun y => decide (y ≠ c)) } }
    let answer := fun (s : State) (n : BitVec 2) => s.updAt c fun x => { x with tr := { x.tr with fpstat := n } }
    match s.pkg.contexts.find? fun y => decide (y.id = x.task.ctx) with
    | none => .next (answer s1 2)
    | some k =>
      let va := fld x.tr.fpreq 16 40 * 65536
      match leafSlot s va 3 0 k.root with
      | none => .next (answer s1 2)
      | some at_ =>
        if bit (s.mem.word at_) 0 ∧ bit (s.mem.word at_) 62 then .next (answer s1 1)
        else if k.poolN = 0 then .next (answer s1 2)
        else
          let page := fld (s.mem.word (k.pool + 8 * (k.poolN - 1))) 13 43 * 2 ^ 13
          let e := page + 2 ^ 0 + 2 ^ 3 + 2 ^ 6 + (if bit x.tr.fpreq 0 then 2 ^ 4 else 0)
          let s2 := { s1.store at_ (toBytes 8 e) with
            pkg := { s1.pkg with contexts := s1.pkg.contexts.map fun y =>
              if y.id = k.id then { y with poolN := y.poolN - 1 } else y } }
          .next (answer s2 1)

end Sys2Proof.Machine
end

