-- ==== Sys2Proof/Machine/Launch.lean ====
section
/-! DEFINITION. Launch queues and launches: packets and their checks, admission, seeds, SPAWNG ranges, completion (R19, R20,
R34, R37 to R42, R48). -/

namespace Sys2Proof.Machine

/-! ### Packets (R37 to R39) -/

/-- LAUNCH_FORM, LAUNCH_RESOURCE, LAUNCH_FRAME (R20). -/
def stForm : Nat := 0x10
def stResource : Nat := 0x11
def stFrame : Nat := 0x12

/-- Bits of a stage header's words that a field uses. -/
def stageUsed (i : Nat) : Word :=
  match i with
  | 0 => 0xFFFFFFFF#64
  | 1 => 0x000F7F7F7F7F7F7F#64
  | 2 => 0xFFFF003F1F07F31F#64
  | 3 => 0x000F3F0F01FF01FF#64
  | 4 => 0xFFFFFFFF#64
  | _ => 0

def headerUsed (i : Nat) : Word :=
  match i with
  | 0 => 0xFFFF0FFF#64
  | 1 | 2 | 4 => 0xFFFFFFFFFFFFFF#64
  | 3 => 0x1FFFFFFFFF#64
  | _ => 0

/-- A stage header's eight words. -/
def stageParse (w : Nat → Word) : Stage :=
  let spg := fld (w 3) 40 6
  let stkg := ceilDiv (fld (w 4) 0 32) 32768
  { entry := (w 0).extractLsb' 0 32
    widths := (List.range 6).map fun i => fld (w 1) (8 * i) 7
    affl := (w 1).extractLsb' 48 3, affFrame := bit (w 1) 51, qlog := fld (w 2) 0 5, prio := (w 2).extractLsb' 8 2
    cw := (w 2).extractLsb' 12 4, det := bit (w 2) 16, fuse := bit (w 2) 17, qsl1 := bit (w 2) 18
    affm := (w 2).extractLsb' 24 5, gang := fld (w 2) 32 6, down := (w 2).extractLsb' 48 16
    minc := fld (w 3) 0 9, maxc := fld (w 3) 16 9, tiles := (w 3).extractLsb' 32 4
    spr := BitVec.ofNat 6 (min 63 (spg + stkg)), l1r := BitVec.ofNat 4 (max 1 (fld (w 3) 48 4))
    stkg := BitVec.ofNat 6 (min 63 stkg), minr := 0 }

/-- The limits of R38 and the conditions of R39 on one stage. -/
def stageForm (w : Nat → Word) : Bool :=
  let h := stageParse w
  let scout := onScout h
  (List.range 8).all (fun i => decide (w i &&& ~~~stageUsed i = 0))
    && h.widths.all (fun x => decide (x ≤ 64)) && decide (widthSum h ≤ 64) && decide (h.affl.toNat ≤ 6)
    && decide (4 ≤ h.qlog ∧ h.qlog ≤ 16)
    && (if scout then decide (1 ≤ h.gang ∧ h.gang ≤ 48) else decide (h.gang ∈ [1, 2, 4, 8, 16]))
    && decide (h.minc ≤ 256 ∧ h.maxc ≤ 256 ∧ h.tiles.toNat ≤ 8) && decide (fld (w 3) 40 6 ≤ 38)
    && decide (fld (w 3) 48 4 ≤ 12) && decide (h.affm ≠ 0) && !(scout && decide (fld h.affm 0 4 ≠ 0))
    && (decide (h.maxc = 0) || decide (h.minc ≤ h.maxc)) && !((h.fuse || h.qsl1) && decide (h.gang = 1))
    && !(h.qsl1 && (scout || decide (h.gang < 4)))

/-- The comb-store request of a stage fits 1,280 KiB. -/
def stageFits (w : Nat → Word) : Bool :=
  decide ((fld (w 3) 40 6 + ceilDiv (fld (w 4) 0 32) 32768) * 32 + max 1 (fld (w 3) 48 4) * 64 ≤ 1280)

/-- Some present frame, or the scout die, can take the stage. -/
def stagePlaced (s : State) (h : Stage) : Bool := if onScout h then s.pkg.scout else decide (h.affm.extractLsb' 0 4 &&& s.pkg.frames ≠ 0)

/-- Present cells in the frames of AFFM. -/
def stageCells (s : State) (h : Stage) : Nat :=
  if onScout h then Config.scoutCells else 64 * countBits 4 (h.affm.extractLsb' 0 4 &&& s.pkg.frames).toNat

/-- Host address of word `i` of a packet, as the package addresses host memory (log 15). -/
def packetWord (s : State) (p i : Nat) : Word := s.mem.word (hostAddr (p + 8 * i))

/-- The check of a packet: its stages, or the status that ends the launch. -/
def checkPacket (s : State) (p : Nat) : Except Nat (List Stage) :=
  let h := packetWord s p
  let n := fld (h 0) 8 4 + 1
  let st := fun (k i : Nat) => packetWord s p (8 + 8 * k + i)
  if fld (h 0) 0 8 ≠ 0xA9 ∨ !(List.range 8).all (fun i => decide (h i &&& ~~~headerUsed i = 0))
      ∨ fld (h 1) 0 4 ≠ 0 ∨ fld (h 2) 0 3 ≠ 0 ∨ fld (h 4) 0 8 ≠ 0 ∨ n ≤ fld (h 3) 32 4
      ∨ (rootOf s ((h 0).extractLsb' 16 16)).isNone ∨ !(List.range n).all fun k => stageForm (st k) then .error stForm
  else if !(List.range n).all fun k => stageFits (st k) then .error stResource
  else
    let hs := (List.range n).map fun k => stageParse (st k)
    if !hs.all (stagePlaced s) then .error stFrame
    else .ok (hs.map fun h => { h with minr := min h.minc (stageCells s h) })

def newLaunch (s : State) (p entry : Nat) (hs : List Stage) : Launch :=
  let h := packetWord s p
  { id := s.nextId, packet := p, status := entry, ctx := (h 0).extractLsb' 16 16, code := (h 1).extractLsb' 0 56
    data := (h 4).extractLsb' 0 56, comb := none, scout := none
    stages := hs.map fun x => { hdr := x, queue := [], credit := 0, draining := none }
    seedAt := fld (h 2) 0 56, seedLeft := fld (h 3) 0 32, seedStage := (h 3).extractLsb' 32 4, seedBarrier := bit (h 3) 36
    resident := false }

/-- Writes a word of a launch queue entry. -/
def entryWrite (s : State) (entry i v : Nat) : State := s.store (hostAddr (entry + 8 * i)) (toBytes 8 v)

/-! ### Admission (R40, R42) -/

/-- The lowest free launch slot of a die. -/
def freeSlot (s : State) (scout : Bool) : Option (BitVec 5) :=
  ((List.range 32).find? fun i => (launchInSlot s scout i).isNone).map (BitVec.ofNat 5)

def queueBytes (scout : Bool) (l : Launch) : Nat :=
  ((l.stages.filter fun q => decide (onScout q.hdr = scout)).map fun q => 16 * 2 ^ q.hdr.qlog).sum

/-- The queues of a launch fit the queue region of a die beside those of the resident launches (R43). -/
def queuesFit (s : State) (scout : Bool) (l : Launch) : Bool :=
  let room := if scout then 4 * 2 ^ 20 else 8 * 2 ^ 20 * countBits 4 s.pkg.frames.toNat
  decide (((s.tasks.launches.filter (·.resident)).map (queueBytes scout)).sum + queueBytes scout l ≤ room)

/-- Word 5 of each stage, word 3 of the entry, then status 1. -/
def writeAccepted (s : State) (l : Launch) : State :=
  let s1 := (List.range l.stages.length).foldl (fun t k =>
    match l.stages[k]? with
    | none => t
    | some q => entryWrite t l.packet (8 + 8 * k + 5) (q.hdr.minr * 2 ^ 16 + q.hdr.l1r.toNat * 2 ^ 8 + q.hdr.spr.toNat)) s
  let held := fun (x : Option (BitVec 5)) (lo : Nat) => match x with
    | none => 0
    | some i => i.toNat * 2 ^ lo + 2 ^ (lo + 7)
  entryWrite (entryWrite s1 l.status 3 (held l.comb 0 + held l.scout 8)) l.status 1 1

/-- Admits the first waiting launch, if slots and queue space are free. -/
def admitNext (s : State) : State :=
  match s.tasks.launches.find? fun l => !l.resident with
  | none => s
  | some l =>
    let needs := fun (d : Bool) => l.stages.any fun q => decide (onScout q.hdr = d)
    let slot := fun (d : Bool) => if needs d then freeSlot s d else none
    if (needs false && (slot false).isNone) || (needs true && (slot true).isNone) || !queuesFit s false l
        || !queuesFit s true l then s
    else
      let l1 := { l with comb := slot false, scout := slot true, resident := true }
      writeAccepted (setLaunch s l1) l1

def execLaunchAdmit (s : State) : Host.Outcome State Fault Refusal := .next (admitNext s)

/-- One entry of the next non-empty queue in turn: the packet is checked, and the launch waits or is admitted (R19, R39). -/
def execLaunchEntryRead (s : State) : Host.Outcome State Fault Refusal :=
  let at_ := fun (i : Nat) => BitVec.ofNat 3 (s.pkg.lqTurn.toNat + i)
  match (List.range 8).find? fun i => ((s.pkg.lq.rd (at_ i)).entry 64).isSome with
  | none => .next s
  | some i =>
    let q := s.pkg.lq.rd (at_ i)
    let e := (q.entry 64).getD 0
    let s1 := { s with pkg := { s.pkg with lq := s.pkg.lq.wr (at_ i) { q with head := q.head + 1 }, lqTurn := at_ i + 1 } }
    let p := (packetWord s e 0).toNat
    match checkPacket s1 p with
    | .error st => .next (entryWrite s1 e 1 st)
    | .ok hs =>
      let l := newLaunch s1 p e hs
      .next (admitNext { s1 with tasks := { s1.tasks with launches := s1.tasks.launches ++ [l] }, nextId := s1.nextId + 1 })

def execLqtailWrite (q : BitVec 3) (v : BitVec 64) (s : State) : Host.Outcome State Fault Refusal :=
  .next { s with pkg := { s.pkg with lq := s.pkg.lq.wr q ((s.pkg.lq.rd q).writeTail v) } }

def execLqcfgWrite (q : BitVec 3) (v : BitVec 64) (s : State) : Host.Outcome State Fault Refusal :=
  .next { s with pkg := { s.pkg with lq := s.pkg.lq.wr q ((s.pkg.lq.rd q).writeCfg v) } }

/-! ### Seeds and ranges (R42, R48) -/

/-- The next seed enters its stage as space allows; one that cannot be read waits (log 12). -/
def nextSeed (launch : Nat) (s : State) : State :=
  match launchOf s launch with
  | none => s
  | some l =>
    match stageOf s launch l.seedStage, ctxLoad s l.ctx l.seedAt 8 with
    | some q, .ok (bs, s1) =>
      if l.resident = false ∨ l.seedLeft = 0 ∨ queueFull q = true then s
      else
        enqueue (setLaunch s1 { l with seedAt := l.seedAt + 8, seedLeft := l.seedLeft - 1 }) launch l.seedStage
          { ident := BitVec.ofNat 64 (leNat bs), barrier := l.seedBarrier, scope := 0, step := none }
    | _, _ => s

/-- A seed in a peer's memory comes by a load, on a domain page with its accepted response (R194, R294). -/
def execSeedEnqueue (launch : Nat) (s : State) : Host.Outcome State Fault Refusal :=
  .next (awaitDomain (.seed launch) (nextSeed launch) s)

/-- Entry `j` of a range: field F of the base replaced by field F + j. -/
def rangeIdent (h : Stage) (r : Range) : Word :=
  let p := fieldPos h r.field.toNat
  setFld (maskIdent h r.base) p.1 p.2 (fieldOf h r.field.toNat (maskIdent h r.base) + r.next)

/-- A member of the range's fused gang with a lower GMEM has still entries to enqueue: those of the word enter first (R418). -/
def behindMember (s : State) (r : Range) : Bool :=
  decide (r.gang ≠ 0) && s.tasks.ranges.any fun x => decide (x.gang = r.gang) && decide (x.gmem.toNat < r.gmem.toNat)

/-- The next entry of the range taken from a cell, whatever that cell does meanwhile (R46, R48). -/
def execSpawnUnitEnqueue (c : BitVec 9) (s : State) : Host.Outcome State Fault Refusal :=
  match rangeOf s c with
  | none => .next s
  | some r =>
    match stageOf s r.launch r.stage with
    | none => .next s
    | some q =>
      if queueFull q || behindMember s r then .next s
      else
        let rest := if r.next + 1 < r.count then some { r with next := r.next + 1 } else none
        .next (enqueue (setRange s c rest) r.launch r.stage
          { ident := rangeIdent q.hdr r, barrier := r.barrier, scope := r.scope, step := none })

/-! ### Completion (R41) -/

/-- An enabled QNEXT or SLSTEP names a stage of the launch. -/
def launchNamed (s : State) (id : Nat) : Bool :=
  let named := fun (w : Word) (sh : Nat) => bit w 31 && (match namedStage s w sh with
    | none => false
    | some x => decide (x.1 = id))
  named s.brood.qnext 0 || named s.brood.qnext 16 || named s.brood.slstep 0

def launchDone (s : State) (l : Launch) : Bool :=
  l.resident && decide (l.seedLeft = 0) && l.stages.all (fun q => decide (q.queue = []))
    && !(s.tasks.gangs.any fun g => decide (g.launch = l.id))
    && !(s.tasks.ranges.any fun r => decide (r.launch = l.id))
    && !launchNamed s l.id

def execLaunchComplete (launch : Nat) (s : State) : Host.Outcome State Fault Refusal :=
  match launchOf s launch with
  | none => .next s
  | some l =>
    if launchDone s l then
      .next { entryWrite s l.status 1 2 with
        tasks := { s.tasks with launches := s.tasks.launches.filter fun x => decide (x.id ≠ launch) } }
    else .next s

end Sys2Proof.Machine
end

