-- ==== Sys2Proof/Machine/Matrix.lean ====
section
/-! DEFINITION. The M slot's words at issue: checks, what they read, and the queue (R137, R138, R151, R154 to R167, R364,
R384 to R395, R397). -/

namespace Sys2Proof.Machine

/-! ### The queue and its conflicts (R163, R384) -/

/-- What a queued word touches, numbered: tiles from 0, la from 8, lb from 12, codebook tables from 16, format-table
entries from 20, the microprogram store 36. -/
def MJob.res : MJob → List Nat
  | .load _ isB l _ _ d =>
    ((if isB then 12 else 8) + l.toNat) :: (match d with
      | none => []
      | some (cb, _) => [16 + cb.toNat])
  | .mma z la lb _ _ _ _ => [z.toNat, 8 + la.toNat, 12 + lb.toNat]
  | .zero z => [z.toNat]
  | .cfg z _ => [z.toNat]
  | .store _ z _ _ _ _ _ _ => [z.toNat]
  | .fill _ z _ => [z.toNat]
  | .call _ _ _ _ _ _ _ _ => List.range 37
  | .fmt e _ => [20 + e.toNat]
  | .code _ cb _ => [16 + cb.toNat]
  | .micro _ _ _ _ => [36]

def MJob.touches (j : MJob) (r : Nat) : Bool := j.res.any fun x => decide (x = r)

/-- Two jobs of which one writes scratchpad bytes that the other uses. -/
def padClash (b j : MJob) : Bool := b.padUses.any fun u => j.padUses.any u.clash

/-- Whether a job may start behind the jobs queued before it and the MMA in the array. -/
def jobFree (run : Option MRun) (before : List MJob) (j : MJob) : Bool :=
  before.all (fun b => !(b.res.any j.touches) && !padClash b j) &&
    match run with
    | none => true
    | some r => !(j.touches r.z.toNat)

/-- The first queued job of a kind that may start, and the queue without it. -/
def takeJob (p : MJob → Bool) (run : Option MRun) : List MJob → List MJob → Option (MJob × List MJob)
  | _, [] => none
  | before, j :: r => if p j && jobFree run before j then some (j, before ++ r) else takeJob p run (before ++ [j]) r

/-- The tile whose rows a result is aimed at. -/
def landTile : Land → Option Nat
  | .row i _ _ => some (i.toNat / 64)
  | _ => none

/-- A result aimed at a row of a tile that the job touches. -/
def aimedAt (j : MJob) (l : Land) : Bool :=
  match landTile l with
  | none => false
  | some t => j.touches t

/-- No issue cycle passes: the cell is frozen, or its task waits (R74). -/
def stalled (c : Cell) : Bool := decide (c.verdict = .frozen) || decide (c.verdict = .polled) || (!c.sup && decide (c.wait ≠ .none))

/-- A V or A result aimed at a row of a tile that the job touches has not landed (R163). A fixed-latency result does not
hold the job while the cell stalls (log 20). -/
def rowsPending (c : Cell) (j : MJob) : Bool :=
  c.pipe.flight.any (fun x => aimedAt j x.land) || c.pipe.accs.any (fun a => a.lands.any (aimedAt j))
    || (c.pipe.inflight.any (fun x => aimedAt j x.land) && !stalled c)

/-- The results of a list land in the order in which their latencies run out, without an issue cycle: nothing else grows older.
Answers whether a host interrupt fired. -/
def landAll : Nat → List InFlight → Cell → Cell × Bool
  | 0, _, c => (c, false)
  | n + 1, l, c =>
    if l = [] then (c, false)
    else
      let due := landOrder (l.filter fun x => decide (x.n ≤ 1))
      let c1 := due.foldl (fun c x => c.land x.land) c
      let r := due.foldl (fun p x =>
        let r := countEvents p.1 x.ev
        (r.1, p.2 || r.2)) (c1, false)
      let q := landAll n ((l.filter fun x => decide (1 < x.n)).map fun x => { x with n := x.n - 1 }) r.1
      (q.1, r.2 || q.2)

/-- The results aimed at the job's tiles land, in their order (log 20); the others stay as they are (R84). -/
def landAimed (j : MJob) (c : Cell) : Cell × Bool :=
  landAll Config.flightMax (c.pipe.inflight.filter fun x => aimedAt j x.land)
    { c with pipe := { c.pipe with inflight := c.pipe.inflight.filter fun x => !aimedAt j x.land } }

/-- Before a job that writes its tile starts; an MSTZ reads the tile as those results leave it, while V and A words still
see it without them. -/
def settleRows (j : MJob) (c : Cell) : Cell × Bool :=
  match j with
  | .store _ _ _ _ _ _ _ _ => (c, false)
  | _ => landAimed j c

/-! ### MZERO, MCFG, MFMT: performed as soon as nothing is in the way (R137, R151) -/

def zeroTile (c : Cell) (z : BitVec 3) : Cell := setTileRows c z []

/-- A change of type clears the tile; the same type keeps it (R151). -/
def configTile (c : Cell) (z : BitVec 3) (ty : BitVec 2) : Cell :=
  if c.mx.ztype.rd z = ty then c
  else
    let c1 := zeroTile c z
    { c1 with mx := { c1.mx with ztype := c1.mx.ztype.wr z ty } }

def isSmall : MJob → Bool
  | .zero _ => true
  | .cfg _ _ => true
  | .fmt _ _ => true
  | _ => false

def doSmall (c : Cell) : MJob → Cell
  | .zero z => zeroTile c z
  | .cfg z ty => configTile c z ty
  | .fmt e v => { c with mx := { c.mx with fmt := c.mx.fmt.wr e v } }
  | _ => c

def Cell.drainM : Nat → Cell → Cell × Bool
  | 0, c => (c, false)
  | n + 1, c =>
    match takeJob (fun j => isSmall j && !rowsPending c j) c.mx.run [] c.mx.queue with
    | none => (c, false)
    | some (j, q) =>
      let r := settleRows j { c with mx := { c.mx with queue := q } }
      let d := Cell.drainM n (doSmall r.1 j)
      (d.1, r.2 || d.2)

/-- Stores a cell whose counters may have fired a host interrupt (R149). -/
def putCounted (s : State) (ci : BitVec 9) (r : Cell × Bool) : State :=
  if r.2 then (s.setCell ci r.1).numericReport ci else s.setCell ci r.1

/-- The cell has stopped issuing for a pre-emption or a save: its queued words are not run but saved (R208, R212). The words of
a task that ends retire (R201). -/
def mStopped (s : State) (ci : BitVec 9) : Bool :=
  let x := s.cellAt ci
  (decide (ci ∈ s.tasks.preempt) || decide (ci ∈ s.tasks.saving) || decide (x.wait = .park))
    && !answered x && decide (x.wait ≠ .ending)

def drainM (s : State) (ci : BitVec 9) : State :=
  if mStopped s ci then s else putCounted s ci (Cell.drainM Config.mQueue (s.cellAt ci))

/-- A word enters the queue; a full queue freezes the cell. -/
def enqueueM (s : State) (j : MJob) : Issue :=
  if Config.mQueue ≤ s.cell.mx.queue.length then .freeze
  else .go (drainM (s.upd fun c => { c with mx := { c.mx with queue := c.mx.queue ++ [j] } }) s.cur)

/-! ### What is in force at issue (R137, R364) -/

/-- A queued routine holds an MCFG of the tile: a word that compares the tile's type waits for it (log 20). -/
def cfgPending (mx : Matrix) (z : BitVec 3) : Bool :=
  (mx.queue.foldl (fun (p : Option (SMap (BitVec 80)) × Bool) j => match j with
    | .call _ _ e _ _ _ _ _ =>
      (p.1, p.2 || match p.1 with
        | none => true
        | some st => (routineWords st e).any fun w => decide (fld w 50 10 = 5) && decide (fld w 47 3 = z.toNat))
    | j => (storeAfter p.1 j, p.2)) (some mx.store, false)).2

/-- Entry of the format table that format 15 selects: the iteration of the active outer loop mod 16 (R138). -/
def outerEntry (c : Cell) : BitVec 4 :=
  match c.pipe.outer with
  | none => 0
  | some l => l.iter.extractLsb' 0 4

/-! ### Memory of an M word (R162, R364) -/

/-- The spaces that M words reach: 0 to 3, and staging not from the scout die (R90, R364). -/
def mHandle (s : State) (hv : BitVec 256) : Bool :=
  hOk hv && decide (hSpace hv ≤ 3) && !(decide (hSpace hv = 2) && isScout s.cur)

/-- The storage behind `n` bytes from `ea`, page by page; the lowest faulting address is reported (R162). -/
def mSegs (hv : BitVec 256) (kind : Nat) : Nat → State → Nat → Nat → Except Trap (List Seg × State)
  | 0, s, _, _ => .ok ([], s)
  | f + 1, s, ea, n =>
    let prot := fun (x : BitVec 8) => ({ cause := x, kind := BitVec.ofNat 4 kind, tval := BitVec.ofNat 64 (hSlice hv) } : Trap)
    if n = 0 then .ok ([], s)
    else if hSpace hv = 1 then
      if padBytes s.cell < ea + n then .error (trapOf cSpRange (BitVec.ofNat 64 (max ea (padBytes s.cell))))
      else .ok ([{ space := .pad, addr := ea, len := n }], s)
    else if hSpace hv = 2 then
      if 2 ^ 20 < ea + n then .error (prot cProtection)
      else if !bit s.pkg.frames (hSlice hv / 64) then .error (trapOf cFrameOff (BitVec.ofNat 64 ea))
      else if 56 ≤ hSlice hv % 64 then .error (prot cProtection)
      else .ok ([{ space := .staging, addr := hSlice hv * 2 ^ 20 + ea, len := n }], s)
    else
      let m := min n (65536 - ea % 65536)
      match xlate s s.cur (BitVec.ofNat 64 ea) kind with
      | .error t => .error t
      | .ok (pa, s1) =>
        match mSegs hv kind f s1 ((ea + m) % 2 ^ 64) (n - m) with
        | .error t => .error t
        | .ok (r, s2) => .ok ({ space := .main, addr := pa, len := m, dom := domainPage s1 s.cur ea } :: r, s2)

/-- The bytes behind the runs: main memory at its home, on the GATH path (R364). -/
def segBytes (s : State) (ci : BitVec 9) (segs : List Seg) : List Byte :=
  segs.flatMap fun g => match g.space with
    | .main => s.mem.bytes g.addr g.len
    | .pad => (s.cellAt ci).pad.bytes g.addr g.len
    | .staging => s.staging.bytes g.addr g.len

/-- A queued word has still to write bytes of the runs. -/
def segsBusy (c : Cell) (rows : List (List Seg)) : Bool :=
  rows.any fun g => g.any fun x => decide (x.space = .pad) && padBusy c x.addr x.len false

/-- The source of a latch load, MCODE or MSTORE: read at issue (R158, R364), but where a queued word has still to write some
of it, when the word starts (R163). -/
def srcOf (s : State) (rows : List (List Seg)) : MSrc :=
  if segsBusy s.cell rows then .later rows else .now (rows.map (segBytes s s.cur))

/-- The flits of what word number `id` reads at issue from a peer's memory; it starts with their responses (R294, R364). -/
def srcFlits (s : State) (id : Nat) (rows : List (List Seg)) : State :=
  if segsBusy s.cell rows then s else asking (.job id) s (loadFlits s rows.flatten)

/-- The flits of what a word reads as it starts. -/
def lateFlits (s : State) : MSrc → State
  | .now _ => s
  | .later rows => loadFlits s rows.flatten

/-- The bytes of a source, as the word starts. -/
def srcRows (s : State) (ci : BitVec 9) : MSrc → List (List Byte)
  | .now rows => rows
  | .later rows => rows.map (segBytes s ci)

/-- The runs of several address ranges in order; a range that is absent has none. -/
def mRanges (hv : BitVec 256) (kind : Nat) : List (Option (Nat × Nat)) → State → Except Trap (List (List Seg) × State)
  | [], s => .ok ([], s)
  | none :: r, s =>
    match mRanges hv kind r s with
    | .error t => .error t
    | .ok (gs, s1) => .ok ([] :: gs, s1)
  | some (ea, n) :: r, s =>
    match mSegs hv kind 4 s ea n with
    | .error t => .error t
    | .ok (g, s1) =>
      match mRanges hv kind r s1 with
      | .error t => .error t
      | .ok (gs, s2) => .ok (g :: gs, s2)

/-! ### Latch loads (R154 to R156, R390) -/

/-- The field checks of a load that depend on the handle and the resolved format (R154, R155, R156). -/
def loadOk (s : State) (isB : Bool) (o : ML) (hv : BitVec 256) (f : Nat × Option (BitVec 2)) : Bool :=
  mHandle s hv && (o.gather = 0#1 || hSpace hv = 1) &&
    match f.2 with
    | some _ => decide (f.1 = 0 ∨ f.1 = 8) && decide (hType hv = 11#4)
    | none => decide ((hType hv).toNat = operandType f.1 isB)

/-- The tensor row of each line: the line itself, or the lane of the index row (R154, R155). -/
def lineRows (c : Cell) (o : ML) : List Int :=
  if o.gather = 1#1 then (List.range 64).map fun l => sgn 32 (lane 32 (c.rdV o.row) l)
  else (List.range 64).map fun l => (l : Int)

/-- Where a line lies; none for a line of zeros. -/
def lineAddr (hv : BitVec 256) (a : Word) (r : Int) : Option Nat :=
  if hDim hv 0 = 0 ∨ hDim hv 1 = 0 ∨ r < 0 ∨ (hDim hv 1 : Int) ≤ r then none else some (rowAddr hv a r.toNat)

/-- The scale bytes of a line as the latch keeps them: 0x7F for a block without one; the single byte of a decoded line
serves its eight blocks (R134, R135, R154). R134 and R154 give 0x7F to loads without scales and to lines of zeros: that a block
beyond DIM0 or K, and blocks 8 to 15 of a decoded line, keep it too is the model's choice (log 44). -/
def lineScales (decoded : Bool) (bs : List Byte) : BitVec 128 :=
  BitVec.ofNat 128 (leNat ((List.range 16).map fun b =>
    if decoded then (if b < 8 then bs.getD 0 0x7F else 0x7F) else bs.getD b 0x7F))

/-- The addresses of the lines of a load. -/
def loadAddrs (c : Cell) (o : ML) (hv : BitVec 256) (a : Word) : List (Option Nat) := (lineRows c o).map (lineAddr hv a)

/-- The runs that a load reads, two for each line: the data and the scales. -/
def loadRuns (s : State) (o : ML) (hv : BitVec 256) (a : Word) (f : Nat × Option (BitVec 2)) :
    Except Trap (List (List Seg) × State) :=
  let w := widthOf (hType hv).toNat
  let r := lineReads hv f
  mRanges hv 0 ((loadAddrs s.cell o hv a).flatMap fun x => match x with
    | none => [none, none]
    | some ea => [some (ea, (r.1 * w + 7) / 8), some ((ea + hDim hv 0 * w / 8) % 2 ^ 64, r.2)]) s

/-- The load as a queued job: translated whole at issue (R158, R162). -/
def planLoad (s : State) (isB : Bool) (o : ML) (hv : BitVec 256) (a : Word) (f : Nat × Option (BitVec 2)) :
    Except Trap (MJob × State) :=
  let n := (lineReads hv f).1
  match loadRuns s o hv a f with
  | .error t => .error t
  | .ok (gs, s1) =>
    let dec := f.2.map fun cb => (cb, (loadAddrs s.cell o hv a).map fun x => if x.isSome then n else 0)
    .ok (.load s1.nextId isB o.latch (srcOf s1 gs) (n * widthOf (hType hv).toNat) dec, srcFlits s1 s1.nextId gs)

/-- The index row of a gathered load: NO_TILE, then the waits of R155 for results that were in flight before this
bundle. -/
def gatherWait (c : Cell) (o : ML) : Option Issue :=
  if o.gather = 0#1 then none
  else
    match noTile c o.row with
    | some t => some (.trap t)
    | none =>
      let aimed := fun (l : Land) => match l with
        | .row i _ _ => decide (i = o.row)
        | _ => false
      if c.pipe.inflight.any fun x => decide (0 < x.age) && aimed x.land then some .needIdle
      else if c.pipe.accs.any (fun a => decide (0 < a.age) && a.lands.any aimed) || rowBusy c o.row false then some .freeze
      else none

/-- A word that accesses memory takes its number with it, behind an earlier ordered access (R162, R182). -/
def enqueueLoad (s : State) (j : MJob) : Issue := orderedIssue s.cell (enqueueM { s with nextId := s.nextId + 1 } j)

def loadWord (isB : Bool) (legal : Bool) (h : Header) (o : ML) (s : State) : Host.Outcome State Fault Refusal :=
  let f := resolveFmt (effFmt s.cell.mx (outerEntry s.cell)) isB o.fmt o.dec o.cb
  let hv := s.cell.rdH o.h
  issueWord h (legal && loadOk s isB o hv f) false false false s fun c =>
    match gatherWait c o with
    | some r => r
    | none =>
      match planLoad s isB o hv (c.rdA o.idx) f with
      | .error t => .trap t
      | .ok (j, s1) => enqueueLoad s1 j

def execMla (h : Header) (o : ML) (s : State) : Host.Outcome State Fault Refusal :=
  loadWord false (slotM h && mlMla o) h o s

def execMlb (h : Header) (o : ML) (s : State) : Host.Outcome State Fault Refusal :=
  loadWord true (slotM h && mlMlb o) h o s

/-- 2,048 bytes into codebook table C (R156, R387). -/
def execMcode (h : Header) (o : ML) (s : State) : Host.Outcome State Fault Refusal :=
  let hv := s.cell.rdH o.h
  issueWord h (slotM h && mlCode o && mHandle s hv) false false false s fun _ =>
    match mSegs hv 0 4 s (hBase hv) 2048 with
    | .error t => .trap t
    | .ok (g, s1) => enqueueLoad (srcFlits s1 s1.nextId [g]) (.code s1.nextId o.cb (srcOf s1 [g]))

/-- Raw words into the microprogram store (R165, R394). -/
def execMstore (h : Header) (o : MS) (s : State) : Host.Outcome State Fault Refusal :=
  let hv := s.cell.rdH o.h
  issueWord h (slotM h && msStore o && mHandle s hv) false false false s fun _ =>
    match mSegs hv 0 4 s (hBase hv) (10 * o.count.toNat) with
    | .error t => .trap t
    | .ok (g, s1) => enqueueLoad (srcFlits s1 s1.nextId [g]) (.micro s1.nextId o.addr.toNat o.count.toNat (srcOf s1 [g]))

/-! ### Words on a tile -/

/-- A tile above z(TILES − 1) (R364). -/
def noTileZ (c : Cell) (z : BitVec 3) : Option Trap :=
  if tilesOf c ≤ z.toNat then some (trapOf cNoTile (z.zeroExtend 64)) else none

/-- A format suits a tile and the transpose bit (R139, R392). -/
def mmaOk (o : MM) (f : Nat) (ty : BitVec 2) : Bool :=
  fmtSuits f ty && (o.ta = 0#1 || decide (f < 8))

def execMma (h : Header) (o : MM) (s : State) : Host.Outcome State Fault Refusal :=
  let f := (resolveFmt (effFmt s.cell.mx (outerEntry s.cell)) false o.fmt 0 0).1
  let pending := cfgPending s.cell.mx o.z
  issueWord h (slotM h && mmMma o && (pending || mmaOk o f (effType s.cell.mx o.z))) false false false s fun c =>
    match noTileZ c o.z with
    | some t => .trap t
    | none =>
      if pending then .freeze
      else enqueueM s (.mma o.z o.la o.lb (BitVec.ofNat 4 f) (decide (o.ta = 1)) (decide (o.neg = 1)) (decide (o.acc = 1)))

def execMzero (h : Header) (o : MM) (s : State) : Host.Outcome State Fault Refusal :=
  issueWord h (slotM h && mmZero o) false false false s fun c =>
    match noTileZ c o.z with
    | some t => .trap t
    | none => enqueueM s (.zero o.z)

def execMcfg (h : Header) (o : MM) (s : State) : Host.Outcome State Fault Refusal :=
  issueWord h (slotM h && mmCfg o) false false false s fun c =>
    match noTileZ c o.z with
    | some t => .trap t
    | none => enqueueM s (.cfg o.z (o.fmt.extractLsb' 0 2))

/-- The checks of MSTZ on its handle: ETYPE equals T, and DIM0 is even for a 4-bit T (R161). -/
def storeOk (s : State) (o : MZ) (hv : BitVec 256) : Bool :=
  mHandle s hv && decide (hType hv = o.ty) && (!tyNib o.ty || decide (hDim hv 0 % 2 = 0))

def planStore (s : State) (o : MZ) (hv : BitVec 256) (a : Word) (ty : BitVec 2) : Except Trap (MJob × State) :=
  let cols := min (hDim hv 0) (tileCols ty)
  match mRanges hv 1 (tileRanges hv a cols) s with
  | .error t => .error t
  | .ok (gs, s1) =>
    .ok (.store s1.nextId o.z o.ty (decide (o.sat = 1)) (BitVec.ofNat 3 (roundMode s.cell.nx.rmode o.rnd.toNat)) o.scale cols gs, s1)

def execMstz (h : Header) (o : MZ) (s : State) : Host.Outcome State Fault Refusal :=
  let hv := s.cell.rdH o.h
  issueWord h (slotM h && mzStore o && storeOk s o hv) false false false s fun c =>
    match noTileZ c o.z with
    | some t => .trap t
    | none =>
      if cfgPending c.mx o.z then .freeze
      else
        match planStore s o hv (c.rdA o.idx) (effType c.mx o.z) with
        | .error t => .trap t
        | .ok (j, s1) => enqueueLoad s1 j

/-- The checks of MLDZ: T equals the tile's type and the ETYPE (R161, R391). -/
def fillOk (s : State) (o : MZ) (hv : BitVec 256) (ty : BitVec 2) (pending : Bool) : Bool :=
  mHandle s hv && decide (hType hv = o.ty) && (pending || decide (o.ty.toNat = tileElem ty))

/-- MLDZ reads memory when it starts, after every earlier conflicting word has retired (R161). -/
def planFill (s : State) (o : MZ) (hv : BitVec 256) (a : Word) (ty : BitVec 2) : Except Trap (MJob × State) :=
  match mRanges hv 0 (tileRanges hv a (min (hDim hv 0) (tileCols ty))) s with
  | .error t => .error t
  | .ok (gs, s1) => .ok (.fill s1.nextId o.z (.later gs), s1)

def execMldz (h : Header) (o : MZ) (s : State) : Host.Outcome State Fault Refusal :=
  let hv := s.cell.rdH o.h
  let ty := effType s.cell.mx o.z
  let pending := cfgPending s.cell.mx o.z
  issueWord h (slotM h && mzLoad o && fillOk s o hv ty pending) false false false s fun c =>
    match noTileZ c o.z with
    | some t => .trap t
    | none =>
      if pending then .freeze
      else
        match planFill s o hv (c.rdA o.idx) ty with
        | .error t => .trap t
        | .ok (j, s1) => enqueueLoad s1 j

/-! ### MCALL, MSETQ, MFMT, MLOOP, MEND -/

/-- Whether a routine entry is valid (R164, R166). -/
def entryOk (e : Word) : Bool :=
  bit e 31 && decide (fld e 16 10 ≠ 0) && decide (fld e 0 10 + fld e 16 10 ≤ 1024)

def execMcall (h : Header) (o : MC) (s : State) : Host.Outcome State Fault Refusal :=
  issueWord h (slotM h && mcAny o) false false true s fun c =>
    let e := c.entry.rd o.n
    if !entryOk e then .trap (trapOf cMicroFault (o.n.zeroExtend 64))
    else enqueueLoad s (.call s.nextId o.n e ((List.range 8).map fun i => c.rdA (BitVec.ofNat 4 i))
      ((List.range 8).map fun i => c.regs.q.rd (BitVec.ofNat 3 i)) (outerEntry c) (tagOf h) [])

/-- MSETQ is a fixed-latency word and does not enter the queue (R393). -/
def execMsetq (h : Header) (o : MQ) (s : State) : Host.Outcome State Fault Refusal :=
  issueResults h (slotM h && mqAny o) false s (fun c => [.q o.q (c.rdS o.s)]) 1 0

/-- The check of R137 on a format value. -/
def fmtValueOk (v : Word) : Bool :=
  decide (fld v 9 55 = 0) && decide (fld v 7 2 ≤ 1) && decide (fld v 0 4 ≤ 9)

def execMfmt (h : Header) (o : MF) (s : State) : Host.Outcome State Fault Refusal :=
  issueWord h (slotM h && mfAny o && fmtValueOk (s.cell.rdS o.s)) false false false s fun c =>
    enqueueM s (.fmt o.e (c.rdS o.s))

/-- Fetched as code, MLOOP traps ILLEGAL_OP (R111, R388); a routine runs it in `runRoutine`. -/
def execMloop (h : Header) (_ : MC) (s : State) : Host.Outcome State Fault Refusal :=
  issueWord h false false false false s fun _ => .go s

/-- Fetched as code, MEND traps ILLEGAL_OP (R111, R388). -/
def execMend (h : Header) (_ : MC) (s : State) : Host.Outcome State Fault Refusal :=
  issueWord h false false false false s fun _ => .go s

end Sys2Proof.Machine
end

