-- ==== Sys2Proof/Machine/MRun.lean ====
section
/-! DEFINITION. The matrix unit at work: transfers, the array, the store-and-load pipe, routines (R158 to R168, R384). -/

namespace Sys2Proof.Machine

/-! ### What a job does when it is performed -/

def regOfList {n : Nat} {α : Type} (d : α) (l : List α) : Reg n α := Vector.ofFn fun i => l.getD i.val d

/-- The latch that a load leaves: codewords are decoded through the table now (R135, R154). -/
def doLoad (c : Cell) (isB : Bool) (l : BitVec 2) (src : List (List Byte)) (bits : Nat)
    (dec : Option (BitVec 2 × List Nat)) : Cell :=
  let data := (List.range 64).map fun i =>
    (BitVec.ofNat 2048 (leNat (src.getD (2 * i) []) % 2 ^ bits), lineScales dec.isSome (src.getD (2 * i + 1) []))
  let rows := match dec with
    | none => data.map (·.1)
    | some (cb, ns) => List.zipWith (fun d n => decodeLine (c.mx.cb.rd cb) ((List.range n).map (lane 16 d.1))) data ns
  let x : Latch := { lines := regOfList 0 rows, scales := regOfList 0 (data.map (·.2)) }
  { c with mx := if isB then { c.mx with lb := c.mx.lb.wr l x } else { c.mx with la := c.mx.la.wr l x } }

/-- A codebook table from its 2,048 bytes (R136). -/
def doCode (c : Cell) (cb : BitVec 2) (bs : List Byte) : Cell :=
  let t : Reg 8 Word := regOfList 0 ((List.range 256).map fun i => BitVec.ofNat 64 (leNat ((bs.drop (8 * i)).take 8)))
  { c with mx := { c.mx with cb := c.mx.cb.wr cb t } }

def doMicro (c : Cell) (addr : Nat) (ws : List (BitVec 80)) : Cell :=
  { c with mx := { c.mx with store := storeWords c.mx.store addr ws } }

/-- Bytes into the runs of one row, on the GATH path or in the cell's scratchpad. -/
def writeSegs (ci : BitVec 9) : List Seg → List Byte → State → State
  | [], _, s => s
  | g :: r, bs, s =>
    let now := bs.take g.len
    writeSegs ci r (bs.drop g.len) (match g.space with
      | .main => peerFlits (s.store g.addr now) g.dom 1 g.addr now
      | .pad => s.updAt ci fun c => { c with pad := c.pad.store g.addr now }
      | .staging => { s with staging := s.staging.store g.addr now })

/-- Converts and stores the rows of a tile; answers the events (R161). -/
def doStore (s : State) (ci : BitVec 9) (z : BitVec 3) (ty : BitVec 4) (sat : Bool) (rnd : BitVec 3) (scale : BitVec 5)
    (cols : Nat) (rows : List (List Seg)) : State × BitVec 8 :=
  let c := (landAimed (.zero z) (s.cellAt ci)).1
  let tile := tileElem (c.mx.ztype.rd z)
  (List.range rows.length).foldl (fun p r =>
    let x := storeRow tile ty.toNat rnd.toNat cols sat scale.toInt (tileRow c z r)
    (writeSegs ci (rows.getD r []) x.1 p.1, p.2 ||| x.2)) (s, 0)

/-! ### Events of the unit -/

def isStore : MJob → Bool
  | .store _ _ _ _ _ _ _ _ => true
  | _ => false

/-- An MSTZ whose stores to domain pages have left: it has started, and retires with their responses (R294). -/
def begun (s : State) (j : MJob) : Bool := isStore j && s.pd.asks.any fun a => decide (some a.by_ = j.asker)

/-- Takes the first job of a kind that may start, once the rows it waits for have landed; on a cell that has stopped issuing
only one that has started already goes on (R208). -/
def startJob (p : MJob → Bool) (s : State) (ci : BitVec 9) : Option (MJob × State) :=
  let c := s.cellAt ci
  (takeJob (fun j => p j && (!mStopped s ci || begun s j) && !rowsPending c j) c.mx.run [] c.mx.queue).map fun r =>
    (r.1, putCounted s ci (settleRows r.1 { c with mx := { c.mx with queue := r.2 } }))

/-- Starts a job of a kind by `run`; one that reads or writes domain pages does so with the accepted responses to its flits
(R294, log 32). -/
def startAsked (p : MJob → Bool) (run : State → State) (ci : BitVec 9) (s : State) : State :=
  match (startJob p s ci).bind (·.1.asker) with
  | none => run s
  | some k =>
    let s1 := collect k s
    if (askOf s1 k).owed ≠ [] then s1 else settleAsks (awaitDomain k run s1)

/-- The words that use the latch transfer (R158, R165). -/
def usesTransfer : MJob → Bool
  | .load _ _ _ _ _ _ => true
  | .code _ _ _ => true
  | .micro _ _ _ _ => true
  | _ => false

/-- The flits of a job's source. -/
def jobFlits (s : State) : MJob → State
  | .load _ _ _ src _ _ => lateFlits s src
  | .code _ _ src => lateFlits s src
  | .micro _ _ _ src => lateFlits s src
  | .fill _ _ src => lateFlits s src
  | _ => s

/-- The oldest of the words that use the transfer. -/
def nextTransfer (s : State) (ci : BitVec 9) (j : MJob) : Bool :=
  usesTransfer j && decide (some j = (s.cellAt ci).mx.queue.find? usesTransfer)

/-- The word's transfer. -/
def latchRun (ci : BitVec 9) (s : State) : State :=
  match startJob (nextTransfer s ci) s ci with
  | none => s
  | some (j, s1) =>
    drainM ((jobFlits s1 j).updAt ci fun c => match j with
      | .load _ isB l src bits dec => doLoad c isB l (srcRows s1 ci src) bits dec
      | .code _ cb src => doCode c cb (srcRows s1 ci src).flatten
      | .micro _ a n src => doMicro c a (wordsOf (srcRows s1 ci src).flatten n)
      | _ => c) ci

/-- The oldest of the words that use the transfer begins it, once nothing it conflicts with is pending (R158). -/
def execLatchTransfer (ci : BitVec 9) (s : State) : Host.Outcome State Fault Refusal :=
  .next (startAsked (nextTransfer s ci) (latchRun ci) ci s)

/-- An MMA reads its panels and its tile and occupies the array (R159, R160). -/
def execMmaStart (ci : BitVec 9) (s : State) : Host.Outcome State Fault Refusal :=
  if (s.cellAt ci).mx.run.isSome then .next s
  else
    match startJob (fun j => match j with
      | .mma _ _ _ _ _ _ _ => true
      | _ => false) s ci with
    | some (.mma z la lb fmt ta neg acc, s1) =>
      let r := mmaRows (s1.cellAt ci) z la lb fmt.toNat ta neg acc
      .next (drainM (s1.updAt ci fun c => { c with mx := { c.mx with run := some { z := z, rows := r.1, ev := r.2 } } }) ci)
    | _ => .next s

def retireMma (s : State) (ci : BitVec 9) : State :=
  match (s.cellAt ci).mx.run with
  | none => s
  | some r =>
    drainM ((s.updAt ci fun c => setTileRows { c with mx := { c.mx with run := none } } r.z r.rows).countAt ci r.ev) ci

/-- The MMA leaves the array: its tile holds the result and its events count (R140, R147, R160). -/
def execMmaRetire (ci : BitVec 9) (s : State) : Host.Outcome State Fault Refusal := .next (retireMma s ci)

/-- The words of the store-and-load pipe (R161). -/
def usesPipe : MJob → Bool
  | .store _ _ _ _ _ _ _ _ => true
  | .fill _ _ _ => true
  | _ => false

/-- The transfer of a tile. -/
def pipeRun (ci : BitVec 9) (s : State) : State :=
  match startJob usesPipe s ci with
  | some (.store _ z ty sat rnd scale cols rows, s1) =>
    let r := doStore s1 ci z ty sat rnd scale cols rows
    drainM (r.1.countAt ci r.2) ci
  | some (.fill _ z src, s1) =>
    drainM ((lateFlits s1 src).updAt ci fun c => setTileRows c z ((srcRows s1 ci src).map bytesRow)) ci
  | _ => s

def execTilePipeStart (ci : BitVec 9) (s : State) : Host.Outcome State Fault Refusal :=
  .next (startAsked usesPipe (pipeRun ci) ci s)

/-! ### Routines (R166, R167, R384, R388) -/

/-- Some byte of the scratchpad runs is in error: what the word was to write keeps its value (R205). -/
def inError (bad : List Nat) (rows : List (List Seg)) : Bool :=
  rows.any fun g => g.any fun x => bad.any fun a => decide (x.addr ≤ a) && decide (a < x.addr + x.len)

def routineLoad (s : State) (r : Routine) (isB : Bool) (o : ML) : Option (State × Routine) :=
  let c := s.cell
  let f := resolveFmt (c.mx.fmt.rd r.iter) isB o.fmt o.dec o.cb
  let hv := c.rdH o.h
  if !loadOk s isB o hv f || decide (hSpace hv ≠ 1) || (o.gather = 1#1 && (noTile c o.row).isSome) then none
  else
    match planLoad s isB o hv (routineIdx r o.idx) f with
    | .ok (.load _ b l src bits dec, s1) =>
      let bad := match loadRuns s o hv (routineIdx r o.idx) f with
        | .ok (gs, _) => inError r.bad gs
        | .error _ => false
      some (if bad then s1 else s1.upd fun c => doLoad c b l (srcRows s1 s1.cur src) bits dec, routineBump r o.idx)
    | _ => none

/-- Performs one word of a routine; none where it faults. The cell is `s.cur`. The word's handle, and RMODE where it rounds as
RMODE says, are read as it runs: R166 copies only the A and q registers, and that the others are not copied as well is the
model's choice (log 44). -/
def routineWord (s : State) (r : Routine) : Instr → Option (State × Routine)
  | .nop _ => some (s, r)
  | .mla _ o => routineLoad s r false o
  | .mlb _ o => routineLoad s r true o
  | .mma _ o =>
    let c := s.cell
    let f := (resolveFmt (c.mx.fmt.rd r.iter) false o.fmt 0 0).1
    if !mmaOk o f (c.mx.ztype.rd o.z) || (noTileZ c o.z).isSome then none
    else
      let x := mmaRows c o.z o.la o.lb f (decide (o.ta = 1)) (decide (o.neg = 1)) (decide (o.acc = 1))
      some (s.upd fun c => setTileRows c o.z x.1, { r with ev := r.ev ++ [x.2] })
  | .mzero _ o => if (noTileZ s.cell o.z).isSome then none else some (s.upd fun c => zeroTile c o.z, r)
  | .mcfg _ o =>
    if (noTileZ s.cell o.z).isSome then none else some (s.upd fun c => configTile c o.z (o.fmt.extractLsb' 0 2), r)
  | .mstz _ o =>
    let c := s.cell
    let hv := c.rdH o.h
    if !storeOk s o hv || decide (hSpace hv ≠ 1) || (noTileZ c o.z).isSome then none
    else
      match planStore s o hv (routineIdx r o.idx) (c.mx.ztype.rd o.z) with
      | .ok (.store _ z ty sat rnd scale cols rows, s1) =>
        let x := doStore s1 s1.cur z ty sat rnd scale cols rows
        some (x.1, routineBump { r with ev := r.ev ++ [x.2] } o.idx)
      | _ => none
  | .mldz _ o =>
    let c := s.cell
    let hv := c.rdH o.h
    let ty := c.mx.ztype.rd o.z
    if !fillOk s o hv ty false || decide (hSpace hv ≠ 1) || (noTileZ c o.z).isSome then none
    else
      match planFill s o hv (routineIdx r o.idx) ty with
      | .ok (.fill _ z (.later rows), s1) =>
        some (if inError r.bad rows then s1 else s1.upd fun c => setTileRows c z ((srcRows s1 s1.cur (.later rows)).map bytesRow),
          routineBump r o.idx)
      | _ => none
  | _ => none

/-- Runs a routine from its word `i`; answers the index of the word that faulted, if one did (R166, R167). One that ends with an
MLOOP open faults at the innermost open MLOOP, which is the model's choice (log 44). -/
def runRoutine (ws : List (BitVec 80)) (f i : Nat) (loops : List (Nat × Nat)) (s : State) (r : Routine) :
    State × Routine × Option Nat := runWords routineWord ws f i loops s r

/-- The routine at the head of the queue runs to its end; its tag clears and its events count. A fault is pending until
the next bundle boundary (R166 to R168). -/
def startRoutine (s : State) (ci : BitVec 9) : State :=
  let c := s.cellAt ci
  match c.mx.queue with
  | .call id n e a q iter tag bad :: rest =>
    let j := MJob.call id n e a q iter tag bad
    if c.mx.run.isSome || mStopped s ci || rowsPending c j then s
    else
      let s1 := { putCounted s ci (settleRows j { c with mx := { c.mx with queue := rest } }) with cur := ci }
      let r := runRoutine (routineWords c.mx.store e) (2 ^ 42) 0 [] s1
        { a := a, q := q, iter := iter, count := 0, ev := [], bad := bad }
      let s2 := r.2.1.ev.foldl (fun s e => s.countAt ci e) ({ r.1 with cur := s.cur }.updAt ci (clearTag tag))
      let s3 := match r.2.2 with
        | none => s2
        | some i => s2.updAt ci fun c => { c with events := { c.events with
            micro := c.events.micro ++ [BitVec.ofNat 64 (n.toNat * 2 ^ 16 + (fld e 0 10 + i))] } }
      drainM s3 ci
  | _ => s

def execMcallRoutineRun (ci : BitVec 9) (s : State) : Host.Outcome State Fault Refusal := .next (startRoutine s ci)

end Sys2Proof.Machine
end

