-- ==== Sys2Proof/Machine/Place.lean ====
section
/-! DEFINITION. The dispatchers: candidates, the decision, placement, binding, the start of a task, draining blocks and
victims (R33, R49 to R52, R57 to R63). -/

namespace Sys2Proof.Machine

/-! ### Cells that can take a task (R49, R51, R57) -/

def dieCells (scout : Bool) : List (BitVec 9) :=
  if scout then (List.range Config.scoutCells).map fun i => BitVec.ofNat 9 (256 + i)
  else (List.range Config.combCells).map (BitVec.ofNat 9)

/-- A block that drains for a gang stage holds the cell (R60). -/
def draining (s : State) (c : BitVec 9) : Bool :=
  s.tasks.launches.any fun l => l.stages.any fun q => match q.draining with
    | none => false
    | some b => decide (c ∈ b)

/-- The cell runs no task, belongs to no gang and restores none, and its matrix unit has finished. -/
def cellIdle (s : State) (c : BitVec 9) : Bool :=
  let x := s.cellAt c
  !x.running && !(s.tasks.gangs.any fun g => decide (c ∈ g.cells)) && !(s.tasks.saved.any fun y => decide (y.cell = some c))
    && decide (x.mx.queue = []) && x.mx.run.isNone

/-- Bound to nothing, or to a stage of the same context (R50). -/
def ctxFits (s : State) (c : BitVec 9) (ctx : BitVec 16) : Bool :=
  match (s.cellAt c).bound with
  | none => true
  | some b => decide (b.ctx = ctx)

def boundTo (s : State) (l : Nat) (i : BitVec 4) (c : BitVec 9) : Bool :=
  match (s.cellAt c).bound with
  | none => false
  | some b => decide (b.launch = l) && decide (b.stage = i)

def boundCount (s : State) (scout : Bool) (l : Nat) (i : BitVec 4) : Nat := ((dieCells scout).filter (boundTo s l i)).length

/-- A stage of a launch on the dispatcher's die. -/
structure Cand where
  slot : Nat
  l : Launch
  i : BitVec 4
  q : StageSt
  deriving DecidableEq, Repr

def Cand.h (x : Cand) : Stage := x.q.hdr

/-- The stages of a die in ascending launch slot and stage index. -/
def stagesOf (s : State) (scout : Bool) : List Cand :=
  (List.range 32).flatMap fun n => match launchInSlot s scout n with
    | none => []
    | some l => (List.range l.stages.length).filterMap fun i => match l.stages[i]? with
      | none => none
      | some q => if onScout q.hdr = scout then some { slot := n, l := l, i := BitVec.ofNat 4 i, q := q } else none

/-- Cells in frames of AFFM that exist and suit the context. -/
def eligible (s : State) (scout : Bool) (x : Cand) : List (BitVec 9) :=
  (dieCells scout).filter fun c => cellPresent s c && (scout || bit x.h.affm (frameOf c))

/-- Blocks that a gang may take: aligned on the comb die, any run on the scout die; single cells without gangs (R51). -/
def blocks (s : State) (scout : Bool) (x : Cand) : List (List (BitVec 9)) :=
  let es := eligible s scout x
  let g := x.h.gang
  let base := if scout then 256 else 0
  let count := if scout then Config.scoutCells + 1 - g else Config.combCells / g
  ((List.range count).map fun b => (List.range g).map fun j =>
    BitVec.ofNat 9 (base + (if scout then b else b * g) + j)).filter fun b => b.all fun c => decide (c ∈ es)

/-- Placement on the block keeps the stage below MAXC: cells already bound to it do not raise its count, or a stage that has
once reached MAXC would never start another entry, against R66 (R57, log 46). -/
def underMax (s : State) (scout : Bool) (x : Cand) (b : List (BitVec 9)) : Bool :=
  decide (x.h.maxc = 0) || decide (boundCount s scout x.l.id x.i < x.h.maxc) || b.all (boundTo s x.l.id x.i)

def blockFree (s : State) (x : Cand) (b : List (BitVec 9)) : Bool :=
  b.all fun c => cellIdle s c && ctxFits s c x.l.ctx && !draining s c

/-- Whole free blocks, or free cells; on the scout die only the lowest run of a gang. -/
def options (s : State) (scout : Bool) (x : Cand) : List (List (BitVec 9)) :=
  let bs := (blocks s scout x).filter fun b => blockFree s x b && underMax s scout x b
  if scout && decide (x.h.gang ≠ 1) then bs.take 1 else bs

/-! ### Work of a stage (R44, R57, R222) -/

/-- Free save areas of a context. -/
def areasFree (s : State) (ctx : BitVec 16) : Nat :=
  ((s.pkg.contexts.find? fun c => decide (c.id = ctx)).map fun c => c.free.length).getD 0

/-- The head entry may start: no task of an earlier entry is left behind a barrier entry, and every member gets a save
area. -/
def startable (s : State) (x : Cand) : Bool :=
  match x.q.queue with
  | [] => false
  | e :: _ =>
    (!e.barrier || !(s.tasks.gangs.any fun g => decide (g.launch = x.l.id) && decide (g.stage = x.i)))
      && decide (x.h.gang ≤ areasFree s x.l.ctx)

/-- Saved members of a gang. -/
def savedOf (s : State) (g : Gang) : List Saved := s.tasks.saved.filter fun y => decide (y.gang = g.id)

/-- A pre-empted gang of the stage that waits to resume, as a whole (R52). Of several the one that started first resumes first:
R57 does not say which, and this is the model's choice (log 45). -/
def resumable (s : State) (x : Cand) : Option Gang :=
  s.tasks.gangs.find? fun g => decide (g.launch = x.l.id) && decide (g.stage = x.i)
    && decide ((savedOf s g).length + g.exited.length = g.size) && decide (savedOf s g ≠ [])
    && (savedOf s g).all fun y => !y.parked && y.cell.isNone

def hasWork (s : State) (x : Cand) : Bool :=
  decide (x.q.queue ≠ []) || s.tasks.gangs.any fun g => decide (g.launch = x.l.id) && decide (g.stage = x.i)
    && decide (savedOf s g ≠ [])

/-! ### Draining (R60) -/

/-- Blocks of a gang stage that could drain; a stage has at most one draining block. -/
def drainBlocks (s : State) (scout : Bool) (x : Cand) : List (List (BitVec 9)) :=
  if x.h.gang = 1 ∨ x.q.draining ≠ none then []
  else (blocks s scout x).filter fun b => !(b.any (draining s)) && underMax s scout x b

/-- The block with the most free cells, the lowest-numbered on a tie; a cell of another context is free once it has cleared
itself (R50). -/
def drainPick (s : State) (x : Cand) (bs : List (List (BitVec 9))) : Option (List (BitVec 9)) :=
  (bs.foldl (fun (o : Option (Nat × List (BitVec 9))) b =>
    let n := (b.filter fun c => cellIdle s c && ctxFits s c x.l.ctx).length
    match o with
    | none => some (n, b)
    | some p => if p.1 < n then some (n, b) else o) none).map (·.2)

/-! ### The decision (R58) -/

/-- A candidate of R57. A gang stage without a whole free block is one as well while a block of it could start to drain:
R57 asks for a whole block and R60 speaks of a selected stage that has none, and this reading of the two is the model's
choice (log 45). So is it that a stage with a pre-empted task to resume stays a candidate while every save area of its context is
taken: R222 says that the context's stages are then no candidates, R57 admits the stage of such a task, which has its area
already, and no rule ranks the two (log 45). -/
def isCand (s : State) (scout : Bool) (x : Cand) : Bool :=
  (startable s x || (resumable s x).isSome) && (decide (options s scout x ≠ []) || decide (drainBlocks s scout x ≠ []))

/-- W(s). -/
def weight (x : Cand) : Nat :=
  let full := (List.range 16).any fun t => bit x.h.down t && (match x.l.stages[t]? with
    | none => false
    | some q => queueFull q)
  1 + (16 * x.q.queue.length / 2 ^ x.h.qlog - (if full then 16 else 0))

/-- The candidates that the class and MINR filters leave. -/
def filterCands (s : State) (scout : Bool) (cs : List Cand) : List Cand :=
  let low := cs.filter fun x => decide (boundCount s scout x.l.id x.i < x.h.minr)
  let c1 := if low = [] then cs else low
  let cls := c1.foldl (fun m x => min m x.h.prio.toNat) 3
  c1.filter fun x => decide (x.h.prio.toNat = cls)

def setCredit (s : State) (l : Nat) (i : BitVec 4) (d : Nat) : State :=
  match stageOf s l i with
  | none => s
  | some q => setStage s l i { q with credit := d }

/-- The round of the loop: credits grow by weight, the first that reaches 16 is selected. -/
def selectFrom (cs : List Cand) : Nat → Nat → State → Option Cand × State
  | 0, _, s => (none, s)
  | f + 1, k, s =>
    match cs[k % cs.length]? with
    | none => (none, s)
    | some x =>
      let d := ((stageOf s x.l.id x.i).map (·.credit)).getD 0 + weight x
      if 16 ≤ d then (some x, setCredit s x.l.id x.i (d - 16)) else selectFrom cs f (k + 1) (setCredit s x.l.id x.i d)

def afterPtr (p : Nat × BitVec 4) (x : Cand) : Bool :=
  decide (p.1 < x.slot) || (decide (p.1 = x.slot) && decide (p.2.toNat < x.i.toNat))

/-- Selects a stage and moves the pointer of its class. -/
def selectStage (s : State) (scout : Bool) (cs : List Cand) : Option Cand × State :=
  match cs with
  | [] => (none, s)
  | x0 :: _ =>
    let cls := x0.h.prio
    let p := (if scout then s.tasks.scoutPtr else s.tasks.combPtr).rd cls
    let k := (cs.findIdx? (afterPtr p)).getD 0
    match selectFrom cs (16 * cs.length + 1) k s with
    | (none, s1) => (none, s1)
    | (some x, s1) =>
      let v := (x.slot, x.i)
      (some x, { s1 with tasks :=
        if scout then { s1.tasks with scoutPtr := s1.tasks.scoutPtr.wr cls v }
        else { s1.tasks with combPtr := s1.tasks.combPtr.wr cls v } })

/-! ### Placement (R59) -/

/-- Affinity unit of a cell: quad or frame; the scout die is one frame. -/
def unitOf (h : Stage) (c : BitVec 9) : Nat := if h.affFrame then frameOf c else cellNo c / 4

def prefixOf (h : Stage) (ident : Word) : Word := ident >>> (h.widths.drop h.affl.toNat).sum

/-- The entry of the hashed table that remembers a level prefix of a stage; a later prefix with the same hash takes it over
(R59, log 45). -/
def affinityAt (x : Cand) (pre : Word) : Nat :=
  Config.affinityHash x.l.id x.i.toNat pre % Config.affinityEntries

/-- The unit of the most recently started task of the stage that agrees at level AFFL; a miss gives none. -/
def wantedUnit (s : State) (scout : Bool) (x : Cand) (ident : Word) : Option Nat :=
  if x.h.affl = 0#3 then none
  else
    match (if scout then s.tasks.scoutAff else s.tasks.combAff).find (affinityAt x (prefixOf x.h ident)) with
    | none => none
    | some a =>
      if a.launch = x.l.id ∧ a.stage = x.i ∧ a.pre = prefixOf x.h ident then some a.unit else none

/-- The keys of R59 for a block: affinity miss, CW × L, first cell. The unit and the frame are those of the first cell: which
unit a block larger than a quad, or a run across quads, counts as R59 does not say, and this is the model's choice (log 45). -/
def placeKey (s : State) (scout : Bool) (x : Cand) (want : Option Nat) (b : List (BitVec 9)) : Nat :=
  let c := b.headD 0
  let miss := if want = some (unitOf x.h c) then 0 else 1
  let lvl := if scout then 0 else frameReg s (BitVec.ofNat 2 (frameOf c)) fun t => t.level.toNat
  (miss * 1024 + x.h.cw.toNat * lvl) * 512 + c.toNat

def pickBlock (s : State) (scout : Bool) (x : Cand) (want : Option Nat) (bs : List (List (BitVec 9))) :
    Option (List (BitVec 9)) :=
  (bs.foldl (fun (o : Option (Nat × List (BitVec 9))) b =>
    let k := placeKey s scout x want b
    match o with
    | none => some (k, b)
    | some p => if k < p.1 then some (k, b) else o) none).map (·.2)

def noteAffinity (s : State) (scout : Bool) (x : Cand) (ident : Word) (c : BitVec 9) : State :=
  if x.h.affl = 0#3 then s
  else
    let a : Affinity := { launch := x.l.id, stage := x.i, pre := prefixOf x.h ident, unit := unitOf x.h c }
    let upd := fun (l : SMap Affinity) => l.put (affinityAt x a.pre) a
    { s with tasks := if scout then { s.tasks with scoutAff := upd s.tasks.scoutAff }
                      else { s.tasks with combAff := upd s.tasks.combAff } }

/-! ### Binding and start (R33, R49, R50, R51) -/

/-- Writes back and invalidates the L1 of a cell: the one that serves it, and lines of its own from a binding that had another
(R50, R55, R208). -/
def l1Empty (s : State) (c : BitVec 9) : State :=
  let s1 := (l1Clean s c).updAt (l1Owner s c) fun x => { x with lines := [] }
  (s1.updAt c fun x => { x with lines := [] }).flush (s1.cellAt c).lines

/-- A cell whose next binding has its L1 elsewhere, shared by its quad or its own again, empties the one it had (R55). -/
def leaveL1 (s : State) (c : BitVec 9) (shared : Bool) : State :=
  match (s.cellAt c).bound with
  | none => s
  | some o => if o.qsl1 = shared then s else l1Empty s c

/-- A tile that a new reservation adds: FP32 +0 (R50). -/
def freshTile (c : Cell) (z : BitVec 3) : Cell :=
  let c1 := zeroTile c z
  { c1 with mx := { c1.mx with ztype := c1.mx.ztype.wr z 0 } }

/-- Binds a cell: what lies beyond the old reservation reads zero (R50). -/
def bindCell (b : Binding) (c : Cell) : Cell :=
  match c.bound with
  | none => { c with bound := some b }
  | some o =>
    let c1 := { c with bound := some b, pad := c.pad.clear (o.spr.toNat * Config.granule) (64 * Config.granule) }
    (List.range 8).foldl (fun c z =>
      if o.tiles.toNat ≤ z ∧ z < b.tiles.toNat then freshTile c (BitVec.ofNat 3 z) else c) c1

def bindingOf (x : Cand) : Binding :=
  { launch := x.l.id, stage := x.i, ctx := x.l.ctx, spr := x.h.spr, l1r := x.h.l1r, tiles := x.h.tiles, qsl1 := x.h.qsl1 }

/-- The registers at a task's first bundle (R33, R85). -/
def Regs.start (r : Regs) : Regs :=
  { Regs.reset with sh := r.sh, v := r.v }

/-- Member `j` of a gang starts on a cell with save area `area` of its context. -/
def startCell (x : Cand) (g j : Nat) (e : QEntry) (ctx : Context) (area : Nat) (c : Cell) : Cell :=
  let b := bindCell (bindingOf x) c
  let t : Task :=
    { gang := g, launch := x.l.id, lslot := BitVec.ofNat 5 x.slot, stage := x.i, gsize := BitVec.ofNat 6 x.h.gang
      gmem := BitVec.ofNat 6 j, fused := x.h.fuse, det := x.h.det, ctx := x.l.ctx, code := x.l.code, data := x.l.data
      ident := e.ident, wf := (List.range 6).map fun i => BitVec.ofNat 64 (fieldOf x.h i e.ident), openPhase := e.scope }
  { b with
    regs := b.regs.start
    pipe := { Pipe.reset with pc := x.h.entry, seq := x.h.entry }
    tr := { b.tr with
      status := 0, tvec := ctx.tvec.zeroExtend 64, savea := BitVec.ofNat 64 (ctx.saveb + ctx.saves * area)
      savel := BitVec.ofNat 64 ctx.saves, dbgtpc := b.tr.dbgtpc.map fun w => w &&& 0x7FFFFFFFFFFFFFFF#64 }
    nx := Nx.reset, running := true, task := t, wait := .none, region := none, events := Events.none, verdict := .issued }

/-- Takes the lowest free save area of a context for a member. -/
def takeArea (s : State) (ctx : BitVec 16) (key : Nat) : Option (Context × Nat × State) :=
  match s.pkg.contexts.find? fun c => decide (c.id = ctx) with
  | none => none
  | some c =>
    match c.free with
    | [] => none
    | j :: r =>
      some (c, j, { s with pkg := { s.pkg with contexts := s.pkg.contexts.map fun y =>
        if y.id = ctx then { y with free := r, used := (key, j) :: y.used } else y } })

def startMembers (x : Cand) (g : Nat) (e : QEntry) : List (BitVec 9) → Nat → State → State
  | [], _, s => s
  | c :: r, j, s =>
    match takeArea s x.l.ctx (areaKey g (BitVec.ofNat 6 j)) with
    | none => s
    | some (ctx, a, s1) => startMembers x g e r (j + 1) ((leaveL1 s1 c x.h.qsl1).updAt c (startCell x g j e ctx a))

/-- The queue head starts on a block (R44, R51). -/
def startGang (s : State) (scout : Bool) (x : Cand) (b : List (BitVec 9)) : State :=
  match stageOf s x.l.id x.i with
  | none => s
  | some q =>
    match q.queue with
    | [] => s
    | e :: rest =>
      let g : Gang :=
        { id := s.nextId, launch := x.l.id, stage := x.i, size := x.h.gang, ident := e.ident, cells := b, exited := []
          fused := x.h.fuse, bars := Reg.fill { expect := x.h.gang, arrived := [] }, rejoined := [], carving := []
          step := e.step }
      let s1 := noteAffinity (setStage s x.l.id x.i { q with queue := rest, draining := none }) scout x e.ident (b.headD 0)
      startMembers x g.id e b 0
        { s1 with tasks := { s1.tasks with gangs := s1.tasks.gangs ++ [g] }, nextId := s1.nextId + 1 }

/-- A pre-empted gang goes to a block; TASK_RESTORE reloads each member there (R52, R209). -/
def resumeGang (s : State) (g : Gang) (b : List (BitVec 9)) : State :=
  let s1 := setGang s { g with cells := b }
  { s1 with tasks := { s1.tasks with saved := s1.tasks.saved.map fun y =>
      if y.gang = g.id then { y with cell := b[y.gmem.toNat]? } else y } }

/-- Places the selected stage: a gang to resume goes first (R57). -/
def placeStage (s : State) (scout : Bool) (x : Cand) (b : List (BitVec 9)) : State :=
  match resumable s x with
  | some g =>
    match stageOf s x.l.id x.i with
    | none => s
    | some q => resumeGang (setStage s x.l.id x.i { q with draining := none }) g b
  | none => startGang s scout x b

/-- The identifier that placement looks at. -/
def placeIdent (s : State) (x : Cand) : Word :=
  match resumable s x with
  | some g => g.ident
  | none => ((x.q.queue.head?).map (·.ident)).getD 0

/-! ### Victims (R63) -/

/-- The stage header of the task that a cell runs. -/
def runningStage (s : State) (c : BitVec 9) : Option StageSt :=
  let x := s.cellAt c
  if x.running then stageOf s x.task.launch x.task.stage else none

/-- Matrix cycles that the routine of a cell has still to run: at most 4,096, and none where its matrix unit is at rest. How
many is not known (R63, R167, log 18). -/
def cyclesLeft (s : State) (c : BitVec 9) : Nat :=
  let x := s.cellAt c
  if x.mx.run.isNone ∧ x.mx.queue = [] then 0 else Config.matrixLeft s.steps c.toNat % 4097

/-- The keys of R63 for a cell, larger first; 0 where the cell runs a class-0 task or none. -/
def victimKey (s : State) (scout : Bool) (c : BitVec 9) : Nat :=
  match runningStage s c with
  | none => 0
  | some q =>
    if q.hdr.prio = 0#2 then 0
    else
      let t := (s.cellAt c).task
      let rich := if q.hdr.minr < boundCount s scout t.launch t.stage then 1 else 0
      ((q.hdr.prio.toNat * 2 + rich) * 8192 + (4096 - cyclesLeft s c)) * 512 + (511 - c.toNat)

def victimOf (s : State) (scout : Bool) (cs : List (BitVec 9)) : Option (BitVec 9) :=
  (cs.foldl (fun (o : Option (Nat × BitVec 9)) c =>
    let k := victimKey s scout c
    if k = 0 then o
    else
      match o with
      | none => some (k, c)
      | some p => if p.1 < k then some (k, c) else o) none).map (·.2)

/-- Marks the whole gang of a cell for pre-emption (R52). -/
def markVictim (s : State) (c : BitVec 9) : State :=
  let cs := match gangOf s (s.cellAt c).task.gang with
    | none => [c]
    | some g => g.cells.filter fun y => (s.cellAt y).running
  { s with tasks := { s.tasks with preempt := s.tasks.preempt ++ cs.filter fun y => decide (y ∉ s.tasks.preempt) } }

def markDraining (s : State) (x : Cand) (b : List (BitVec 9)) : State :=
  match stageOf s x.l.id x.i with
  | none => s
  | some q => setStage s x.l.id x.i { q with draining := some b }

/-- The busy cells of a block that a class-0 gang pre-empts. -/
def clearBlock (s : State) (scout : Bool) (b : List (BitVec 9)) : State :=
  (b.filter fun c => decide (0 < victimKey s scout c)).foldl markVictim s

/-- A class-0 stage without a free cell takes a victim at once; a class-0 gang without a whole free block has a block that
drains, and pre-empts its busy cells (R60, R63). `claimed` are the victims that earlier stages of the decision wait for: each
stage has one of its own. -/
def victims (scout : Bool) (p : State × List (BitVec 9)) (x : Cand) : State × List (BitVec 9) :=
  let s := p.1
  if x.h.prio ≠ 0#2 ∨ (startable s x || (resumable s x).isSome) = false ∨ options s scout x ≠ [] then p
  else
    match x.q.draining with
    | some b => (clearBlock s scout b, p.2)
    | none =>
      if x.h.gang ≠ 1 then
        match drainPick s x (drainBlocks s scout x) with
        | none => p
        | some b => (clearBlock (markDraining s x b) scout b, p.2)
      else
        let es := (eligible s scout x).filter fun c => underMax s scout x [c] && !draining s c
        match es.find? fun c => decide (c ∈ s.tasks.preempt) && decide (c ∉ p.2) with
        | some c => (s, c :: p.2)
        | none =>
          match victimOf s scout (es.filter fun c => decide (c ∉ s.tasks.preempt)) with
          | none => p
          | some c => (markVictim s c, c :: p.2)

/-! ### DISPATCH_DECISION -/

/-- A draining block that has become whole: its gang starts at once, before a stage is selected by R58. R60 says that the gang
starts when the block is whole, and that this needs no selection is the model's choice; so is that of several whole blocks the
one of the lowest launch slot and stage comes first, whatever the classes (log 45). -/
def wholeBlock (s : State) (scout : Bool) : Option (Cand × List (BitVec 9)) :=
  (stagesOf s scout).findSome? fun x => match x.q.draining with
    | none => none
    | some b =>
      if (startable s x || (resumable s x).isSome) && b.all (fun c => cellIdle s c && ctxFits s c x.l.ctx) then some (x, b)
      else none

/-- D[s] resets to 0 while a stage has no work. -/
def resetCredits (s : State) (scout : Bool) : State :=
  (stagesOf s scout).foldl (fun s x => if hasWork s x then s else setCredit s x.l.id x.i 0) s

/-- At least one cell of the die is free (R57). -/
def anyFree (s : State) (scout : Bool) : Bool := (dieCells scout).any fun c => cellPresent s c && cellIdle s c

/-- One decision of a die's dispatcher. -/
def decideDispatch (s : State) (scout : Bool) : State :=
  let s0 := resetCredits s scout
  match wholeBlock s0 scout with
  | some (x, b) => placeStage s0 scout x b
  | none =>
    match selectStage s0 scout (filterCands s0 scout ((stagesOf s0 scout).filter (isCand s0 scout))) with
    | (none, s1) => s1
    | (some x, s1) =>
      match pickBlock s1 scout x (wantedUnit s1 scout x (placeIdent s1 x)) (options s1 scout x) with
      | some b => placeStage s1 scout x b
      | none =>
        match drainPick s1 x (drainBlocks s1 scout x) with
        | none => s1
        | some b => markDraining s1 x b

def execDispatchDecision (scout : Bool) (s : State) : Host.Outcome State Fault Refusal :=
  let s1 := ((stagesOf s scout).foldl (victims scout) (s, [])).1
  .next (if anyFree s1 scout then resetCredits (decideDispatch s1 scout) scout else s1)

end Sys2Proof.Machine
end

