-- ==== Sys2Proof/Machine/Preempt.lean ====
section
/-! DEFINITION. Pre-emption, the save area, restore, parking, the clearing of a cell, and the end of a CARVE (R50, R54,
R208 to R212, R321). -/

namespace Sys2Proof.Machine

/-! ### The save area (R210) -/

def wordBytes (x : Word) : List Byte := toBytes 8 x.toNat

/-- Words that the table gives no content: left open (log 16). -/
def openWords (steps lo n : Nat) : List Byte := (List.range n).flatMap fun i => wordBytes (Config.saveWord steps (lo + i))

def latchBytes (l : Latch) : List Byte := (List.range 64).flatMap fun i => rowBytes (l.lines.rd (BitVec.ofNat 6 i))

/-- The registers of a file of 64-bit registers, or of wider ones in words, lowest first. -/
def fileWords {n w : Nat} (k : Nat) (f : Reg n (BitVec w)) : List Word :=
  (List.range (2 ^ n)).flatMap fun i => (List.range k).map fun j => (f.rd (BitVec.ofNat n i)).extractLsb' (64 * j) 64

/-- The value of a result, as far as a word holds it. -/
def landWord : Land → Word
  | .s _ v => v
  | .sh _ v => v
  | .a _ v => v
  | .m _ v => v
  | .q _ v => v
  | .cr _ v => v
  | .rmw _ _ v _ _ => v
  | .h _ v => v.extractLsb' 0 64
  | .k _ v => v.extractLsb' 0 64
  | .row _ v _ => v.extractLsb' 0 64

/-- The destination of a result: a register by file and number, or a control register. -/
def landPlace : Land → Nat
  | .cr n _ => 8 + 16 * n.toNat
  | l => match l.reg with
    | none => 15
    | some p => p.1 + 16 * p.2

/-- An entry of the flight record in its 16 bytes: the value, of which a wider one leaves its lowest word here; the count, the
slot and the destination register (log 16). -/
def flightWords (l : List InFlight) : List Word :=
  (List.range 32).flatMap fun i => match l[i]? with
    | none => [0, 0]
    | some x => [landWord x.land, BitVec.ofNat 64 (x.n + 256 * x.slot.toNat + 65536 * landPlace x.land)]

/-- A queued M word in 16 bytes: what it is, and its own fields; its data and addresses stay in the image (log 16). -/
def jobWords : MJob → List Nat
  | .load id isB l _ bits dec =>
    [1 + 16 * (if isB then 1 else 0) + 32 * l.toNat + 256 * bits + (match dec with
      | none => 0
      | some p => 2 ^ 32 * (1 + 2 * p.1.toNat)), id]
  | .mma z la lb fmt ta neg acc =>
    [2 + 16 * z.toNat + 256 * la.toNat + 1024 * lb.toNat + 4096 * fmt.toNat
      + 65536 * ((if ta then 1 else 0) + (if neg then 2 else 0) + (if acc then 4 else 0)), 0]
  | .zero z => [3 + 16 * z.toNat, 0]
  | .cfg z ty => [4 + 16 * z.toNat + 256 * ty.toNat, 0]
  | .store id z ty sat rnd scale cols _ =>
    [5 + 16 * z.toNat + 256 * ty.toNat + 4096 * (if sat then 1 else 0) + 8192 * rnd.toNat + 65536 * scale.toNat + 2 ^ 32 * cols, id]
  | .fill id z _ => [6 + 16 * z.toNat, id]
  | .call _ n e _ _ iter tag _ =>
    [7 + 16 * n.toNat + 4096 * iter.toNat + (match tag with
      | none => 0
      | some t => 65536 * (1 + 2 * t.toNat)), e.toNat]
  | .fmt e v => [8 + 16 * e.toNat, v.toNat]
  | .code id cb _ => [9 + 16 * cb.toNat, id]
  | .micro id addr n _ => [10 + 16 * addr + 2 ^ 32 * n, id]

/-- The image of the M queue, eight entries; 0 where there is none. -/
def queueWords (q : List MJob) : List Word :=
  (List.range 8).flatMap fun i => match q[i]? with
    | none => [0, 0]
    | some j => (jobWords j).map (BitVec.ofNat 64)

/-- The words of the control block whose contents R210 lists, in the order in which it lists them; the places are the model's
choice (log 16). The cause of a pre-emption is recorded among them (R204). -/
def controlWords (bars : Reg 4 Barrier) (c : Cell) : List Word :=
  fileWords 1 c.regs.s ++ fileWords 1 c.regs.a ++ fileWords 1 c.regs.m ++ fileWords 4 c.regs.h ++ fileWords 4 c.regs.k
    ++ fileWords 1 c.regs.q
    ++ [c.pipe.pend.zeroExtend 64, c.pipe.engTag.zeroExtend 64] ++ flightWords (if c.sup then c.pipe.flight else c.pipe.inflight)
    ++ [c.tr.epc, c.tr.tval, c.tr.cause, c.tr.status, c.nx.rmode] ++ fileWords 1 c.nx.cnt ++ fileWords 1 c.nx.thr
    ++ [c.nx.win, c.nx.ctl] ++ fileWords 1 c.regs.sh
    ++ [c.pipe.pc.zeroExtend 64, 0x30#64, BitVec.ofNat 64 (ofLanes 2 ((List.range 8).map fun z => (c.mx.ztype.rd (BitVec.ofNat 3 z)).toNat))]
    ++ queueWords c.mx.queue
    ++ (List.range 16).map fun n =>
      let b := bars.rd (BitVec.ofNat 4 n)
      if c.task.gmem = 0 then BitVec.ofNat 64 (b.expect + 256 * b.arrived.length) else 0

/-- The bytes of a context in the order of the table. -/
def saveBytes (steps : Nat) (bars : Reg 4 Barrier) (c : Cell) : List Byte :=
  let ctl := controlWords bars c
  ctl.flatMap wordBytes ++ openWords steps ctl.length (512 - ctl.length)
    ++ (List.range 256).flatMap (fun i => wordBytes (c.entry.rd (BitVec.ofNat 8 i)))
    ++ (List.range 16).flatMap (fun i => wordBytes (c.mx.fmt.rd (BitVec.ofNat 4 i)))
    ++ openWords steps 512 240
    ++ (List.range 1024).flatMap (fun i => toBytes 10 (c.mx.store.get 0 i).toNat)
    ++ (List.range 4).flatMap (fun i => (List.range 256).flatMap fun j =>
      wordBytes ((c.mx.cb.rd (BitVec.ofNat 2 i)).rd (BitVec.ofNat 8 j)))
    ++ (List.range 4).flatMap (fun i => latchBytes (c.mx.la.rd (BitVec.ofNat 2 i)))
    ++ (List.range 4).flatMap (fun i => latchBytes (c.mx.lb.rd (BitVec.ofNat 2 i)))
    ++ (List.range 512).flatMap (fun i => rowBytes (c.regs.v.rd (BitVec.ofNat 9 i)))
    ++ c.pad.bytes 0 (padBytes c)

/-- Pieces of `n` bytes. -/
def pieces (n : Nat) : Nat → List Byte → List (List Byte)
  | 0, _ => []
  | k + 1, bs => bs.take n :: pieces n k (bs.drop n)

/-- A register file from its words. -/
def wordFile {n w : Nat} (k : Nat) (ws : List Word) : Reg n (BitVec w) :=
  Vector.ofFn fun i => BitVec.ofNat w (((ws.drop (k * i.val)).take k).foldr (fun x t => x.toNat + 2 ^ 64 * t) 0)

/-- The words of a file, and the words after them. -/
def takeFile {n w : Nat} (k : Nat) (ws : List Word) : Reg n (BitVec w) × List Word :=
  (wordFile k (ws.take (k * 2 ^ n)), ws.drop (k * 2 ^ n))

/-- The registers that the control block gives back; bits of a control register that are reserved stay zero whatever the area holds
(R5). What it holds of tags, flight record, handler PC and barriers is in the
image as well, and the model takes it from there (log 16). -/
def loadControl (bs : List Byte) (c : Cell) : Cell :=
  let ws := (pieces 8 512 bs).map fun b => BitVec.ofNat 64 (leNat b)
  let s := takeFile (n := 6) (w := 64) 1 ws
  let a := takeFile (n := 4) (w := 64) 1 s.2
  let m := takeFile (n := 4) (w := 64) 1 a.2
  let h := takeFile (n := 4) (w := 256) 4 m.2
  let k := takeFile (n := 3) (w := 256) 4 h.2
  let q := takeFile (n := 3) (w := 64) 1 k.2
  let r := q.2.drop 66
  let cnt := takeFile (n := 3) (w := 64) 1 (r.drop 5)
  let thr := takeFile (n := 3) (w := 64) 1 cnt.2
  let sh := takeFile (n := 4) (w := 64) 1 (thr.2.drop 2)
  let zt := (sh.2.getD 2 0).toNat
  { c with
    regs := { c.regs with s := s.1, a := a.1, m := m.1, h := h.1, k := k.1, q := q.1, sh := sh.1 }
    tr := { c.tr with
      epc := r.getD 0 0 &&& 0xFFFFFFFF#64, tval := r.getD 1 0, cause := r.getD 2 0 &&& 0xFFF#64, status := r.getD 3 0 &&& 0xF#64 }
    nx := { c.nx with
      rmode := r.getD 4 0 &&& 7#64, cnt := cnt.1, thr := thr.1.map fun v => v &&& 0xFFFFFFFF#64
      win := thr.2.getD 0 0 &&& 0xFFFFFFFF#64, ctl := thr.2.getD 1 0 &&& 0xFFFFFF#64 }
    mx := { c.mx with ztype := Vector.ofFn fun z => BitVec.ofNat 2 (zt / 4 ^ z.val) } }

/-- Four latches from 64 KiB. -/
def loadLatches (old : Reg 2 Latch) (bs : List Byte) : Reg 2 Latch :=
  let ls := pieces 16384 4 bs
  Vector.ofFn fun i => { old.rd (BitVec.ofNat 2 i.val) with lines := regOfList 0 ((pieces 256 64 (ls.getD i.val [])).map bytesRow) }

/-- The context that the bytes of a save area give back, in the order of the table (R209, R210); scale bytes of the latches,
which the table does not list, come from the image (log 16). -/
def loadContext (bs : List Byte) (c : Cell) : Cell :=
  let word := fun b => BitVec.ofNat 64 (leNat b)
  let t := bs.drop 4096
  let u := t.drop 4096
  let cbs := u.drop 10240
  let las := cbs.drop 8192
  let vs := las.drop 131072
  let c1 := loadControl (bs.take 4096) c
  { c1 with
    regs := { c1.regs with v := regOfList 0 ((pieces 256 512 vs).map bytesRow) }
    entry := regOfList 0 ((pieces 8 256 t).map fun b => word b &&& 0x83FF03FF#64)
    mx := { c1.mx with
      fmt := regOfList 0 ((pieces 8 16 (t.drop 2048)).map fun b => word b &&& 0x1FF#64)
      store := storeWords [] 0 ((pieces 10 1024 u).map fun b => BitVec.ofNat 80 (leNat b))
      cb := Vector.ofFn fun i => regOfList 0 ((pieces 8 256 (cbs.drop (2048 * i.val))).map word)
      la := loadLatches c.mx.la las, lb := loadLatches c.mx.lb (las.drop 65536) }
    pad := Mem.store [] 0 (vs.drop 131072) }

/-- Bytes of a saved context; a CARVE that comes meanwhile keeps the scratchpad below both sizes (R54, R210). -/
def contextBytes (y : Saved) : Nat := 0x46800 + y.padLen

/-- Reads the area page by page, from offset `split` on in the emergency area at `emerg` (R212); none where a page cannot be
translated. -/
def areaRead (s : State) (ctx : BitVec 16) (base split emerg : Nat) : Nat → Nat → Option (List Byte)
  | 0, _ => some []
  | f + 1, off =>
    let page := if split ≤ off then some (s.mem.bytes (emerg + off) 4096)
      else match engXlate s ctx (base + off) 0 with
        | .error _ => none
        | .ok pa => some (s.mem.bytes pa 4096)
    match page, areaRead s ctx base split emerg f (off + 4096) with
    | some p, some r => some (p ++ r)
    | _, _ => none

/-- Where a save leaves its area: the offset, and whether SAVEL was reached; none where all of it fitted (R212). -/
def saveRun (ctx : BitVec 16) (base limit : Nat) : Nat → Nat → List Byte → State → State × Option (Nat × Bool)
  | 0, _, _, s => (s, none)
  | f + 1, off, bs, s =>
    if bs = [] then (s, none)
    else if limit ≤ off then (s, some (off, true))
    else
      match engXlate s ctx (base + off) 1 with
      | .error _ => (s, some (off, false))
      | .ok pa =>
        saveRun ctx base limit f (off + 4096) (bs.drop 4096) (s.store pa (bs.take 4096))

/-! ### The pre-empted cell -/

/-- The cell after its clear: scratchpad and latches zero, every tile FP32 +0, bound to nothing (R50). -/
def clearCell (c : Cell) : Cell :=
  { c with
    regs := Regs.reset, entry := Reg.fill 0, mx := Matrix.reset, pad := [], running := false, task := Task.idle
    bound := none, wait := .none, region := none, events := Events.none, pipe := Pipe.reset }

def withdrawMsg (c : BitVec 9) : AccMsg → AccMsg
  | .enter cell gang gmem ctx va ins off w tiles first last =>
    .enter cell gang gmem ctx va ins off (w || decide (cell = c)) tiles first last
  | m => m

/-- A waiting ACCB is withdrawn: its bundle stands at the program counter, and issues again but for the words that have issued
already; so is one whose answer has come and whose gang cannot issue (R321, log 28). -/
def withdraw (s : State) (c : BitVec 9) : State :=
  match (s.cellAt c).wait with
  | .accbDone _ _ => s.updAt c fun x => { x with wait := .none }
  | .accb _ =>
    { s.updAt c (fun x => { x with wait := .none }) with
      accord := { s.accord with msgs := s.accord.msgs.map fun l => l.map (withdrawMsg c) } }
  | _ => s

/-- The results in flight at the boundary: a handler's land first, a task's are recorded (R208, R201). -/
def settleFlight (s : State) (c : BitVec 9) : State :=
  if (s.cellAt c).sup then drainFlight 32 s c
  else (issueCycle s c).updAt c fun x => { x with pipe := { x.pipe with ticked := true } }

/-- The image that the save keeps. The open region is abandoned (R303), a polling WAIT starts over (R440), and FPREQ's code 3
stands for a request that is still to be answered. -/
def imageOf (s : State) (c : BitVec 9) (cur : Word) : Cell :=
  let x := s.cellAt c
  { x with
    lines := [], icache := [], tlb := [], region := none
    pipe := { x.pipe with polled := none, expired := false, late := [], asked := none, got := none }
    wait := match x.wait with
      | .park => .none
      | w => w
    tr := { x.tr with savecur := cur, fpstat := if c ∈ s.pkg.fastPath then 3 else x.tr.fpstat } }

def savedOn (s : State) (c : BitVec 9) (parked : Bool) (cur : Word) (split : Option (BitVec 1)) : State :=
  let x := s.cellAt c
  let y : Saved :=
    { gang := x.task.gang, gmem := x.task.gmem, image := imageOf s c cur, at_ := c, landed := [], padLen := padBytes x, parked := parked
      split := split, cell := none }
  let left := fun (x : Cell) => let z := clearCell x; { z with tr := { z.tr with savecur := cur } }
  let other := fun (l : List (BitVec 9)) => l.filter fun d => decide (d ≠ c)
  let s1 := { s.updAt c left with
    tasks := { s.tasks with saved := s.tasks.saved ++ [y], preempt := other s.tasks.preempt, saving := other s.tasks.saving }
    pkg := { s.pkg with fastPath := s.pkg.fastPath.filter fun d => decide (d ≠ c) } }
  match gangOf s1 x.task.gang with
  | none => s1
  | some g =>
    let rest := g.cells.filter fun d => decide (d ≠ c)
    setGang s1 { g with cells := if rest.any (fun d => (s1.cellAt d).running) then rest else [] }

/-- SAVECUR: SPLIT, OVF, offset (R211). -/
def saveCur (off : Nat) (ovf : Bool) : Word := BitVec.ofNat 64 (2 ^ 63 + (if ovf then 2 ^ 62 else 0) + off)

/-- The cell waits for the emergency area, its state as it was (R212). -/
def awaitArea (s : State) (c : BitVec 9) : State :=
  { s with tasks := { s.tasks with saving := s.tasks.saving.filter (fun d => decide (d ≠ c)) ++ [c] } }

/-- Saves the cell: in its area, or from the offset where it leaves the area in the die's emergency area. While that is
busy, a cell that needs it stays frozen as it is until it frees (R212). -/
def saveCell (s0 s : State) (c : BitVec 9) (parked : Bool) : State :=
  let x := s.cellAt c
  let bars := match gangOf s x.task.gang with
    | none => Reg.fill { expect := 1, arrived := [] }
    | some g => g.bars
  let bs := saveBytes s.steps bars x
  let die := BitVec.ofNat 1 (if isScout c then 1 else 0)
  match saveRun x.task.ctx x.tr.savea.toNat x.tr.savel.toNat (bs.length / 4096 + 1) 0 bs s with
  | (s1, none) => savedOn s1 c parked 0 none
  | (s1, some (off, ovf)) =>
    if s.pkg.emergBusy.rd die then awaitArea s0 c
    else
      let s2 := { s1.store (Config.emergBase (isScout c) + off) (bs.drop off) with
        pkg := { s1.pkg with emergBusy := s1.pkg.emergBusy.wr die true, emergOwner := s1.pkg.emergOwner.wr die c } }
      let s3 := savedOn s2 c parked (saveCur off ovf) (some die)
      if ovf then s3.report { cellReport s c 3 0x31 (x.pipe.pc.zeroExtend 64) 0 (saveCur off ovf) with ctx := x.task.ctx } else s3

/-- The decision lets the bundle of an answered ACCB issue; in a fused gang that takes every member's answer, and no member
saved (R56, R321). -/
def answerHolds (s : State) (c : BitVec 9) : Bool :=
  let x := s.cellAt c
  answered x && (!x.task.fused || (!(s.tasks.saved.any fun y => decide (y.gang = x.task.gang))
    && match gangOf s x.task.gang with
      | none => true
      | some g => g.cells.all fun d => !(s.cellAt d).running || answered (s.cellAt d)))

/-- The cell that is pre-empted by its dispatcher, or parked by TRET; the other members of its gang follow (R52, R208). It
comes after every other event of the boundary: a withdrawn ACCB reaches a boundary at which one may be pending (R196). An M word
that has started is run to its retirement first, the others are saved (R208). -/
def execPreemption (c : BitVec 9) (s : State) : Host.Outcome State Fault Refusal :=
  let x := s.cellAt c
  let parked := decide (x.wait = .park)
  if !x.running || (!parked && decide (c ∉ s.tasks.preempt)) || x.mx.run.isSome || x.mx.queue.any (begun s)
      || x.wait = .ending || answerHolds s c then .next s
  else
    let s1 := withdraw s c
    if (pendingEvent s1 c).isSome then .next s1
    else .next (saveCell s1 (settleFlight (l1Empty (markVictim s1 c) c) c) c parked)

/-! ### Restore (R209, R212) -/

/-- The image on its new cell, whose instruction cache holds nothing from before: the task's earlier FENCE.i and stores to code
count here as well (R186). Translations that the cell holds stay valid for it. -/
def restored (im old : Cell) : Cell :=
  { im with
    lines := old.lines, icache := [], tlb := old.tlb
    tr := { im.tr with fpstat := if im.tr.fpstat = 3 then 0 else im.tr.fpstat } }

/-- Offset at which a save left its area; a save that fitted never did. -/
def splitAt_ (y : Saved) : Nat := if y.split.isSome then fld y.image.tr.savecur 0 32 else 2 ^ 32

/-- The saved context as the area and the emergency area hold it now, with all that has reached it since; none while a page
cannot be translated (R209, R212). -/
def areaContext (s : State) (y : Saved) : Option Cell :=
  let emerg := Config.emergBase (y.split = some 1)
  (areaRead s y.image.task.ctx y.image.tr.savea.toNat (splitAt_ y) emerg (contextBytes y / 4096 + 1) 0).map fun bs =>
    y.landed.foldl Redirected.apply (loadContext (bs.take (contextBytes y)) y.image)

/-- Takes a saved task out of the list. -/
def dropSaved (s : State) (y : Saved) : State :=
  { s with tasks := { s.tasks with saved := s.tasks.saved.filter fun z => !(decide (z.gang = y.gang) && decide (z.gmem = y.gmem)) } }

/-- The task is reloaded once every redirected result has landed in its image, on a cell whose L1 starts empty: no clean byte from
before stands against what the task has acquired elsewhere (R179, R182, R189). The credit of a stage that had no other work resets
(R58). -/
def execTaskRestore (c : BitVec 9) (s : State) : Host.Outcome State Fault Refusal :=
  match s.tasks.saved.find? fun y => decide (y.cell = some c) with
  | none => .next s
  | some y =>
    if y.image.pipe.accs.any (fun a => decide (a.lands ≠ [])) then .next s
    else
      match areaContext s y with
      | none => .next s
      | some x =>
        let s1 := l1Empty (dropSaved (s.updAt c (restored x)) y) c
        let s2 := if y.image.tr.fpstat = 3 then { s1 with pkg := { s1.pkg with fastPath := s1.pkg.fastPath ++ [c] } } else s1
        .next (resetCredits s2 (isScout c))

/-- SPLIT clears. -/
def joinCell (x : Cell) : Cell := { x with tr := { x.tr with savecur := x.tr.savecur &&& 0x7FFFFFFFFFFFFFFF#64 } }

def unsplit (die : BitVec 1) (y : Saved) : Saved :=
  if y.split = some die then { y with split := none, image := joinCell y.image } else y

/-- On the die's cells as well: the one that was saved, or the one that the task has come to. -/
def joinDie (scout : Bool) (s : State) : State := (dieCells scout).foldl (fun s c => s.updAt c joinCell) s

/-- The diverted part of a save, copied to its place in the save area; none while a page of it cannot be written. -/
def copyBack (s : State) (die : BitVec 1) : Option State :=
  match s.tasks.saved.find? fun y => decide (y.split = some die) with
  | none => some s
  | some y =>
    let n := contextBytes y
    let off := splitAt_ y
    let bs := s.mem.bytes (Config.emergBase (die = 1) + off) (n - off)
    match saveRun y.image.task.ctx y.image.tr.savea.toNat (2 ^ 32) ((n - off) / 4096 + 1) off bs s with
    | (s1, none) => some s1
    | (_, some _) => none

/-- The service core copies the diverted part into the save area, once that can be written; SPLIT and BUSY clear (R212). -/
def execEmergencyAreaFree (scout : Bool) (s : State) : Host.Outcome State Fault Refusal :=
  let die := BitVec.ofNat 1 (if scout then 1 else 0)
  match copyBack s die with
  | none => .next s
  | some s1 =>
    .next (joinDie scout { s1 with
      pkg := { s1.pkg with emergBusy := s1.pkg.emergBusy.wr die false }
      tasks := { s1.tasks with saved := s1.tasks.saved.map (unsplit die) } })

/-- The service core releases a parked task: it competes for a cell again (R221). -/
def execParkRelease (uid : Nat) (s : State) : Host.Outcome State Fault Refusal :=
  .next { s with tasks := { s.tasks with saved := s.tasks.saved.map fun y =>
    if y.gang = uid then { y with parked := false } else y } }

/-- A cell that its context releases has cleared itself (R50, log 23). -/
def execCellClearDone (c : BitVec 9) (s : State) : Host.Outcome State Fault Refusal :=
  if cellIdle s c && (s.cellAt c).bound.isSome then .next ((l1Empty s c).updAt c clearCell) else .next s

/-! ### The end of a CARVE (R54) -/

/-- A saved member that waits for barrier `n` opens its phase when it issues again. -/
def carveImage (n : BitVec 4) (x : Cell) : Cell :=
  match x.wait with
  | .carveDone m sc => if m = n then { x with wait := .none, task := { x.task with openPhase := sc } } else x
  | _ => x

/-- Saved members take the split, now and at their restore (R209). -/
def carveSaved (s : State) (gang : Nat) (n : BitVec 4) (v : BitVec 12) : State :=
  { s with tasks := { s.tasks with saved := s.tasks.saved.map fun y =>
      if y.gang = gang then let z := y.redirect [.carve v]; { z with image := carveImage n z.image } else y } }

/-- A member on its cell takes the split, whether it arrived or not; one that waits for barrier `n` is released. -/
def carveMember (n : BitVec 4) (v : BitVec 12) (gang : Nat) (s : State) (c : BitVec 9) : State :=
  let x := s.cellAt c
  if x.running && decide (x.task.gang = gang) then
    let s1 := (l1Empty s c).updAt c (carveCell v)
    match x.wait with
    | .carveDone m sc => if m = n then openPhase (s1.updAt c fun y => { y with wait := .none }) c sc.toNat else s1
    | _ => s1
  else s

/-- The oldest completed CARVE phase of the gang takes effect: every member has the split (R54). -/
def execCarveRelease (gang : Nat) (s : State) : Host.Outcome State Fault Refusal :=
  match gangOf s gang with
  | none => .next s
  | some g =>
    match g.carving with
    | [] => .next s
    | (n, v) :: r =>
      .next (g.cells.foldl (carveMember n v gang)
        (carveSaved (setGang s { g with carving := r }) gang n v))

end Sys2Proof.Machine
end

