-- ==== Sys2Proof/Machine/VMove.lean ====
section
/-! DEFINITION. The V slot's words that move or combine raw bits, and the mask words: no event is counted (R130, R374, R426,
R427, R431, R433, R435, R436, R438, R439). -/

namespace Sys2Proof.Machine

/-- A word whose lanes are raw bits: `f` from lane i of va and of b, or the immediate. -/
def vecBits (legal : Bool) (f : Nat → Nat → Nat → Nat) (h : Header) (o : VR) (s : State) :
    Host.Outcome State Fault Refusal :=
  vecWord h (slotV h && legal) (vrRows o) 2 s fun c =>
    let ty := o.ty.toNat
    rowResult ty (c.rdK o.k) o.vd fun i => (f ty (lane (widthOf ty) (c.rdV o.va) i) (bLane ty o.bc (c.rdV o.vb) i), 0)

def vecBitsImm (legal : Bool) (f : Nat → Nat → Nat → Nat) (h : Header) (o : VI) (s : State) :
    Host.Outcome State Fault Refusal :=
  vecWord h (slotV h && legal) (viRows o) 2 s fun c =>
    let ty := o.ty.toNat
    rowResult ty (c.rdK o.k) o.vd fun i => (f ty (lane (widthOf ty) (c.rdV o.va) i) (immLane ty o.imm), 0)

def lAnd (_ a b : Nat) : Nat := a &&& b
def lOr (_ a b : Nat) : Nat := a ||| b
def lXor (_ a b : Nat) : Nat := a ^^^ b
/-- The amount is b mod w; VSHL fills with zeros (R439). -/
def lShl (ty a b : Nat) : Nat := (a <<< (b % widthOf ty)) % 2 ^ widthOf ty
/-- Arithmetic for signed types, logical for unsigned ones (R439). -/
def lShr (ty a b : Nat) : Nat := wrap (widthOf ty) (laneInt ty a / (2 ^ (b % widthOf ty) : Nat))

def execVand (h : Header) (o : VR) (s : State) : Host.Outcome State Fault Refusal := vecBits (vrBits o) lAnd h o s
def execVandImm (h : Header) (o : VI) (s : State) : Host.Outcome State Fault Refusal := vecBitsImm (viPlain o) lAnd h o s
def execVor (h : Header) (o : VR) (s : State) : Host.Outcome State Fault Refusal := vecBits (vrBits o) lOr h o s
def execVorImm (h : Header) (o : VI) (s : State) : Host.Outcome State Fault Refusal := vecBitsImm (viPlain o) lOr h o s
def execVxor (h : Header) (o : VR) (s : State) : Host.Outcome State Fault Refusal := vecBits (vrBits o) lXor h o s
def execVxorImm (h : Header) (o : VI) (s : State) : Host.Outcome State Fault Refusal := vecBitsImm (viPlain o) lXor h o s
def execVshl (h : Header) (o : VR) (s : State) : Host.Outcome State Fault Refusal := vecBits (vrShift o) lShl h o s
def execVshlImm (h : Header) (o : VI) (s : State) : Host.Outcome State Fault Refusal := vecBitsImm (viShift o) lShl h o s
def execVshr (h : Header) (o : VR) (s : State) : Host.Outcome State Fault Refusal := vecBits (vrShift o) lShr h o s
def execVshrImm (h : Header) (o : VI) (s : State) : Host.Outcome State Fault Refusal := vecBitsImm (viShift o) lShr h o s

/-- Every lane is written: va where the mask bit is 1, else b (R438). -/
def execVsel (h : Header) (o : VR) (s : State) : Host.Outcome State Fault Refusal :=
  vecWord h (slotV h && vrSel o) (vrRows o) 2 s fun c =>
    let ty := o.ty.toNat
    rowResult ty (BitVec.allOnes 256) o.vd fun i =>
      (if bit (c.rdK o.k) i then lane (widthOf ty) (c.rdV o.va) i else bLane ty o.bc (c.rdV o.vb) i, 0)

def execVmov (h : Header) (o : VR) (s : State) : Host.Outcome State Fault Refusal :=
  vecWord h (slotV h && vrMov o) [(o.vd, true), (o.va, false)] 2 s fun c =>
    ([.row o.vd (c.rdV o.va) (maskRow o.ty.toNat (c.rdK o.k))], 0)

/-- Lane i := va lane (vb lane i mod the lane count) (R436). -/
def execVperm (h : Header) (o : VR) (s : State) : Host.Outcome State Fault Refusal :=
  vecWord h (slotV h && vrPerm o) (vrRows o) 2 s fun c =>
    let ty := o.ty.toNat
    let w := widthOf ty
    rowResult ty (c.rdK o.k) o.vd fun i => (lane w (c.rdV o.va) (lane w (c.rdV o.vb) i % lanesOf ty), 0)

def execVbcast (h : Header) (o : VX) (s : State) : Host.Outcome State Fault Refusal :=
  vecWord h (slotV h && vxBcast o) [(o.v, true)] 2 s fun c =>
    let ty := o.ty.toNat
    rowResult ty (c.rdK o.k) o.v fun _ => ((c.rdS o.s).toNat % 2 ^ widthOf ty, 0)

def execViota (h : Header) (o : VX) (s : State) : Host.Outcome State Fault Refusal :=
  vecWord h (slotV h && vxIota o) [(o.v, true)] 2 s fun c =>
    let ty := o.ty.toNat
    rowResult ty (c.rdK o.k) o.v fun i => (((c.rdS o.s).toNat + i) % 2 ^ widthOf ty, 0)

/-- Sign-extended for signed integer types, else zero-extended (R431). -/
def execVext (h : Header) (o : VX) (s : State) : Host.Outcome State Fault Refusal :=
  vecWord h (slotV h && vxLane o) [(o.v, false)] 3 s fun c =>
    let ty := o.ty.toNat
    ([c.dstS o.s (BitVec.ofInt 64 (laneInt ty (lane (widthOf ty) (c.rdV o.v) o.lane.toNat)))], 0)

/-- Writes one lane; every other lane keeps its contents (R431). -/
def execVins (h : Header) (o : VX) (s : State) : Host.Outcome State Fault Refusal :=
  vecWord h (slotV h && vxLane o) [(o.v, true)] 3 s fun c =>
    let w := widthOf o.ty.toNat
    let at_ := w * o.lane.toNat
    ([.row o.v (BitVec.ofNat 2048 (((c.rdS o.s).toNat % 2 ^ w) <<< at_)) (BitVec.ofNat 2048 ((2 ^ w - 1) <<< at_))], 0)

/-! ### Mask words (R374) -/

def maskWord (legal : Bool) (f : BitVec 256 → BitVec 256 → BitVec 256) (h : Header) (o : KR) (s : State) :
    Host.Outcome State Fault Refusal :=
  issueResults h (slotV h && legal) false s (fun c => [.k o.kd (f (c.rdK o.ka) (c.rdK o.kb))]) 1 0

def execKand (h : Header) (o : KR) (s : State) : Host.Outcome State Fault Refusal :=
  maskWord (krBin o) (fun a b => a &&& b) h o s
def execKor (h : Header) (o : KR) (s : State) : Host.Outcome State Fault Refusal :=
  maskWord (krBin o) (fun a b => a ||| b) h o s
def execKxor (h : Header) (o : KR) (s : State) : Host.Outcome State Fault Refusal :=
  maskWord (krBin o) (fun a b => a ^^^ b) h o s
def execKmov (h : Header) (o : KR) (s : State) : Host.Outcome State Fault Refusal :=
  maskWord (krMov o) (fun a _ => a) h o s

/-- Count of 1 bits of ka, 0 to 256, into a scalar (R374). -/
def execKpopc (h : Header) (o : KR) (s : State) : Host.Outcome State Fault Refusal :=
  issueResults h (slotV h && krPopc o) false s
    (fun c => [c.dstS o.s (BitVec.ofNat 64 ((List.range 256).filter fun i => bit (c.rdK o.ka) i).length)]) 1 0

end Sys2Proof.Machine
end

