-- ==== Sys2Proof/Machine/Dispatch.lean ====
section
/-! DEFINITION. The meaning of every instruction, one arm per constructor. -/

namespace Sys2Proof.Machine

def exec (i : Instr) (s : State) : Host.Outcome State Fault Refusal :=
  match i with
  | .add h o => Sys2Proof.Machine.execAdd h o s
  | .addImm h o => Sys2Proof.Machine.execAddImm h o s
  | .sub h o => Sys2Proof.Machine.execSub h o s
  | .subImm h o => Sys2Proof.Machine.execSubImm h o s
  | .mul h o => Sys2Proof.Machine.execMul h o s
  | .mulImm h o => Sys2Proof.Machine.execMulImm h o s
  | .mulh h o => Sys2Proof.Machine.execMulh h o s
  | .mulhImm h o => Sys2Proof.Machine.execMulhImm h o s
  | .div h o => Sys2Proof.Machine.execDiv h o s
  | .divImm h o => Sys2Proof.Machine.execDivImm h o s
  | .rem h o => Sys2Proof.Machine.execRem h o s
  | .remImm h o => Sys2Proof.Machine.execRemImm h o s
  | .and h o => Sys2Proof.Machine.execAnd h o s
  | .andImm h o => Sys2Proof.Machine.execAndImm h o s
  | .or h o => Sys2Proof.Machine.execOr h o s
  | .orImm h o => Sys2Proof.Machine.execOrImm h o s
  | .xor h o => Sys2Proof.Machine.execXor h o s
  | .xorImm h o => Sys2Proof.Machine.execXorImm h o s
  | .shl h o => Sys2Proof.Machine.execShl h o s
  | .shlImm h o => Sys2Proof.Machine.execShlImm h o s
  | .shr h o => Sys2Proof.Machine.execShr h o s
  | .shrImm h o => Sys2Proof.Machine.execShrImm h o s
  | .sra h o => Sys2Proof.Machine.execSra h o s
  | .min h o => Sys2Proof.Machine.execMin h o s
  | .max h o => Sys2Proof.Machine.execMax h o s
  | .cmp h o => Sys2Proof.Machine.execCmp h o s
  | .sel h o => Sys2Proof.Machine.execSel h o s
  | .clz h o => Sys2Proof.Machine.execClz h o s
  | .popc h o => Sys2Proof.Machine.execPopc h o s
  | .brev h o => Sys2Proof.Machine.execBrev h o s
  | .ext h o => Sys2Proof.Machine.execExt h o s
  | .bfx h o => Sys2Proof.Machine.execBfx h o s
  | .bfi h o => Sys2Proof.Machine.execBfi h o s
  | .li h o => Sys2Proof.Machine.execLi h o s
  | .lih h o => Sys2Proof.Machine.execLih h o s
  | .br h o => Sys2Proof.Machine.execBr h o s
  | .brc h o => Sys2Proof.Machine.execBrc h o s
  | .bri h o => Sys2Proof.Machine.execBri h o s
  | .call h o => Sys2Proof.Machine.execCall h o s
  | .calli h o => Sys2Proof.Machine.execCalli h o s
  | .ret h o => Sys2Proof.Machine.execRet h o s
  | .loop h o => Sys2Proof.Machine.execLoop h o s
  | .loopx h o => Sys2Proof.Machine.execLoopx h o s
  | .exit h o => Sys2Proof.Machine.execExit h o s
  | .spawn h o => Sys2Proof.Machine.execSpawn h o s
  | .spawng h o => Sys2Proof.Machine.execSpawng h o s
  | .bar h o => Sys2Proof.Machine.execBar h o s
  | .bara h o => Sys2Proof.Machine.execBara h o s
  | .barcfg h o => Sys2Proof.Machine.execBarcfg h o s
  | .wait h o => Sys2Proof.Machine.execWait h o s
  | .phase h o => Sys2Proof.Machine.execPhase h o s
  | .fence h o => Sys2Proof.Machine.execFence h o s
  | .xfence h o => Sys2Proof.Machine.execXfence h o s
  | .carve h o => Sys2Proof.Machine.execCarve h o s
  | .decpl h o => Sys2Proof.Machine.execDecpl h o s
  | .rejoin h o => Sys2Proof.Machine.execRejoin h o s
  | .crrd h o => Sys2Proof.Machine.execCrrd h o s
  | .crwr h o => Sys2Proof.Machine.execCrwr h o s
  | .crset h o => Sys2Proof.Machine.execCrset h o s
  | .crclr h o => Sys2Proof.Machine.execCrclr h o s
  | .trap h o => Sys2Proof.Machine.execTrap h o s
  | .tret h o => Sys2Proof.Machine.execTret h o s
  | .brk h o => Sys2Proof.Machine.execBrk h o s
  | .tlbi h o => Sys2Proof.Machine.execTlbi h o s
  | .rdtime h o => Sys2Proof.Machine.execRdtime h o s
  | .accb h o => Sys2Proof.Machine.execAccb h o s
  | .acce h o => Sys2Proof.Machine.execAcce h o s
  | .accinv h o => Sys2Proof.Machine.execAccinv h o s
  | .nop h => Sys2Proof.Machine.execNop h s
  | .ld h o => Sys2Proof.Machine.execLd h o s
  | .st h o => Sys2Proof.Machine.execSt h o s
  | .ldv h o => Sys2Proof.Machine.execLdv h o s
  | .stv h o => Sys2Proof.Machine.execStv h o s
  | .amo h o => Sys2Proof.Machine.execAmo h o s
  | .cas h o => Sys2Proof.Machine.execCas h o s
  | .pref h o => Sys2Proof.Machine.execPref h o s
  | .amov h o => Sys2Proof.Machine.execAmov h o s
  | .aget h o => Sys2Proof.Machine.execAget h o s
  | .aadd h o => Sys2Proof.Machine.execAadd h o s
  | .amode h o => Sys2Proof.Machine.execAmode h o s
  | .aupd h o => Sys2Proof.Machine.execAupd h o s
  | .lea h o => Sys2Proof.Machine.execLea h o s
  | .hld h o => Sys2Proof.Machine.execHld h o s
  | .hst h o => Sys2Proof.Machine.execHst h o s
  | .hset h o => Sys2Proof.Machine.execHset h o s
  | .hget h o => Sys2Proof.Machine.execHget h o s
  | .vadd h o => Sys2Proof.Machine.execVadd h o s
  | .vaddImm h o => Sys2Proof.Machine.execVaddImm h o s
  | .vsub h o => Sys2Proof.Machine.execVsub h o s
  | .vsubImm h o => Sys2Proof.Machine.execVsubImm h o s
  | .vmul h o => Sys2Proof.Machine.execVmul h o s
  | .vmulImm h o => Sys2Proof.Machine.execVmulImm h o s
  | .vfma h o => Sys2Proof.Machine.execVfma h o s
  | .vfmaImm h o => Sys2Proof.Machine.execVfmaImm h o s
  | .vmin h o => Sys2Proof.Machine.execVmin h o s
  | .vminImm h o => Sys2Proof.Machine.execVminImm h o s
  | .vmax h o => Sys2Proof.Machine.execVmax h o s
  | .vmaxImm h o => Sys2Proof.Machine.execVmaxImm h o s
  | .vrcp h o => Sys2Proof.Machine.execVrcp h o s
  | .vrsq h o => Sys2Proof.Machine.execVrsq h o s
  | .vexp2 h o => Sys2Proof.Machine.execVexp2 h o s
  | .vlog2 h o => Sys2Proof.Machine.execVlog2 h o s
  | .vtanh h o => Sys2Proof.Machine.execVtanh h o s
  | .vcvt h o => Sys2Proof.Machine.execVcvt h o s
  | .vcmp h o => Sys2Proof.Machine.execVcmp h o s
  | .vsel h o => Sys2Proof.Machine.execVsel h o s
  | .vand h o => Sys2Proof.Machine.execVand h o s
  | .vandImm h o => Sys2Proof.Machine.execVandImm h o s
  | .vor h o => Sys2Proof.Machine.execVor h o s
  | .vorImm h o => Sys2Proof.Machine.execVorImm h o s
  | .vxor h o => Sys2Proof.Machine.execVxor h o s
  | .vxorImm h o => Sys2Proof.Machine.execVxorImm h o s
  | .vshl h o => Sys2Proof.Machine.execVshl h o s
  | .vshlImm h o => Sys2Proof.Machine.execVshlImm h o s
  | .vshr h o => Sys2Proof.Machine.execVshr h o s
  | .vshrImm h o => Sys2Proof.Machine.execVshrImm h o s
  | .vmov h o => Sys2Proof.Machine.execVmov h o s
  | .vbcast h o => Sys2Proof.Machine.execVbcast h o s
  | .vext h o => Sys2Proof.Machine.execVext h o s
  | .vins h o => Sys2Proof.Machine.execVins h o s
  | .vperm h o => Sys2Proof.Machine.execVperm h o s
  | .viota h o => Sys2Proof.Machine.execViota h o s
  | .vred h o => Sys2Proof.Machine.execVred h o s
  | .kand h o => Sys2Proof.Machine.execKand h o s
  | .kor h o => Sys2Proof.Machine.execKor h o s
  | .kxor h o => Sys2Proof.Machine.execKxor h o s
  | .kmov h o => Sys2Proof.Machine.execKmov h o s
  | .kpopc h o => Sys2Proof.Machine.execKpopc h o s
  | .mla h o => Sys2Proof.Machine.execMla h o s
  | .mlb h o => Sys2Proof.Machine.execMlb h o s
  | .mma h o => Sys2Proof.Machine.execMma h o s
  | .mzero h o => Sys2Proof.Machine.execMzero h o s
  | .mcfg h o => Sys2Proof.Machine.execMcfg h o s
  | .mstz h o => Sys2Proof.Machine.execMstz h o s
  | .mldz h o => Sys2Proof.Machine.execMldz h o s
  | .mcall h o => Sys2Proof.Machine.execMcall h o s
  | .msetq h o => Sys2Proof.Machine.execMsetq h o s
  | .mfmt h o => Sys2Proof.Machine.execMfmt h o s
  | .mcode h o => Sys2Proof.Machine.execMcode h o s
  | .mstore h o => Sys2Proof.Machine.execMstore h o s
  | .mloop h o => Sys2Proof.Machine.execMloop h o s
  | .mend h o => Sys2Proof.Machine.execMend h o s
  | .cpy h o => Sys2Proof.Machine.execCpy h o s
  | .chsend h o => Sys2Proof.Machine.execChsend h o s
  | .chrecv h o => Sys2Proof.Machine.execChrecv h o s
  | .chred h o => Sys2Proof.Machine.execChred h o s
  | .qprop h o => Sys2Proof.Machine.execQprop h o s
  | .qver h o => Sys2Proof.Machine.execQver h o s
  | .qres h o => Sys2Proof.Machine.execQres h o s
  | .bset h o => Sys2Proof.Machine.execBset h o s
  | .bget h o => Sys2Proof.Machine.execBget h o s
  | .sieve h o => Sys2Proof.Machine.execSieve h o s
  | .tokz h o => Sys2Proof.Machine.execTokz h o s
  | .detok h o => Sys2Proof.Machine.execDetok h o s
  | .gadv h o => Sys2Proof.Machine.execGadv h o s
  | .gmask h o => Sys2Proof.Machine.execGmask h o s
  | .sltick h o => Sys2Proof.Machine.execSltick h o s
  | .slpin h o => Sys2Proof.Machine.execSlpin h o s
  | .slget h o => Sys2Proof.Machine.execSlget h o s
  | .dbar h o => Sys2Proof.Machine.execDbar h o s
  | .engineFault c => Sys2Proof.Machine.execEngineFault c s
  | .grammarOverflow c => Sys2Proof.Machine.execGrammarOverflow c s
  | .microFault c => Sys2Proof.Machine.execMicroFault c s
  | .numericLimit c => Sys2Proof.Machine.execNumericLimit c s
  | .machineCheck c access pa => Sys2Proof.Machine.execMachineCheck c access pa s
  | .stepTrap c => Sys2Proof.Machine.execStepTrap c s
  | .softwareTrapTaken c => Sys2Proof.Machine.execSoftwareTrapTaken c s
  | .variableResultLand c id => Sys2Proof.Machine.execVariableResultLand c id s
  | .engineCommandComplete id => Sys2Proof.Machine.execEngineCommandComplete id s
  | .translationWalkDone c va => Sys2Proof.Machine.execTranslationWalkDone c va s
  | .latchTransfer c => Sys2Proof.Machine.execLatchTransfer c s
  | .mmaStart c => Sys2Proof.Machine.execMmaStart c s
  | .mmaRetire c => Sys2Proof.Machine.execMmaRetire c s
  | .tilePipeStart c => Sys2Proof.Machine.execTilePipeStart c s
  | .mcallRoutineRun c => Sys2Proof.Machine.execMcallRoutineRun c s
  | .dispatchDecision scout => Sys2Proof.Machine.execDispatchDecision scout s
  | .preemption c => Sys2Proof.Machine.execPreemption c s
  | .emergencyAreaFree scout => Sys2Proof.Machine.execEmergencyAreaFree scout s
  | .taskRestore c => Sys2Proof.Machine.execTaskRestore c s
  | .parkRelease uid => Sys2Proof.Machine.execParkRelease uid s
  | .cellClearDone c => Sys2Proof.Machine.execCellClearDone c s
  | .carveRelease gang => Sys2Proof.Machine.execCarveRelease gang s
  | .spawnUnitEnqueue c => Sys2Proof.Machine.execSpawnUnitEnqueue c s
  | .seedEnqueue launch => Sys2Proof.Machine.execSeedEnqueue launch s
  | .launchEntryRead => Sys2Proof.Machine.execLaunchEntryRead s
  | .launchAdmit => Sys2Proof.Machine.execLaunchAdmit s
  | .launchComplete launch => Sys2Proof.Machine.execLaunchComplete launch s
  | .lqtailWrite q v => Sys2Proof.Machine.execLqtailWrite q v s
  | .lqcfgWrite q v => Sys2Proof.Machine.execLqcfgWrite q v s
  | .fclkWrite v => Sys2Proof.Machine.execFclkWrite v s
  | .clockGlideEnd f => Sys2Proof.Machine.execClockGlideEnd f s
  | .registerWrite off v => Sys2Proof.Machine.execRegisterWrite off v s
  | .throttleWindow f cur temp => Sys2Proof.Machine.execThrottleWindow f cur temp s
  | .fimeasClrpk f => Sys2Proof.Machine.execFimeasClrpk f s
  | .packageReset firmware frame0 scout => Sys2Proof.Machine.execPackageReset firmware frame0 scout s
  | .frameRailOk f => Sys2Proof.Machine.execFrameRailOk f s
  | .frameBringupTimeout f => Sys2Proof.Machine.execFrameBringupTimeout f s
  | .linkPortDown p => Sys2Proof.Machine.execLinkPortDown p s
  | .linkPortUp p => Sys2Proof.Machine.execLinkPortUp p s
  | .hostWriteAccept src pa bytes => Sys2Proof.Machine.execHostWriteAccept src pa bytes s
  | .hostWritePerform i0 => Sys2Proof.Machine.execHostWritePerform i0 s
  | .hostRead pa n => Sys2Proof.Machine.execHostRead pa n s
  | .reportRecord => Sys2Proof.Machine.execReportRecord s
  | .nxWindowStart c => Sys2Proof.Machine.execNxWindowStart c s
  | .efctlResume c => Sys2Proof.Machine.execEfctlResume c s
  | .efctlAbandon c => Sys2Proof.Machine.execEfctlAbandon c s
  | .fpreqWrite c v => Sys2Proof.Machine.execFpreqWrite c v s
  | .fastPathMapDone c => Sys2Proof.Machine.execFastPathMapDone c s
  | .contextCreate => Sys2Proof.Machine.execContextCreate s
  | .contextDestroy => Sys2Proof.Machine.execContextDestroy s
  | .contextInvalidate whole => Sys2Proof.Machine.execContextInvalidate whole s
  | .contextSetPool => Sys2Proof.Machine.execContextSetPool s
  | .contextBadCommand code => Sys2Proof.Machine.execContextBadCommand code s
  | .quiesceAdvance => Sys2Proof.Machine.execQuiesceAdvance s
  | .quarantineRelease => Sys2Proof.Machine.execQuarantineRelease s
  | .broodSnapshot => Sys2Proof.Machine.execBroodSnapshot s
  | .roundDraftEnqueue slot => Sys2Proof.Machine.execRoundDraftEnqueue slot s
  | .quorumDecision slot => Sys2Proof.Machine.execQuorumDecision slot s
  | .sieveList id => Sys2Proof.Machine.execSieveList id s
  | .outputDrain slot => Sys2Proof.Machine.execOutputDrain slot s
  | .textInstallVocabulary idx => Sys2Proof.Machine.execTextInstallVocabulary idx s
  | .textInstallGrammar id => Sys2Proof.Machine.execTextInstallGrammar id s
  | .textRemoveVocabulary idx => Sys2Proof.Machine.execTextRemoveVocabulary idx s
  | .textRemoveGrammar id => Sys2Proof.Machine.execTextRemoveGrammar id s
  | .channelInstall first count => Sys2Proof.Machine.execChannelInstall first count s
  | .channelRemove first count => Sys2Proof.Machine.execChannelRemove first count s
  | .channelMessageArrival ch m => Sys2Proof.Machine.execChannelMessageArrival ch m s
  | .reduceResultArrival ch res => Sys2Proof.Machine.execReduceResultArrival ch res s
  | .domainFlitReceive hdr ue tagOk => Sys2Proof.Machine.execDomainFlitReceive hdr ue tagOk s
  | .pderrWindow => Sys2Proof.Machine.execPderrWindow s
  | .domainForm reports secret => Sys2Proof.Machine.execDomainForm reports secret s
  | .domainLeave => Sys2Proof.Machine.execDomainLeave s
  | .domainRevoke => Sys2Proof.Machine.execDomainRevoke s
  | .tamperSensor source => Sys2Proof.Machine.execTamperSensor source s
  | .rekeyBarrierComplete reports => Sys2Proof.Machine.execRekeyBarrierComplete reports s
  | .rekeyDrainTimeout reports => Sys2Proof.Machine.execRekeyDrainTimeout reports s
  | .mediaRingTailWrite v => Sys2Proof.Machine.execMediaRingTailWrite v s
  | .mediaUeMessage ch src tag bytes => Sys2Proof.Machine.execMediaUeMessage ch src tag bytes s
  | .mediaRecordArrival ring => Sys2Proof.Machine.execMediaRecordArrival ring s
  | .tick slot => Sys2Proof.Machine.execTick slot s
  | .timeLockLoss => Sys2Proof.Machine.execTimeLockLoss s
  | .timeRelock offset forward => Sys2Proof.Machine.execTimeRelock offset forward s
  | .accordDecision engine => Sys2Proof.Machine.execAccordDecision engine s
  | .accordSample engine => Sys2Proof.Machine.execAccordSample engine s
  | .accordEpoch engine key => Sys2Proof.Machine.execAccordEpoch engine key s
  | .accordDescriptorWrite ctx va => Sys2Proof.Machine.execAccordDescriptorWrite ctx va s
  | .cellAccessPerformed c id => Sys2Proof.Machine.execCellAccessPerformed c id s
  | .l1LineEviction c line code => Sys2Proof.Machine.execL1LineEviction c line code s
  | .waitTimeout c => Sys2Proof.Machine.execWaitTimeout c s
  | .mdcfgWrite v => Sys2Proof.Machine.execMdcfgWrite v s
  | .peerInboundAccess at_ op size v => Sys2Proof.Machine.execPeerInboundAccess at_ op size v s
  | .rescalePhase1Result ch res => Sys2Proof.Machine.execRescalePhase1Result ch res s

end Sys2Proof.Machine
end

