-- ==== Sys2Proof/Machine/Bundle.lean ====
section
/-! DEFINITION. The turn of a cell: boundary events, forming a bundle, its PD and its waits, its words, loops and taken
words, lock-step gangs (R53, R56, R70 to R76, R84, R196 to R201, R316, R379, R380). -/

namespace Sys2Proof.Machine

/-! ### Forming a bundle -/

/-- The decoded word and the fields that a word has whatever it decodes to: PD, AV and AT, CMK (R104). -/
structure Formed where
  instr : Option Instr
  slot : Nat
  pd : Nat
  tag : Option (BitVec 3)
  cmk : BitVec 8
  deriving DecidableEq, Repr

def formWord (w : BitVec 80) : Formed :=
  let h := Header.parse w
  { instr := (decode w).toOption, slot := wordSlot w, pd := h.pd.toNat, tag := tagOf h, cmk := h.cmk }

def bundlePd (fs : List Formed) : Nat := fs.foldl (fun n f => max n f.pd) 0

/-- A tag that the bundle consumes or allocates is pending (R75). -/
def bundleWaits (c : Cell) (fs : List Formed) : Bool :=
  fs.any fun f => decide (c.pipe.pend &&& f.cmk ≠ 0) || match f.tag with
    | none => false
    | some t => bit c.pipe.pend t.toNat

/-- `n` issue cycles pass. -/
def ticks : Nat → State → BitVec 9 → State
  | 0, s, _ => s
  | n + 1, s, c => ticks n (s.tickAt c) c

def updPipe (s : State) (c : BitVec 9) (f : Pipe → Pipe) : State := s.updAt c fun x => { x with pipe := f x.pipe }

/-- The bundle spends its PD once (R75). -/
def spendPd (s : State) (c : BitVec 9) (n : Nat) : State :=
  updPipe (ticks (if (s.cellAt c).pipe.pdSpent then 0 else n) s c) c fun p => { p with pdSpent := true }

/-! ### The words of a bundle -/

/-- What an attempt to issue comes to. `held` is the machine with its time advanced and the bundle not issued. -/
inductive Attempt where
  | ready (held : State) (fs : List Formed)
  | event (s : State)
  | trapped (s : State)
  | frozen (held : State)
  | idle (held : State)
  | stop (o : Host.Outcome State Fault Refusal)

/-- The cause of the trap that a word took in `s'`, coming from `s`: a double trap only reports it (R200). -/
def takenCause (s s' : State) : BitVec 8 :=
  if s.cell.sup then ((s'.pkg.reports.getLast?).map (·.cause)).getD 0 else (s'.cell.tr.cause).extractLsb' 0 8

/-- A word allocates a tag that an earlier word of the bundle allocates (R79). -/
def sameTag (before : List Formed) (f : Formed) : Bool :=
  f.tag.isSome && before.any fun g => decide (g.tag = f.tag)

/-- What the words checked so far came to: one cannot issue, one asks for an idle cycle, or one has polled and left this
machine. -/
structure Checked where
  frozen : Bool
  idle : Bool
  polled : Option State

/-- What a bundle without a trap comes to: a word that polls does so only where nothing else holds the bundle. -/
def Checked.settle (k : Checked) (held : State) (all : List Formed) : Attempt :=
  if k.idle then .idle held
  else if k.frozen then .frozen held
  else
    match k.polled with
    | some t => .frozen t
    | none => .ready held all

/-- Checks the words against the machine before the bundle, in slot order: the first trap stands; else a word that cannot
issue yet holds the bundle (R72, R73). -/
def checkWords (held : State) (all : List Formed) : List Formed → List Formed → Checked → Attempt
  | _, [], k => k.settle held all
  | before, f :: r, k =>
    let trap := fun (x : BitVec 8) =>
      Attempt.trapped (takeTrap held held.cur (trapOf x (BitVec.ofNat 64 f.slot)) held.cell.pipe.pc true)
    match f.instr with
    | none => trap cIllegalOp
    | some i =>
      match exec i held with
      | .next s' =>
        let legal := s'.cell.verdict ≠ .trapped || decide (takenCause held s' ≠ cIllegalOp ∧ takenCause held s' ≠ cPrivilege)
        if sameTag before f && legal then trap cIllegalTag
        else
          match s'.cell.verdict with
          | .trapped => .trapped s'
          | .issued => checkWords held all (before ++ [f]) r k
          | .frozen => checkWords held all (before ++ [f]) r { k with frozen := true }
          | .polled => checkWords held all (before ++ [f]) r { k with polled := some s' }
          | .idle => checkWords held all (before ++ [f]) r { k with idle := true }
      | o => .stop o

def isAccb (f : Formed) : Bool :=
  match f.instr with
  | some (.accb _ _) => true
  | _ => false

/-- The words of the bundle that have still to issue: where its ACCB was withdrawn, the others have issued (R321). -/
def toIssue (c : Cell) (fs : List Formed) : List Formed :=
  if !c.sup && decide (c.pipe.rest = some c.pipe.pc) && fs.any isAccb then fs.filter isAccb else fs

/-- Fetch, form, PD and waits of the bundle at the program counter of `held.cur`, after one issue cycle (R71 to R75). A fault in
fetching a later word of the bundle is reported before what an earlier word of it breaks in the bundle's form: no rule ranks the
two, and this is the model's choice (log 34). -/
def attempt (s : State) (c : BitVec 9) : Attempt :=
  let s1 := { drainM (issueCycle s c) c with cur := c }
  match pendingEvent s1 c with
  | some b => .event (takeNow s1 c b)
  | none =>
    let pc := (s1.cellAt c).pipe.pc
    match bundleWords c (2 ^ 32) s1 pc with
    | .error t => if t.cause = cWait then .frozen (askLine s1 c t) else .trapped (takeTrap s1 c t pc (s1.cellAt c).pipe.pdSpent)
    | .ok (ws, s2) =>
      let fs := toIssue (s2.cellAt c) (ws.map formWord)
      let s3 := spendPd s2 c (bundlePd fs)
      match pendingEvent s3 c with
      | some b => .event (takeNow s3 c b)
      | none =>
        if bundleWaits (s3.cellAt c) fs then .frozen s3
        else
          match bundleForm ws pc with
          | some t => .trapped (takeTrap s3 c t pc true)
          | none =>
            checkWords (updPipe s3 c fun p => { p with seq := pc + BitVec.ofNat 32 ws.length }) fs [] fs
              { frozen := false, idle := false, polled := none }

/-- Issues the words in slot order. The tags they allocate do not hold the bundle's other words (R75). -/
def issueWords : State → List Formed → BitVec 8 → BitVec 8 → Option State
  | s, [], pend, alloc => some (updPipe s s.cur fun p => { p with pend := pend ||| alloc })
  | s, f :: r, pend, alloc =>
    match f.instr with
    | none => none
    | some i =>
      match exec i (updPipe s s.cur fun p => { p with pend := pend }) with
      | .next s' =>
        if s'.cell.verdict = .issued then issueWords s' r pend (alloc ||| (s'.cell.pipe.pend &&& ~~~pend)) else none
      | _ => none

def isTret (f : Formed) : Bool :=
  match f.instr with
  | some (.tret _ _) => true
  | _ => false

/-- A TRET's bundle: its other words issue in the handler, one issue cycle passes over their results, and the flight
record counts again beside what is still in flight (R201). -/
def issueReturn (s : State) (fs : List Formed) : Option State :=
  match issueWords s (fs.filter fun f => !isTret f) s.cell.pipe.pend 0 with
  | none => none
  | some s1 =>
    let s2 := s1.tickAt s1.cur
    let left := s2.cell.pipe.inflight
    match issueWords (updPipe s2 s2.cur fun p => { p with inflight := [] }) (fs.filter isTret) s2.cell.pipe.pend 0 with
    | none => none
    | some s3 => some (updPipe s3 s3.cur fun p => { p with inflight := p.inflight ++ left })

def isExit (f : Formed) : Bool :=
  match f.instr with
  | some (.exit _ _) => true
  | _ => false

/-- An EXIT's bundle: its other words issue, and the task ends with what they and the words before them have left in flight (R50,
R76, R360). -/
def issueExit (s : State) (fs : List Formed) : Option State :=
  (issueWords s (fs.filter fun f => !isExit f) s.cell.pipe.pend 0).map fun t => (exitTask t t.cur).mark t.cur .issued

/-- All words of the bundle, where each can issue. A cell whose task ended keeps nothing in flight. -/
def issueBundle (s : State) (fs : List Formed) : Option State :=
  (if fs.any isTret then issueReturn s fs
    else if fs.any isExit then issueExit s fs
    else issueWords s fs s.cell.pipe.pend 0).map fun s1 =>
    if s1.cell.running then s1
    else updPipe s1 s1.cur fun p => { p with inflight := [], flight := [], accs := [], pend := 0, engTag := 0, redirect := none }

/-! ### After a bundle (R76, R316, R380) -/

/-- A taken word in an end bundle ends that loop and the loops nested in it (R316). -/
def leaveLoops (w : BitVec 32) (p : Pipe) : Pipe :=
  let atEnd := fun (l : Option LoopSt) => match l with
    | none => false
    | some x => decide (x.e = w)
  if atEnd p.outer then { p with inner := none, outer := none }
  else if atEnd p.inner then { p with inner := none }
  else p

/-- One loop at its end bundle: back to B, or over. -/
def loopBack (w : BitVec 32) (l : Option LoopSt) : Option (BitVec 32) × Option LoopSt :=
  match l with
  | none => (none, none)
  | some x =>
    if x.e ≠ w then (none, some x)
    else if 1 < x.left.toNat then (some x.b, some { x with left := x.left - 1, iter := x.iter + 1 })
    else (none, none)

/-- Loops that end with the bundle, inner first (R380). -/
def backEdges (w : BitVec 32) (p : Pipe) : Pipe :=
  let i := loopBack w p.inner
  match i.1 with
  | some b => { p with inner := i.2, pc := b }
  | none =>
    let o := loopBack w p.outer
    match o.1 with
    | some b => { p with inner := i.2, outer := o.2, pc := b }
    | none => { p with inner := i.2, outer := o.2, pc := p.seq }

/-- The program counter after the bundle at `w`, and the two bubbles of a taken word. -/
def nextBundle (s : State) (c : BitVec 9) (user : Bool) (w : BitVec 32) : State :=
  match (s.cellAt c).pipe.redirect with
  | some t =>
    ticks 2 (updPipe s c fun p => { (if user then leaveLoops w p else p) with pc := t, seq := t, redirect := none }) c
  | none => updPipe s c fun p => if user then backEdges w p else { p with pc := p.seq }

/-- The target of the ACCB whose decision the cell awaits. -/
def accbTarget (c : Cell) : Option (BitVec 32) :=
  match c.wait with
  | .accb t => some t
  | _ => none

/-- What every issued bundle leaves: its own bookkeeping, DBGPC, the STEP event (R196, R215), and where fetch goes. The bundle
of an ACCB stands at the program counter, its issue cycle and PD spent, until the decision takes the task on (R320, R321). -/
def finishBundle (before s : State) (c : BitVec 9) : State :=
  let b := before.cellAt c
  let w := b.pipe.pc
  let s1 := s.updAt c fun x => { x with
    verdict := .issued, tr := { x.tr with dbgpc := w.zeroExtend 64 }
    pipe := { x.pipe with
      pdSpent := false, ticked := false, expired := false, polled := none, asked := none, got := none
      rest := if b.sup then x.pipe.rest else none } }
  let x := s1.cellAt c
  if !x.running then s1
  else if (accbTarget x).isSome then
    updPipe s1 c fun p => { p with ticked := true, pdSpent := true, rest := some w }
  else if b.sup then
    if x.sup then nextBundle s1 c false w
    else updPipe s1 c fun p => { p with ticked := true, pdSpent := bit b.tr.status 1 }
  else
    let s2 := nextBundle s1 c true w
    if bit b.tr.dbgctl 0 then updEvents s2 c fun e => { e with step := some w } else s2

/-- The decision on the cell's ACCB lets the task go on: what is due with it is done, the STEP event among it (R215, R302,
R320, R321). -/
def completeAccb (s : State) (c : BitVec 9) : State :=
  match (s.cellAt c).wait with
  | .accbDone t a =>
    let x := s.cellAt c
    let s1 := updPipe (s.updAt c (takeAnswer (64 * s.steps) t a)) c fun p =>
      { p with pdSpent := false, ticked := false, rest := none }
    let s2 := nextBundle s1 c true x.pipe.pc
    if bit x.tr.dbgctl 0 then updEvents s2 c fun e => { e with step := some x.pipe.pc } else s2
  | _ => s

/-! ### A turn -/

/-- The bundle waits: the issue cycle and the PD are not spent again (R74, R75). -/
def holdBundle (s : State) (c : BitVec 9) : State :=
  (updPipe s c fun p => { p with ticked := true, redirect := none }).mark c .frozen

/-- One more idle issue cycle before the bundle (R155, R198, R201). -/
def idleBundle (s : State) (c : BitVec 9) : State := (updPipe (s.tickAt c) c fun p => { p with ticked := true }).mark c .idle

/-- More results in flight than the flight record could take (R198). -/
def tooMany (s : State) (c : BitVec 9) : Bool := decide (Config.flightMax < (s.cellAt c).pipe.inflight.length)

/-- Issues the bundles of the members, one for a cell that fetches alone, in one cycle; none where a member cannot. -/
def issueAll : List (BitVec 9) → State → Option State
  | [], s => some s
  | c :: r, s =>
    match attempt s c with
    | .ready held fs =>
      match issueBundle held fs with
      | none => none
      | some s1 => if tooMany s1 c then none else issueAll r s1
    | _ => none

/-- What a member's attempt leaves when the bundle does not issue. -/
def heldOver (s : State) (c : BitVec 9) (idle : Bool) : State :=
  match attempt s c with
  | .ready h _ => (if idle then idleBundle else holdBundle) h c
  | .frozen h => (if idle then idleBundle else holdBundle) h c
  | .idle h => idleBundle h c
  | _ => s

def isTrapped : Attempt → Option State
  | .trapped s => some s
  | _ => none

/-- Members whose results in flight would pass the limit. -/
def overFull (s : State) (c : BitVec 9) : Bool :=
  match attempt s c with
  | .ready h fs => ((issueBundle h fs).map fun s1 => tooMany s1 c).getD false
  | _ => false

/-- The bundle of a cell, or of every member of a fused gang: the first trap or event decides, then a stall of any member
holds all, else all issue and every completed barrier phase and REJOIN releases (R53, R56, R74). Each member fetches at its
own counter: the counters differ only after a handler that changed an EPC, a case R56 does not name, so that the members
then issue different bundles together is the model's choice (log 44). -/
def bundleTurn (s : State) (cs : List (BitVec 9)) : Host.Outcome State Fault Refusal :=
  let as_ := cs.map fun c => (c, attempt s c)
  match as_.findSome? fun p => match p.2 with
    | .stop o => some o
    | .event t => some (.next t)
    | _ => none with
  | some o => o
  | none =>
    if as_.any fun p => (isTrapped p.2).isSome then
      .next (cs.foldl (fun s c => ((isTrapped (attempt s c)).map fun t => t.mark c .trapped).getD s) s)
    else
      let idle := cs.any (overFull s) || as_.any fun p => match p.2 with
        | .idle _ => true
        | _ => false
      match if idle then none else issueAll cs s with
      | none => .next (cs.foldl (fun s c => heldOver s c idle) s)
      | some t =>
        .next (settleGang (cs.foldl (fun t c => finishBundle s t c) t) ((s.cellAt (cs.headD 0)).task.gang))

/-- The cells that issue with a cell: every live member of a fused gang in user mode, or the cell alone. -/
def companions (s : State) (c : BitVec 9) : List (BitVec 9) :=
  let x := s.cellAt c
  if x.task.fused && !x.sup then
    match gangOf s x.task.gang with
    | none => [c]
    | some g => g.cells.filter fun d => (s.cellAt d).running && decide ((s.cellAt d).task.gang = g.id)
  else [c]

/-- Whether user code of the cell may issue: it waits for nothing and is not to be pre-empted; in a fused gang, no member runs a
handler or is saved (R56, R208). -/
def mayIssue (s : State) (c : BitVec 9) : Bool :=
  let x := s.cellAt c
  decide (c ∉ s.tasks.preempt) && atBoundary x && (x.sup || decide (x.wait = .none))

/-- No member of the cell's fused gang is saved (R56). -/
def wholeGang (s : State) (x : Cell) : Bool :=
  x.sup || !x.task.fused || !(s.tasks.saved.any fun y => decide (y.gang = x.task.gang))

/-- The answered ACCB of a cell, or of every member of a fused gang, lets the program go on. -/
def decisionTurn (s : State) (c : BitVec 9) : State :=
  let cs := companions s c
  if wholeGang s (s.cellAt c) && cs.all (fun d => answered (s.cellAt d)) then cs.foldl completeAccb s else s

/-- The first bundle of a task opens the phase that its enqueue closed (R47, R177). -/
def openFirst (s : State) (c : BitVec 9) : State :=
  let sc := (s.cellAt c).task.openPhase
  if sc = 0 ∨ (s.cellAt c).sup then s
  else openPhase (s.updAt c fun x => { x with task := { x.task with openPhase := 0 } }) c sc.toNat

/-- A CARVE in a mixed phase traps on release (R54). -/
def takeMisuse (s : State) (c : BitVec 9) (n : BitVec 4) : State :=
  let s1 := (issueCycle s c).updAt c fun x => { x with wait := .none }
  (takeTrap s1 c (trapOf cBarrierMisuse (n.zeroExtend 64)) (s1.cellAt c).pipe.pc (s1.cellAt c).pipe.pdSpent).mark c .trapped

/-- A cell that exists for the program: it runs a task, its frame's clock stands, the package is READY (R18, R298). -/
def cellLive (s : State) (c : BitVec 9) : Bool :=
  (s.cellAt c).running && decide (s.pkg.devState = 1) && (isScout c || !bit s.pkg.glide (frameOf c))

/-- A task that ABORT ends goes once its M words have retired, and with it every command that is still held (R46, R201). -/
def endingTurn (s : State) (c : BitVec 9) : State :=
  let t := (s.cellAt c).task
  if matrixIdle (s.cellAt c) then endTask (dropHeld s t.gang t.gmem) c else s

/-- One turn of a cell: the first pending boundary event, else its next bundle (R196). R196 lists the freezes in which an event
that becomes pending is taken; that it is taken as well in one that it does not list, of FENCE, of a matrix interlock or of a full
M queue, is the model's choice (log 28). A cell that waits for the emergency area does nothing (R212). -/
def cellTurn (s : State) (c : BitVec 9) : Host.Outcome State Fault Refusal :=
  let s0 := { s with cur := c }
  if !cellLive s0 c || decide (c ∈ s.tasks.saving) then .next s0
  else if (s0.cellAt c).wait = .ending then .next (endingTurn s0 c)
  else if answered (s0.cellAt c) then .next (decisionTurn s0 c)
  else
    match pendingEvent s0 c with
    | some b => .next (takeEvent s0 c b)
    | none =>
      let x := s0.cellAt c
      match x.sup, x.wait with
      | false, .misuse n => .next (takeMisuse s0 c n)
      | _, _ =>
        let cs := companions s0 c
        if wholeGang s0 x && cs.all (fun d => mayIssue s0 d && (s0.cellAt d).sup == x.sup) then
          bundleTurn (cs.foldl openFirst s0) cs
        else .next s0

/-! ### A step -/

/-- The model's own count of steps, and device time, of which the model knows only that it never runs backwards (R268,
log 5). -/
def clockStep (s : State) : State :=
  { s with steps := s.steps + 1, pkg := { s.pkg with time := laterTime s.pkg.time (Config.timeAdvance s.steps) } }

/-- Whose turn it is: the head of the agenda, or the cell that issued last when the agenda is empty (log 3). -/
def takeTurn (s : State) : Turn × State :=
  match s.agenda with
  | [] => (.cell s.cur, s)
  | t :: r => (t, { s with agenda := r })

/-- The service core issues a word: DBAR is the one that the spec gives it (R296). -/
def firmwareTurn (s : State) (i : Instr) : Host.Outcome State Fault Refusal :=
  match i with
  | .dbar _ _ =>
    match exec i { s with core := true } with
    | .next t => .next { t with core := false }
    | o => o
  | _ => .next s

/-- The service core writes a debug register for the host: the access codes leave DBGCTL. A halted cell goes on at its bundle
with the write: R215 names no other step that ends a halt (log 33). -/
def debugWrite (s : State) (c : BitVec 9) (n : BitVec 12) (v : Word) : State :=
  if n = 0x080 then
    s.updAt c fun x =>
      let y := x.crPut 0x080 v
      { y with wait := if y.wait = .halt then .none else y.wait }
  else s

/-- A turn of the agenda. A word of a program is no step of another agent. -/
def runTurn (s : State) : Turn → Host.Outcome State Fault Refusal
  | .cell c => cellTurn s c
  | .debug c n v => .next (debugWrite s c n v)
  | .event i => if (encode i).isSome then .fault .wordAsEvent else exec i s
  | .firmware i => firmwareTurn s i

/-! ### Placing one word for the host (log 12) -/

/-- Physical address of the page that holds the placed word, and its leaf entry: P, R, W, X, U. -/
def placedPage : Nat := 0x10000
def placedEntry : TlbEntry := { ctx := 0, level := 3, va := 0, pte := BitVec.ofNat 64 (placedPage + 0x79) }

/-- A cell that runs a task of context 0 at word 0 of a page that it holds in its translation cache. -/
def placedCell (c : Cell) : Cell :=
  { c with
    running := true, task := Task.idle, wait := .none, events := Events.none, region := none
    pipe := Pipe.reset, icache := [], tlb := placedEntry :: c.tlb, tr := { c.tr with status := 0 } }

/-- The bundle of the placed word: a word without EB is followed by the NOP of the last slot, and one of that slot takes
EB. -/
def placedBytes (w : Nat) : List Byte :=
  if w.testBit 79 then toBytes 10 w
  else if wordSlot (BitVec.ofNat 80 w) < 5 then toBytes 10 w ++ toBytes 10 (13 * 2 ^ 76)
  else toBytes 10 (w + 2 ^ 79)

/-- The word at the place where the issuing cell fetches next. -/
def placeWord (s : State) (w : Nat) : State :=
  let s1 := s.updAt s.cur placedCell
  { s1 with
    agenda := [], tasks := { s1.tasks with preempt := [], saving := [], ranges := s1.tasks.ranges.filter fun r => decide (r.cell ≠ s.cur) }
    pkg := { s1.pkg with devState := 1, frames := s1.pkg.frames ||| 1, glide := 0 }
    mem := s1.mem.store placedPage (placedBytes (w % 2 ^ 80)) }

end Sys2Proof.Machine
end

