-- ==== Sys2Proof/Machine/Step.lean ====
section
/-! DEFINITION. One step of the part, and the placing of a word where the next step fetches. -/

namespace Sys2Proof.Machine

/-- One turn of the agenda (log 3). -/
def step (s : State) : Host.Outcome State Fault Refusal :=
  runTurn (takeTurn (clockStep s)).2 (takeTurn (clockStep s)).1

/-- The word whose bits are `w`, its bits from `nbits` on zero, where the issuing cell fetches next (log 12). -/
def State.withFetchWord (s : State) (nbits w : Nat) : State := placeWord s (w % 2 ^ nbits)

end Sys2Proof.Machine
end

