-- ==== Sys2Proof/Safety.lean ====
section
/-! DEFINITION. What counts as a safe state and a safe step, and the words in which statements speak of a word that
issues. -/

namespace Sys2Proof.Machine

/-! ### Safe states and steps -/

/-- Every memory of the state is in canonical form: equal contents are equal data. -/
def State.Canonical (s : State) : Prop := s.mem.wf = true ∧ s.staging.wf = true

/-- A step that ends in a next state. -/
def Completes (o : Host.Outcome State Fault Refusal) : Prop := ∃ t, o = .next t

/-! ### A word that may issue (R75, R110, R199) -/

/-- No tag that the word names is pending, and its header allocates none. -/
def Plain (h : Header) (s : State) : Prop :=
  s.cell.pipe.pend &&& h.cmk = 0 ∧ h.av = 0#1 ∧ h.tag = 0#3

/-- No tag that the word names is pending, and it allocates a tag that is clear. -/
def Tagged (h : Header) (s : State) : Prop :=
  s.cell.pipe.pend &&& h.cmk = 0 ∧ h.av = 1#1 ∧ bit s.cell.pipe.pend h.tag.toNat = false

/-- The word issues with or without a tag: none that it names is pending, and one that it allocates is clear. -/
def Clear (h : Header) (s : State) : Prop := Plain h s ∨ Tagged h s

/-- The cell runs in user mode (R203). -/
def User (s : State) : Prop := s.cell.sup = false

/-! ### What an issued word leaves -/

/-- The results `l` of a word, each in flight for `n` issue cycles (R76), with the numeric events `ev`. -/
def inFlight (h : Header) (n : Nat) (ev : BitVec 8) (l : List Land) : List InFlight :=
  l.map fun x => { land := x, n := n, slot := h.slot, ev := ev }

/-- The state after a word whose only effects are results in flight. -/
def issued (s : State) (l : List InFlight) : State := (s.push l).mark s.cur .issued

/-- The state after a word whose one result is `v` for s[sd], at latency `n`. -/
def scalarResult (s : State) (h : Header) (n : Nat) (sd : BitVec 6) (v : Word) : State :=
  issued s (inFlight h n 0 [s.cell.dstS sd v])

/-- The state after a word that takes trap `t` before it issues (R197). -/
def trapped (s : State) (t : Trap) : State := (takeTrap s s.cur t s.cell.pipe.pc true).mark s.cur .trapped

/-- The state after a word that cannot issue yet (R74). -/
def frozen (s : State) : State := s.mark s.cur .frozen

/-- The outcome of a word that issued: its effects `t`, and its tag allocated where it has one (R79). -/
def done (h : Header) (s t : State) : Host.Outcome State Fault Refusal :=
  .next ((t.upd (allocTag h)).mark s.cur .issued)

/-- A result that a memory word has read: in flight for `n` cycles from the scratchpad, else a variable-latency access
that lands later (R77, R78). -/
def arrives (h : Header) (sp : Space) (n : Nat) (land : Land) (ea : Word) (a : Nat) (ord : Bool) (t : State) : State :=
  if sp = .pad then padLoad t h land n else sendAccess t h [land] 0 sp ea a [] ord

/-- A store that is acknowledged later, or at once in the scratchpad (R79). -/
def acknowledged (h : Header) (sp : Space) (ea : Word) (a : Nat) (bs : List Byte) (ord : Bool) (t : State) : State :=
  if sp = .pad then t else sendAccess t h [] 1 sp ea a bs ord

/-- No ordered access of an earlier bundle is under way (R182). -/
def Unordered (s : State) : Prop := orderWaits s.cell = false

/-- The rows that a word names, with whether it writes them, are in the reservation, and the matrix unit holds none of
them (R87, R163). -/
def RowsFree (s : State) (rows : List (BitVec 9 × Bool)) : Prop :=
  ∀ r ∈ rows, noTile s.cell r.1 = none ∧ rowBusy s.cell r.1 r.2 = false

/-- The word issues; at latency `n` the lanes of row `vd` that mask `k` governs take the values `f`, and the events of
those lanes count, each class once (R119, R125, R147). -/
def WritesLanes (s : State) (h : Header) (n ty : Nat) (k : BitVec 256) (vd : BitVec 9) (f : Nat → Nat × BitVec 8)
    (out : Host.Outcome State Fault Refusal) : Prop :=
  ∃ r m ev, out = .next (issued s (inFlight h n ev [.row vd r m])) ∧
    (∀ j < 2048, m.getLsbD j = k.getLsbD (j / max 8 (widthOf ty))) ∧
    (∀ i < lanesOf ty, governed ty k i = true → lane (widthOf ty) r i = (f i).1 % 2 ^ widthOf ty) ∧
    ∀ b < 8, ev.getLsbD b = true ↔ ∃ i < lanesOf ty, governed ty k i = true ∧ (f i).2.getLsbD b = true

/-- The state after an M word has entered the queue, and MZERO, MCFG and MFMT that nothing holds up are performed (R163). -/
def queued (s : State) (j : MJob) : State :=
  drainM (s.upd fun c => { c with mx := { c.mx with queue := c.mx.queue ++ [j] } }) s.cur

/-- The same, behind the number that a word which accesses memory takes with it (R162). -/
def queuedLoad (s : State) (j : MJob) : State := queued { s with nextId := s.nextId + 1 } j

/-- The state in which the first job of the cell's queue has left it. -/
def unqueued (s : State) (ci : BitVec 9) : State :=
  s.updAt ci fun c => { c with mx := { c.mx with queue := c.mx.queue.drop 1 } }

/-- Nobody awaits the responses of domain pages, and what is done between the two states sends no load, store or atomic to one
(R294). -/
def OffDomain (s t : State) : Prop := s.pd.asks = [] ∧ t.pd.asks = [] ∧ sentDomain s t = []

/-- Job `j` is first in the queue of a cell that has not stopped issuing, the array is empty, and no result is on its way to the
cell (R163, R208). -/
def FirstJob (s : State) (ci : BitVec 9) (j : MJob) : Prop :=
  mStopped s ci = false ∧ (∃ rest, (s.cellAt ci).mx.queue = j :: rest) ∧ (s.cellAt ci).mx.run = none ∧
    (s.cellAt ci).pipe.inflight = [] ∧ (s.cellAt ci).pipe.flight = [] ∧ (s.cellAt ci).pipe.accs = []

/-- A gang with barrier `n` replaced (R53). -/
def withBarrier (g : Gang) (n : BitVec 4) (b : Barrier) : Gang := { g with bars := g.bars.wr n b }

/-- A gang with one more arrival at barrier `n` (R53). -/
def withArrival (g : Gang) (n : BitVec 4) (a : Arrival) : Gang :=
  withBarrier g n { g.bars.rd n with arrived := (g.bars.rd n).arrived ++ [a] }

/-- `n` issue cycles pass at a cell (R76). -/
def Cell.ticks : Nat → Cell → Cell
  | 0, c => c
  | n + 1, c => Cell.ticks n c.tick.1

/-- The scalar register of the task's own bank that a result writes. -/
def scalarOf : Land → Option (BitVec 6)
  | .s i _ => some i
  | .rmw _ _ _ sd false => some sd
  | _ => none

/-! ### A step of one cell -/

/-- The cell may issue a bundle by itself: it is live, no boundary event is pending, it waits for nothing, it is not to be
pre-empted, it is in no fused gang and its first phase is open (R56, R196, R208). -/
def Alone (s : State) (c : BitVec 9) : Prop :=
  cellLive s c = true ∧ pendingEvent s c = none ∧ (s.cellAt c).wait = .none ∧ c ∉ s.tasks.preempt ∧
    (s.cellAt c).task.fused = false ∧ (s.cellAt c).task.openPhase = 0

/-- After one issue cycle the cell fetches a bundle of which the word `w` is still to issue: it is the only word, or the ACCB of
a bundle whose other words have issued (R321, log 28). The bundle has a legal form, its PD passes, no boundary event becomes
pending and no tag holds it. `held` is the machine in which the word then issues (R71 to R75). -/
def Fetched (s : State) (c : BitVec 9) (w : BitVec 80) (held : State) : Prop :=
  let s1 := { drainM (issueCycle s c) c with cur := c }
  let pc := (s1.cellAt c).pipe.pc
  ∃ ws s2, pendingEvent s1 c = none ∧ bundleWords c (2 ^ 32) s1 pc = .ok (ws, s2) ∧ w ∈ ws ∧ bundleForm ws pc = none ∧
    toIssue (s2.cellAt c) (ws.map formWord) = [formWord w] ∧
    let s3 := spendPd s2 c (Header.parse w).pd.toNat
    pendingEvent s3 c = none ∧ bundleWaits (s3.cellAt c) [formWord w] = false ∧
      held = updPipe s3 c fun p => { p with seq := pc + BitVec.ofNat 32 ws.length }

/-- The same of a bundle of several words `ws` at word `pc`, of which none has issued before: `spent` is the machine with the
issue cycle and the bundle's PD behind it (R71 to R75). -/
def FetchedBundle (s : State) (c : BitVec 9) (ws : List (BitVec 80)) (pc : BitVec 32) (spent : State) : Prop :=
  let s1 := { drainM (issueCycle s c) c with cur := c }
  let fs := ws.map formWord
  ∃ s2, pendingEvent s1 c = none ∧ pc = (s1.cellAt c).pipe.pc ∧ bundleWords c (2 ^ 32) s1 pc = .ok (ws, s2) ∧
    toIssue (s2.cellAt c) fs = fs ∧ spent = spendPd s2 c (bundlePd fs) ∧ pendingEvent spent c = none ∧
    bundleWaits (spent.cellAt c) fs = false

/-- The words issue in slot order, each on what the words before it left. The tags that they allocate hold none of the others
and are pending after the last (R72, R73, R75, R79). -/
def InOrder (pend : BitVec 8) : List Instr → BitVec 8 → State → State → Prop
  | [], alloc, s, t => t = updPipe s s.cur fun p => { p with pend := pend ||| alloc }
  | i :: r, alloc, s, t => ∃ u, exec i (updPipe s s.cur fun p => { p with pend := pend }) = .next u ∧
      u.cell.verdict = .issued ∧ InOrder pend r (alloc ||| (u.cell.pipe.pend &&& ~~~pend)) u t

/-- What an EXIT's bundle leaves where its other words have left `u`: the task has ended with all that was in flight landed, and
its cell keeps nothing in flight (R50, R76, R360). -/
def exited (u : State) (c : BitVec 9) : State :=
  updPipe ((exitTask u c).mark c .issued) c fun p =>
    { p with inflight := [], flight := [], accs := [], pend := 0, engTag := 0, redirect := none }

/-- The words of slots 0 to 2 that a handler may not issue (R45, R320, R322, R381, R440 and the rules of ACCINV). -/
def notInHandler : Instr → Bool
  | .exit _ _ | .spawn _ _ | .spawng _ _ | .bar _ _ | .bara _ _ | .barcfg _ _ | .carve _ _ | .decpl _ _ | .rejoin _ _
  | .wait _ _ | .loop _ _ | .loopx _ _ | .accb _ _ | .acce _ _ | .accinv _ _ => true
  | _ => false

/-- The tags that words allocate. -/
def tagsOf (ws : List (BitVec 80)) : List (BitVec 3) := ws.filterMap fun w => (formWord w).tag

/-- A word decodes, and in the machine `held` its instruction's attempt ends with verdict `v`. -/
def Attempts (held : State) (v : Verdict) (w : BitVec 80) : Prop :=
  ∃ i t, decode w = .ok i ∧ exec i held = .next t ∧ t.cell.verdict = v

/-! ### What the rules of the C slot's arithmetic compute -/

/-- A source read signed or unsigned, as fn[0] = 0 or 1 says. -/
def reading (u : Bool) (a : Word) : Int := if u then a.toNat else a.toInt

/-- The word of an exact result: its residue mod 2^64. -/
def residue (x : Int) : Word := BitVec.ofInt 64 x

/-- Quotient of R359. -/
def quotient (u : Bool) (a b : Word) : Word :=
  if reading u b = 0 then residue (2 ^ 64 - 1)
  else if u = false ∧ reading u a = -2 ^ 63 ∧ reading u b = -1 then residue (reading u a)
  else residue ((reading u a).tdiv (reading u b))

/-- Remainder of R412. -/
def remainder (u : Bool) (a b : Word) : Word :=
  if reading u b = 0 then residue (reading u a)
  else if u = false ∧ reading u a = -2 ^ 63 ∧ reading u b = -1 then 0
  else residue (reading u a - reading u b * (reading u a).tdiv (reading u b))

/-- The conditions of CMP (R351): eq ne lt le gt ge ltu leu gtu geu. -/
def holds (fn : Nat) (a b : Word) : Prop :=
  match fn with
  | 0 => a = b
  | 1 => a ≠ b
  | 2 => a.toInt < b.toInt
  | 3 => a.toInt ≤ b.toInt
  | 4 => b.toInt < a.toInt
  | 5 => b.toInt ≤ a.toInt
  | 6 => a.toNat < b.toNat
  | 7 => a.toNat ≤ b.toNat
  | 8 => b.toNat < a.toNat
  | _ => b.toNat ≤ a.toNat

/-- The conditions of BRC on s[sa] (R339): eqz nez ltz gez gtz lez. -/
def branches (cond : Nat) (x : Int) : Prop :=
  match cond with
  | 0 => x = 0
  | 1 => x ≠ 0
  | 2 => x < 0
  | 3 => 0 ≤ x
  | 4 => 0 < x
  | _ => x ≤ 0

/-! ### Memory as a cell sees it (R171) -/

/-- Byte `i` of a row. -/
def byteAt (r : Row) (i : Nat) : Byte := r.extractLsb' (8 * i) 8

/-- The byte of main memory that a plain load of the cell reads: its L1's where the line holds it, else the home's. -/
def seen (s : State) (ci : BitVec 9) (a : Nat) : Byte :=
  let l := lineOf (s.cellAt (l1Owner s ci)).lines (a / 256 * 256)
  if cacheable ci a && l.have_.getLsbD (a % 256) then byteAt l.data (a % 256) else s.mem.rd a

/-- The L1 that serves the cell takes one more line without giving one up (R170). -/
def HasRoom (s : State) (ci : BitVec 9) : Prop :=
  (s.cellAt (l1Owner s ci)).lines.length < l1Lines (s.cellAt (l1Owner s ci))

/-- Byte `b` at `x` is a dirty byte of the L1 that serves the cell, which goes home when its line leaves (R171). -/
def DirtyByte (s : State) (ci : BitVec 9) (x : Nat) (b : Byte) : Prop :=
  ∃ l ∈ (s.cellAt (l1Owner s ci)).lines, l.tag ≤ x ∧ l.dirty.getLsbD (x - l.tag) = true ∧ byteAt l.data (x - l.tag) = b

/-- The byte of a space that a plain load of the issuing cell reads. -/
def seenIn (s : State) (sp : Space) (a : Nat) : Byte :=
  match sp with
  | .main => seen s s.cur a
  | .pad => s.cell.pad.rd a
  | .staging => s.staging.rd a

end Sys2Proof.Machine
end

