-- ==== Sys2Proof/Certificates/Slice0/Obligations.lean ====
section
/-! DEFINITION. The statements for the provers. -/

open Sys2Proof Sys2Proof.Machine

/-! ### The C slot's arithmetic -/

/-- ADD, SUB, AND, OR and XOR in both forms issue and put their result for s[sd] in flight at latency 1; b is s[sb] or the
sign-extended immediate (R313, R324, R330, R399, R419, R442). -/
def Obligations.AddSubLogicComplete : Prop :=
  ∀ (h : Header) (s : State), Plain h s →
    (∀ o : CR, (Instr.add h o).WellFormed →
      exec (.add h o) s = .next (scalarResult s h 1 o.sd (s.cell.rdS o.sa + s.cell.rdS o.sb))) ∧
    (∀ o : CI, (Instr.addImm h o).WellFormed →
      exec (.addImm h o) s = .next (scalarResult s h 1 o.sd (s.cell.rdS o.sa + o.imm.signExtend 64))) ∧
    (∀ o : CR, (Instr.sub h o).WellFormed →
      exec (.sub h o) s = .next (scalarResult s h 1 o.sd (s.cell.rdS o.sa - s.cell.rdS o.sb))) ∧
    (∀ o : CI, (Instr.subImm h o).WellFormed →
      exec (.subImm h o) s = .next (scalarResult s h 1 o.sd (s.cell.rdS o.sa - o.imm.signExtend 64))) ∧
    (∀ o : CR, (Instr.and h o).WellFormed →
      exec (.and h o) s = .next (scalarResult s h 1 o.sd (s.cell.rdS o.sa &&& s.cell.rdS o.sb))) ∧
    (∀ o : CI, (Instr.andImm h o).WellFormed →
      exec (.andImm h o) s = .next (scalarResult s h 1 o.sd (s.cell.rdS o.sa &&& o.imm.signExtend 64))) ∧
    (∀ o : CR, (Instr.or h o).WellFormed →
      exec (.or h o) s = .next (scalarResult s h 1 o.sd (s.cell.rdS o.sa ||| s.cell.rdS o.sb))) ∧
    (∀ o : CI, (Instr.orImm h o).WellFormed →
      exec (.orImm h o) s = .next (scalarResult s h 1 o.sd (s.cell.rdS o.sa ||| o.imm.signExtend 64))) ∧
    (∀ o : CR, (Instr.xor h o).WellFormed →
      exec (.xor h o) s = .next (scalarResult s h 1 o.sd (s.cell.rdS o.sa ^^^ s.cell.rdS o.sb))) ∧
    (∀ o : CI, (Instr.xorImm h o).WellFormed →
      exec (.xorImm h o) s = .next (scalarResult s h 1 o.sd (s.cell.rdS o.sa ^^^ o.imm.signExtend 64)))

/-- MUL and MULH land at latency 3: the product mod 2^64, and floor(x * y / 2^64) mod 2^64 of the sources read signed or
unsigned as fn[0] says; the immediate is extended before it is read (R396).
DIV and REM land at latency 18: the quotient truncated toward zero and the remainder with the dividend's sign, with the values
of R359 and R412 for a zero divisor and for the most negative number divided by −1. -/
def Obligations.MultiplyDivideComplete : Prop :=
  (∀ (h : Header) (s : State), Plain h s →
     (∀ o : CR, (Instr.mul h o).WellFormed → ∀ u,
       exec (.mul h o) s = .next (scalarResult s h 3 o.sd
         (residue (reading u (s.cell.rdS o.sa) * reading u (s.cell.rdS o.sb))))) ∧
     (∀ o : CI, (Instr.mulImm h o).WellFormed → ∀ u,
       exec (.mulImm h o) s = .next (scalarResult s h 3 o.sd
         (residue (reading u (s.cell.rdS o.sa) * reading u (o.imm.signExtend 64))))) ∧
     (∀ o : CR, (Instr.mulh h o).WellFormed →
       exec (.mulh h o) s = .next (scalarResult s h 3 o.sd
         (residue (reading (bit o.fn 0) (s.cell.rdS o.sa) * reading (bit o.fn 0) (s.cell.rdS o.sb) / 2 ^ 64)))) ∧
     (∀ o : CI, (Instr.mulhImm h o).WellFormed →
       exec (.mulhImm h o) s = .next (scalarResult s h 3 o.sd
         (residue (reading (bit o.fn 0) (s.cell.rdS o.sa) * reading (bit o.fn 0) (o.imm.signExtend 64) / 2 ^ 64))))) ∧
  (∀ (h : Header) (s : State), Plain h s →
     (∀ o : CR, (Instr.div h o).WellFormed →
       exec (.div h o) s = .next (scalarResult s h 18 o.sd (quotient (bit o.fn 0) (s.cell.rdS o.sa) (s.cell.rdS o.sb)))) ∧
     (∀ o : CI, (Instr.divImm h o).WellFormed →
       exec (.divImm h o) s =
         .next (scalarResult s h 18 o.sd (quotient (bit o.fn 0) (s.cell.rdS o.sa) (o.imm.signExtend 64)))) ∧
     (∀ o : CR, (Instr.rem h o).WellFormed →
       exec (.rem h o) s = .next (scalarResult s h 18 o.sd (remainder (bit o.fn 0) (s.cell.rdS o.sa) (s.cell.rdS o.sb)))) ∧
     (∀ o : CI, (Instr.remImm h o).WellFormed →
       exec (.remImm h o) s =
         .next (scalarResult s h 18 o.sd (remainder (bit o.fn 0) (s.cell.rdS o.sa) (o.imm.signExtend 64)))))

/-- SHL, SHR and SRA shift by b mod 64 at latency 1; SHR fills with zeros under fn[0] = 0, else with bit 63, as SRA does
(R415). Each bit of the result is given. -/
def Obligations.ShiftComplete : Prop :=
  ∀ (h : Header) (s : State), Plain h s →
    (∀ o : CR, (Instr.shl h o).WellFormed → ∃ r : Word,
      exec (.shl h o) s = .next (scalarResult s h 1 o.sd r) ∧ ∀ i < 64, r.getLsbD i =
        (decide ((s.cell.rdS o.sb).toNat % 64 ≤ i) && (s.cell.rdS o.sa).getLsbD (i - (s.cell.rdS o.sb).toNat % 64))) ∧
    (∀ o : CI, (Instr.shlImm h o).WellFormed → ∃ r : Word,
      exec (.shlImm h o) s = .next (scalarResult s h 1 o.sd r) ∧ ∀ i < 64, r.getLsbD i =
        (decide (o.imm.toNat % 64 ≤ i) && (s.cell.rdS o.sa).getLsbD (i - o.imm.toNat % 64))) ∧
    (∀ o : CR, (Instr.shr h o).WellFormed → ∃ r : Word,
      exec (.shr h o) s = .next (scalarResult s h 1 o.sd r) ∧ ∀ i < 64, r.getLsbD i =
        (let j := i + (s.cell.rdS o.sb).toNat % 64
         if j < 64 then (s.cell.rdS o.sa).getLsbD j else bit o.fn 0 && (s.cell.rdS o.sa).getLsbD 63)) ∧
    (∀ o : CI, (Instr.shrImm h o).WellFormed → ∃ r : Word,
      exec (.shrImm h o) s = .next (scalarResult s h 1 o.sd r) ∧ ∀ i < 64, r.getLsbD i =
        (let j := i + o.imm.toNat % 64
         if j < 64 then (s.cell.rdS o.sa).getLsbD j else bit o.fn 0 && (s.cell.rdS o.sa).getLsbD 63)) ∧
    (∀ o : CR, (Instr.sra h o).WellFormed → ∃ r : Word,
      exec (.sra h o) s = .next (scalarResult s h 1 o.sd r) ∧ ∀ i < 64, r.getLsbD i =
        (let j := i + (s.cell.rdS o.sb).toNat % 64
         if j < 64 then (s.cell.rdS o.sa).getLsbD j else (s.cell.rdS o.sa).getLsbD 63))

/-- MIN and MAX give one of their operands, the smaller or the larger as fn[0] reads them; CMP gives 1 exactly when its
condition holds; SEL chooses by the old s[sd]; all at latency 1 (R351, R383, R414). -/
def Obligations.ChooseComplete : Prop :=
  ∀ (h : Header) (s : State), Plain h s → ∀ o : CR,
    let a := s.cell.rdS o.sa
    let b := s.cell.rdS o.sb
    let u := bit o.fn 0
    ((Instr.min h o).WellFormed → ∃ r, exec (.min h o) s = .next (scalarResult s h 1 o.sd r) ∧ (r = a ∨ r = b) ∧
      reading u r ≤ reading u a ∧ reading u r ≤ reading u b) ∧
    ((Instr.max h o).WellFormed → ∃ r, exec (.max h o) s = .next (scalarResult s h 1 o.sd r) ∧ (r = a ∨ r = b) ∧
      reading u a ≤ reading u r ∧ reading u b ≤ reading u r) ∧
    ((Instr.cmp h o).WellFormed → ∃ r, exec (.cmp h o) s = .next (scalarResult s h 1 o.sd r) ∧
      (holds o.fn.toNat a b → r = 1) ∧ (¬ holds o.fn.toNat a b → r = 0)) ∧
    ((Instr.sel h o).WellFormed → ∃ r, exec (.sel h o) s = .next (scalarResult s h 1 o.sd r) ∧
      (s.cell.rdS o.sd ≠ 0 → r = a) ∧ (s.cell.rdS o.sd = 0 → r = b))

/-- CLZ gives the zeros above the highest 1 bit and 64 for 0, POPC the number of 1 bits, BREV the reversed word; LI the
extended immediate, LIH the immediate over the low half of the old s[sd] (R340, R350, R378, R401).
EXT extends the low 8, 16 or 32 bits by sign or with zeros; BFX and BFI take position and width from s[sb], run for every width
up to 64 and trap ILLEGAL_OP for a wider one (R335, R336, R361). -/
def Obligations.CountLoadFieldComplete : Prop :=
  (∀ (h : Header) (s : State), Plain h s →
     (∀ o : CR, (Instr.clz h o).WellFormed → ∃ n ≤ 64,
       exec (.clz h o) s = .next (scalarResult s h 1 o.sd (BitVec.ofNat 64 n)) ∧
         (s.cell.rdS o.sa).toNat < 2 ^ (64 - n) ∧ (n < 64 → 2 ^ (63 - n) ≤ (s.cell.rdS o.sa).toNat)) ∧
     (∀ o : CR, (Instr.popc h o).WellFormed →
       exec (.popc h o) s = .next (scalarResult s h 1 o.sd
         (BitVec.ofNat 64 ((List.range 64).filter fun i => (s.cell.rdS o.sa).getLsbD i).length))) ∧
     (∀ o : CR, (Instr.brev h o).WellFormed → ∃ r : Word,
       exec (.brev h o) s = .next (scalarResult s h 1 o.sd r) ∧
         ∀ i < 64, r.getLsbD i = (s.cell.rdS o.sa).getLsbD (63 - i)) ∧
     (∀ o : CI, (Instr.li h o).WellFormed →
       exec (.li h o) s = .next (scalarResult s h 1 o.sd (o.imm.signExtend 64))) ∧
     (∀ o : CI, (Instr.lih h o).WellFormed → ∃ r : Word,
       exec (.lih h o) s = .next (scalarResult s h 1 o.sd r) ∧
         r.extractLsb' 32 32 = o.imm ∧ r.extractLsb' 0 32 = (s.cell.rdS o.sd).extractLsb' 0 32)) ∧
  (∀ (h : Header) (s : State), Plain h s → ∀ o : CR,
     let a := s.cell.rdS o.sa
     let pos := (s.cell.rdS o.sb).toNat % 64
     let width := (s.cell.rdS o.sb).toNat / 256 % 128
     ((Instr.ext h o).WellFormed → ∃ r : Word, exec (.ext h o) s = .next (scalarResult s h 1 o.sd r) ∧
       ∀ i < 64, r.getLsbD i =
         (let w := 8 * 2 ^ (o.fn.extractLsb' 0 2).toNat
          if i < w then a.getLsbD i else !bit o.fn 2 && a.getLsbD (w - 1))) ∧
     ((Instr.bfx h o).WellFormed → width ≤ 64 → ∃ r : Word, exec (.bfx h o) s = .next (scalarResult s h 1 o.sd r) ∧
       ∀ i < 64, r.getLsbD i =
         if i < width then a.getLsbD (pos + i)
         else bit o.fn 0 && decide (0 < width) && a.getLsbD (pos + width - 1)) ∧
     ((Instr.bfi h o).WellFormed → width ≤ 64 → ∃ r : Word, exec (.bfi h o) s = .next (scalarResult s h 1 o.sd r) ∧
       ∀ i < 64, r.getLsbD i =
         if pos ≤ i ∧ i < pos + width then a.getLsbD (i - pos) else (s.cell.rdS o.sd).getLsbD i) ∧
     ((Instr.bfx h o).WellFormed → 64 < width →
       exec (.bfx h o) s = .next (trapped s (trapOf cIllegalOp (h.slot.zeroExtend 64)))) ∧
     ((Instr.bfi h o).WellFormed → 64 < width →
       exec (.bfi h o) s = .next (trapped s (trapOf cIllegalOp (h.slot.zeroExtend 64)))))

/-! ### Branches, calls, loops, NOP -/

/-- The words that always branch: fetch goes to W + offset mod 2^32, to s[sa][31:0] or to s63[31:0], whatever is in the other
bits; CALL and CALLI put the index of the word after their bundle in flight for s63, shadow s63 in a handler. In a fused gang,
member 0 decides (R316, R338, R341, R344, R413).
BRC branches to W + offset exactly when its condition holds of s[sa], read as a signed number; otherwise it falls through
(R316, R339). -/
def Obligations.BranchesComplete : Prop :=
  (∀ (h : Header) (s : State), Plain h s → ∀ o : CB,
     let direct := s.cell.pipe.pc + o.off
     let indirect := fun i => ((leadCell s).rdS i).extractLsb' 0 32
     let link := inFlight h 1 0 [s.cell.dstS 63 (s.cell.pipe.seq.zeroExtend 64)]
     let go := fun (t : State) => Host.Outcome.next (φ := Fault) (ρ := Refusal) (t.mark s.cur .issued)
     ((Instr.br h o).WellFormed → exec (.br h o) s = go (s.jump direct)) ∧
     ((Instr.bri h o).WellFormed → exec (.bri h o) s = go (s.jump (indirect o.sa))) ∧
     ((Instr.call h o).WellFormed → exec (.call h o) s = go ((s.push link).jump direct)) ∧
     ((Instr.calli h o).WellFormed → exec (.calli h o) s = go ((s.push link).jump (indirect o.sa))) ∧
     ((Instr.ret h o).WellFormed → exec (.ret h o) s = go (s.jump (indirect 63)))) ∧
  (∀ (h : Header) (s : State), Plain h s → ∀ o : CB, (Instr.brc h o).WellFormed →
     (branches o.cond.toNat ((leadCell s).rdS o.sa).toInt →
       exec (.brc h o) s = .next ((s.jump (s.cell.pipe.pc + o.off)).mark s.cur .issued)) ∧
     (¬ branches o.cond.toNat ((leadCell s).rdS o.sa).toInt → exec (.brc h o) s = .next (s.mark s.cur .issued)))

/-- LOOP in user mode: a form error of R381 traps LOOP_FORM; a count of 0 skips to the bundle after E; any other count
activates the loop of its level at B = the word after the bundle, with iteration 0 (R379, R380). LOOPX sets the remaining count
of the active loop of its level to 1 and traps LOOP_FORM without one (R382). NOP leaves the machine as it is, in every slot and
in a handler (R398). -/
def Obligations.LoopComplete : Prop :=
  ∀ (h : Header) (s : State), Plain h s →
    (∀ o : CL, (Instr.loop h o).WellFormed → User s →
      (loopBad s.cell o = true → exec (.loop h o) s = .next (trapped s (trapOf cLoopForm 0))) ∧
      (loopBad s.cell o = false → ∀ e s1, nthBundle s.cur o.stop.toNat s s.cell.pipe.seq = .ok (e, s1) →
        ((∃ l, s.cell.pipe.outer = some l ∧ o.level = 0#1 ∧ l.e.toNat < e.toNat) →
          exec (.loop h o) s = .next (trapped s (trapOf cLoopForm 0))) ∧
        ((¬ ∃ l, s.cell.pipe.outer = some l ∧ o.level = 0#1 ∧ l.e.toNat < e.toNat) →
          (loopCount s o ≠ 0 → exec (.loop h o) s =
            .next ((s1.startLoop o.level { b := s.cell.pipe.seq, e := e, left := loopCount s o, iter := 0 }).mark
              s.cur .issued)) ∧
          (loopCount s o = 0 → ∀ j s2, afterBundle s.cur (2 ^ 32) s1 e = .ok (j, s2) →
            exec (.loop h o) s = .next ((s2.jump j).mark s.cur .issued))))) ∧
    (∀ o : CL, (Instr.loopx h o).WellFormed → User s →
      let act := if o.level = 0#1 then s.cell.pipe.inner else s.cell.pipe.outer
      (∀ l, act = some l → exec (.loopx h o) s = .next ((s.startLoop o.level { l with left := 1 }).mark s.cur .issued)) ∧
      (act = none → exec (.loopx h o) s = .next (trapped s (trapOf cLoopForm 0)))) ∧
    ((Instr.nop h).WellFormed → exec (.nop h) s = .next (s.mark s.cur .issued))

/-! ### Tasks, barriers, fused gangs -/

/-- EXIT in user mode issues once every tag is clear and every M word has retired, and ends the task, with the results in flight
landed in the cell that the next task inherits; before that it does not issue (R46, R50, R76, R360). SPAWN appends its entry to
a queue that has room, behind the close of its scope, and does not issue into a full one; SPAWNG hands its range to the spawn
unit at issue, a count of 0 hands nothing, and a range that leaves its field takes ILLEGAL_OP. Neither issues while the spawn
unit holds a range of the cell, and both take ILLEGAL_OP for a target that the stage does not list (R47, R48). -/
def Obligations.TaskWordsComplete : Prop :=
  ∀ (h : Header) (s : State), Plain h s → User s → ∀ o : CS,
    let c := s.cell
    let t := o.imm.extractLsb' 0 4
    let closed := closePhase s s.cur o.scope.toNat
    let range : Range :=
      { cell := s.cur, gang := if c.task.fused then c.task.gang else 0, gmem := c.task.gmem, launch := c.task.launch, stage := t
        field := o.imm.extractLsb' 5 3, base := c.rdS o.sa, next := 0,
        count := (c.rdS o.sb).toNat, barrier := bit o.imm 4, scope := o.scope }
    ((Instr.exit h o).WellFormed →
      ((c.pipe.pend = 0 ∧ c.mx.queue = [] ∧ c.mx.run = none) →
        exec (.exit h o) s = .next ((exitTask s s.cur).mark s.cur .issued)) ∧
      (¬ (c.pipe.pend = 0 ∧ c.mx.queue = [] ∧ c.mx.run = none) → exec (.exit h o) s = .next (frozen s))) ∧
    ((Instr.spawn h o).WellFormed → ∀ q, spawnTarget s t = some q → rangeOf s s.cur = none →
      (o.scope.toNat < 2 ∨ c.pipe.accs = []) →
        (q.queue.length < 2 ^ q.hdr.qlog →
          exec (.spawn h o) s = .next ((enqueue closed c.task.launch t
            { ident := c.rdS o.sa, barrier := bit o.imm 4, scope := o.scope, step := none }).mark s.cur .issued)) ∧
        (2 ^ q.hdr.qlog ≤ q.queue.length → exec (.spawn h o) s = .next (frozen s))) ∧
    ((Instr.spawn h o).WellFormed → spawnTarget s t ≠ none → rangeOf s s.cur ≠ none →
      exec (.spawn h o) s = .next (frozen s)) ∧
    ((Instr.spawng h o).WellFormed → ∀ q, spawnTarget s t = some q → rangeOf s s.cur = none →
      (o.scope.toNat < 2 ∨ c.pipe.accs = []) →
      fieldOf q.hdr (o.imm.extractLsb' 5 3).toNat (maskIdent q.hdr (c.rdS o.sa)) + (c.rdS o.sb).toNat
          ≤ 2 ^ (fieldPos q.hdr (o.imm.extractLsb' 5 3).toNat).2 →
        (c.rdS o.sb = 0 → exec (.spawng h o) s = .next (closed.mark s.cur .issued)) ∧
        (c.rdS o.sb ≠ 0 →
          exec (.spawng h o) s = .next ((setRange closed s.cur (some range)).mark s.cur .issued))) ∧
    ((Instr.spawng h o).WellFormed → ∀ q, spawnTarget s t = some q →
      let room := fieldOf q.hdr (o.imm.extractLsb' 5 3).toNat (maskIdent q.hdr (c.rdS o.sa)) + (c.rdS o.sb).toNat
        ≤ 2 ^ (fieldPos q.hdr (o.imm.extractLsb' 5 3).toNat).2
      (room → rangeOf s s.cur ≠ none → exec (.spawng h o) s = .next (frozen s)) ∧
      (¬ room → exec (.spawng h o) s = .next (trapped s (trapOf cIllegalOp (h.slot.zeroExtend 64))))) ∧
    (spawnTarget s t = none → ∀ i ∈ [Instr.spawn h o, Instr.spawng h o], i.WellFormed →
      exec i s = .next (trapped s (trapOf cIllegalOp (h.slot.zeroExtend 64))))

/-- BAR, BARA, BARCFG and CARVE of a gang in user mode: the arrival counts at barrier N of the gang after the close at the
word's scope, for which the task's CELL-path accesses must have landed; BAR and CARVE wait for the phase; BARCFG sets E for the
next phase, in a fused gang by its lowest live member. With GANG = 1 each of the four, and BARCFG with A > 0, traps
BARRIER_MISUSE with TVAL N; a value above g takes ILLEGAL_OP (R53, R54, R318, R332 to R334, R345). -/
def Obligations.BarrierWordsComplete : Prop :=
  ∀ (h : Header) (s : State), Plain h s → User s → ∀ (o : CS) (g : Gang),
    let c := s.cell
    let n := o.imm.extractLsb' 0 4
    let closed := closePhase s s.cur o.scope.toNat
    let a : Arrival := { gmem := c.task.gmem, carve := none, waits := true }
    gangOf s c.task.gang = some g →
    let arrived := fun (x : Arrival) => setGang closed (withArrival g n x)
    (c.task.gsize ≠ 1#6 → (o.scope.toNat < 2 ∨ c.pipe.accs = []) →
      ((Instr.bar h o).WellFormed →
        exec (.bar h o) s = .next (((arrived a).upd fun x => { x with wait := .bar n o.scope }).mark s.cur .issued)) ∧
      ((Instr.bara h o).WellFormed →
        exec (.bara h o) s = .next ((arrived { a with waits := false }).mark s.cur .issued)) ∧
      ((Instr.carve h o).WellFormed → (∃ q, stageOf s c.task.launch c.task.stage = some q ∧ carveOk q (c.rdS o.sa)) →
        exec (.carve h o) s = .next
          (((arrived { a with carve := some (((leadCell s).rdS o.sa).extractLsb' 0 12) }).upd
            fun x => { x with wait := .carve n o.scope }).mark s.cur .issued)) ∧
      ((Instr.barcfg h o).WellFormed → (c.rdS o.sa).toNat % 64 ≤ c.task.gsize.toNat →
        ((g.bars.rd n).arrived = [] → (leadCell s).task.gmem = c.task.gmem →
          exec (.barcfg h o) s = .next ((setGang s (withBarrier g n { g.bars.rd n with
            expect := if (c.rdS o.sa).toNat % 64 = 0 then g.size else (c.rdS o.sa).toNat % 64 })).mark s.cur .issued)) ∧
        ((g.bars.rd n).arrived = [] → (leadCell s).task.gmem ≠ c.task.gmem →
          exec (.barcfg h o) s = .next (s.mark s.cur .issued)) ∧
        ((g.bars.rd n).arrived ≠ [] →
          exec (.barcfg h o) s = .next (trapped s (trapOf cBarrierMisuse (n.zeroExtend 64)))))) ∧
    (c.task.gsize ≠ 1#6 → 2 ≤ o.scope.toNat → c.pipe.accs ≠ [] →
      ((Instr.bar h o).WellFormed → exec (.bar h o) s = .next (frozen s)) ∧
      ((Instr.bara h o).WellFormed → exec (.bara h o) s = .next (frozen s)) ∧
      ((Instr.carve h o).WellFormed → (∃ q, stageOf s c.task.launch c.task.stage = some q ∧ carveOk q (c.rdS o.sa)) →
        exec (.carve h o) s = .next (frozen s))) ∧
    ((Instr.barcfg h o).WellFormed → c.task.gsize.toNat < (c.rdS o.sa).toNat % 64 →
      exec (.barcfg h o) s = .next (trapped s (trapOf cIllegalOp (h.slot.zeroExtend 64)))) ∧
    (c.task.gsize = 1#6 →
      ((Instr.bar h o).WellFormed →
        exec (.bar h o) s = .next (trapped s (trapOf cBarrierMisuse (n.zeroExtend 64)))) ∧
      ((Instr.bara h o).WellFormed →
        exec (.bara h o) s = .next (trapped s (trapOf cBarrierMisuse (n.zeroExtend 64)))) ∧
      ((Instr.barcfg h o).WellFormed → (c.rdS o.sa).toNat % 64 ≤ 1 →
        exec (.barcfg h o) s = .next (trapped s (trapOf cBarrierMisuse (n.zeroExtend 64)))) ∧
      ((Instr.carve h o).WellFormed → (∃ q, stageOf s c.task.launch c.task.stage = some q ∧ carveOk q (c.rdS o.sa)) →
        exec (.carve h o) s = .next (trapped s (trapOf cBarrierMisuse (n.zeroExtend 64)))))

/-- DECPL takes the gang apart and clears the member's own FUSED; REJOIN of a decoupled member of a gang declared with FUSE
arrives and waits; DECPL outside a fused gang and REJOIN in a fused or a non-fused gang trap BARRIER_MISUSE (R56, R357, R411).
When every member has rejoined or exited, fused fetch resumes after the REJOIN of the lowest live member, with its loops (R56).
A phase completes when arrivals and exited members reach E: the arrivals clear, and no BAR of the barrier waits any longer;
before that nothing happens (R53). Where every arrival was a CARVE, the split of the last one is to be applied and the CARVEs
wait for that; in a mixed phase each CARVE is released into BARRIER_MISUSE, its TVAL the barrier, at the member's next turn (R54).
TVAL 0 of the misuse traps of DECPL and REJOIN is log 35's choice. -/
def Obligations.GangStepsComplete : Prop :=
  (∀ (h : Header) (s : State), Plain h s → User s → ∀ (o : CS) (g : Gang),
     let c := s.cell
     gangOf s c.task.gang = some g →
     ((Instr.decpl h o).WellFormed → c.task.fused = true →
       exec (.decpl h o) s = .next ((setGang (s.upd fun x => { x with task := { x.task with fused := false } })
         { g with fused := false, rejoined := [] }).mark s.cur .issued)) ∧
     ((Instr.decpl h o).WellFormed → c.task.fused = false →
       exec (.decpl h o) s = .next (trapped s (trapOf cBarrierMisuse 0))) ∧
     ((Instr.rejoin h o).WellFormed → c.task.fused = false →
       (∃ q, stageOf s c.task.launch c.task.stage = some q ∧ q.hdr.fuse = true) →
       exec (.rejoin h o) s = .next ((setGang (s.upd fun x => { x with wait := .rejoin })
         { g with rejoined := g.rejoined ++ [c.task.gmem] }).mark s.cur .issued)) ∧
     ((Instr.rejoin h o).WellFormed →
       (c.task.fused = true ∨ ∃ q, stageOf s c.task.launch c.task.stage = some q ∧ q.hdr.fuse = false) →
       exec (.rejoin h o) s = .next (trapped s (trapOf cBarrierMisuse 0)))) ∧
  (∀ (s : State) (id : Nat) (n : BitVec 4) (g : Gang), gangOf s id = some g →
     let b := g.bars.rd n
     (b.arrived = [] ∨ b.arrived.length + g.exited.length < b.expect → barrierCheck s id n = s) ∧
     (b.arrived ≠ [] → b.expect ≤ b.arrived.length + g.exited.length →
       (∃ g', gangOf (barrierCheck s id n) id = some g' ∧ (g'.bars.rd n).arrived = [] ∧
         (g'.bars.rd n).expect = b.expect ∧ g'.exited = g.exited) ∧
       ∀ c ∈ g.cells, runsTask (s.cellAt c) id (s.cellAt c).task.gmem = true → ∀ sc,
         ((barrierCheck s id n).cellAt c).wait ≠ .bar n sc)) ∧
  (∀ (s : State) (id : Nat) (n : BitVec 4) (g : Gang), gangOf s id = some g →
     let b := g.bars.rd n
     let t := barrierCheck s id n
     let carvers := fun (w : BitVec 4 → Wait) => ∀ c ∈ g.cells, runsTask (s.cellAt c) id (s.cellAt c).task.gmem = true →
       ∀ sc, (s.cellAt c).wait = .carve n sc → (t.cellAt c).wait = w sc
     b.arrived ≠ [] → b.expect ≤ b.arrived.length + g.exited.length →
       (∀ l a v, b.arrived = l ++ [a] → a.carve = some v → (∀ x ∈ l, x.carve ≠ none) →
         (gangOf t id).map (·.carving) = some (g.carving ++ [(n, v)]) ∧ carvers fun sc => .carveDone n sc) ∧
       ((∃ a ∈ b.arrived, a.carve = none) →
         (gangOf t id).map (·.carving) = some g.carving ∧ carvers fun _ => .misuse n)) ∧
  (∀ (s : State) (c : BitVec 9) (n : BitVec 4), cellLive s c = true → c ∉ s.tasks.saving → pendingEvent s c = none →
     (s.cellAt c).sup = false → (s.cellAt c).wait = .misuse n → ∃ r,
       cellTurn s c = .next ((takeTrap r c (trapOf cBarrierMisuse (n.zeroExtend 64)) (r.cellAt c).pipe.pc
         (r.cellAt c).pipe.pdSpent).mark c .trapped) ∧ (r.cellAt c).wait = .none ∧ r.mem = s.mem) ∧
  (∀ (s : State) (id : Nat) (g : Gang), gangOf s id = some g →
     (g.rejoined = [] ∨ g.rejoined.length + g.exited.length < g.size → rejoinCheck s id = s) ∧
     (g.rejoined ≠ [] → g.size ≤ g.rejoined.length + g.exited.length → ∀ lead ∈ membersOf s g,
       (∀ x ∈ membersOf s g, x = lead ∨ lead.task.gmem.toNat < x.task.gmem.toNat) →
         let t := rejoinCheck s id
         (∃ g', gangOf t id = some g' ∧ g'.fused = true ∧ g'.rejoined = []) ∧
         (∀ c ∈ g.cells, (s.cellAt c).running = true → (s.cellAt c).task.gang = id →
           let y := t.cellAt c
           y.wait = .none ∧ y.task.fused = true ∧ y.pipe.pc = lead.pipe.pc ∧ y.pipe.inner = lead.pipe.inner ∧
           y.pipe.outer = lead.pipe.outer ∧ y.regs = (s.cellAt c).regs) ∧
         ∀ y ∈ s.tasks.saved, y.gang = id → ∃ z ∈ t.tasks.saved, z.gang = id ∧ z.gmem = y.gmem ∧
           z.image = rejoined lead.pipe y.image))

/-! ### Ordering words, control registers, traps -/

/-- WAIT polls s[sa] by an acquire load at the home; it issues with the value read once that differs from the comparand of its
first poll or the time has run out, and before that keeps the comparand and what the polls did to the L1; a member of a fused gang
keeps the value that ended its loop until the gang issues (R440). A poll of peer memory is a load flit, of a domain page one whose
response is awaited (R194, R294); none leaves behind an ordered access under way (R182). PHASE closes
and then opens at its scope once the task's CELL-path accesses have landed (R177, R400); FENCE waits for those accesses and
with `.i` also writes back the L1 and empties the instruction cache (R186, R366). XFENCE waits for the covered accesses of
class a, makes them visible (every dirty byte of the L1 for CELL, the accepted media records for MEDIA, the inbound writes for
HOSTIN), and to CELL opens at its scope and drops every clean byte (R189, R441). After that no dirty byte, no accepted record,
no inbound write is left, and after an open no byte that is not dirty. -/
def Obligations.OrderingWordsComplete : Prop :=
  ∀ (h : Header) (s : State), Plain h s → ∀ o : CS,
    let c := s.cell
    let k := o.scope.toNat
    ((Instr.wait h o).WellFormed → User s →
      (∀ v, c.pipe.got = some v →
        exec (.wait h o) s = .next ((s.push (inFlight h 1 0 [c.dstS o.sd v])).mark s.cur .issued)) ∧
      (c.pipe.got = none → ∀ sp a s0, resolve s (c.rdS o.sa) 0 0 8 0 = .ok (sp, a, s0) →
        let first := c.pipe.polled.getD (c.rdS o.sb)
        let polling := fun (t : State) => Host.Outcome.next (φ := Fault) (ρ := Refusal)
          ((t.upd fun x => { x with pipe := { x.pipe with polled := some first } }).mark s.cur .polled)
        let load := homeLoad s0 s.cur (domainPage s0 s.cur (c.rdS o.sa).toNat) a
        (orderWaits c = true → exec (.wait h o) s = .next (frozen s)) ∧
        (Unordered s → load = .waits → exec (.wait h o) s = .next (frozen s)) ∧
        (Unordered s → ∀ t, load = .sent t → exec (.wait h o) s = polling t) ∧
        (Unordered s → ∀ s1, load = .ready s1 →
          let r := readHome s1 sp a 8
          let v := BitVec.ofNat 64 (leNat r.1)
          let read := openAcquire r.2 s.cur k
          let ended := v ≠ first ∨ c.pipe.expired = true
          (ended → c.task.fused = false →
            exec (.wait h o) s = .next ((read.push (inFlight h 1 0 [c.dstS o.sd v])).mark s.cur .issued)) ∧
          (ended → c.task.fused = true → exec (.wait h o) s =
            .next ((read.upd fun x => { x with pipe := { x.pipe with got := some v } }).mark s.cur .polled)) ∧
          (¬ ended → exec (.wait h o) s = polling read)))) ∧
    ((Instr.phase h o).WellFormed →
      (k < 2 ∨ c.pipe.accs = [] →
        exec (.phase h o) s = .next ((openPhase (closePhase s s.cur k) s.cur k).mark s.cur .issued)) ∧
      (2 ≤ k → c.pipe.accs ≠ [] → exec (.phase h o) s = .next (frozen s))) ∧
    ((Instr.fence h o).WellFormed →
      (c.pipe.accs = [] → bit o.imm 0 = false → exec (.fence h o) s = .next (s.mark s.cur .issued)) ∧
      (c.pipe.accs = [] → bit o.imm 0 = true → exec (.fence h o) s =
        .next (((l1Clean s s.cur).upd fun x => { x with icache := [] }).mark s.cur .issued)) ∧
      (c.pipe.accs ≠ [] → exec (.fence h o) s = .next (frozen s))) ∧
    ((Instr.xfence h o).WellFormed →
      let owed := (o.clsA = 0#4 ∧ c.pipe.accs ≠ []) ∨ (o.clsA = 1#4 ∧ gathPending c = true)
      let covered := if o.clsA = 0#4 then l1Clean s s.cur else if o.clsA = 7#4 then drainMedia s
        else if o.clsA = 9#4 then drainInbound s fun _ => true else s
      (owed → exec (.xfence h o) s = .next (frozen s)) ∧
      (¬ owed → o.clsB = 0#4 →
        exec (.xfence h o) s = .next ((l1Open (openPhase covered s.cur k) s.cur).mark s.cur .issued)) ∧
      (¬ owed → o.clsB ≠ 0#4 → exec (.xfence h o) s = .next (covered.mark s.cur .issued))) ∧
    (∀ l ∈ ((l1Clean s s.cur).cellAt (l1Owner s s.cur)).lines, l.dirty = 0) ∧
    (∀ l ∈ ((l1Open s s.cur).cellAt (l1Owner s s.cur)).lines, l.have_ &&& ~~~l.dirty = 0) ∧
    (drainMedia s).pkg.mdRecs = [] ∧ (drainInbound s fun _ => true).inbound = []

/-- CRRD puts the register's value in flight for sd, RDTIME device time; CRWR puts its write in flight at latency 1 for a
register of the cell; CRSET and CRCLR read and write at one instant and return the old value; a write reserved to supervisor mode
traps PRIVILEGE in user mode (R111, R355, R410). That a write of a register of the package is performed at the issue itself, where
R317 says latency 1 of every register, is the model's choice (log 47).
CRSET and CRCLR land as one read and one write: sd gets the old value, and the register is left as a CRWR of the same value
leaves it, write-one-to-clear bits included (R355). -/
def Obligations.ControlRegistersComplete : Prop :=
  (∀ (h : Header) (s : State), Plain h s → ∀ o : CS,
     let c := s.cell
     let n := o.cr.toNat
     let v := c.rdS o.sa
     let old := crRead s s.cur n
     let go := fun (t : State) => Host.Outcome.next (φ := Fault) (ρ := Refusal) (t.mark s.cur .issued)
     let bank := c.sup && decide (48 ≤ o.sd.toNat)
     let allowed := crPrivileged n = true → c.sup = true
     ((Instr.crrd h o).WellFormed → exec (.crrd h o) s = .next (scalarResult s h 1 o.sd old)) ∧
     ((Instr.rdtime h o).WellFormed →
       exec (.rdtime h o) s = .next (scalarResult s h 1 o.sd (BitVec.ofNat 64 s.pkg.time))) ∧
     (allowed →
       ((Instr.crwr h o).WellFormed →
         (crLocal n = true → exec (.crwr h o) s = .next (issued s (inFlight h 1 0 [.cr o.cr v]))) ∧
         (crLocal n = false → exec (.crwr h o) s = go (crWritePkg s s.cur n v))) ∧
       ((Instr.crset h o).WellFormed →
         (crLocal n = true → exec (.crset h o) s = .next (issued s (inFlight h 1 0 [.rmw o.cr true v o.sd bank]))) ∧
         (crLocal n = false → exec (.crset h o) s =
           go ((crWritePkg s s.cur n (old ||| v)).push (inFlight h 1 0 [c.dstS o.sd old])))) ∧
       ((Instr.crclr h o).WellFormed →
         (crLocal n = true → exec (.crclr h o) s = .next (issued s (inFlight h 1 0 [.rmw o.cr false v o.sd bank]))) ∧
         (crLocal n = false → exec (.crclr h o) s =
           go ((crWritePkg s s.cur n (old &&& ~~~v)).push (inFlight h 1 0 [c.dstS o.sd old]))))) ∧
     (¬ allowed →
       ((Instr.crwr h o).WellFormed →
         exec (.crwr h o) s = .next (trapped s (trapOf cPrivilege (h.slot.zeroExtend 64)))) ∧
       ((Instr.crset h o).WellFormed →
         exec (.crset h o) s = .next (trapped s (trapOf cPrivilege (h.slot.zeroExtend 64)))) ∧
       ((Instr.crclr h o).WellFormed →
         exec (.crclr h o) s = .next (trapped s (trapOf cPrivilege (h.slot.zeroExtend 64)))))) ∧
  (∀ (c : Cell) (n : BitVec 12) (v : Word) (sd : BitVec 6), sd ≠ 0 → crLocal n.toNat = true →
     (∀ set, (c.land (.rmw n set v sd false)).regs.s.rd sd = c.crGet n.toNat) ∧
     (c.land (.rmw n true v sd false)).crGet n.toNat = (c.land (.cr n (c.crGet n.toNat ||| v))).crGet n.toNat ∧
     (c.land (.rmw n false v sd false)).crGet n.toNat = (c.land (.cr n (c.crGet n.toNat &&& ~~~v))).crGet n.toNat ∧
     (c.land (.rmw 0x051 true v sd false)).nx.ctl = (c.nx.ctl ||| v) &&& 0xFFFF#64)

/-- TRAP issues, and its trap is pending behind those that already are until the next boundary (R422). BRK takes BREAKPOINT
before issue, or passes once under SKIP1 and clears it (R202, R342). TLBI in supervisor mode takes the next sequence number,
which lands in sd; in user mode it traps PRIVILEGE (R223, R420). -/
def Obligations.TrapWordsComplete : Prop :=
  ∀ (h : Header) (s : State), Plain h s → ∀ o : CS,
    let go := fun (t : State) => Host.Outcome.next (φ := Fault) (ρ := Refusal) (t.mark s.cur .issued)
    ((Instr.trap h o).WellFormed →
      exec (.trap h o) s = go (s.upd fun x => { x with events := { x.events with trap := x.events.trap ++ [o.imm] } })) ∧
    ((Instr.brk h o).WellFormed →
      (bit s.cell.tr.dbgctl 2 = true → exec (.brk h o) s =
        go (s.upd fun x => { x with tr := { x.tr with dbgctl := x.tr.dbgctl &&& ~~~4#64 } })) ∧
      (bit s.cell.tr.dbgctl 2 = false → exec (.brk h o) s = .next (trapped s (trapOf cBreakpoint 0)))) ∧
    ((Instr.tlbi h o).WellFormed →
      (s.cell.sup = true →
        exec (.tlbi h o) s = go ((takeTlbi s s.cur ((s.cell.rdS o.sb).extractLsb' 0 16)
          (if bit o.imm 0 then none else some ((s.cell.rdS o.sa).toNat % 2 ^ 56))).push
            (inFlight h 1 0 [s.cell.dstS o.sd (BitVec.ofNat 64 s.pkg.tlbiNext)]))) ∧
      (∀ ctx va, (takeTlbi s s.cur ctx va).pkg.tlbiNext = s.pkg.tlbiNext + 1) ∧
      (User s → exec (.tlbi h o) s = .next (trapped s (trapOf cPrivilege (h.slot.zeroExtend 64)))))

/-- TRET in a handler with nothing in flight and STATUS.ABORT clear: user mode again at EPC, SUP, PDDONE, ABORT and PARK clear,
the flight record counts again, and the bundle at EPC keeps PDDONE; with STATUS.PARK the task is parked and reported, with the
faulting VA, which after an engine fault is in TADDR (R207, R214). With ABORT, or after a machine check, the task ends once its
M words have retired (R46). With results in flight it does not issue (R201, R203, R423). R203 says of ABORT and PARK that they
read 0 after TRET; that PDDONE does too is the model's reading (log 48). -/
def Obligations.ReturnFromTrap : Prop :=
  ∀ (h : Header) (o : CS) (s : State), Plain h s → (Instr.tret h o).WellFormed → s.cell.sup = true →
    (s.cell.pipe.inflight ≠ [] → exec (.tret h o) s = .next (s.mark s.cur .idle)) ∧
    (s.cell.pipe.inflight = [] →
      (bit s.cell.tr.status 2 = false → (s.cell.tr.cause.toNat % 256 ≠ cMachineCheck.toNat) → ∃ t,
        exec (.tret h o) s = .next t ∧ t.cell.sup = false ∧ t.cell.tr.status = 0 ∧
        t.cell.pipe.pc = s.cell.tr.epc.extractLsb' 0 32 ∧ t.cell.pipe.inflight = s.cell.pipe.flight ∧
        t.cell.pipe.flight = [] ∧ t.cell.pipe.pdSpent = bit s.cell.tr.status 1 ∧ t.cell.regs = s.cell.regs ∧
        t.mem = s.mem ∧
        (bit s.cell.tr.status 3 = true → t.cell.wait = .park ∧ t.pkg.reports = s.pkg.reports ++
          [cellReport s s.cur 4 (s.cell.tr.cause.extractLsb' 0 8) s.cell.tr.epc s.cell.tr.tval
            (if s.cell.tr.cause.toNat % 256 = cEngineFault.toNat then s.cell.tr.taddr else s.cell.tr.tval)]) ∧
        (bit s.cell.tr.status 3 = false → t.cell.wait = s.cell.wait ∧ t.pkg = s.pkg)) ∧
      (bit s.cell.tr.status 2 = true ∨ s.cell.tr.cause.toNat % 256 = cMachineCheck.toNat →
        exec (.tret h o) s = .next ((abortTask s s.cur).mark s.cur .issued)) ∧
      (s.cell.mx.queue = [] → s.cell.mx.run = none → (abortTask s s.cur).cell.running = false) ∧
      (s.cell.mx.queue ≠ [] ∨ s.cell.mx.run ≠ none → (abortTask s s.cur).cell = endWhenIdle s.cell))

/-- Taking a trap in user mode: CAUSE, EPC and TVAL take their values, SUP becomes 1 and PDDONE says whether the bundle at EPC
has spent its PD, ABORT and PARK stay, fetch goes to word 0 of the handler, and every result in flight moves to the flight
record. Nothing else of the machine changes (R197, R198, R204).
A trap in supervisor mode is a double trap: the task ends as by ABORT, with a report of kind 2; BREAKPOINT and STEP under
DBGCTL.HALT halt the cell with a report of kind 5, its bundle's issue cycle spent (R200, R215, R342). What a report of kind 2 or 5
gives as cause, EPC and TVAL, and that no report of kind 0 is sent, are log 22's choices. -/
def Obligations.TrapsAreTaken : Prop :=
  (∀ (s : State) (c : BitVec 9) (t : Trap) (epc : BitVec 32) (pd : Bool),
     (s.cellAt c).sup = false →
     (bit (s.cellAt c).tr.dbgctl 1 = false ∨ (t.cause ≠ cBreakpoint ∧ t.cause ≠ cStep)) →
     let u := takeTrap s c t epc pd
     let x := s.cellAt c
     let y := u.cellAt c
     let p := x.pipe
     let q := y.pipe
     u = { s with cells := u.cells } ∧ (∀ d, d ≠ c → u.cellAt d = s.cellAt d) ∧
     y = { x with tr := y.tr, pipe := q } ∧
     y.tr = { x.tr with cause := y.tr.cause, epc := y.tr.epc, tval := y.tr.tval, status := y.tr.status } ∧
     q = { p with
       pc := q.pc, seq := q.seq, redirect := q.redirect, flight := q.flight, inflight := q.inflight, late := q.late,
       ticked := q.ticked, pdSpent := q.pdSpent, polled := q.polled, expired := q.expired, asked := q.asked, got := q.got } ∧
     y.wait = x.wait ∧
     y.tr.cause.toNat = t.cause.toNat + 256 * t.kind.toNat ∧ y.tr.epc = epc.zeroExtend 64 ∧ y.tr.tval = t.tval ∧
     y.sup = true ∧ bit y.tr.status 1 = pd ∧ bit y.tr.status 2 = bit x.tr.status 2 ∧
     bit y.tr.status 3 = bit x.tr.status 3 ∧ q.pc = 0 ∧ q.flight = p.inflight ∧ q.inflight = [] ∧
     y.regs = x.regs ∧ y.pad = x.pad ∧ y.mx = x.mx ∧ q.pend = p.pend ∧ q.accs = p.accs ∧ q.inner = p.inner ∧
     q.outer = p.outer ∧ y.nx = x.nx ∧ y.tr.tvec = x.tr.tvec) ∧
  (∀ (s : State) (c : BitVec 9) (t : Trap) (epc : BitVec 32) (pd : Bool),
     ((s.cellAt c).sup = true →
       takeTrap s c t epc pd = abortTask (s.report (cellReport s c 2 t.cause (epc.zeroExtend 64) t.tval 0)) c) ∧
     ((s.cellAt c).sup = false → bit (s.cellAt c).tr.dbgctl 1 = true → (t.cause = cBreakpoint ∨ t.cause = cStep) →
       ((takeTrap s c t epc pd).cellAt c).wait = .halt ∧
       (takeTrap s c t epc pd).pkg.reports = s.pkg.reports ++ [cellReport s c 5 t.cause (epc.zeroExtend 64) t.tval 0] ∧
       ((takeTrap s c t epc pd).cellAt c).pipe = { (s.cellAt c).pipe with ticked := true, pdSpent := pd } ∧
       ((takeTrap s c t epc pd).cellAt c).tr = (s.cellAt c).tr))

/-! ### Accord words -/

/-- ACCB with a readable descriptor, and no row of it held by the matrix unit, issues and sends one arrival to the engine of its
region: the task, the descriptor, its inputs (none where the descriptor is malformed), whether it is OFF by DET or FUSED, its
tiles and its code; then the cell waits. Once decided the body runs with the region open, or the outputs land and fetch goes to
W + offset. A descriptor in peer memory is first read by a load flit (R194, R294), and the read waits for an ordered access
under way (R182). ACCE closes the open region of its descriptor, sends a sample with the inputs of the ACCB and the outputs now
where the true path ran, and is a NOP for any other region; that it closes a region of the OFF path too, where R302 and R322
call it a NOP, is the model's reading (log 24). ACCINV closes the region and, where an engine holds it, sends the invalidation
and waits (R302 to R304, R320 to R323). -/
def Obligations.AccordWordsComplete : Prop :=
  ∀ (h : Header) (s : State), Plain h s → User s →
    let c := s.cell
    (∀ o : CB, (Instr.accb h o).WellFormed → ∀ pa s0, descAccess s (c.rdS o.sa) = .ok (pa, s0) →
      let load := homeLoad s0 s.cur (domainPage s0 s.cur (c.rdS o.sa).toNat) pa
      (orderWaits c = true → exec (.accb h o) s = .next (frozen s)) ∧
      (Unordered s → load = .waits → exec (.accb h o) s = .next (frozen s)) ∧
      (Unordered s → ∀ t, load = .sent t → exec (.accb h o) s = .next (t.mark s.cur .polled)) ∧
      (Unordered s → ∀ s1, load = .ready s1 →
        let d := parseDesc (s1.mem.bytes pa 256)
        (malformed d (tilesOf c) = true ∨ ((d.isrc = true ∨ rowBusy c (BitVec.ofNat 9 d.inAt) false = false) ∧
          (d.osrc = true ∨ rowBusy c (BitVec.ofNat 9 d.outAt) true = false))) →
        let w := codeBase c + 10 * c.pipe.pc.toNat
        let m : AccMsg := .enter s.cur c.task.gang c.task.gmem c.task.ctx (c.rdS o.sa).toNat
          (if malformed d (tilesOf c) then [] else readVals c d.isrc d.inAt d.nin) (c.task.det || c.task.fused) false
          (tilesOf c) w (w + 10 * o.off.toNat - 1)
        exec (.accb h o) s = .next (((sendAccord s1 (engineFor s1 c.task.ctx (c.rdS o.sa).toNat) m).upd fun x =>
          { x with wait := .accb (c.pipe.pc + o.off) }).mark s.cur .issued))) ∧
    (∀ (ci : BitVec 9) (t : BitVec 32) (a : AccAnswer), let x := s.cellAt ci
      cellLive s ci = true → ci ∉ s.tasks.saving → x.wait = .accbDone t a → x.sup = false → x.task.fused = false →
      x.pipe.inflight = [] → x.pipe.late = [] → x.pipe.accs = [] → ∃ u, cellTurn s ci = .next u ∧
        (u.cellAt ci).wait = .none ∧ (u.cellAt ci).pad = x.pad ∧ (u.cellAt ci).pipe.rest = none ∧
        (∀ r, a = .body r → (u.cellAt ci).region = some r ∧ (u.cellAt ci).regs = x.regs ∧
          (x.pipe.redirect = none → x.pipe.inner = none → x.pipe.outer = none → (u.cellAt ci).pipe.pc = x.pipe.seq)) ∧
        (∀ scalar at_ outs, a = .skip scalar at_ outs → (u.cellAt ci).region = none ∧ (u.cellAt ci).pipe.pc = t ∧
          (u.cellAt ci).regs = ((outLands (64 * s.steps) scalar at_ outs).foldl Cell.land x).regs)) ∧
    (∀ o : CB, (Instr.acce h o).WellFormed →
      (c.region = none → exec (.acce h o) s = .next (s.mark s.cur .issued)) ∧
      (∀ r, c.region = some r → r.va ≠ (c.rdS o.sa).toNat → exec (.acce h o) s = .next (s.mark s.cur .issued)) ∧
      (∀ r, c.region = some r → r.va = (c.rdS o.sa).toNat →
        let closed := s.upd fun x => { x with region := none }
        (r.true_ = false → exec (.acce h o) s = .next (closed.mark s.cur .issued)) ∧
        (r.true_ = true → ∀ bs, ctxRead s c.task.ctx r.va 256 = .ok bs →
          let d := parseDesc bs
          exec (.acce h o) s = .next ((sendAccord closed r.engine (.sample s.cur c.task.gang c.task.gmem c.task.ctx r.va
            r.ins (readVals c d.osrc d.outAt d.nout) r.check)).mark s.cur .issued)))) ∧
    (∀ o : CS, (Instr.accinv h o).WellFormed → orderWaits c = true → ∀ r, descAccess s (c.rdS o.sa) = .ok r →
      exec (.accinv h o) s = .next (frozen s)) ∧
    (∀ o : CS, (Instr.accinv h o).WellFormed → Unordered s → ∀ pa s1, descAccess s (c.rdS o.sa) = .ok (pa, s1) → ∃ t,
      exec (.accinv h o) s = .next t ∧ t.mem = s1.mem ∧ t.cell.regs = s1.cell.regs ∧
      (∀ r, t.cell.region = some r → r.va ≠ (c.rdS o.sa).toNat) ∧
      (findRegion s1 c.task.ctx (c.rdS o.sa).toNat = none → t.cell.wait = c.wait ∧ t.accord = s1.accord) ∧
      (∀ e r, findRegion s1 c.task.ctx (c.rdS o.sa).toNat = some (e, r) → t.cell.wait = .accinv ∧
        t.accord = (sendAccord s1 e
          (.inval s.cur c.task.gang c.task.gmem c.task.ctx (c.rdS o.sa).toNat)).accord))

/-! ### The A slots -/

/-- The address-index and handle words read their sources at issue and land at latency 1: AMOV, AGET, AADD, AUPD, and AMODE for
a mode value that R88 allows (any other traps ILLEGAL_OP); HSET replaces one field of a handle and HGET reads one; LEA lands
the effective address, with its post-update under U (R89, R90, R93, R314, R319, R325, R328, R329, R331, R370, R372, R377).
The post-update of R89, over the integers: linear mod 2^64, modulo L with a result in 0 .. L − 1 for any index and step, and
bit-reversed on the low n bits of the index. -/
def Obligations.IndexWordsAndModes : Prop :=
  (∀ (h : Header) (s : State), Plain h s →
     let c := s.cell
     let one := fun (l : Land) => Host.Outcome.next (φ := Fault) (ρ := Refusal) (issued s (inFlight h 1 0 [l]))
     (∀ o : AA,
       ((Instr.amov h o).WellFormed → exec (.amov h o) s = one (.a o.ad (c.rdS o.ss + o.imm.signExtend 64))) ∧
       ((Instr.aget h o).WellFormed → exec (.aget h o) s = one (c.dstS o.ss (c.regs.a.rd o.aa))) ∧
       ((Instr.aadd h o).WellFormed →
         exec (.aadd h o) s = one (.a o.ad (c.regs.a.rd o.aa + c.rdS o.ss + o.imm.signExtend 64))) ∧
       ((Instr.aupd h o).WellFormed →
         exec (.aupd h o) s = one (.a o.ad (indexUpdate (c.regs.m.rd o.ad) (c.regs.a.rd o.ad)))) ∧
       ((Instr.amode h o).WellFormed → modeOk (c.rdS o.ss) = true →
         exec (.amode h o) s = one (.m o.ad (c.rdS o.ss))) ∧
       ((Instr.amode h o).WellFormed → modeOk (c.rdS o.ss) = false →
         exec (.amode h o) s = .next (trapped s (trapOf cIllegalOp (h.slot.zeroExtend 64))))) ∧
     (∀ o : AH,
       ((Instr.hset h o).WellFormed → ∃ x, exec (.hset h o) s = one (.h o.hd x) ∧
         ∀ i < 256, x.getLsbD i =
           (let f := hField o.id.toNat
            if f.1 ≤ i ∧ i < f.1 + f.2 then (c.rdS o.ss + o.imm.signExtend 64).getLsbD (i - f.1)
            else (c.regs.h.rd o.hs).getLsbD i)) ∧
       ((Instr.hget h o).WellFormed → exec (.hget h o) s =
         one (c.dstS o.ss (BitVec.ofNat 64
           ((c.regs.h.rd o.hs).toNat / 2 ^ (hField o.id.toNat).1 % 2 ^ (hField o.id.toNat).2))))) ∧
     (∀ o : AM, (Instr.lea h o).WellFormed → memLegal s o.b o.hb o.space = true →
       exec (.lea h o) s = .next (issued s (inFlight h 1 0 (c.dstS (o.data.extractLsb' 0 6)
         (BitVec.ofInt 64 ((if o.b = 1#1 then (hBase (c.regs.h.rd o.hb) : Int) else 0) + (c.regs.a.rd o.ai).toNat
           + o.disp.toInt)) ::
         if o.u = 1#1 then [.a o.ai (indexUpdate (c.regs.m.rd o.ai) (c.regs.a.rd o.ai))] else []))))) ∧
  (∀ (m a : Word),
     let step := sgn 20 (fld m 8 20)
     let len := fld m 32 24
     (fld m 0 2 = 0 → indexUpdate m a = BitVec.ofInt 64 (a.toNat + step)) ∧
     (fld m 0 2 = 1 → 0 < len →
       (indexUpdate m a).toNat < len ∧ ∃ q : Int, ((indexUpdate m a).toNat : Int) + q * len = a.toNat + step) ∧
     (∀ n, fld m 0 2 = 2 → len = 2 ^ n → 1 ≤ n → n ≤ 23 →
       (indexUpdate m a).toNat < 2 ^ n ∧
       ∃ q : Int, (bitrev n (indexUpdate m a).toNat : Int) + q * 2 ^ n = bitrev n (a.toNat % 2 ^ n) + step))

/-- The address checks of R90 in the order of R110: the scratchpad range traps SP_RANGE, then a misaligned address ALIGN, then
the staging window's offset (PROTECTION), its frame (FRAME_OFF) and the queue region of a present frame (PROTECTION); an access
that passes is at the address itself, at its slice, or where the translation says, and a global address of 2^56 or above is
PROTECTION. That an access below 32,768 · SPR passes with SPG = 0 and STKB above 0 too is log 44's choice. -/
def Obligations.AddressChecks : Prop :=
  ∀ (s : State) (ea : Word) (slice size kind : Nat), 0 < size →
    (padBytes s.cell ≤ ea.toNat → resolve s ea 1 slice size kind = .error (trapOf cSpRange ea)) ∧
    (ea.toNat < padBytes s.cell → ea.toNat % size = 0 → resolve s ea 1 slice size kind = .ok (.pad, ea.toNat, s)) ∧
    (ea.toNat < padBytes s.cell → ea.toNat % size ≠ 0 → resolve s ea 1 slice size kind = .error (trapOf cAlign ea)) ∧
    (∀ space, space ≠ 1 → ea.toNat % size ≠ 0 → resolve s ea space slice size kind = .error (trapOf cAlign ea)) ∧
    (ea.toNat % size = 0 → 2 ^ 20 ≤ ea.toNat → resolve s ea 2 slice size kind =
      .error { cause := cProtection, kind := BitVec.ofNat 4 kind, tval := BitVec.ofNat 64 slice }) ∧
    (ea.toNat % size = 0 → ea.toNat < 2 ^ 20 → bit s.pkg.frames (slice / 64) = false →
      resolve s ea 2 slice size kind = .error (trapOf cFrameOff ea)) ∧
    (ea.toNat % size = 0 → ea.toNat < 2 ^ 20 → bit s.pkg.frames (slice / 64) = true → 56 ≤ slice % 64 →
      resolve s ea 2 slice size kind =
        .error { cause := cProtection, kind := BitVec.ofNat 4 kind, tval := BitVec.ofNat 64 slice }) ∧
    (ea.toNat % size = 0 → ea.toNat < 2 ^ 20 → bit s.pkg.frames (slice / 64) = true → slice % 64 < 56 →
      resolve s ea 2 slice size kind = .ok (.staging, slice * 2 ^ 20 + ea.toNat, s)) ∧
    (ea.toNat % size = 0 → 2 ^ 56 ≤ ea.toNat → resolve s ea 0 slice size kind =
      .error { cause := cProtection, kind := BitVec.ofNat 4 kind, tval := ea }) ∧
    (∀ pa s1, ea.toNat % size = 0 → xlate s s.cur ea kind = .ok (pa, s1) →
      resolve s ea 0 slice size kind = .ok (.main, pa, s1))

/-- Loads issue and read at issue: LD lands the extended value, LDV the row, HLD the handle; from the scratchpad LD lands at
latency 6 and LDV at 8, otherwise, and for HLD in every space, the result is variable-latency. An acquire reads at the home and
opens a phase after the read. PREF allocates a line or is dropped, raises nothing, and changes main memory at most by the dirty
bytes of lines that leave the L1 (R170, R171, R371, R375, R376, R403). A handle from the scratchpad is there after six issue cycles
at the latest (R371). None issues behind an ordered access of an earlier bundle (R182). That a load reads, and a line is allocated,
at its issue, and that the wait of R182 holds the bundle, is the model's choice (log 6). -/
def Obligations.LoadsComplete : Prop :=
  ∀ (h : Header) (o : AM) (s : State), Clear h s → amLegal s o = true → Unordered s → ∀ (sp : Space) (a : Nat) (s1 : State),
    let c := s.cell
    let ea := amAddr c o
    let slice := amSlice c o.hb
    let bump := indexResult h c o.u o.ai
    (let n := 2 ^ o.size.toNat
     (Instr.ld h o).WellFormed → (h.av = 0#1 ∨ o.space ≠ 1#2) → resolve s ea o.space.toNat slice n 0 = .ok (sp, a, s1) →
      ¬ (sp = .pad ∧ padBusy c a n false = true) →
      let land := fun (bs : List Byte) => c.dstS (o.data.extractLsb' 0 6) (loadExt o.sign n bs)
      (o.ord = 0#2 → let r := readPlain s1 sp a n
        exec (.ld h o) s = done h s ((arrives h sp 6 (land r.1) ea a false r.2).push bump)) ∧
      (o.ord = 1#2 → let r := readHome s1 sp a n
        exec (.ld h o) s =
          done h s ((arrives h sp 6 (land r.1) ea a true (openAcquire r.2 s.cur o.scope.toNat)).push bump))) ∧
    ((Instr.ldv h o).WellFormed → (h.av = 0#1 ∨ o.space ≠ 1#2) → noTile c o.data = none →
      resolve s ea o.space.toNat slice 256 0 = .ok (sp, a, s1) → rowBusy c o.data true = false →
      ¬ (sp = .pad ∧ padBusy c a 256 false = true) →
      let r := readPlain s1 sp a 256
      exec (.ldv h o) s =
        done h s ((arrives h sp 8 (.row o.data (bytesRow r.1) (BitVec.allOnes 2048)) ea a false r.2).push bump)) ∧
    ((Instr.hld h o).WellFormed → resolve s ea o.space.toNat slice 32 0 = .ok (sp, a, s1) →
      ¬ (sp = .pad ∧ padBusy c a 32 false = true) →
      let r := readPlain s1 sp a 32
      let sent := sendAccess r.2 h [.h (o.data.extractLsb' 0 4) (BitVec.ofNat 256 (leNat r.1))] 0 sp ea a [] false
      exec (.hld h o) s = done h s ((if sp = .pad then sent.upd (markSoon r.2.nextId) else sent).push bump) ∧
      (sp = .pad → ∀ t, exec (.hld h o) s = .next t → ∀ x ∈ (Cell.ticks 6 t.cell).pipe.accs, x.id ≠ r.2.nextId)) ∧
    ((Instr.pref h o).WellFormed → ∃ t, exec (.pref h o) s = .next t ∧ t.cell.regs = c.regs ∧ t.cell.tr.cause = c.tr.cause ∧
      t.cell.verdict = .issued ∧ t.staging = s.staging ∧ t.cell.pad = c.pad ∧
      ∀ x, t.mem.rd x = s.mem.rd x ∨ DirtyByte s s.cur x (t.mem.rd x))

/-- Stores issue and write at issue: ST the low bytes of its register, STV the row, HST the handle, each lowest byte at the
lowest address; a release first closes the phase at its scope and writes at the home (R182, R373, R404, R405). At QUAD or wider a
release does not issue while a store or atomic of an earlier bundle is not acknowledged, and none issues behind an ordered access
(R177, R182, R194). That a store writes at its issue, and that these waits hold the bundle, is the model's choice (log 6). -/
def Obligations.StoresComplete : Prop :=
  ∀ (h : Header) (o : AM) (s : State), Clear h s → amLegal s o = true → Unordered s → ∀ (sp : Space) (a : Nat) (s1 : State),
    let c := s.cell
    let ea := amAddr c o
    let slice := amSlice c o.hb
    let bump := indexResult h c o.u o.ai
    (let n := 2 ^ o.size.toNat
     (Instr.st h o).WellFormed → (h.av = 0#1 ∨ o.space ≠ 1#2) → resolve s ea o.space.toNat slice n 1 = .ok (sp, a, s1) →
      ¬ (sp = .pad ∧ padBusy c a n true = true) →
      let bs := toBytes n (c.rdS (o.data.extractLsb' 0 6)).toNat
      (o.ord = 0#2 → exec (.st h o) s = done h s ((acknowledged h sp ea a bs false (writePlain s1 sp a bs)).push bump)) ∧
      (o.ord = 2#2 → releaseWaits c o.scope.toNat = true → exec (.st h o) s = .next (frozen s)) ∧
      (o.ord = 2#2 → releaseWaits c o.scope.toNat = false → exec (.st h o) s = done h s
        ((acknowledged h sp ea a bs true (writeHome (closePhase s1 s.cur o.scope.toNat) sp a bs)).push bump))) ∧
    ((Instr.stv h o).WellFormed → (h.av = 0#1 ∨ o.space ≠ 1#2) → noTile c o.data = none →
      resolve s ea o.space.toNat slice 256 1 = .ok (sp, a, s1) → rowBusy c o.data false = false →
      ¬ (sp = .pad ∧ padBusy c a 256 true = true) →
      let bs := rowBytes (c.regs.v.rd o.data)
      exec (.stv h o) s = done h s ((acknowledged h sp ea a bs false (writePlain s1 sp a bs)).push bump)) ∧
    ((Instr.hst h o).WellFormed → resolve s ea o.space.toNat slice 32 1 = .ok (sp, a, s1) →
      ¬ (sp = .pad ∧ padBusy c a 32 true = true) →
      let bs := toBytes 32 (c.regs.h.rd (o.data.extractLsb' 0 4)).toNat
      exec (.hst h o) s = done h s ((sendAccess (writePlain s1 sp a bs) h [] 1 sp ea a bs false).push bump))

/-- The frame of a plain store that issues, to an address aligned to its size as R90 leaves it: the issuing cell sees the
stored bytes there and, where its L1 has room for the line, every other byte of every space as before, and main memory outside
those bytes is unchanged; without room, main memory outside them changes at most by dirty bytes that go home from the lines
that leave. No register, special register, tile or flag of the cell changes (R170, R171, R404, R405).
What a cell stored it loads back, whether its L1 holds the line or not; a cacheable store with room leaves main memory as it
is, and a phase close at QUAD or wider then puts the stored bytes into memory, but not one at QUAD where the quad shares its L1,
and none at a narrower scope (R171, R177). That a store writes at its issue is the model's choice (log 6). -/
def Obligations.StoreFrameAndCoherence : Prop :=
  (∀ (h : Header) (o : AM) (s t s1 : State) (sp : Space) (a : Nat),
     let c := s.cell
     let frame := fun (bs : List Byte) => t.cell.verdict = .issued → a % bs.length = 0 →
       (∀ x, a ≤ x → x < a + bs.length → seenIn t sp x = bs.getD (x - a) 0) ∧
       (sp ≠ .main ∨ HasRoom s s.cur → ∀ x, ¬ (a ≤ x ∧ x < a + bs.length) →
         seenIn t sp x = seenIn s sp x ∧ t.mem.rd x = s.mem.rd x) ∧
       (∀ sp' x, sp' ≠ sp → seenIn t sp' x = seenIn s sp' x) ∧
       (∀ x, ¬ (a ≤ x ∧ x < a + bs.length) → t.mem.rd x = s.mem.rd x ∨ DirtyByte s s.cur x (t.mem.rd x)) ∧
       t.cell.regs = c.regs ∧ t.cell.tr.status = c.tr.status ∧ t.cell.nx = c.nx ∧ t.cell.mx = c.mx ∧
       t.cell.entry = c.entry ∧ t.pkg = s.pkg ∧ t.brood = s.brood ∧ t.tasks = s.tasks
     (exec (.st h o) s = .next t → o.ord = 0#2 →
       resolve s (amAddr c o) o.space.toNat (amSlice c o.hb) (2 ^ o.size.toNat) 1 = .ok (sp, a, s1) →
       frame (toBytes (2 ^ o.size.toNat) (c.rdS (o.data.extractLsb' 0 6)).toNat)) ∧
     (exec (.stv h o) s = .next t → resolve s (amAddr c o) o.space.toNat (amSlice c o.hb) 256 1 = .ok (sp, a, s1) →
       frame (rowBytes (c.regs.v.rd o.data))) ∧
     (exec (.hst h o) s = .next t → resolve s (amAddr c o) o.space.toNat (amSlice c o.hb) 32 1 = .ok (sp, a, s1) →
       frame (toBytes 32 (c.regs.h.rd (o.data.extractLsb' 0 4)).toNat))) ∧
  (∀ (s : State) (c : BitVec 9) (a : Nat) (bs : List Byte), a % 256 + bs.length ≤ 256 →
     (l1Load (l1Store s c a bs) c a bs.length).1 = bs ∧
     (cacheable c a = true → (HasRoom s c → (l1Store s c a bs).mem = s.mem) ∧
       ∀ k, (2 ≤ k → (k ≠ 2 ∨ sharedL1 s c = false) →
           ∀ i < bs.length, (closePhase (l1Store s c a bs) c k).mem.rd (a + i) = bs.getD i 0) ∧
         (k < 2 ∨ (k = 2 ∧ sharedL1 s c = true) → closePhase (l1Store s c a bs) c k = l1Store s c a bs)) ∧
     (cacheable c a = false → (l1Store s c a bs).mem = s.mem.store a bs))

/-- AMO and CAS read the old value at the home and land it in sd; AMO writes the new value of its operation, which for WADD is
96 bits wide and lands in sd and sd + 1; CAS writes s[ss] exactly when the old value equals s[sc]; the release's close comes
before, the acquire's open after (R182, R183, R326, R346). A release at QUAD or wider does not issue while a store or atomic of an
earlier bundle is not acknowledged (R177, R182, R194). That the home is read and written at the issue, and that the wait holds the
bundle, is the model's choice (log 6). -/
def Obligations.AtomicsComplete : Prop :=
  ∀ (h : Header) (o : AT) (s : State), Clear h s → memLegal s o.b o.hb o.space = true → Unordered s →
    ∀ (sp : Space) (a : Nat) (s1 : State),
    let c := s.cell
    let n := 4 * 2 ^ o.size.toNat
    resolve s (effAddr c o.b o.hb o.ai 0) o.space.toNat (amSlice c o.hb) n 3 = .ok (sp, a, s1) →
    let closed := if 2 ≤ o.ord.toNat then closePhase s1 s.cur o.scope.toNat else s1
    let r := readHome closed sp a n
    let old := leNat r.1
    let opened := fun (t : State) => if o.ord.toNat % 2 = 1 then openAcquire t s.cur o.scope.toNat else t
    let v := (c.rdS o.ss).toNat % 2 ^ (8 * n)
    let wide := ((c.rdS (o.ss + 1)).toNat * 2 ^ 64 + (c.rdS o.ss).toNat) % 2 ^ 96
    let sends := fun (t : State) (lands : List Land) (bs : List Byte) =>
      done h s (sendAccess (opened t) h lands 2 sp (effAddr c o.b o.hb o.ai 0) a bs (decide (o.ord ≠ 0)))
    let waits := 2 ≤ o.ord.toNat ∧ releaseWaits c o.scope.toNat = true
    ((Instr.amo h o).WellFormed → waits → exec (.amo h o) s = .next (frozen s)) ∧
    ((Instr.cas h o).WellFormed → waits → exec (.cas h o) s = .next (frozen s)) ∧
    (¬ waits →
      ((Instr.amo h o).WellFormed → o.op ≠ 9#4 →
        exec (.amo h o) s = sends (writeHome r.2 sp a (toBytes n (amoNew o.op.toNat (8 * n) old v)))
          [c.dstS o.sd (BitVec.ofNat 64 old)] (toBytes n v)) ∧
      ((Instr.amo h o).WellFormed → o.op = 9#4 →
        exec (.amo h o) s = sends (writeHome r.2 sp a (toBytes n (amoNew 9 (8 * n) old wide)))
          (if o.sd = 0 then []
            else [c.dstS o.sd (BitVec.ofNat 64 old), c.dstS (o.sd + 1) (BitVec.ofNat 64 (old / 2 ^ 64))])
          (toBytes n wide)) ∧
      ((Instr.cas h o).WellFormed → old = (c.rdS o.sc).toNat % 2 ^ (8 * n) →
        exec (.cas h o) s = sends (writeHome r.2 sp a (toBytes n v)) [c.dstS o.sd (BitVec.ofNat 64 old)]
          (toBytes n (c.rdS o.ss).toNat)) ∧
      ((Instr.cas h o).WellFormed → old ≠ (c.rdS o.sc).toNat % 2 ^ (8 * n) →
        exec (.cas h o) s = sends r.2 [c.dstS o.sd (BitVec.ofNat 64 old)] (toBytes n (c.rdS o.ss).toNat)))

/-! ### The V slot -/

/-- VADD, VSUB, VMUL and VFMA, register and immediate form, issue once their rows are free, at latency 2 and 4. Each governed
lane takes the exact result of its sources (abs before negate, lane 0 of vb with broadcast, the immediate of R97), scaled,
clamped and rounded once (R128, R425, R432).
A row outside the reservation traps NO_TILE. -/
def Obligations.VectorArithmeticComplete : Prop :=
  ∀ (h : Header) (s : State), Plain h s → User s →
    let c := s.cell
    (∀ o : VR,
      let ty := o.ty.toNat
      let f := fun op i =>
        arithLane op ty (cellMode c o.rnd) (decide (o.sat = 1)) (decide (o.clamp = 1)) (scaleExp o.scale)
          (srcA o (lane (widthOf ty) (c.rdV o.va) i))
          (srcB o (lane (widthOf ty) (c.rdV o.vb) (if o.bc = 1#2 then 0 else i)))
          (FV.ofBits ty (lane (widthOf ty) (c.rdV o.vd) i))
      (RowsFree s [(o.vd, true), (o.va, false), (o.vb, false)] →
        ((Instr.vadd h o).WellFormed → WritesLanes s h 2 ty (c.rdK o.k) o.vd (f .add) (exec (.vadd h o) s)) ∧
        ((Instr.vsub h o).WellFormed → WritesLanes s h 2 ty (c.rdK o.k) o.vd (f .sub) (exec (.vsub h o) s)) ∧
        ((Instr.vmul h o).WellFormed → WritesLanes s h 4 ty (c.rdK o.k) o.vd (f .mul) (exec (.vmul h o) s)) ∧
        ((Instr.vfma h o).WellFormed → WritesLanes s h 4 ty (c.rdK o.k) o.vd (f .fma) (exec (.vfma h o) s))) ∧
      ((Instr.vadd h o).WellFormed → tilesOf c ≤ o.vd.toNat / 64 →
        exec (.vadd h o) s = .next (trapped s (trapOf cNoTile (BitVec.ofNat 64 (o.vd.toNat / 64)))))) ∧
    (∀ o : VI,
      let ty := o.ty.toNat
      let f := fun op i =>
        arithLane op ty (cellMode c o.rnd) (decide (o.sat = 1)) (decide (o.clamp = 1)) 0
          (FV.ofBits ty (lane (widthOf ty) (c.rdV o.va) i)) (FV.ofBits ty (immLane ty o.imm))
          (FV.ofBits ty (lane (widthOf ty) (c.rdV o.vd) i))
      RowsFree s [(o.vd, true), (o.va, false)] →
        ((Instr.vaddImm h o).WellFormed → WritesLanes s h 2 ty (c.rdK o.k) o.vd (f .add) (exec (.vaddImm h o) s)) ∧
        ((Instr.vsubImm h o).WellFormed → WritesLanes s h 2 ty (c.rdK o.k) o.vd (f .sub) (exec (.vsubImm h o) s)) ∧
        ((Instr.vmulImm h o).WellFormed → WritesLanes s h 4 ty (c.rdK o.k) o.vd (f .mul) (exec (.vmulImm h o) s)) ∧
        ((Instr.vfmaImm h o).WellFormed → WritesLanes s h 4 ty (c.rdK o.k) o.vd (f .fma) (exec (.vfmaImm h o) s)))

/-- Lanes of an integer type without scale: the exact sum, difference, product or product-sum of the lanes as numbers, wrapped
to the width without saturation, and with it the bound passed, which counts saturate (R128). -/
def Obligations.IntegerLanes : Prop :=
  ∀ (ty mode a b c : Nat) (op : LaneOp), 6 ≤ ty → ty ≤ 12 →
    let w := widthOf ty
    let v := fun x => laneInt ty x
    let x : Int := match op with
      | .add => v a + v b
      | .sub => v a - v b
      | .mul => v a * v b
      | .fma => v a * v b + v c
    let run := fun sat => arithLane op ty mode sat false 0 (FV.ofBits ty a) (FV.ofBits ty b) (FV.ofBits ty c)
    run false = ((x % 2 ^ w).toNat, 0) ∧
    ((intBounds ty).1 ≤ x → x ≤ (intBounds ty).2 → run true = ((x % 2 ^ w).toNat, 0)) ∧
    ((intBounds ty).2 < x → run true = (((intBounds ty).2 % 2 ^ w).toNat, evSaturate)) ∧
    (x < (intBounds ty).1 → run true = (((intBounds ty).1 % 2 ^ w).toNat, evSaturate))

/-- Rounding m·2^(−d), or its negative, to an integer (R126): the result is one of the two neighbours; RNE and RNA take the
nearer one, a tie going to the even one and away from zero; RTZ takes the lower magnitude, RDN never lies above and RUP never
below the value.
The rule of R130: the value a VMIN or VMAX chooses is an operand, no NaN unless both are, and no operand that is a number lies
below the minimum or above the maximum; −0 lies below +0. -/
def Obligations.RoundingAndChoice : Prop :=
  (∀ (neg : Bool) (m d mode : Nat), mode ≤ 4 →
     let n := (roundShift mode neg m d).1
     let y : Int := if neg then -(n : Int) else n
     let x : Int := if neg then -(m : Int) else m
     (n = m / 2 ^ d ∨ n = m / 2 ^ d + 1) ∧
     ((roundShift mode neg m d).2 = true ↔ m % 2 ^ d ≠ 0) ∧
     (m % 2 ^ d = 0 → n * 2 ^ d = m) ∧
     (mode = 0 ∨ mode = 4 → 2 * (y * 2 ^ d - x).natAbs ≤ 2 ^ d) ∧
     (mode = 0 → 2 * (y * 2 ^ d - x).natAbs = 2 ^ d → n % 2 = 0) ∧
     (mode = 4 → 2 * (y * 2 ^ d - x).natAbs = 2 ^ d → m < n * 2 ^ d) ∧
     (mode = 1 → n * 2 ^ d ≤ m) ∧ (mode = 2 → y * 2 ^ d ≤ x) ∧ (mode = 3 → x ≤ y * 2 ^ d)) ∧
  (∀ (isMax : Bool) (a b : FV),
     (a.isNaN = true → b.isNaN = true → (pick isMax a b).isNaN = true) ∧
     (a.isNaN = true → b.isNaN = false → pick isMax a b = b) ∧
     (a.isNaN = false → b.isNaN = true → pick isMax a b = a) ∧
     (a.isNaN = false → b.isNaN = false →
       (pick isMax a b = a ∨ pick isMax a b = b) ∧
       (isMax = false → (pick isMax a b).cmp a ≤ 0 ∧ (pick isMax a b).cmp b ≤ 0) ∧
       (isMax = true → 0 ≤ (pick isMax a b).cmp a ∧ 0 ≤ (pick isMax a b).cmp b) ∧
       (a.isZero = true → b.isZero = true →
         (pick isMax a b).isNeg = if isMax then a.isNeg && b.isNeg else a.isNeg || b.isNeg)))

/-- VMIN and VMAX choose an operand (R130, R434), VCMP writes kd whole from the old kd where the mask is 0 and with zeros above
the lanes, and counts invalid exactly where an unmasked lane has a signalling NaN (R428), VCVT converts the lanes that the
source row has and gives zeros above (R131, R429), and the device functions run on the FP32 value before scale, clamp and
narrowing, at latency 8 (R144, R430). -/
def Obligations.VectorChoiceAndFunctionsComplete : Prop :=
  ∀ (h : Header) (s : State), Plain h s → User s →
    let c := s.cell
    (∀ o : VR,
      let ty := o.ty.toNat
      let w := widthOf ty
      let a := fun i => srcA o (lane w (c.rdV o.va) i)
      let b := fun i => srcB o (lane w (c.rdV o.vb) (if o.bc = 1#2 then 0 else i))
      let k := c.rdK o.k
      let kd := o.vd.extractLsb' 0 3
      let dev := fun (f : FV → FV × BitVec 8) i =>
        let r := finishLane ty (cellMode c o.rnd) (decide (o.sat = 1)) (decide (o.clamp = 1)) (scaleExp o.scale) (f (a i)).1
        (r.1, r.2 ||| (f (a i)).2 ||| sigEvent (a i))
      (RowsFree s [(o.vd, true), (o.va, false), (o.vb, false)] →
        ((Instr.vmin h o).WellFormed →
          WritesLanes s h 2 ty k o.vd (fun i => pickLane false ty (a i) (b i)) (exec (.vmin h o) s)) ∧
        ((Instr.vmax h o).WellFormed →
          WritesLanes s h 2 ty k o.vd (fun i => pickLane true ty (a i) (b i)) (exec (.vmax h o) s))) ∧
      (RowsFree s [(o.va, false), (o.vb, false)] → (Instr.vcmp h o).WellFormed →
        ∃ m ev, exec (.vcmp h o) s = .next (issued s (inFlight h 2 ev [.k kd m])) ∧
          (∀ i < 256, m.getLsbD i = (decide (i < lanesOf ty) &&
            if k.getLsbD i then vecCond o.scale.toNat (a i) (b i) else (c.rdK kd).getLsbD i)) ∧
          ∀ n < 8, ev.getLsbD n = true ↔
            n = 0 ∧ ∃ i < lanesOf ty, k.getLsbD i = true ∧ ((a i).isSig = true ∨ (b i).isSig = true)) ∧
      (RowsFree s [(o.vd, true), (o.va, false)] →
        ((Instr.vcvt h o).WellFormed →
          let src := o.vb.toNat % 16
          WritesLanes s h 3 ty k o.vd (fun i => if i < lanesOf src then
              convLane ty src (cellMode c o.rnd) (decide (o.sat = 1)) (decide (o.clamp = 1)) (scaleExp o.scale)
                (unsignZero src (modify o.absA o.negA (FV.ofBits src (lane (widthOf src) (c.rdV o.va) i))))
            else (0, 0)) (exec (.vcvt h o) s)) ∧
        ((Instr.vrcp h o).WellFormed → WritesLanes s h 8 ty k o.vd (dev vrcp) (exec (.vrcp h o) s)) ∧
        ((Instr.vrsq h o).WellFormed → WritesLanes s h 8 ty k o.vd (dev vrsq) (exec (.vrsq h o) s)) ∧
        ((Instr.vexp2 h o).WellFormed → WritesLanes s h 8 ty k o.vd (dev exp2Dev) (exec (.vexp2 h o) s)) ∧
        ((Instr.vlog2 h o).WellFormed → WritesLanes s h 8 ty k o.vd (dev vlog2) (exec (.vlog2 h o) s)) ∧
        ((Instr.vtanh h o).WellFormed → WritesLanes s h 8 ty k o.vd (dev vtanh) (exec (.vtanh h o) s)))) ∧
    (∀ o : VI,
      let ty := o.ty.toNat
      let g := fun isMax i =>
        pickLane isMax ty (FV.ofBits ty (lane (widthOf ty) (c.rdV o.va) i)) (FV.ofBits ty (immLane ty o.imm))
      RowsFree s [(o.vd, true), (o.va, false)] →
        ((Instr.vminImm h o).WellFormed → WritesLanes s h 2 ty (c.rdK o.k) o.vd (g false) (exec (.vminImm h o) s)) ∧
        ((Instr.vmaxImm h o).WellFormed → WritesLanes s h 2 ty (c.rdK o.k) o.vd (g true) (exec (.vmaxImm h o) s)))

/-- VRED combines the unmasked lanes in lane order; over none it gives the neutral element: for integers 0, the greatest number,
the least number, all ones, 0 and 0, for floats +0, +∞ and −∞. Over floats the accumulator is the first lane, then with each
lane the sum rounded once to FP32, or the minimum or maximum of R130, and its FP32 bits land. A signalling NaN lane and
infinities of opposite signs count invalid, a NaN result counts NaN, and every rounding its own events (R130, R147, R437). -/
def Obligations.ReductionComplete : Prop :=
  ∀ (h : Header) (o : VX) (s : State), Plain h s → User s → RowsFree s [(o.v, false)] → (Instr.vred h o).WellFormed →
    let c := s.cell
    let ty := o.ty.toNat
    let xs := ((List.range (lanesOf ty)).filter fun i => (c.rdK o.k).getLsbD i).map fun i => lane (widthOf ty) (c.rdV o.v) i
    let go := fun ev (v : Word) => Host.Outcome.next (φ := Fault) (ρ := Refusal) (issued s (inFlight h 6 ev [c.dstS o.s v]))
    (6 ≤ ty →
      (o.fn = 0#4 → exec (.vred h o) s = go 0 (residue ((xs.map (laneInt ty)).sum))) ∧
      (o.fn = 1#4 → ∃ v : Int, exec (.vred h o) s = go 0 (residue v) ∧
        (xs = [] → v = (intBounds ty).2) ∧ (∀ x ∈ xs, v ≤ laneInt ty x) ∧ (xs ≠ [] → ∃ x ∈ xs, v = laneInt ty x)) ∧
      (o.fn = 2#4 → ∃ v : Int, exec (.vred h o) s = go 0 (residue v) ∧
        (xs = [] → v = (intBounds ty).1) ∧ (∀ x ∈ xs, laneInt ty x ≤ v) ∧ (xs ≠ [] → ∃ x ∈ xs, v = laneInt ty x)) ∧
      (3 ≤ o.fn.toNat → ∃ v, v < 2 ^ widthOf ty ∧ exec (.vred h o) s = go 0 (residue (laneInt ty v)) ∧
        ∀ b < widthOf ty, v.testBit b =
          if o.fn = 3#4 then xs.all fun x => x.testBit b
          else if o.fn = 4#4 then xs.any fun x => x.testBit b
          else decide ((xs.filter fun x => x.testBit b).length % 2 = 1))) ∧
    (ty ≤ 4 →
      (∀ x0 r, xs.map (FV.ofBits ty) = x0 :: r → ∃ (acc : Nat → FV) (ev : BitVec 8),
        let n := r.length
        let x := fun i => (x0 :: r).getD i x0
        let sum := fun i => (acc i).add false (x (i + 1))
        exec (.vred h o) s = go ev (BitVec.ofNat 64 (f32r (acc n)).1) ∧ acc 0 = x0 ∧
        (∀ i < n, acc (i + 1) = if o.fn = 0#4 then rne (sum i).1 else pick (decide (o.fn = 2#4)) (acc i) (x (i + 1))) ∧
        (∀ b < 8, ev.getLsbD b = true ↔ (∃ i ≤ n, (sigEvent (x i)).getLsbD b = true) ∨
          (o.fn = 0#4 ∧ ∃ i < n, ((sum i).2 ||| (f32r (sum i).1).2).getLsbD b = true) ∨
          (f32r (acc n)).2.getLsbD b = true) ∧
        (ev.getLsbD 0 = true ↔ (∃ i ≤ n, (x i).isSig = true) ∨
          (o.fn = 0#4 ∧ ∃ i < n, ∃ neg, acc i = .inf neg ∧ x (i + 1) = .inf (!neg))) ∧
        (ev.getLsbD 4 = true ↔ (acc n).isNaN = true)) ∧
      (xs = [] → exec (.vred h o) s =
        go 0 (if o.fn = 0#4 then 0 else if o.fn = 1#4 then 0x7F800000#64 else 0xFF800000#64)))

/-- VAND, VOR, VXOR, VSHL and VSHR work on the bits of each governed lane and count no event; the amount of a shift is the lane
of b mod the width (R426, R433, R439).
The mask words land at latency 1: KAND, KOR, KXOR and KMOV a mask, KPOPC the number of 1 bits (R374). -/
def Obligations.VectorBitsAndMasksComplete : Prop :=
  (∀ (h : Header) (s : State), Plain h s → User s →
     let c := s.cell
     (∀ o : VR, RowsFree s [(o.vd, true), (o.va, false), (o.vb, false)] →
       let ty := o.ty.toNat
       let w := widthOf ty
       let a := lane w (c.rdV o.va)
       let b := fun i => lane w (c.rdV o.vb) (if o.bc = 1#2 then 0 else i)
       let writes := fun (f : Nat → Nat) => WritesLanes s h 2 ty (c.rdK o.k) o.vd fun i => (f i, 0)
       ((Instr.vand h o).WellFormed → writes (fun i => a i &&& b i) (exec (.vand h o) s)) ∧
       ((Instr.vor h o).WellFormed → writes (fun i => a i ||| b i) (exec (.vor h o) s)) ∧
       ((Instr.vxor h o).WellFormed → writes (fun i => a i ^^^ b i) (exec (.vxor h o) s)) ∧
       ((Instr.vshl h o).WellFormed → writes (fun i => a i * 2 ^ (b i % w)) (exec (.vshl h o) s)) ∧
       ((Instr.vshr h o).WellFormed →
         writes (fun i => (laneInt ty (a i) / 2 ^ (b i % w) % 2 ^ w).toNat) (exec (.vshr h o) s))) ∧
     (∀ o : VI, RowsFree s [(o.vd, true), (o.va, false)] →
       let ty := o.ty.toNat
       let w := widthOf ty
       let a := lane w (c.rdV o.va)
       let b := immLane ty o.imm
       let writes := fun (f : Nat → Nat) => WritesLanes s h 2 ty (c.rdK o.k) o.vd fun i => (f i, 0)
       ((Instr.vandImm h o).WellFormed → writes (fun i => a i &&& b) (exec (.vandImm h o) s)) ∧
       ((Instr.vorImm h o).WellFormed → writes (fun i => a i ||| b) (exec (.vorImm h o) s)) ∧
       ((Instr.vxorImm h o).WellFormed → writes (fun i => a i ^^^ b) (exec (.vxorImm h o) s)) ∧
       ((Instr.vshlImm h o).WellFormed → writes (fun i => a i * 2 ^ (b % w)) (exec (.vshlImm h o) s)) ∧
       ((Instr.vshrImm h o).WellFormed →
         writes (fun i => (laneInt ty (a i) / 2 ^ (b % w) % 2 ^ w).toNat) (exec (.vshrImm h o) s)))) ∧
  (∀ (h : Header) (s : State), Plain h s → User s → ∀ o : KR,
     let c := s.cell
     let a := c.rdK o.ka
     let b := c.rdK o.kb
     ((Instr.kand h o).WellFormed → exec (.kand h o) s = .next (issued s (inFlight h 1 0 [.k o.kd (a &&& b)]))) ∧
     ((Instr.kor h o).WellFormed → exec (.kor h o) s = .next (issued s (inFlight h 1 0 [.k o.kd (a ||| b)]))) ∧
     ((Instr.kxor h o).WellFormed → exec (.kxor h o) s = .next (issued s (inFlight h 1 0 [.k o.kd (a ^^^ b)]))) ∧
     ((Instr.kmov h o).WellFormed → exec (.kmov h o) s = .next (issued s (inFlight h 1 0 [.k o.kd a]))) ∧
     ((Instr.kpopc h o).WellFormed → exec (.kpopc h o) s = .next (issued s (inFlight h 1 0
       [c.dstS o.s (BitVec.ofNat 64 ((List.range 256).filter fun i => a.getLsbD i).length)]))))

/-- VSEL writes every lane, va where the mask is 1 and else b; VMOV copies the governed lanes; VPERM takes the lane that vb
names mod the lane count; VBCAST and VIOTA fill from a scalar; VEXT reads one lane, extended by its type, and VINS writes one
lane and nothing else (R427, R431, R433, R435, R436, R438). -/
def Obligations.VectorMovesComplete : Prop :=
  ∀ (h : Header) (s : State), Plain h s → User s →
    let c := s.cell
    (∀ o : VR,
      let ty := o.ty.toNat
      let w := widthOf ty
      let a := lane w (c.rdV o.va)
      (RowsFree s [(o.vd, true), (o.va, false), (o.vb, false)] →
        ((Instr.vsel h o).WellFormed → WritesLanes s h 2 ty (BitVec.allOnes 256) o.vd
          (fun i => (if (c.rdK o.k).getLsbD i then a i else lane w (c.rdV o.vb) (if o.bc = 1#2 then 0 else i), 0))
          (exec (.vsel h o) s)) ∧
        ((Instr.vperm h o).WellFormed → WritesLanes s h 2 ty (c.rdK o.k) o.vd
          (fun i => (a (lane w (c.rdV o.vb) i % lanesOf ty), 0)) (exec (.vperm h o) s))) ∧
      (RowsFree s [(o.vd, true), (o.va, false)] → (Instr.vmov h o).WellFormed →
        WritesLanes s h 2 ty (c.rdK o.k) o.vd (fun i => (a i, 0)) (exec (.vmov h o) s))) ∧
    (∀ o : VX,
      let ty := o.ty.toNat
      let w := widthOf ty
      (RowsFree s [(o.v, true)] →
        ((Instr.vbcast h o).WellFormed →
          WritesLanes s h 2 ty (c.rdK o.k) o.v (fun _ => ((c.rdS o.s).toNat, 0)) (exec (.vbcast h o) s)) ∧
        ((Instr.viota h o).WellFormed →
          WritesLanes s h 2 ty (c.rdK o.k) o.v (fun i => ((c.rdS o.s).toNat + i, 0)) (exec (.viota h o) s)) ∧
        ((Instr.vins h o).WellFormed → ∃ r m, exec (.vins h o) s = .next (issued s (inFlight h 3 0 [.row o.v r m])) ∧
          (∀ j < 2048, m.getLsbD j = decide (j / w = o.lane.toNat)) ∧
          lane w r o.lane.toNat = (c.rdS o.s).toNat % 2 ^ w)) ∧
      (RowsFree s [(o.v, false)] → (Instr.vext h o).WellFormed → exec (.vext h o) s =
        .next (issued s (inFlight h 3 0 [c.dstS o.s (residue (laneInt ty (lane w (c.rdV o.v) o.lane.toNat)))]))))

/-! ### The M slot -/

/-- An M word whose checks pass issues into a queue with room, with what it read (R163, R364): MLA and MLB their lines, MCODE a
table, MSTORE raw words, MMA, MZERO, MCFG and MFMT their fields, MSTZ the runs it will write, MLDZ the runs it will read, MCALL
copies of a0 to a7 and q0 to q7. MSETQ lands in its parameter register at latency 1 (R393). A full queue holds the word, a word
that accesses memory waits for an ordered access under way (R182), and a tile outside the reservation traps NO_TILE. Which words
wait for a queued one is log 20's reading; which format a word with SCALE = 0 and FMT 8 or 9 takes, and the scratchpad range of
a handle, are log 44's choices. -/
def Obligations.MatrixWordsComplete : Prop :=
  ∀ (h : Header) (s : State), User s →
    let c := s.cell
    (Clear h s → c.mx.queue.length < 8 → ∀ o : MC, (Instr.mcall h o).WellFormed →
      (entryOk (c.entry.rd o.n) = true → orderWaits c = true → exec (.mcall h o) s = .next (frozen s)) ∧
      (entryOk (c.entry.rd o.n) = true → Unordered s →
        exec (.mcall h o) s = done h s (queuedLoad s (.call s.nextId o.n (c.entry.rd o.n)
          ((List.range 8).map fun i => c.rdA (BitVec.ofNat 4 i))
          ((List.range 8).map fun i => c.regs.q.rd (BitVec.ofNat 3 i)) (outerEntry c) (tagOf h) []))) ∧
      (entryOk (c.entry.rd o.n) = false →
        exec (.mcall h o) s = .next (trapped s (trapOf cMicroFault (o.n.zeroExtend 64))))) ∧
    (Plain h s →
    let go := fun (j : MJob) (t : State) => Host.Outcome.next (φ := Fault) (ρ := Refusal) ((queued t j).mark s.cur .issued)
    let goLoad := fun (j : MJob) (t : State) =>
      Host.Outcome.next (φ := Fault) (ρ := Refusal) ((queuedLoad t j).mark s.cur .issued)
    (∀ o : MQ, (Instr.msetq h o).WellFormed →
      exec (.msetq h o) s = .next (issued s (inFlight h 1 0 [.q o.q (c.rdS o.s)]))) ∧
    (∀ o : MM, tilesOf c ≤ o.z.toNat → (Instr.mzero h o).WellFormed →
      exec (.mzero h o) s = .next (trapped s (trapOf cNoTile (o.z.zeroExtend 64)))) ∧
    (∀ o : MM, o.z.toNat < tilesOf c → 8 ≤ c.mx.queue.length → (Instr.mzero h o).WellFormed →
      exec (.mzero h o) s = .next (frozen s)) ∧
    (c.mx.queue.length < 8 →
      (∀ (o : ML) (isB : Bool),
        let f := resolveFmt (effFmt c.mx (outerEntry c)) isB o.fmt o.dec o.cb
        ∀ j s1, loadOk s isB o (c.rdH o.h) f = true → gatherWait c o = none →
          planLoad s isB o (c.rdH o.h) (c.rdA o.idx) f = .ok (j, s1) →
          (isB = false → (Instr.mla h o).WellFormed →
            (orderWaits c = true → exec (.mla h o) s = .next (frozen s)) ∧
            (Unordered s → exec (.mla h o) s = goLoad j s1)) ∧
          (isB = true → (Instr.mlb h o).WellFormed →
            (orderWaits c = true → exec (.mlb h o) s = .next (frozen s)) ∧
            (Unordered s → exec (.mlb h o) s = goLoad j s1))) ∧
      (∀ o : ML, (Instr.mcode h o).WellFormed → mHandle s (c.rdH o.h) = true → Unordered s → ∀ segs s1,
        mSegs (c.rdH o.h) 0 4 s (hBase (c.rdH o.h)) 2048 = .ok (segs, s1) →
        exec (.mcode h o) s = goLoad (.code s1.nextId o.cb (srcOf s1 [segs])) (srcFlits s1 s1.nextId [segs])) ∧
      (∀ o : MS, (Instr.mstore h o).WellFormed → mHandle s (c.rdH o.h) = true → Unordered s → ∀ segs s1,
        mSegs (c.rdH o.h) 0 4 s (hBase (c.rdH o.h)) (10 * o.count.toNat) = .ok (segs, s1) →
        exec (.mstore h o) s =
          goLoad (.micro s1.nextId o.addr.toNat o.count.toNat (srcOf s1 [segs])) (srcFlits s1 s1.nextId [segs])) ∧
      (∀ o : MM, o.z.toNat < tilesOf c →
        ((Instr.mma h o).WellFormed → cfgPending c.mx o.z = false →
          let f := (resolveFmt (effFmt c.mx (outerEntry c)) false o.fmt 0 0).1
          mmaOk o f (effType c.mx o.z) = true →
          exec (.mma h o) s = go (.mma o.z o.la o.lb (BitVec.ofNat 4 f) (decide (o.ta = 1)) (decide (o.neg = 1))
            (decide (o.acc = 1))) s) ∧
        ((Instr.mzero h o).WellFormed → exec (.mzero h o) s = go (.zero o.z) s) ∧
        ((Instr.mcfg h o).WellFormed → exec (.mcfg h o) s = go (.cfg o.z (o.fmt.extractLsb' 0 2)) s)) ∧
      (∀ o : MZ, o.z.toNat < tilesOf c → cfgPending c.mx o.z = false →
        (∀ j s1, (Instr.mstz h o).WellFormed → storeOk s o (c.rdH o.h) = true →
          planStore s o (c.rdH o.h) (c.rdA o.idx) (effType c.mx o.z) = .ok (j, s1) →
          (orderWaits c = true → exec (.mstz h o) s = .next (frozen s)) ∧
          (Unordered s → exec (.mstz h o) s = goLoad j s1)) ∧
        (∀ j s1, (Instr.mldz h o).WellFormed → fillOk s o (c.rdH o.h) (effType c.mx o.z) false = true →
          planFill s o (c.rdH o.h) (c.rdA o.idx) (effType c.mx o.z) = .ok (j, s1) →
          (orderWaits c = true → exec (.mldz h o) s = .next (frozen s)) ∧
          (Unordered s → exec (.mldz h o) s = goLoad j s1))) ∧
      (∀ o : MF, (Instr.mfmt h o).WellFormed → fmtValueOk (c.rdS o.s) = true →
        exec (.mfmt h o) s = go (.fmt o.e (c.rdS o.s)) s)))

/-- The steps of the matrix unit on the first word of its queue (R158, R160, R161, R166): a latch transfer fills the latch,
table or store; an MMA takes the array and leaves its tile when it retires; MSTZ writes its runs and MLDZ its tile; a routine
runs to its end, its tag clears, and the word that faults makes MICRO_FAULT pending with the routine's number and the word's
index. Without such a word nothing changes. On a cell that has stopped issuing for a pre-emption or a save no word starts (R208,
R212). Words that read or write no domain page are meant; what reaches one waits for its responses (R294).
MZERO, MCFG and MFMT with nothing before them are performed as they issue (R137, R151): MZERO clears every row of its tile,
MCFG takes the type and clears the tile where the type changes, MFMT writes its entry; every other row, the latches and the
scalar registers stay. How jobs, routines and results in flight overlap is log 20's reading. -/
def Obligations.MatrixUnitActs : Prop :=
  (∀ (s : State) (ci : BitVec 9),
     let t := unqueued s ci
     let x := s.cellAt ci
     let does := fun (i : Instr) (u : State) => OffDomain s u → exec i s = .next u
     (∀ id isB l src bits dec, FirstJob s ci (.load id isB l src bits dec) → does (.latchTransfer ci)
       (drainM ((lateFlits t src).updAt ci fun c => doLoad c isB l (srcRows t ci src) bits dec) ci)) ∧
     (∀ id cb src, FirstJob s ci (.code id cb src) → does (.latchTransfer ci)
       (drainM ((lateFlits t src).updAt ci fun c => doCode c cb (srcRows t ci src).flatten) ci)) ∧
     (∀ id a n src, FirstJob s ci (.micro id a n src) → does (.latchTransfer ci)
       (drainM ((lateFlits t src).updAt ci fun c => doMicro c a (wordsOf (srcRows t ci src).flatten n)) ci)) ∧
     (∀ z la lb fmt ta neg acc, FirstJob s ci (.mma z la lb fmt ta neg acc) →
       let r := mmaRows x z la lb fmt.toNat ta neg acc
       exec (.mmaStart ci) s = .next (drainM (t.updAt ci fun c => { c with
         mx := { c.mx with run := some { z := z, rows := r.1, ev := r.2 } } }) ci)) ∧
     (∀ r, x.mx.run = some r → exec (.mmaRetire ci) s =
       .next (drainM ((s.updAt ci fun c => setTileRows { c with mx := { c.mx with run := none } } r.z r.rows).countAt ci r.ev)
         ci)) ∧
     (x.mx.run = none → exec (.mmaRetire ci) s = .next s) ∧
     (∀ id z ty sat rnd scale cols rows, FirstJob s ci (.store id z ty sat rnd scale cols rows) →
       let r := doStore t ci z ty sat rnd scale cols rows
       does (.tilePipeStart ci) (drainM (r.1.countAt ci r.2) ci)) ∧
     (∀ id z src, FirstJob s ci (.fill id z src) → does (.tilePipeStart ci)
       (drainM ((lateFlits t src).updAt ci fun c => setTileRows c z ((srcRows t ci src).map bytesRow)) ci)) ∧
     (mStopped s ci = true → exec (.latchTransfer ci) s = .next s ∧ exec (.mmaStart ci) s = .next s ∧
       exec (.mcallRoutineRun ci) s = .next s ∧ (s.pd.asks = [] → exec (.tilePipeStart ci) s = .next s)) ∧
     (∀ id n e a q iter tag bad, FirstJob s ci (.call id n e a q iter tag bad) →
       let r := runRoutine (routineWords x.mx.store e) (2 ^ 42) 0 [] { t with cur := ci }
         { a := a, q := q, iter := iter, count := 0, ev := [], bad := bad }
       let u := r.2.1.ev.foldl (fun s e => s.countAt ci e) ({ r.1 with cur := s.cur }.updAt ci (clearTag tag))
       (r.2.2 = none → exec (.mcallRoutineRun ci) s = .next (drainM u ci)) ∧
       (∀ i, r.2.2 = some i → exec (.mcallRoutineRun ci) s = .next (drainM (u.updAt ci fun c => { c with
         events := { c.events with
           micro := c.events.micro ++ [BitVec.ofNat 64 (n.toNat * 2 ^ 16 + (fld e 0 10 + i))] } }) ci))) ∧
     (x.mx.queue = [] → x.mx.run = none →
       exec (.latchTransfer ci) s = .next s ∧ exec (.mmaStart ci) s = .next s ∧ exec (.tilePipeStart ci) s = .next s ∧
       exec (.mcallRoutineRun ci) s = .next s)) ∧
  (∀ (s : State), mStopped s s.cur = false → s.cell.mx.queue = [] → s.cell.mx.run = none → s.cell.pipe.inflight = [] →
     s.cell.pipe.flight = [] →
     s.cell.pipe.accs = [] →
     let c := s.cell
     (∀ z : BitVec 3,
       let d := (queued s (.zero z)).cell
       d.mx = c.mx ∧ d.regs.s = c.regs.s ∧ ∀ r : BitVec 9, d.regs.v.rd r = if r.toNat / 64 = z.toNat then 0 else c.regs.v.rd r) ∧
     (∀ (z : BitVec 3) (ty : BitVec 2),
       let d := (queued s (.cfg z ty)).cell
       d.mx.ztype.rd z = ty ∧ (∀ y, y ≠ z → d.mx.ztype.rd y = c.mx.ztype.rd y) ∧
       ∀ r : BitVec 9, d.regs.v.rd r =
         if r.toNat / 64 = z.toNat ∧ c.mx.ztype.rd z ≠ ty then 0 else c.regs.v.rd r) ∧
     (∀ (e : BitVec 4) (v : Word),
       let d := (queued s (.fmt e v)).cell
       d.mx.fmt.rd e = v ∧ (∀ x, x ≠ e → d.mx.fmt.rd x = c.mx.fmt.rd x) ∧ d.regs = c.regs))

/-- MLOOP and MEND as fetched code take ILLEGAL_OP (R111, R388). In a routine MLOOP n opens a body that runs n times, one after
another, up to its MEND, at no matrix cycle; a count of 0, a fifth level and an MEND without a loop fault (R388). Which MLOOP a
routine with an open loop names is the model's choice (log 44). -/
def Obligations.RoutineLoops : Prop :=
  (∀ (h : Header) (o : MC) (s : State), s.cell.pipe.pend &&& h.cmk = 0 → h.av = 0#1 →
    exec (.mloop h o) s = .next (trapped s (trapOf cIllegalOp (h.slot.zeroExtend 64))) ∧
    exec (.mend h o) s = .next (trapped s (trapOf cIllegalOp (h.slot.zeroExtend 64)))) ∧
  (∀ (ws : List (BitVec 80)) (f i : Nat) (loops : List (Nat × Nat)) (s : State) (r : Routine) (w : BitVec 80) (h : Header)
      (o : MC), ws[i]? = some w → routineHeader w = true → r.count ≤ 4096 →
    (decode w = .ok (.mloop h o) →
      (o.n ≠ 0 → loops.length < 4 →
        runRoutine ws (f + 1) i loops s r = runRoutine ws f (i + 1) ((i, o.n.toNat) :: loops) s r) ∧
      (o.n = 0 ∨ 4 ≤ loops.length → runRoutine ws (f + 1) i loops s r = (s, r, some i))) ∧
    (decode w = .ok (.mend h o) →
      (loops = [] → runRoutine ws (f + 1) i loops s r = (s, r, some i)) ∧
      (∀ b n rest, loops = (b, n) :: rest →
        (1 < n → runRoutine ws (f + 1) i loops s r = runRoutine ws f (b + 1) ((b, n - 1) :: rest) s r) ∧
        (n ≤ 1 → runRoutine ws (f + 1) i loops s r = runRoutine ws f (i + 1) rest s r))))

/-- An MMA of formats 6 and 7 on an INT32 tile (R140, R159): element (i, j) of the tile becomes its old value, or 0, plus or
minus the sum of the 256 products, mod 2^32. A(i, k) is byte 256 i + k of latch A, or byte 64 k + i when transposed, read
signed; B(j, k) is byte 256 j + k of latch B, signed under format 6 and unsigned under format 7. -/
def Obligations.IntegerMatrixMultiply : Prop :=
  ∀ (c : Cell) (z : BitVec 3) (la lb : BitVec 2) (fmt : Nat) (ta neg acc : Bool), c.mx.ztype.rd z = 1#2 →
    (fmt = 6 ∨ fmt = 7) → ∀ i j, i < 64 → j < 64 →
    let byteOf := fun (l : Latch) n => byteAt (l.lines.rd (BitVec.ofNat 6 (n / 256))) (n % 256)
    let a := fun k => (byteOf (c.mx.la.rd la) (if ta then 64 * k + i else 256 * i + k)).toInt
    let b := fun k =>
      let x := byteOf (c.mx.lb.rd lb) (256 * j + k)
      if fmt = 6 then x.toInt else (x.toNat : Int)
    let sum := ((List.range 256).map fun k => a k * b k).sum
    let old : Int := if acc then ((tileRow c z i).extractLsb' (32 * j) 32).toNat else 0
    let r := mmaRows c z la lb fmt ta neg acc
    r.2 = 0 ∧ (lane 32 (r.1.getD i 0) j : Int) = (if neg then old - sum else old + sum) % 2 ^ 32

/-! ### The E slot -/

/-- An E word in user mode whose slot number is below 4,096 and whose handles are well formed launches its command, with the
registers it reads at issue, and issue continues; its tag is allocated where it has one (R213, R230, R315); behind an ordered
access under way it does not issue (R182, log 6). A slot number above 4,095 and an ill-formed handle take ILLEGAL_OP. DBAR is
the service core's arrival at the re-keying barrier: while a domain in force re-keys for a change, the package has arrived and
the word's tag is pending; otherwise it completes at once; a tag it names or allocates that is pending holds it. In user mode it
takes PRIVILEGE (R296, R356). -/
def Obligations.EngineWordsComplete : Prop :=
  ∀ (h : Header) (o : EC) (s : State),
    (Clear h s → User s →
      let c := s.cell
      let go := fun op => done h s (launchCmd s (mkCmd s op h o))
      let slotGood := (c.rdS o.sa).toNat % 2 ^ 32 < 4096
      let a := hOk (c.rdH o.ha) = true
      let b := hOk (c.rdH o.hb) = true
      (orderWaits c = true → slotGood → a → b → ∀ i ∈ [Instr.cpy h o, .chsend h o, .chrecv h o, .chred h o, .qprop h o, .qver h o,
        .qres h o, .bset h o, .bget h o, .sieve h o, .tokz h o, .detok h o, .gadv h o, .gmask h o, .sltick h o, .slpin h o,
        .slget h o], i.WellFormed → exec i s = .next (frozen s)) ∧
      (Unordered s →
      ((Instr.cpy h o).WellFormed → a → b → exec (.cpy h o) s =
        done h s (launchCmd s { mkCmd s .cpy h o with num := roundMode c.nx.rmode (o.low.toNat % 8) })) ∧
      ((Instr.chsend h o).WellFormed → a → exec (.chsend h o) s = go .chsend) ∧
      ((Instr.chrecv h o).WellFormed → a → exec (.chrecv h o) s = go .chrecv) ∧
      ((Instr.chred h o).WellFormed → a → b → exec (.chred h o) s = go .chred) ∧
      (slotGood →
        ((Instr.qprop h o).WellFormed → a → exec (.qprop h o) s = go .qprop) ∧
        ((Instr.qver h o).WellFormed → (o.fn = 0#4 ∨ a) → exec (.qver h o) s = go .qver) ∧
        ((Instr.qres h o).WellFormed → a → exec (.qres h o) s = go .qres) ∧
        ((Instr.bset h o).WellFormed → exec (.bset h o) s = go .bset) ∧
        ((Instr.bget h o).WellFormed → exec (.bget h o) s = go .bget) ∧
        ((Instr.sieve h o).WellFormed → a → exec (.sieve h o) s = go .sieve) ∧
        ((Instr.tokz h o).WellFormed → a → exec (.tokz h o) s = go .tokz) ∧
        ((Instr.detok h o).WellFormed → a → exec (.detok h o) s = go .detok) ∧
        ((Instr.gadv h o).WellFormed → exec (.gadv h o) s = go .gadv) ∧
        ((Instr.gmask h o).WellFormed → a → exec (.gmask h o) s = go .gmask) ∧
        ((Instr.sltick h o).WellFormed → exec (.sltick h o) s = go .sltick) ∧
        ((Instr.slpin h o).WellFormed → a → exec (.slpin h o) s = go .slpin) ∧
        ((Instr.slget h o).WellFormed → a → exec (.slget h o) s = go .slget))) ∧
      (let illegal := fun (i : Instr) => i.WellFormed → exec i s = .next (trapped s (trapOf cIllegalOp (h.slot.zeroExtend 64)))
       (¬ slotGood → ∀ i ∈ [Instr.qprop h o, .qver h o, .qres h o, .bset h o, .bget h o, .sieve h o, .tokz h o, .detok h o,
         .gadv h o, .gmask h o, .sltick h o, .slpin h o, .slget h o], illegal i) ∧
       (¬ a → ∀ i ∈ [Instr.chsend h o, .chrecv h o, .qprop h o, .qres h o, .sieve h o, .tokz h o, .detok h o, .gmask h o,
         .slpin h o, .slget h o], illegal i) ∧
       (¬ a → o.fn ≠ 0#4 → illegal (.qver h o)) ∧ (¬ (a ∧ b) → illegal (.cpy h o) ∧ illegal (.chred h o))) ∧
      ((Instr.dbar h o).WellFormed → s.core = false →
        exec (.dbar h o) s = .next (trapped s (trapOf cPrivilege (h.slot.zeroExtend 64))))) ∧
    (s.core = true →
      let tag := if h.av = 1#1 then BitVec.ofNat 8 (2 ^ h.tag.toNat) else 0
      (s.pd.tags &&& (h.cmk ||| tag) ≠ 0 → exec (.dbar h o) s = .next s) ∧
      ((Instr.dbar h o).WellFormed → (h.av = 1#1 ∨ h.tag = 0#3) → s.pd.tags &&& (h.cmk ||| tag) = 0 → exec (.dbar h o) s =
        .next (if s.pd.state = 3 ∧ s.pd.change = true then { s with pd := { s.pd with arrived := true, tags := s.pd.tags ||| tag } } else s)))

/-! ### Events of a cell -/

/-- The boundary events in the order of R196, each taken by a cell in user mode that waits for nothing when none before it is
pending: MACHINE_CHECK before all others, cause 0x11 with the physical address as TVAL, and in a handler as well, where it is a
double trap (R200, R205); after the issue cycle in which its next bundle would have issued, the cell traps with the event's
cause and TVAL, EPC naming that bundle, and the event is no longer pending, while later ones of its kind stay; ENGINE_FAULT sets
TADDR. An uncorrectable error in what a running cell or a saved task consumes is reported and becomes pending, and what the
load, or the engine command, was to write keeps its value (R205, R209), a queued routine noting the address for its words; an
error of the register file has no address (R204). A cell that is not running, or whose save waits for the emergency area, takes
nothing (R212). EPC and TVAL of the report of a machine check, and that an engine command which read the data ends, are log 22's
choices. -/
def Obligations.BoundaryEventsComplete : Prop :=
  ∀ (s : State) (c : BitVec 9),
    let x := s.cellAt c
    let s1 := issueCycle s c
    let e := (s1.cellAt c).events
    let took := fun (r : State) (t : Trap) => Host.Outcome.next (φ := Fault) (ρ := Refusal)
      (takeTrap r c t (r.cellAt c).pipe.pc (r.cellAt c).pipe.pdSpent)
    let reads := fun (id : Nat) (y : Cell) => readsFor s id y.task.gang y.task.gmem
    (x.running = true → c ∉ s.tasks.saving → x.wait = .none → x.sup = false → x.events.check = none →
      (∀ cmd, heldFault s x = some cmd → ∃ r, exec (.engineFault c) s = took r (trapOf cEngineFault (engineTval cmd)) ∧
        (r.cellAt c).tr.taddr = (cmd.held.map (·.2)).getD 0 ∧ (r.cellAt c).events.faulted = some cmd.id ∧
        (r.cellAt c).regs = (s1.cellAt c).regs ∧ r.mem = s.mem) ∧
      (heldFault s x = none →
        (∀ g rest, x.events.grammar = g :: rest → exec (.grammarOverflow c) s =
          took (updEvents s1 c fun y => { y with grammar := rest }) (trapOf cGrammar (g.zeroExtend 64))) ∧
        (x.events.grammar = [] →
          (∀ v rest, x.events.micro = v :: rest → exec (.microFault c) s =
            took (updEvents s1 c fun y => { y with micro := rest }) (trapOf cMicroFault v)) ∧
          (x.events.micro = [] →
            (x.events.numeric ≠ 0 → exec (.numericLimit c) s =
              took (updEvents s1 c fun y => { y with numeric := 0 })
                (trapOf cNumericLimit (BitVec.ofNat 64 (lowestClass e.numeric)))) ∧
            (x.events.numeric = 0 →
              (∀ n rest, x.events.trap = n :: rest → exec (.softwareTrapTaken c) s =
                took (updEvents s1 c fun y => { y with trap := rest }) (trapOf n 0)) ∧
              (∀ w, x.events.trap = [] → x.events.step = some w → exec (.stepTrap c) s =
                took (updEvents s1 c fun y => { y with step := none }) (trapOf cStep (w.zeroExtend 64)))))))) ∧
    (∀ v, cellLive s c = true → c ∉ s.tasks.saving → x.wait = .none → x.events.check = some v → ∃ r,
      (r.cellAt c).events.check = none ∧ (r.cellAt c).pipe.pc = x.pipe.pc ∧ r.mem = s.mem ∧ r.cmds = s.cmds ∧
      (x.sup = false → cellTurn s c = took r { cause := 0x11, kind := 0, tval := BitVec.ofNat 64 v }) ∧
      (x.sup = true → cellTurn s c = .next (abortTask
        (r.report (cellReport r c 2 0x11 (x.pipe.pc.zeroExtend 64) (BitVec.ofNat 64 v) 0)) c))) ∧
    (∀ access pa, x.running = true → (∀ id, access = some id → holdsLoad id x = true ∨ reads id x ≠ none) →
      let at_ := if access = none then 0 else pa
      ∃ t, exec (.machineCheck c access pa) s = .next t ∧
      (t.cellAt c).events.check = some (x.events.check.getD at_.toNat) ∧ (t.cellAt c).regs = x.regs ∧
      (t.cellAt c).pad = x.pad ∧ t.mem = s.mem ∧
      t.pkg.reports = s.pkg.reports ++ [cellReport s c 2 cMachineCheck (x.pipe.pc.zeroExtend 64) at_ 0] ∧
      (∀ a ∈ (t.cellAt c).pipe.accs, some a.id ≠ access) ∧
      (∀ id n e a q iter tag bad, access = some id → MJob.call id n e a q iter tag bad ∈ x.mx.queue →
        .call id n e a q iter tag (bad ++ [pa.toNat]) ∈ (t.cellAt c).mx.queue) ∧
      (∀ id, access = some id →
        ((∀ n e a q iter tag bad, MJob.call id n e a q iter tag bad ∉ x.mx.queue) → holdsLoad id (t.cellAt c) = false) ∧
        ∀ cmd, reads id x = some cmd → (∀ z ∈ t.cmds, z.id ≠ id) ∧
          ∀ g, cmd.tag = some g → bit (t.cellAt c).pipe.pend g.toNat = false) ∧
      (∀ a ∈ x.pipe.accs, some a.id = access → (∀ b ∈ x.pipe.accs, b.id = a.id → b = a) →
        ∀ g, a.tag = some g → bit (t.cellAt c).pipe.pend g.toNat = false)) ∧
    (∀ id pa (y : Saved),
      let holds := fun (z : Cell) => holdsLoad id z || (reads id z).isSome
      (x.running = false ∨ holds x = false) → s.tasks.saved.find? (fun z => holds z.image) = some y →
      ∃ t, exec (.machineCheck c (some id) pa) s = .next t ∧ t.cells = s.cells ∧
      t.pkg.reports = s.pkg.reports ++ [{ cellReport s c 2 cMachineCheck (y.image.pipe.pc.zeroExtend 64) pa 0 with
        ctx := y.image.task.ctx }] ∧
      ((t.tasks.saved.any fun z => z.image.mx.queue.any fun j => decide (jobId j = some id)) = false →
        ∀ z ∈ t.tasks.saved, z.gang = y.gang → z.gmem = y.gmem → holdsLoad id z.image = false) ∧
      ∀ z ∈ t.tasks.saved, z.gang = y.gang → z.gmem = y.gmem → z.image.events.check.isSome = true) ∧
    (x.running = false →
      (∀ pa, exec (.machineCheck c none pa) s = .next s) ∧
      (∀ id pa, (∀ y ∈ s.tasks.saved, holdsLoad id y.image = false ∧ reads id y.image = none) →
        exec (.machineCheck c (some id) pa) s = .next s) ∧
      exec (.engineFault c) s = .next s ∧
      exec (.grammarOverflow c) s = .next s ∧ exec (.microFault c) s = .next s ∧ exec (.numericLimit c) s = .next s ∧
      exec (.softwareTrapTaken c) s = .next s ∧ exec (.stepTrap c) s = .next s)

/-- A pending access lands whole and its tag clears, whether it loads or stores; one to a domain page of a peer does so only
where a response flit of that peer has passed its checks, which it uses up (R294); a walk fills the translation cache or leaves
it; an eviction sends dirty bytes home, which of its 8-byte units now and which later being open (R180, log 6); a WAIT's time
runs out; a window clears the counts (R79, R149, R171, R220, R440). EFCTL resumes or abandons the held command of the handler,
FPREQ asks for a page, and the service core answers with a leaf that has R and U, and W for a write, or declines (R214, R221).
That an access was performed at its issue and lands here is the model's choice (log 6). -/
def Obligations.CellEventsComplete : Prop :=
  ∀ (s : State) (c : BitVec 9),
    let x := s.cellAt c
    (∀ a ∈ x.pipe.accs, (∀ b ∈ x.pipe.accs, b.id = a.id → b = a) →
      ∃ t, (a.lands ≠ [] → exec (.variableResultLand c a.id) s = .next t) ∧
        (a.lands = [] → exec (.cellAccessPerformed c a.id) s = .next t) ∧
        (takeResponse s a = none → t = s) ∧
        (∀ s1, takeResponse s a = some s1 → t = s1.updAt c (landAccess a) ∧
          (∀ b, b ∈ (t.cellAt c).pipe.accs ↔ b ∈ x.pipe.accs ∧ b ≠ a) ∧
          (∀ g, a.tag = some g → bit (t.cellAt c).pipe.pend g.toNat = false) ∧
          (∀ i v, a.lands = [.s i v] → i ≠ 0 → x.pipe.late = [] → (t.cellAt c).regs.s.rd i = v))) ∧
    (∀ a : Access,
      (a.dom = true → paTarget a.pa = 3 → takeResponse s a = takeFlits s (BitVec.ofNat 16 (peerOf a.pa)) 3 1) ∧
      (a.dom = false ∨ paTarget a.pa ≠ 3 → takeResponse s a = some s)) ∧
    (∀ va, x.running = true →
      (∀ r, xlate s c va 0 = .ok r → exec (.translationWalkDone c va) s = .next r.2) ∧
      (∀ e f g, xlate s c va 0 = .error e → xlate s c va 1 = .error f → xlate s c va 2 = .error g →
        exec (.translationWalkDone c va) s = .next s)) ∧
    (∀ line, ∃ t, exec (.l1LineEviction c line false) s = .next t ∧
      (∀ l ∈ x.lines, l.tag ≠ line → l ∈ (t.cellAt c).lines) ∧
      let l := lineOf x.lines line
      let stays := fun i => l.dirty.getLsbD i && Config.unitStays s.steps ((line + i) / 8)
      (∀ i < 256, t.mem.rd (line + i) = if l.dirty.getLsbD i = true ∧ stays i = false
        then byteAt l.data i else s.mem.rd (line + i)) ∧
      ((∃ m ∈ (t.cellAt c).lines, m.tag = line) ↔ ∃ i < 256, stays i = true) ∧
      ∀ m ∈ (t.cellAt c).lines, m.tag = line →
        m.data = l.data ∧ ∀ i < 256, m.dirty.getLsbD i = stays i ∧ m.have_.getLsbD i = stays i) ∧
    (∀ line, ∃ t, exec (.l1LineEviction c line true) s = .next t ∧ t.mem = s.mem ∧ (t.cellAt c).lines = x.lines ∧
      ∀ l ∈ (t.cellAt c).icache, l.tag ≠ line) ∧
    (∃ t, exec (.waitTimeout c) s = .next t ∧ (t.cellAt c).pipe.expired = (x.pipe.expired || x.pipe.polled.isSome) ∧
      (t.cellAt c).regs = x.regs ∧ t.mem = s.mem) ∧
    (∃ t, exec (.nxWindowStart c) s = .next t ∧ (x.running = true → x.nx.win ≠ 0 →
      (∀ i, (t.cellAt c).nx.cnt.rd i = x.nx.cnt.rd i &&& 0xFFFFFFFF00000000#64) ∧
      (t.cellAt c).nx.ctl = x.nx.ctl &&& 0xFFFFFFFFFF00FFFF#64) ∧ (x.nx.win = 0 → t = s)) ∧
    (∀ cmd, x.running = true → x.sup = true → heldOf s c = some cmd →
      (∃ t, exec (.efctlResume c) s = .next t ∧ t = setCmd s { cmd with held := none }) ∧
      (∃ t, exec (.efctlAbandon c) s = .next t ∧ (∀ y ∈ t.cmds, y.id ≠ cmd.id) ∧ (t.cellAt c).regs = x.regs ∧
        ∀ g, cmd.tag = some g → bit (t.cellAt c).pipe.pend g.toNat = false)) ∧
    (∀ v, x.running = true → x.sup = true → ∃ t, exec (.fpreqWrite c v) s = .next t ∧ c ∈ t.pkg.fastPath ∧
      (t.cellAt c).tr.fpreq = v &&& 0xFFFFFFFFFF0001#64 ∧ (t.cellAt c).tr.fpstat = 0) ∧
    (∀ v, x.sup = false → exec (.efctlResume c) s = .next s ∧ exec (.efctlAbandon c) s = .next s ∧
      exec (.fpreqWrite c v) s = .next s) ∧
    (c ∉ s.pkg.fastPath → exec (.fastPathMapDone c) s = .next s) ∧
    (c ∈ s.pkg.fastPath → ∃ t, exec (.fastPathMapDone c) s = .next t ∧ c ∉ t.pkg.fastPath ∧
      ((t.cellAt c).tr.fpstat = 2 ∧ t.mem = s.mem ∨
        (t.cellAt c).tr.fpstat = 1 ∧ ∃ (k : Context) (at_ : Nat), k ∈ s.pkg.contexts ∧ k.id = x.task.ctx ∧
          leafSlot s (fld x.tr.fpreq 16 40 * 65536) 3 0 k.root = some at_ ∧
          let old := s.mem.word at_
          ((bit old 0 && bit old 62) = true → t.mem = s.mem) ∧
          ((bit old 0 && bit old 62) = false → k.poolN ≠ 0 ∧
            t.mem.nat at_ 8 = (pteAddr (s.mem.word (k.pool + 8 * (k.poolN - 1))) +
              (if bit x.tr.fpreq 0 then 0x59 else 0x49)))))

/-- The engine's turn on a command. One that is held, that an older command of its task and class precedes and has not started,
or whose scratchpad a queued M word is still to store to, does nothing; any other starts (R174, R188, R213). BGET lands its
field and BSET of a plain field writes the live half, both dropped and counted in STALEW when the generation differs; a task's
commands on one slot keep their order (R230, R231, R247, R337, R343). BSET of STATE makes the moves of R229 and faults on any
other; the slot that becomes ACTIVE starts its round unless the output buffer is full (R232, R264); BSET of LEN rolls the slot
back and cancels its round (R233, R244). CPY ends when every block is copied, and a fault holds it with its progress (R213, R354);
a block of one type without scales leaves its source's bytes at its destination, and one of two such types each element converted
(R352). QPROP appends the entries that continue the round, QRES stores the record (R406, R407, R408); the channel commands pass
their start checks, send, receive the oldest message with flag + 1, and take and finish their round (R281 to R283, R347 to R349);
TOKZ stores the tokens of its stream and moves CONS, DETOK passes tokens on while they fit, GADV advances the grammar, GMASK
stores the mask (R256 to R259, R358, R365, R368, R421); SLTICK sets the period and the first due time, SLPIN the window, SLGET
stores the status block (R272, R275, R277, R417). Commands that read and write no domain page are meant; what reaches one waits for
its responses (R294). A command that has gone stays gone. The order in which CPY copies its blocks is
log 14's choice. -/
def Obligations.EngineCommandsComplete : Prop :=
  ∀ (s : State) (x : Cmd), cmdOf s x.id = some x →
    let n := slotNo x
    let run := exec (.engineCommandComplete x.id) s
    (x.held ≠ none ∨ mustWait s x = true ∨ padWaits s x = true → run = .next s) ∧
    (x.held = none → mustWait s x = false → padWaits s x = false →
      let y := { x with begun := true }
      let u := setCmd s y
      let goes := fun (t : State) => OffDomain u t → run = .next t
      (x.op = .bget ∨ x.op = .bset → olderSlot u y = true → goes u) ∧
      (x.op = .bget → olderSlot u y = false → genOk s x = true →
        goes (cmdDone u y 0 [.s x.dst ((s.slot n).live.rd (x.imm.extractLsb' 0 5))])) ∧
      (x.op = .bget → olderSlot u y = false → genOk s x = false →
        goes (cmdDone (countStale u) y 0 [.s x.dst 0])) ∧
      (x.op = .bset → olderSlot u y = false → genOk s x = false → goes (cmdDone (countStale u) y 0 [])) ∧
      let sl := s.slot n
      let turn := olderSlot u y = false ∧ genOk s x = true
      let ends := fun (t : State) (lands : List Land) => goes (cmdDone t y 0 lands)
      let faults := fun (f : BitVec 8 × Nat) => goes (cmdFault u y f)
      let empty := hEmpty x.ha = true
      let dim := hDim x.ha 0
      (x.op = .bset → turn → x.imm ≠ 0#8 → x.imm ≠ 9#8 → ends (u.setSlot n (sl.put x.imm.toNat x.sb)) []) ∧
      (x.op = .bset → turn → x.imm = 9#8 → ends (u.setSlot n (bsetLen sl x.sb)) [] ∧
        (sl.round.active = true → (bsetLen sl x.sb).round.cancelled = true) ∧
        (bsetLen sl x.sb).live.rd 9 = x.sb &&& 0xFFFFFFFF#64 ∧
        (∀ st, sl.free = false → (sl.put 9 x.sb).snapAt (x.sb.toNat % 2 ^ 32) = some st → st.2.length ≤ 64 →
          (bsetLen sl x.sb).gpos = x.sb.toNat % 2 ^ 32 ∧ (bsetLen sl x.sb).text.stack = st.2)) ∧
      (let goal := x.sb.toNat % 256
       x.op = .bset → turn → x.imm = 0#8 →
         (bsetHeld sl x.sb u = true → goes u) ∧
         (bsetHeld sl x.sb u = false →
           (goal = sl.state ∨ (sl.state = sActive ∧ goal = sDone) → ends (u.setSlot n (sl.put 0 x.sb)) []) ∧
           (sl.state = sAdmit → goal = sActive →
             let t := activateText (u.setSlot n (sl.put 0 x.sb)) n
             ((t.slot n).state = sActive → (t.slot n).round.active = false → outFull (t.slot n) = false →
               ends (startRound t n) []) ∧
             ((t.slot n).state ≠ sActive ∨ (t.slot n).round.active = true ∨ outFull (t.slot n) = true → ends t [])) ∧
           (goal ≠ sl.state → ¬ (sl.state = sActive ∧ goal = sDone) → ¬ (sl.state = sAdmit ∧ goal = sActive) →
             faults (cIllegalOp, 0)))) ∧
      (x.op = .qprop → turn → handle1 x.ha 10 4 64 = true → dim % 4 = 0 → hSpace x.ha ≤ 3 →
        let k := dim / 4
        let first := (sl.used 9).toNat + sl.round.ring.length
        (sl.state ≠ sActive ∨ sl.round.active = false → ends u []) ∧
        (sl.state = sActive → sl.round.active = true → ¬ empty →
          (32 < sl.round.ring.length + k → goes u) ∧
          (sl.round.ring.length + k ≤ 32 → ∀ bs, readHa u y (16 * k) = .ok bs →
            let es := (List.range k).map fun i => BitVec.ofNat 128 (leNat ((bs.drop (16 * i)).take 16))
            ((∀ i < k, (es.getD i 0).toNat % 2 ^ 32 = (first + i) % 2 ^ 32) → ends ((haFlits u y (16 * k)).setSlot n
              { sl with round := { sl.round with ring := sl.round.ring ++ es } }) []) ∧
            ((∃ i < k, (es.getD i 0).toNat % 2 ^ 32 ≠ (first + i) % 2 ^ 32) → faults (cIllegalOp, 0))))) ∧
      (x.op = .qres → hSpace x.ha ≠ 1 → 448 ≤ dim * widthOf (hType x.ha).toNat → x.started = false → olderSlot u y = false →
        (∀ q, sl.round.qver = some q → goes (setCmd u { y with started := true, num := q })) ∧
        (sl.round.qver = none → genOk s x = true → ∀ t,
          writeHa u y ((List.range 7).flatMap fun k => toBytes 8 (sl.record.rd (BitVec.ofNat 3 k)).toNat) = .ok t →
            ends t [])) ∧
      (x.op = .chsend ∨ x.op = .chrecv ∨ x.op = .chred → x.started = false → olderChan u y = false →
        (chanOf s (chanNo x) = none → faults (cProtection, 0)) ∧
        ∀ c, chanOf s (chanNo x) = some c →
          let t := tensorFlits u y (if x.op = .chred then x.hb else x.ha)
          (∀ f, chanStart u y (some c) = some f → faults (f, 0)) ∧
          (c.valid = false ∨ c.ctx ≠ x.ctx → chanStart u y (some c) = some cProtection) ∧
          (chanStart u y (some c) = none → c.elems = 0 → ends u []) ∧
          (chanStart u y (some c) = none → c.elems ≠ 0 →
            (x.op = .chsend → c.kind = 0 → (c.depth ≤ c.msgs.length → goes u) ∧
              (c.msgs.length < c.depth → ∀ xs, readTensor u y x.ha = .ok xs → ∀ z,
                putMessage t (chanNo x) c (toBytes c.bytes (ofLanes (widthOf c.etype) xs)) = .ok z → ends z [])) ∧
            (x.op = .chsend → c.kind ≠ 0 →
              (Config.receiverFull s.steps (chanNo x) = true ∨ canSend u c = false → goes u) ∧
              (Config.receiverFull s.steps (chanNo x) = false → canSend u c = true → ∀ xs, readTensor u y x.ha = .ok xs →
                goes (setCmd (sendOut t (chanNo x) c 4 (toBytes c.bytes (ofLanes (widthOf c.etype) xs)))
                  { y with started := true }))) ∧
            (x.op = .chrecv → (c.msgs = [] → goes u) ∧
              ∀ i rest bs z w, c.msgs = i :: rest → ctxRead u c.ctx (c.buf + i * c.size) c.bytes = .ok bs →
                writeTensor u y x.ha ((List.range c.elems).map fun j =>
                  leNat bs / 2 ^ (widthOf c.etype * j) % 2 ^ widthOf c.etype) = .ok z →
                setFlag z c (fun f => f + 1) = .ok w → ends (setChan w (chanNo x) { c with msgs := rest }) []) ∧
            (x.op = .chred → (c.oldest + c.depth < c.started ∨ canSend u c = false → goes u) ∧
              (c.started ≤ c.oldest + c.depth → canSend u c = true → OffDomain u t → ∀ xs, readTensor u y x.hb = .ok xs → ∃ z,
                run = .next z ∧ z.mem = s.mem ∧ chanOf z (chanNo x) = some { c with
                  started := c.started + 1
                  rounds := c.rounds ++ [{ k := c.started, cmd := x.id, sent := xs.map (BitVec.ofNat 32), maxima := none
                                           result := none }] })))) ∧
      (x.op = .chsend → x.started = true → ∀ c, chanOf s (chanNo x) = some c → ends u []) ∧
      (x.op = .chred → x.started = true → ∀ c r v, chanOf s (chanNo x) = some c →
        c.rounds.find? (fun r => decide (r.cmd = x.id)) = some r → r.result = some v → ∀ z w,
        writeTensor u y x.ha ((redResult c r v).map (·.1)) = .ok z → setFlag z c (fun _ => r.k + 1) = .ok w →
          goes (cmdDone (setChan w (chanNo x) { c with rounds := c.rounds.filter fun q => decide (q.k ≠ r.k) }) y
            (x.ev ||| unionEv (redResult c r v)) [])) ∧
      (∀ v, vocabOf s sl = some v → resident s sl = true → textBusy u y n = false →
        (x.op = .tokz → turn → handle1 x.ha 10 2 65535 = true → sl.state ≠ sFree → ¬ empty →
          let va := streamVa s sl 24
          let w := ctxFlits (hostAcquire u) sl.ctx va 32
          va ≠ 0 → ∀ d, readStream w sl.ctx va = .ok (some d) →
            let avail := (d.prod + 2 ^ 64 - d.cons) % 2 ^ 64
            let m := min avail (lmax v * (dim - 1 + 1))
            ∀ bs, ringRead w sl.ctx d (m / 2 ^ d.z + 2) d.cons m = .ok bs →
              let fin_ := decide (d.fin_ % 2 = 1)
              let r := tokenise v fin_ (dim - 1) bs
              let left := avail - m + r.2.1
              let head := r.1.length + (if r.2.2.1 then 2 ^ 29 else 0) + (if r.2.2.2 then 2 ^ 30 else 0)
                + (if fin_ = true ∧ left = 0 then 2 ^ 31 else 0)
              ∀ z q, writeHa w y ((head :: r.1).flatMap (toBytes 4)) = .ok z →
                ctxWrite z sl.ctx (va + 16) (toBytes 8 (d.cons + (avail - left))) = .ok q → ends q []) ∧
        (x.op = .detok → turn → handle1 x.ha 10 1 4096 = true → ¬ empty → sl.state = sActive → ∀ bs,
          readHa u y (4 * dim) = .ok bs →
            ((∃ t ∈ words32 bs, v.toks.length ≤ t) → faults (cIllegalOp, 0)) ∧
            ((∀ t ∈ words32 bs, t < v.toks.length) → goes (detokRun v n ((words32 bs).drop x.progress)
              (if x.started then u else haFlits u y (4 * dim)) y))) ∧
        (x.op = .gadv → turn → sl.state = sActive → x.sb.toNat < v.toks.length → x.sb.toNat < 2 ^ 18 →
          (gramOf s sl = none → ends (u.setSlot n (sl.setGrammar (sl.gpos + 1) sl.gstate)) []) ∧
          ∀ g, gramOf s sl = some g →
            (∀ st, advance g sl.text.dlim sl.gstate x.sb.toNat = .ok st →
              ends (u.setSlot n (sl.setGrammar (sl.gpos + 1) st)) []) ∧
            (advance g sl.text.dlim sl.gstate x.sb.toNat = .dead → ends (u.setSlot n (sl.endWith sError 2)) [])) ∧
        (x.op = .gmask → turn → hType x.ha = 12#4 → (v.toks.length + 7) / 8 ≤ dim →
          let k := v.toks.length
          let m := match gramOf s sl with
            | none => 2 ^ k - 1
            | some g => maskOf g sl.gstate % 2 ^ k
          ∀ z, writeHa u y (toBytes ((k + 7) / 8) m) = .ok z →
            ends z [.s x.dst (BitVec.ofNat 64 (lowestToken k m * 2 ^ 32 + countBits k m))])) ∧
      (x.op = .sltick → turn → ∃ t, ends (u.setSlot n ((sl.put 17 x.sb).putNat 18 t)) [] ∧
        let p := period (x.sb.toNat % 2 ^ 32)
        (p = 0 → t = 2 ^ 64 - 1) ∧
        (p ≠ 0 → s.pkg.time ≤ t ∧ t < s.pkg.time + p ∧ ((t : Int) - x.sx.toNat) % p = 0)) ∧
      (x.op = .slpin → turn → sl.state = sActive → hBase x.ha % 65536 = 0 → hSpace x.ha = 0 →
        let sinks := (sl.used 20).toNat % 2 ^ 16
        (dim < sinks + 2 ∨ sinks + 128 < dim → faults (cIllegalOp, 0)) ∧
        (sinks + 2 ≤ dim → dim ≤ sinks + 128 → ∀ pages : List Nat, pages.length = dim →
          (∀ i < dim, windowPage u y (hBase x.ha + 65536 * i) = .ok (pages.getD i 0)) → ∃ w,
            ends ((quarantine u (windowFreed sl)).setSlot n { sl with window := some w }) [] ∧ w.pages = pages ∧
            w.sinks = sinks ∧ w.entries = [] ∧ w.ctx = x.ctx ∧ w.va = hBase x.ha ∧
            (∀ o, sl.window = some o → w.high = o.high ∧ w.dropOld = o.dropOld ∧ w.dropFull = o.dropFull) ∧
            (sl.window = none → w.high = Reg.fill 0 ∧ w.dropOld = 0 ∧ w.dropFull = 0))) ∧
      (x.op = .slget → turn → hSpace x.ha ∉ [1, 4, 5] → 512 ≤ dim * widthOf (hType x.ha).toNat → ∀ w z,
        sl.window = some w → writeHa u y (s.mem.bytes (w.pages.getD w.sinks 0) 64) = .ok z → ends z []) ∧
      (∀ t e, x.op = .cpy → cpyStart x = true → x.progress + 1 = cpyBlocks x → cpyBlock u y x.progress = .ok (t, e) →
        goes (cmdDone t { y with progress := x.progress + 1, ev := x.ev ||| e } (x.ev ||| e) [])) ∧
      (let b := x.progress % ((dim + 31) / 32)
       let k := min 32 (dim - 32 * b)
       let from_ := cpyPlace x.hb (cpyRow x.hb x.sb x.progress) b k
       let into := cpyPlace x.ha (cpyRow x.ha x.sa x.progress) b k
       x.op = .cpy → cpyStart x = true → hType x.ha = hType x.hb → hBsm x.ha = 0 → hBsm x.hb = 0 →
         x.progress < cpyBlocks x → ∀ gs gd, cmdSegs u y x.hb 0 from_.1 from_.2.1 = .ok gs →
         cmdSegs u y x.ha 1 into.1 into.2.1 = .ok gd → (engBytes u y gs).length = into.2.1 →
           cpyBlock u y x.progress = .ok (engStore y gd (engBytes u y gs) u, 0)) ∧
      (∀ bits sc, hType x.ha ≠ hType x.hb → hBsm x.ha = 0 → hBsm x.hb = 0 → (cpyConvert x bits sc).1 = bits.map fun b =>
        (convLane (hType x.ha).toNat (hType x.hb).toNat x.num (bit x.low 3) false 0 (FV.ofBits (hType x.hb).toNat b)).1) ∧
      (x.op = .cpy → cpyStart x = true → cpyBlocks x ≤ x.progress → goes (cmdDone u y x.ev [])) ∧
      (x.op = .cpy → cpyStart x = true → x.progress < cpyBlocks x → ∀ f, cpyBlock u y x.progress = .error f →
        goes (cmdFault u y f)) ∧
      (x.op = .cpy → cpyStart x = false → goes (cmdFault u y (cIllegalOp, 0)))) ∧
    (∀ id, (∀ y ∈ s.cmds, y.id ≠ id) → exec (.engineCommandComplete id) s = .next s) ∧
    (∀ (v : Vocab) (i : Nat) (toks : List Nat) (t : State) (z : Cmd),
      detokRun v i [] t z = cmdDone t z 0 [] ∧
      ∀ k, let d := trimOut t ((t.slot i).detok v k 0xFFFFFFFF)
        (outFits d = true → outFull (t.slot i) = false →
          detokRun v i (k :: toks) t z = detokRun v i toks (t.setSlot i d) { z with progress := z.progress + 1 }) ∧
        (outFits d = false ∨ outFull (t.slot i) = true →
          detokRun v i (k :: toks) t z = setCmd t { z with started := true })) ∧
    (∀ (v : Vocab) (fin_ : Bool) (room : Nat) (bs : List Byte), (∀ b < 256, v.toks.getD b [] = [BitVec.ofNat 8 b]) →
      let r := tokenise v fin_ room bs
      r.1.length ≤ room ∧ r.2.1 ≤ bs.length ∧ (r.1.flatMap fun t => v.toks.getD t []) = bs.take (bs.length - r.2.1) ∧
      ∀ i, 256 ≤ i → i < v.toks.length → (v.toks.getD i []).isPrefixOf bs = true →
        (v.toks.getD i []).length ≤ (longestToken v bs).2)

/-! ### Pre-emption, restore, dispatch, launches -/

/-- A task that its dispatcher pre-empts in user mode, with no other event pending, nothing in flight and the emergency area
free, leaves its cell: its registers, tiles, scratchpad, pending accesses and program counter are in one saved image without an
open region or a poll, it is not parked, and the cell is clear and bound to nothing (R50, R196, R208, R209, R303). A waiting
ACCB is withdrawn first, and an event then pending comes before the pre-emption, by the dispatcher or by TRET with PARK (R196,
R201, R321). Where the emergency area is needed and busy, the cell stays frozen as it is (R212); a store to domain pages that the M
unit has begun is run to its retirement first (R208). A restore reads the context from
the area once no redirected load is pending, applies again what reached the saved task meanwhile (R209), and starts with an empty
L1 and instruction cache (R179, R186); what a save put there gives back the registers, tables and scratchpad but for reserved
bits, which read zero (R5, R210). The emergency area is freed with its SPLIT marks once its part is
copied to the area, a parked task is released, a cell that its context releases clears itself, and a finished CARVE changes the
scratchpad and L1 reservation of every member, on a cell or saved, keeping the scratchpad below both sizes, and releases those
that wait for it (R50, R54, R212, R221). The layout of the control block, and what of it a restore takes from the image, are log
16's choice; the value of registers on a cell that is cleared is log 2's, and which bound cells clear themselves log 23's. -/
def Obligations.SavedTasksAndServices : Prop :=
  (∀ (s : State) (c : BitVec 9),
     let x := s.cellAt c
     let storing := x.mx.queue.any (begun s)
     (x.running = true → c ∈ s.tasks.preempt → x.mx.run = none → storing = false → x.sup = false → x.wait = .none →
       x.pipe.inflight = [] → (∀ a ∈ x.pipe.accs, a.soon = true → a.age < 5) → x.pipe.untag = 0 → pendingEvent s c = none →
       s.pkg.emergBusy.rd (if isScout c then 1 else 0) = false →
       ∃ t y, exec (.preemption c) s = .next t ∧ t.tasks.saved = s.tasks.saved ++ [y] ∧
         y.gang = x.task.gang ∧ y.gmem = x.task.gmem ∧ y.parked = false ∧ y.cell = none ∧
         y.image.regs = x.regs ∧ y.image.pad = x.pad ∧ y.image.task = x.task ∧ y.image.mx = x.mx ∧
         y.image.entry = x.entry ∧ y.image.nx = x.nx ∧ y.image.pipe.pc = x.pipe.pc ∧ y.image.pipe.pend = x.pipe.pend ∧
         y.image.pipe.accs.map (·.id) = x.pipe.accs.map (·.id) ∧ y.image.pipe.inner = x.pipe.inner ∧
         y.image.pipe.outer = x.pipe.outer ∧ y.image.tr.tvec = x.tr.tvec ∧ y.image.region = none ∧
         y.image.pipe.polled = none ∧ y.image.pipe.asked = none ∧ y.image.pipe.got = none ∧ y.image.pipe.expired = false ∧
         y.image.pipe.rest = x.pipe.rest ∧ y.image.pipe.late = [] ∧ y.landed = [] ∧
         (t.cellAt c).running = false ∧ (t.cellAt c).bound = none ∧ (t.cellAt c).pad = [] ∧
         (t.cellAt c).regs = Regs.reset ∧ (t.cellAt c).mx = Matrix.reset ∧ c ∉ t.tasks.preempt) ∧
     (x.running = true → c ∈ s.tasks.preempt → x.mx.run = none → storing = false → x.wait = .none → pendingEvent s c = none →
       ∃ t, exec (.preemption c) s = .next t ∧
         (t = awaitArea s c ∨ t.tasks.saved.map (·.gang) = s.tasks.saved.map (·.gang) ++ [x.task.gang])) ∧
     ((awaitArea s c).cells = s.cells ∧ (awaitArea s c).mem = s.mem ∧ c ∈ (awaitArea s c).tasks.saving) ∧
     (c ∈ s.tasks.saving → cellTurn s c = .next { s with cur := c } ∧ pendingEvent s c = none) ∧
     (x.running = false ∨ (c ∉ s.tasks.preempt ∧ x.wait ≠ .park) ∨ x.mx.run ≠ none ∨ storing = true ∨ x.wait = .ending ∨
         answerHolds s c = true ∨ ((x.wait = .none ∨ x.wait = .park) ∧ pendingEvent s c ≠ none) →
       exec (.preemption c) s = .next s) ∧
     (x.running = true → c ∈ s.tasks.preempt → x.mx.run = none → storing = false →
       ((∃ g, x.wait = .accb g) ∨ ((∃ g a, x.wait = .accbDone g a) ∧ answerHolds s c = false)) → pendingEvent (withdraw s c) c ≠ none →
       exec (.preemption c) s = .next (withdraw s c) ∧ ((withdraw s c).cellAt c).wait = .none ∧
       ((withdraw s c).cellAt c).regs = x.regs ∧ ((withdraw s c).cellAt c).pipe = x.pipe) ∧
     (∀ y, s.tasks.saved.find? (fun z => decide (z.cell = some c)) = some y →
       (∀ im, (∀ a ∈ y.image.pipe.accs, a.lands = []) → areaContext s y = some im → ∃ t, exec (.taskRestore c) s = .next t ∧
         (t.cellAt c).regs = im.regs ∧ (t.cellAt c).pad = im.pad ∧ (t.cellAt c).pipe = im.pipe ∧
         (t.cellAt c).task = im.task ∧ (t.cellAt c).mx = im.mx ∧ (t.cellAt c).tr.savecur = im.tr.savecur ∧
         (t.cellAt c).tr.status = im.tr.status ∧ (t.cellAt c).lines = [] ∧ (t.cellAt c).icache = [] ∧ y ∉ t.tasks.saved ∧
         (∀ a, t.mem.rd a = s.mem.rd a ∨ ∃ d, ∃ l ∈ (s.cellAt d).lines,
           l.tag ≤ a ∧ l.dirty.getLsbD (a - l.tag) = true ∧ t.mem.rd a = byteAt l.data (a - l.tag)) ∧
         (∀ d, d ≠ c → t.cellAt d = { s.cellAt d with lines := (t.cellAt d).lines })) ∧
       ((∃ a ∈ y.image.pipe.accs, a.lands ≠ []) ∨ areaContext s y = none → exec (.taskRestore c) s = .next s)) ∧
     (∀ (y : Saved) l im, areaContext s y = some im →
       areaContext s { y with landed := y.landed ++ l } = some (l.foldl Redirected.apply im)) ∧
     (∀ y ∈ s.tasks.saved, ∀ l, ∃ z ∈ (redirectTo s y.gang y.gmem l).tasks.saved,
       z = { y with image := z.image, landed := y.landed ++ l } ∧ z.image = l.foldl Redirected.apply y.image)) ∧
  (∀ (steps : Nat) (bars : Reg 4 Barrier) (x old : Cell),
     let y := loadContext (saveBytes steps bars x) old
     y.regs = x.regs ∧ y.nx.cnt = x.nx.cnt ∧ y.nx.rmode = x.nx.rmode &&& 7#64 ∧ y.nx.win = x.nx.win &&& 0xFFFFFFFF#64 ∧
       y.nx.ctl = x.nx.ctl &&& 0xFFFFFF#64 ∧ (∀ i, y.nx.thr.rd i = x.nx.thr.rd i &&& 0xFFFFFFFF#64) ∧
       (∀ i, y.entry.rd i = x.entry.rd i &&& 0x83FF03FF#64) ∧ (∀ i, y.mx.fmt.rd i = x.mx.fmt.rd i &&& 0x1FF#64) ∧
       y.mx.ztype = x.mx.ztype ∧ y.mx.cb = x.mx.cb ∧ y.tr.status = x.tr.status &&& 0xF#64 ∧ y.tr.tval = x.tr.tval ∧
       y.tr.epc = x.tr.epc &&& 0xFFFFFFFF#64 ∧ ∀ a < padBytes x, y.pad.rd a = x.pad.rd a) ∧
  (∀ (s : State),
     (∀ scout, let die := BitVec.ofNat 1 (if scout then 1 else 0)
       (copyBack s die = none → exec (.emergencyAreaFree scout) s = .next s) ∧
       ((∀ y ∈ s.tasks.saved, y.split ≠ some die) → copyBack s die = some s) ∧
       (∀ u, copyBack s die = some u → ∃ t, exec (.emergencyAreaFree scout) s = .next t ∧
         t.pkg.emergBusy.rd die = false ∧ (∀ y ∈ t.tasks.saved, y.split ≠ some die) ∧ t.mem = u.mem ∧
         ∀ c, t.cellAt c = if c ∈ dieCells scout then joinCell (s.cellAt c) else s.cellAt c)) ∧
     (∀ uid, ∃ t, exec (.parkRelease uid) s = .next t ∧ (∀ y ∈ t.tasks.saved, y.gang = uid → y.parked = false) ∧
       t.tasks.saved.map (·.image) = s.tasks.saved.map (·.image) ∧ t.cells = s.cells ∧ t.mem = s.mem) ∧
     (∀ c, (cellIdle s c = true → (s.cellAt c).bound ≠ none → ∃ t, exec (.cellClearDone c) s = .next t ∧
         (t.cellAt c).bound = none ∧ (t.cellAt c).pad = [] ∧ (t.cellAt c).regs = Regs.reset ∧
         (t.cellAt c).mx = Matrix.reset) ∧
       ((s.cellAt c).running = true → exec (.cellClearDone c) s = .next s)) ∧
     (∀ gang g n v r, gangOf s gang = some g → g.carving = (n, v) :: r → g.cells.Nodup →
       ∃ t, exec (.carveRelease gang) s = .next t ∧ (gangOf t gang).map (·.carving) = some r ∧
       (∀ c ∈ g.cells, ∀ b, (s.cellAt c).running = true → (s.cellAt c).task.gang = gang → (s.cellAt c).bound = some b →
         let y := t.cellAt c
         (∀ m sc, (s.cellAt c).wait = .carveDone m sc → y.wait = if m = n then .none else .carveDone m sc) ∧
         y.regs = (s.cellAt c).regs ∧
         y.bound = some { b with spr := v.extractLsb' 0 6, l1r := v.extractLsb' 8 4 } ∧
         ∀ a, y.pad.rd a = if min b.spr.toNat (v.toNat % 64) * 32768 ≤ a ∧ a < 2 ^ 21 then 0 else (s.cellAt c).pad.rd a) ∧
       (∀ y ∈ s.tasks.saved, y.gang = gang → ∃ z ∈ t.tasks.saved, z.gang = y.gang ∧ z.gmem = y.gmem ∧
         z.image = carveImage n (carveCell v y.image) ∧ z.landed = y.landed ++ [.carve v])) ∧
     (∀ gang g, gangOf s gang = some g → g.carving = [] → exec (.carveRelease gang) s = .next s))

/-- A decision of a dispatcher touches no engine, and of memory and of a cell that runs a task at most what an L1 gives up: the
dirty bytes of its lines, which go home (R55). A cell that it changes otherwise starts a member of the one gang that the
decision starts: in user mode, with zero registers but its shadow bank and rows, nothing in flight, the loops off and the
numeric registers at reset (R33, R49, R57, R85, R148). And it does start one: where no task waits to resume, no block drains,
and every stage whose queue head may start has a whole free block, or is a single-cell stage above class 0 that has to wait, the
decision takes one such stage's head from its queue and starts its gang on a free block (R57, R58, R66). The value of registers
that a task start does not set is the model's choice (log 2). -/
def Obligations.DispatchStartsGangs : Prop :=
  ∀ (s : State) (scout : Bool), ∃ t, exec (.dispatchDecision scout) s = .next t ∧
    t.staging = s.staging ∧ t.cmds = s.cmds ∧ t.brood = s.brood ∧ t.inbound = s.inbound ∧
    (∀ a, t.mem.rd a = s.mem.rd a ∨ ∃ d, ∃ l ∈ (s.cellAt d).lines,
      l.tag ≤ a ∧ l.dirty.getLsbD (a - l.tag) = true ∧ t.mem.rd a = byteAt l.data (a - l.tag)) ∧
    (∀ c, (s.cellAt c).running = true → t.cellAt c = { s.cellAt c with lines := (t.cellAt c).lines }) ∧
    (∀ d, t.cellAt d ≠ { s.cellAt d with lines := (t.cellAt d).lines } →
      let x := s.cellAt d
      let y := t.cellAt d
      x.running = false ∧ y.running = true ∧ y.sup = false ∧ y.task.gang = s.nextId ∧ y.wait = .none ∧
      (∀ i, y.regs.s.rd i = 0) ∧ (∀ i, y.regs.a.rd i = 0) ∧ (∀ i, y.regs.h.rd i = 0) ∧ (∀ i, y.regs.k.rd i = 0) ∧
      y.regs.sh = x.regs.sh ∧ y.pipe.inflight = [] ∧ y.pipe.pend = 0 ∧ y.pipe.inner = none ∧ y.pipe.outer = none ∧
      y.nx = Nx.reset ∧ y.events = Events.none) ∧
    (let free := fun (x : Cand) => options s scout x ≠ [] ∧ 1 ≤ x.h.gang
     (s.tasks.launches.map (·.id)).Nodup → (∀ l ∈ s.tasks.launches, l.stages.length ≤ 16) → s.tasks.saved = [] →
     (∀ x ∈ stagesOf s scout, x.q.draining = none ∧
       (startable s x = true → free x ∨ (options s scout x = [] ∧ x.h.gang = 1 ∧ x.h.prio ≠ 0#2))) →
     (∃ x ∈ stagesOf s scout, startable s x = true ∧ free x) →
     ∃ x ∈ stagesOf s scout, ∃ (e : QEntry) (r : List QEntry) (g : Gang), x.q.queue = e :: r ∧
       t.tasks.gangs = s.tasks.gangs ++ [g] ∧ g.id = s.nextId ∧ g.launch = x.l.id ∧ g.stage = x.i ∧ g.ident = e.ident ∧
       g.cells ∈ options s scout x ∧ g.cells ≠ [] ∧ (stageOf t x.l.id x.i).map (·.queue) = some r ∧
       ∀ c ∈ g.cells, (s.cellAt c).running = false ∧ (t.cellAt c).running = true ∧ (t.cellAt c).task.gang = g.id)

/-- Launches: a queue write follows the ring rule of R19, an entry of the next ring in turn is read and its packet checked, the
first waiting launch is admitted with status 1 once its launch slots and queues fit, a finished one leaves with status 2 (R20,
R39 to R41). Seeds, read off domain pages, and SPAWNG ranges enter their stage's queue in order, one at a time, when it has room
(R42, R43, R48), those of a fused gang in ascending GMEM (R418). That
the first enable of a ring zeroes its indices, like a later one, is the model's choice (log 44). -/
def Obligations.LaunchStepsComplete : Prop :=
  ∀ (s : State),
    (∀ q v, ∃ t, exec (.lqtailWrite q v) s = .next t ∧
      let x := s.pkg.lq.rd q
      let y := t.pkg.lq.rd q
      y.head = x.head ∧ y.base = x.base ∧ y.cfg = x.cfg ∧
      (2 ^ (x.cfg.toNat % 16) < (v - x.head).toNat → y.stopped = (x.stopped || x.on) ∧ y.tail = x.tail) ∧
      ((v - x.head).toNat ≤ 2 ^ (x.cfg.toNat % 16) → y.tail = v ∧ y.stopped = x.stopped) ∧
      (∀ r, r ≠ q → t.pkg.lq.rd r = s.pkg.lq.rd r) ∧ t.mem = s.mem ∧ t.cells = s.cells) ∧
    (∀ q v, ∃ t, exec (.lqcfgWrite q v) s = .next t ∧
      let x := s.pkg.lq.rd q
      let y := t.pkg.lq.rd q
      y.cfg = v &&& 0x1F#64 ∧ y.base = x.base ∧
      (cfgOn (v &&& 0x1F#64) = true → cfgOn x.cfg = false → y.head = 0 ∧ y.tail = 0 ∧ y.stopped = false) ∧
      (cfgOn (v &&& 0x1F#64) = false ∨ cfgOn x.cfg = true → y.head = x.head ∧ y.tail = x.tail ∧ y.stopped = x.stopped)) ∧
    ((∀ q, (s.pkg.lq.rd q).entry 64 = none) → exec .launchEntryRead s = .next s) ∧
    (∀ e, (s.pkg.lq.rd s.pkg.lqTurn).entry 64 = some e → ∃ t, exec .launchEntryRead s = .next t ∧
      (t.pkg.lq.rd s.pkg.lqTurn).head = (s.pkg.lq.rd s.pkg.lqTurn).head + 1 ∧ t.pkg.lqTurn = s.pkg.lqTurn + 1 ∧
      let s1 := { s with pkg := t.pkg }
      let p := (packetWord s e 0).toNat
      (∀ st, checkPacket s1 p = .error st → t.tasks = s.tasks ∧ t.mem = s.mem.storeNat (hostAddr (e + 8)) 8 st) ∧
      (∀ hs, checkPacket s1 p = .ok hs → t.tasks.launches.map (·.id) = s.tasks.launches.map (·.id) ++ [s.nextId] ∧
        t.nextId = s.nextId + 1)) ∧
    ((∀ l ∈ s.tasks.launches, l.resident = true) → exec .launchAdmit s = .next s) ∧
    (∀ l, s.tasks.launches.find? (fun l => !l.resident) = some l →
      let needs := fun (d : Bool) => l.stages.any fun q => decide (onScout q.hdr = d)
      let fits := ∀ d, queuesFit s d l = true ∧ (needs d = true → freeSlot s d ≠ none)
      (¬ fits → exec .launchAdmit s = .next s) ∧
      (fits → ∃ t l1, exec .launchAdmit s = .next t ∧ t.cells = s.cells ∧ launchOf t l.id = some l1 ∧ l1.resident = true ∧
        (needs false = true → l1.comb = freeSlot s false) ∧ (needs true = true → l1.scout = freeSlot s true) ∧
        t.mem.nat (hostAddr (l.status + 8)) 8 = 1 ∧ t.tasks.launches.map (·.id) = s.tasks.launches.map (·.id))) ∧
    (∀ id l, launchOf s id = some l →
      (launchDone s l = true → ∃ t, exec (.launchComplete id) s = .next t ∧ launchOf t id = none ∧
        t.mem = s.mem.storeNat (hostAddr (l.status + 8)) 8 2) ∧
      (launchDone s l = false → exec (.launchComplete id) s = .next s) ∧
      (∀ q bs, stageOf s id l.seedStage = some q → ctxRead s l.ctx l.seedAt 8 = .ok bs → l.resident = true →
        l.seedLeft ≠ 0 → q.queue.length < 2 ^ q.hdr.qlog → OffDomain s (nextSeed id s) → ∃ t q', exec (.seedEnqueue id) s = .next t ∧
          stageOf t id l.seedStage = some q' ∧ q'.queue.length = q.queue.length + 1 ∧ q'.queue.take q.queue.length = q.queue ∧
          (q'.queue.getLast?).map (·.ident) = some (maskIdent q.hdr (BitVec.ofNat 64 (leNat bs)))) ∧
      (∀ q, stageOf s id l.seedStage = some q → 2 ^ q.hdr.qlog ≤ q.queue.length ∨ l.seedLeft = 0 → s.pd.asks = [] →
        exec (.seedEnqueue id) s = .next s)) ∧
    (∀ c r q, rangeOf s c = some r → stageOf s r.launch r.stage = some q →
      (2 ^ q.hdr.qlog ≤ q.queue.length → exec (.spawnUnitEnqueue c) s = .next s) ∧
      let behind := ∃ x ∈ s.tasks.ranges, x.gang = r.gang ∧ x.gmem.toNat < r.gmem.toNat
      (r.gang ≠ 0 → behind → exec (.spawnUnitEnqueue c) s = .next s) ∧
      (r.gang = 0 ∨ ¬ behind → q.queue.length < 2 ^ q.hdr.qlog → ∃ t q', exec (.spawnUnitEnqueue c) s = .next t ∧
        stageOf t r.launch r.stage = some q' ∧ q'.queue = q.queue ++
          [{ ident := maskIdent q.hdr (rangeIdent q.hdr r), barrier := r.barrier, scope := r.scope, step := none }] ∧
        rangeOf t c = (if r.next + 1 < r.count then some { r with next := r.next + 1 } else none)))

/-! ### The host, peers, power, reset -/

/-- The inbound buffer: a write to HBM is accepted, changes no memory until it is performed, and is performed at its home, in
order behind earlier writes of the same source to the same stack; a byte outside the reserved regions then holds what was
written, one inside them keeps what it held (R192, R193, R443). What a peer sends as domain traffic is accepted only where the
flits of its kind passed the checks, which it uses up (R294), and each access of a peer is answered by a response flit (R194,
R287). A host read answers from the home and changes nothing (R16), the text region reading zero before the first image (R172),
and a peer's load, compare-and-swap or AMO answers the old value and writes the new one (R169, R183). That writes of one source
are kept in order within the stack of their first byte is log 30's reading; operations 14 and 15 of a peer access, the class and
payload of the flits and their responses are log 19's. -/
def Obligations.InboundComplete : Prop :=
  ∀ (s : State),
    (∀ (src : Origin) pa bytes, bytes ≠ [] → hbmRange s pa.toNat bytes.length = true → (∀ p, src ≠ .peer p true) →
      exec (.hostWriteAccept src pa bytes) s =
        .next (respond { s with inbound := s.inbound ++ [{ src := src, pa := pa.toNat, bytes := bytes }] } src pa.toNat [])) ∧
    (∀ p pa bytes, bytes ≠ [] → hbmRange s pa.toNat bytes.length = true →
      let flits := takeFlits s p 1 ((bytes.length + 255) / 256)
      (∀ s1, flits = some s1 → exec (.hostWriteAccept (.peer p true) pa bytes) s =
        .next (respond { s1 with inbound := s.inbound ++ [{ src := .peer p true, pa := pa.toNat, bytes := bytes }] }
          (.peer p true) pa.toNat [])) ∧
      (flits = none → exec (.hostWriteAccept (.peer p true) pa bytes) s = .next s)) ∧
    (∀ a bs, respond s .host a bs = s) ∧
    (∀ p domain a bs, ∃ t m, respond s (.peer p domain) a bs = t ∧
      t = { s with chans := { s.chans with out := s.chans.out ++ [m] }, pd := { s.pd with sends := t.pd.sends } } ∧
      (domain = false → t.pd = s.pd) ∧ m.chan = none ∧ m.bytes = bs ∧ fld m.hdr 0 16 = s.pd.self.toNat ∧
      fld m.hdr 16 16 = p.toNat ∧ fld m.hdr 36 4 = 3 ∧ m.hdr.getLsbD 35 = domain) ∧
    (∀ src pa bytes, bytes = [] ∨ hbmRange s pa.toNat bytes.length = false →
      exec (.hostWriteAccept src pa bytes) s = .next s) ∧
    (∀ p kind n s1, takeFlits s p kind n = some s1 → inDomain s = true ∧ s1 = { s with pd := s1.pd } ∧
      s1.pd = { s.pd with flits := s1.pd.flits } ∧ s.pd.flits.length = s1.pd.flits.length + n ∧
      n ≤ (s.pd.flits.filter fun h => decide (h.extractLsb' 0 16 = p) && decide (fld h 36 4 = kind)).length) ∧
    (∀ i w, s.inbound[i]? = some w →
      let before := fun (x : Inbound) => x.pa / 2 ^ 36 = w.pa / 2 ^ 36 ∧ (match x.src, w.src with
        | .host, .host => True
        | .peer p _, .peer q _ => p = q
        | _, _ => False)
      ((∀ x ∈ s.inbound.take i, ¬ before x) →
        ∃ t, exec (.hostWritePerform i) s = .next t ∧ t.inbound = s.inbound.eraseIdx i ∧ t.cells = s.cells ∧
          ∀ a, t.mem.rd a = if w.pa ≤ a ∧ a < w.pa + w.bytes.length ∧ reserved a = false
            then w.bytes.getD (a - w.pa) 0 else s.mem.rd a) ∧
      ((∃ x ∈ s.inbound.take i, before x) → exec (.hostWritePerform i) s = .next s)) ∧
    (∀ i, s.inbound.length ≤ i → exec (.hostWritePerform i) s = .next s) ∧
    (∀ (pa : BitVec 56) n, (hbmRange s pa.toNat n = false → exec (.hostRead pa n) s = .next s) ∧
      (hbmRange s pa.toNat n = true → ∃ t, exec (.hostRead pa n) s = .next t ∧ t = { s with response := t.response } ∧
        t.response.length = n ∧
        (s.pkg.devState ≠ 3 → ∀ i < n, (reserved (pa.toNat + i) = false →
            t.response.getD i 0 = s.mem.rd (pa.toNat + i)) ∧
          (Config.textBase ≤ pa.toNat + i → pa.toNat + i < Config.textBase + Config.textBytes → s.text.changed = 0 →
            t.response.getD i 0 = 0)))) ∧
    (∀ (src : BitVec 16) (domain : Bool) (pa : BitVec 56) (op : BitVec 4) (size : BitVec 2) (v : BitVec 128),
      let n := if op = 9 then 16 else 4 * 2 ^ (size.toNat % 2)
      let old := s.mem.nat pa.toNat n
      let run := exec (.peerInboundAccess { src := src, domain := domain, pa := pa } op size v) s
      let flits := takeFlits s src (if op = 15 then 0 else 2) 1
      (domain = true → flits = none → run = .next s) ∧
      (hbmRange s pa.toNat n = true → reserved pa.toNat = false → pa.toNat % n = 0 → (op.toNat ≤ 9 ∨ 14 ≤ op.toNat) →
        (domain = false ∨ flits ≠ none) →
        ∃ t, run = .next t ∧ t.response = toBytes n old ∧ t.cells = s.cells ∧
          (∀ s1, domain = true → flits = some s1 → t.pd = { s1.pd with sends := t.pd.sends }) ∧
          (domain = false → t.pd = s.pd) ∧
          (∃ m, t.chans.out = s.chans.out ++ [m] ∧ m.bytes = toBytes n old ∧ fld m.hdr 16 16 = src.toNat ∧ fld m.hdr 36 4 = 3) ∧
          (op = 15 → t.mem = s.mem) ∧
          (op = 14 → t.mem = if old = fld v 64 64 % 2 ^ (8 * n) then s.mem.storeNat pa.toNat n (fld v 0 64) else s.mem) ∧
          (op.toNat < 9 → t.mem = s.mem.storeNat pa.toNat n (amoNew op.toNat (8 * n) old (v.toNat % 2 ^ (8 * n)))) ∧
          (op = 9 → t.mem = s.mem.storeNat pa.toNat 16 (amoNew 9 128 old (v.toNat % 2 ^ 96)))))

/-- Clocks, power and reports: FCLK freezes the cells of a present frame whose step changes until its glide ends (R18); at the
end of a window the throttle level rises by one above LIMIT and falls by one, not below FLOOR, after four calm windows, and is
15 while the hot flag stands (R25, R26); CLRPK sets PEAK to CUR; the oldest report goes into the ring, RPTAIL moves on and
vector 0 is raised, and a full ring drops it (R206, R207). -/
def Obligations.PowerAndReportsComplete : Prop :=
  ∀ (s : State),
    (∀ v, ∃ t, exec (.fclkWrite v) s = .next t ∧ t.pkg.fclk = v &&& 0xFFFF#64 ∧ t.cells = s.cells ∧ t.mem = s.mem ∧
      ∀ f < 4, bit t.pkg.glide f = (bit s.pkg.glide f ||
        (bit s.pkg.frames f && decide (min 8 (fld s.pkg.fclk (4 * f) 4) ≠ min 8 (fld v (4 * f) 4))))) ∧
    (∀ f : BitVec 2, ∃ t, exec (.clockGlideEnd f) s = .next t ∧
      ∀ g < 4, bit t.pkg.glide g = (bit s.pkg.glide g && decide (g ≠ f.toNat))) ∧
    (∀ (f : BitVec 2) cur temp, bit s.pkg.frames f.toNat = true →
      ∃ t, exec (.throttleWindow f cur temp) s = .next t ∧ (∀ g, g ≠ f → t.pkg.throttle.rd g = s.pkg.throttle.rd g) ∧
        let x := s.pkg.throttle.rd f
        let y := t.pkg.throttle.rd f
        let limit := max 400 (min 2560 x.limit.toNat)
        y.cur = cur ∧ y.peak.toNat = max x.peak.toNat cur.toNat ∧ y.overLimit = decide (limit < cur.toNat) ∧
        y.limit = x.limit ∧ y.floor = x.floor ∧
        (y.therm = true ↔ 105 ≤ temp ∨ (x.therm = true ∧ 95 < temp)) ∧
        (y.therm = true → y.level = 15) ∧
        (y.therm = false → limit < cur.toNat → y.level.toNat = max x.floor.toNat (min 15 (x.level.toNat + 1))) ∧
        (y.therm = false → cur.toNat ≤ limit → limit * 15 < cur.toNat * 16 →
          y.calm = 0 ∧ y.level.toNat = max x.floor.toNat x.level.toNat) ∧
        (y.therm = false → cur.toNat * 16 ≤ limit * 15 → x.calm ≠ 3 →
          y.calm = x.calm + 1 ∧ y.level.toNat = max x.floor.toNat x.level.toNat) ∧
        (y.therm = false → cur.toNat * 16 ≤ limit * 15 → x.calm = 3 →
          y.calm = 0 ∧ y.level.toNat = max x.floor.toNat (x.level.toNat - 1))) ∧
    (∀ f : BitVec 2, bit s.pkg.frames f.toNat = true → ∃ t, exec (.fimeasClrpk f) s = .next t ∧
      (t.pkg.throttle.rd f).peak = (s.pkg.throttle.rd f).cur ∧ (t.pkg.throttle.rd f).cur = (s.pkg.throttle.rd f).cur) ∧
    (∀ (f : BitVec 2) cur temp, bit s.pkg.frames f.toNat = false →
      exec (.throttleWindow f cur temp) s = .next s ∧ exec (.fimeasClrpk f) s = .next s) ∧
    (s.pkg.reports = [] ∨ cfgOn s.pkg.rpCfg = false → exec .reportRecord s = .next s) ∧
    (∀ r rest, s.pkg.reports = r :: rest → cfgOn s.pkg.rpCfg = true → ∃ t, exec .reportRecord s = .next t ∧
      t.pkg.reports = rest ∧ t.cells = s.cells ∧
      let n := 2 ^ (s.pkg.rpCfg.toNat % 16)
      ((s.pkg.rpTail - s.pkg.rpHead).toNat = n → t.mem = s.mem ∧ t.pkg.rpTail = s.pkg.rpTail ∧
        t.pkg.drops.toNat = min 65535 (s.pkg.drops.toNat + 1)) ∧
      ((s.pkg.rpTail - s.pkg.rpHead).toNat ≠ n → t.pkg.rpTail = s.pkg.rpTail + 1 ∧ t.pkg.drops = s.pkg.drops ∧
        t.pkg.msix = s.pkg.msix ++ (if bit s.pkg.rpCfg 5 then [0] else []) ∧
        let at_ := hostAddr (s.pkg.rpBase.toNat + 64 * (s.pkg.rpTail.toNat % n))
        t.mem.nat at_ 1 = r.kind.toNat ∧ t.mem.nat (at_ + 1) 1 = r.cause.toNat ∧
        t.mem.nat (at_ + 4) 2 = r.ctx.toNat ∧ t.mem.nat (at_ + 8) 8 = r.epc.toNat ∧
        t.mem.nat (at_ + 16) 8 = r.tval.toNat ∧ t.mem.nat (at_ + 32) 8 = r.data.toNat))

/-- BAR0 writes take the used bits of their register, and a command register takes a command unless its status is busy, which
it then is (R17, R206, R222, R250, R270, R279, R289).
Reset and bring-up: a package reset leaves FAILED without its firmware or frame 0, and otherwise brings up frames 1 to 3 one
after another, each present or absent, then the crossings and ports, and is READY; from then on a port goes down and comes up by
itself, and before that none comes up (R15, R21, R23, R24). That a FAILED package shows no frame is log 44's choice, that memory
reads zero after a reset log 1's, and the values of a cell's registers without a reset value log 2's. -/
def Obligations.HostRegistersAndBringUp : Prop :=
  (∀ (s : State) (v : Word),
     let wrote := fun (off : BitVec 16) (p : Package) =>
       exec (.registerWrite off v) s = .next { s with pkg := p }
     let b := v &&& ~~~0x3F#64
     wrote 0x200 { s.pkg with rpBase := b } ∧ wrote 0x208 { s.pkg with rpCfg := v &&& 0x3F#64 } ∧
     wrote 0x210 { s.pkg with rpHead := v } ∧ wrote 0x300 { s.pkg with txImg := b } ∧
     wrote 0x400 { s.pkg with md := { s.pkg.md with base := b } } ∧ wrote 0x500 { s.pkg with chImg := b } ∧
     wrote 0x600 { s.pkg with pdImg := b } ∧ wrote 0x608 { s.pkg with pdCmd := some (v &&& 3#64) } ∧
     wrote 0x700 { s.pkg with cxImg := b } ∧
     (s.pkg.txStat.toNat % 4 = 1 → wrote 0x308 s.pkg) ∧
     (s.pkg.txStat.toNat % 4 ≠ 1 → wrote 0x308 { s.pkg with txCmd := v &&& 0xFFF3#64, txStat := 1 }) ∧
     (s.pkg.chStat.toNat % 4 = 1 → wrote 0x508 s.pkg) ∧
     (s.pkg.chStat.toNat % 4 ≠ 1 → wrote 0x508 { s.pkg with chCmd := v &&& 0x3FFFFF#64, chStat := 1 }) ∧
     (s.pkg.cxStat.toNat % 4 = 1 → wrote 0x708 s.pkg) ∧
     (s.pkg.cxStat.toNat % 4 ≠ 1 → wrote 0x708 { s.pkg with
       cxCmd := v &&& 0xF#64, cxStat := (s.pkg.cxStat &&& 0xFFFFFFFF00000000#64) ||| 1#64 }) ∧
     (∀ j : BitVec 3, wrote (0x420 + 8 * j.zeroExtend 16) { s.pkg with mdue := s.pkg.mdue.wr j (v &&& 0x1FFFFFFFFF000F#64) }) ∧
     (∀ q : BitVec 3, wrote (0x100 + 32 * q.zeroExtend 16) { s.pkg with
       lq := s.pkg.lq.wr q { s.pkg.lq.rd q with base := b } }) ∧
     wrote 0x000 s.pkg ∧ wrote 0x008 s.pkg ∧ wrote 0x218 s.pkg ∧ wrote 0x310 s.pkg ∧ wrote 0x710 s.pkg) ∧
  (∀ (s : State),
     (∀ firmware frame0 scout, ∃ t, exec (.packageReset firmware frame0 scout) s = .next t ∧ t.mem = [] ∧ t.cmds = [] ∧
       t.tasks = Tasks.reset ∧ t.pd = Propolis.reset ∧ t.brood = Brood.reset ∧ t.cells = State.reset.cells ∧
       (firmware = false ∨ frame0 = false → t.pkg.devState = 2 ∧ t.pkg.frames = 0) ∧
       (firmware = true → frame0 = true → t.pkg.devState = 0 ∧ t.pkg.frames = 1 ∧ t.pkg.scout = scout ∧
         t.pkg.bringup = some 1)) ∧
     (∀ f : BitVec 2, s.pkg.bringup = some f → ∃ t u, exec (.frameRailOk f) s = .next t ∧
       exec (.frameBringupTimeout f) s = .next u ∧
       t.pkg.frames = s.pkg.frames ||| BitVec.ofNat 4 (2 ^ f.toNat) ∧ u.pkg.frames = s.pkg.frames ∧
       (f ≠ 3 → t.pkg.bringup = some (f + 1) ∧ u.pkg.bringup = some (f + 1) ∧ t.pkg.devState = s.pkg.devState ∧
         u.pkg.devState = s.pkg.devState) ∧
       (f = 3 → t.pkg.bringup = none ∧ u.pkg.bringup = none ∧ t.pkg.devState = 1 ∧ u.pkg.devState = 1 ∧
         bit t.pkg.crossings 0 = (bit t.pkg.frames 0 && bit t.pkg.frames 1) ∧
         bit t.pkg.crossings 1 = (bit t.pkg.frames 0 && bit t.pkg.frames 2) ∧
         bit t.pkg.crossings 2 = (bit t.pkg.frames 1 && bit t.pkg.frames 3) ∧
         bit t.pkg.crossings 3 = (bit t.pkg.frames 2 && bit t.pkg.frames 3))) ∧
     (∀ f : BitVec 2, s.pkg.bringup ≠ some f →
       exec (.frameRailOk f) s = .next s ∧ exec (.frameBringupTimeout f) s = .next s) ∧
     (∀ p, ∃ t u, exec (.linkPortDown p) s = .next t ∧ exec (.linkPortUp p) s = .next u ∧
       (∀ i < 16, bit t.pkg.ports i = (bit s.pkg.ports i && decide (i ≠ p))) ∧
       (∀ i < 4, bit t.pkg.uePorts i = (bit s.pkg.uePorts i && decide (i + 16 ≠ p))) ∧ t.cells = s.cells ∧ u.mem = s.mem ∧
       (s.pkg.up = true →
         (∀ i < 16, bit u.pkg.ports i = (bit s.pkg.ports i || decide (i = p))) ∧
         ∀ i < 4, bit u.pkg.uePorts i = (bit s.pkg.uePorts i || decide (i + 16 = p))) ∧
       (s.pkg.up = false → u = s)) ∧
     (∀ firmware frame0 scout, ∃ t, exec (.packageReset firmware frame0 scout) s = .next t ∧ t.pkg.up = false) ∧
     (∀ f : BitVec 2, s.pkg.bringup = some f → ∃ t u, exec (.frameRailOk f) s = .next t ∧
       exec (.frameBringupTimeout f) s = .next u ∧ t.pkg.up = (s.pkg.up || decide (f = 3)) ∧
       u.pkg.up = (s.pkg.up || decide (f = 3))) ∧
     (∀ source : BitVec 8, ∃ t, exec (.tamperSensor source) s = .next t ∧ t.pkg.up = s.pkg.up))

/-- CXCMD creates, destroys, invalidates and sets the pool of the context that the descriptor names, or rejects with a reason
and changes no context; a command that the host has not written, or that is done, does nothing. An invalidation drops the
context's translations everywhere and takes the next TLBI number; QUIESCE advances to the oldest TLBI once every access
translated before it has been performed, and a quarantined page is released when QUIESCE has reached the number of the first
TLBI that names it and found it unmapped (R222 to R225). Which TLBI unmapped a page is log 26's reading, and the order of the
checks of a descriptor log 31's. -/
def Obligations.ContextsComplete : Prop :=
  ∀ (s : State),
    let w := cxWord s
    let id := (w 0).extractLsb' 0 16
    let form := fld (w 0) 16 48 = 0
    let rejected := fun (t : State) (n : Nat) => t.pkg.contexts = s.pkg.contexts ∧ t.pkg.cxStat.toNat % 2 ^ 16 = 3 + 256 * n
    (cxReady s 0 = true →
      (∀ n, createReason s = n → n ≠ 0 → ∃ t, exec .contextCreate s = .next t ∧ rejected t n) ∧
      (createReason s = 0 → ∃ t c, exec .contextCreate s = .next t ∧ t.pkg.contexts = s.pkg.contexts ++ [c] ∧
        c.id = id ∧ c.root = (w 1).toNat ∧ c.tvec = (w 2).extractLsb' 0 56 ∧ c.saveb = (w 3).toNat ∧
        c.free = List.range ((w 4).toNat / 2 ^ 32 % 2 ^ 16) ∧ c.pool = (w 5).toNat ∧ t.pkg.cxStat.toNat % 2 ^ 16 = 2)) ∧
    (cxReady s 1 = true → form → w 7 = 0 →
      (contextAt s id = none → ∃ t, exec .contextDestroy s = .next t ∧ rejected t 5) ∧
      (contextAt s id ≠ none → contextUsed s id = true → ∃ t, exec .contextDestroy s = .next t ∧ rejected t 4) ∧
      (contextAt s id ≠ none → contextUsed s id = false → ∃ t, exec .contextDestroy s = .next t ∧
        contextAt t id = none ∧ ∀ c, ∀ e ∈ (t.cellAt c).tlb, e.ctx ≠ id)) ∧
    (∀ whole, cxReady s 2 = true → bit s.pkg.cxCmd 3 = whole → form → fld (w 7) 56 8 = 0 →
      contextAt s id ≠ none → ∃ t, exec (.contextInvalidate whole) s = .next t ∧
        t.pkg.tlbiNext = s.pkg.tlbiNext + 1 ∧ t.pkg.contexts = s.pkg.contexts ∧
        t.pkg.cxStat.toNat / 2 ^ 32 = s.pkg.tlbiNext % 2 ^ 32 ∧
        (∃ x, t.pkg.tlbis = s.pkg.tlbis ++ [x] ∧ x.n = s.pkg.tlbiNext ∧ x.ctx = id ∧
          x.va = if whole then none else some (w 7).toNat) ∧
        ∀ c, ∀ e ∈ (t.cellAt c).tlb, e.ctx = id → whole = false ∧ e.va ≠ (w 7).toNat / leafBytes e.level) ∧
    (∀ whole, cxReady s 2 = true → bit s.pkg.cxCmd 3 = whole → form → fld (w 7) 56 8 = 0 → contextAt s id = none →
      ∃ t, exec (.contextInvalidate whole) s = .next t ∧ rejected t 5) ∧
    (cxReady s 3 = true → form → fld (w 5) 56 8 = 0 → fld (w 6) 32 32 = 0 → w 7 = 0 → (w 5).toNat % 8 = 0 →
      hbmAddr s (w 5).toNat 8 = true →
      (contextAt s id = none → ∃ t, exec .contextSetPool s = .next t ∧ rejected t 5) ∧
      (contextAt s id ≠ none → ∃ t, exec .contextSetPool s = .next t ∧
        ∀ c ∈ t.pkg.contexts, c.id = id → c.pool = (w 5).toNat ∧ c.poolN = (w 6).toNat % 2 ^ 32)) ∧
    (∀ code : BitVec 3, 4 ≤ code.toNat → cxReady s code.toNat = true → ∃ t, exec (.contextBadCommand code) s = .next t ∧
      rejected t 1) ∧
    (cxReady s 0 = false → exec .contextCreate s = .next s) ∧ (cxReady s 1 = false → exec .contextDestroy s = .next s) ∧
    (∀ whole, cxReady s 2 = false → exec (.contextInvalidate whole) s = .next s) ∧
    (cxReady s 3 = false → exec .contextSetPool s = .next s) ∧
    (∀ code : BitVec 3, cxReady s code.toNat = false → exec (.contextBadCommand code) s = .next s) ∧
    (s.pkg.shoots = [] → exec .quiesceAdvance s = .next s) ∧
    (∀ x rest, s.pkg.shoots = x :: rest →
      ((∀ c, olderAccess x.first (s.cellAt c) = false) → (∀ y ∈ s.tasks.saved, olderAccess x.first y.image = false) →
        ∃ t, exec .quiesceAdvance s = .next t ∧ t.pkg.quiesce = x.n ∧ t.pkg.shoots = rest ∧
          ∀ c, ∀ e ∈ (t.cellAt c).tlb, x.va = none → e.ctx ≠ x.ctx) ∧
      ((∃ c, olderAccess x.first (s.cellAt c) = true) → exec .quiesceAdvance s = .next s)) ∧
    (let maps := fun (l : Leaf) (q : Freed) => l.va ≤ q.va ∧ q.va < l.va + l.size ∧ l.pa + (q.va - l.va) = q.pa
     let unmaps_ := fun (t : Tlbi) (q : Freed) => t.ctx = q.ctx ∧ (∀ va, t.va = some va → va / 65536 = q.va / 65536) ∧
       ∀ l ∈ t.still, ¬ maps l q
     let free := fun (q : Freed) => ∃ a t b, s.pkg.tlbis = a ++ t :: b ∧ q.since ≤ t.n ∧ t.n ≤ s.pkg.quiesce ∧ unmaps_ t q ∧
       ∀ x ∈ a, q.since ≤ x.n → ¬ unmaps_ x q
     (∀ a q b, s.pkg.quarantine = a ++ q :: b → free q → (∀ x ∈ a, ¬ free x) → ∃ t, exec .quarantineRelease s = .next t ∧
       t.pkg.quarantine = a ++ b ∧ t.mem = s.mem ∧ t.cells = s.cells) ∧
     ((∀ q ∈ s.pkg.quarantine, ¬ free q) → exec .quarantineRelease s = .next s))

/-! ### Slots, rounds, text -/

/-- The host changes a slot only through its shadow half: at the snapshot the fields that the host may write reach the live
half of every committed slot, its state moves under R229, retirement takes the next generation, and no other slot moves (R226 to
R229). The pages of what retires go to the quarantine, in the order of the table, which pages these are being log 26's reading
(R225). A round that starts has its draft entry queued once, with identifier GEN·4,096 + slot, when its stage has room
(R232). -/
def Obligations.SlotStepsComplete : Prop :=
  ∀ (s : State),
    (∃ t, exec .broodSnapshot s = .next t ∧ t.mem = s.mem ∧
      (∀ i, i ∉ (s.brood.slots.filter fun e => e.2.commit).map (·.1) → t.slot i = s.slot i)) ∧
    ((s.brood.slots.map (·.1)).Nodup →
      let goal := fun (sl : Slot) => (sl.shadow.rd 0).toNat % 256
      let retires := fun (sl : Slot) =>
        (decide (sl.state ≠ 0) && decide (goal sl = 0)) || ((decide (sl.state = 3) || decide (sl.state = 4)) && decide (goal sl = 1))
      ∃ t, exec .broodSnapshot s = .next t ∧
        t.pkg.quarantine = s.pkg.quarantine ++ ((s.brood.slots.filter fun e => e.2.commit && retires e.2).flatMap fun e =>
          windowFreed e.2 ++ kvFreed s e.1 e.2) ∧
        ∀ i sl, (i, sl) ∈ s.brood.slots → sl.commit = true → sl.gen < 2 ^ 32 →
          let y := t.slot i
          let next := if sl.gen + 1 = 2 ^ 32 then 1 else sl.gen + 1
          y.commit = false ∧ (∀ f < 25, hostField f = true → f ≠ 0 →
            y.live.rd (BitVec.ofNat 5 f) = sl.shadow.rd (BitVec.ofNat 5 f) &&& fieldMask f) ∧
          (sl.state = 0 → goal sl = 1 → y.state = 1 ∧ y.gen = sl.gen ∧ y.len = 0) ∧
          (sl.state ≠ 0 → goal sl = 0 → y.state = 0 ∧ y.gen = next ∧ y.window = none ∧ y.record = Reg.fill 0) ∧
          ((sl.state = 3 ∨ sl.state = 4) → goal sl = 1 → y.state = 1 ∧ y.gen = next ∧ y.len = 0) ∧
          (retires sl = false → ¬ (sl.state = 0 ∧ goal sl = 1) → y.state = sl.state ∧ y.gen = sl.gen)) ∧
    (∀ n : BitVec 12,
      ((s.slot n.toNat).round.active = false → exec (.roundDraftEnqueue n) s = .next s) ∧
      (qnextStages s = none → exec (.roundDraftEnqueue n) s = .next s) ∧
      (∀ l i q v, (s.slot n.toNat).round.active = true → (s.slot n.toNat).round.enqueue = true →
        qnextStages s = some ((l, i, q), v) →
        (2 ^ q.hdr.qlog ≤ q.queue.length → exec (.roundDraftEnqueue n) s = .next s) ∧
        (q.queue.length < 2 ^ q.hdr.qlog → ∃ t, exec (.roundDraftEnqueue n) s = .next t ∧
          (t.slot n.toNat).round.enqueue = false ∧ t.cells = s.cells ∧ t.mem = s.mem ∧
          (stageOf s l i = some q → ∃ q', stageOf t l i = some q' ∧ q'.queue = q.queue ++ [{
            ident := maskIdent q.hdr (BitVec.ofNat 64 ((s.slot n.toNat).gen * 4096 + n.toNat)), barrier := false, scope := 10,
            step := none }]) ∧
          exec (.roundDraftEnqueue n) t = .next t)))

/-- The decision of a round runs only on a bound QVER: without one nothing is decided, a QVER of a stale generation is counted
and completes, one of a cancelled round writes a record with STALE and ends the round, once the output buffer lets the next one
start (R240, R245, R264). A bound QVER of the slot's generation waits until its rows are there and the output buffer has room;
then, where it reads and writes no domain page, it decides: it accepts drafts by the rule of its mode up to the first that it
turns away, LEN becomes n + a + 1, ACR moves an eighth of the way to a/d, or stays where nothing was drafted, the record says
what was decided, and an ACTIVE slot starts its next round (R232, R241 to R245). A dead mask ends the slot. A list is formed of
a declaration that is numbered, once the proposal entries of its positions are there: a stale one is counted, and images that
are missing end the slot (R230, R238, R258); any other command is left alone (R416). When a list is formed and when a full
buffer holds the next round are log 25's readings. -/
def Obligations.QuorumStepsComplete : Prop :=
  ∀ (s : State) (n : BitVec 12),
    let sl := s.slot n.toNat
    (arrivedQvers s n.toNat = [] → sl.round.qver = none → exec (.quorumDecision n) s = .next s) ∧
    (∀ x, arrivedQvers s n.toNat = [x] → sl.round.qver = some x.id → cmdOf s x.id = some x → s.pd.asks = [] →
        (genOk s x = false → ∃ t, exec (.quorumDecision n) s = .next t ∧ cmdOf t x.id = none ∧
          t.brood.stalew = (countStale s).brood.stalew ∧ t.mem = s.mem) ∧
        (genOk s x = true → sl.round.cancelled = true → roundHeld sl = true → exec (.quorumDecision n) s = .next s) ∧
        (genOk s x = true → sl.round.cancelled = true → roundHeld sl = false → ∃ t, exec (.quorumDecision n) s = .next t ∧
          cmdOf t x.id = none ∧ bit ((t.slot n.toNat).record.rd 2) 19 = true ∧ t.mem = s.mem ∧
          (t.slot n.toNat).live.rd 9 = sl.live.rd 9) ∧
        (genOk s x = true → sl.state = sActive → sl.round.active = false → exec (.quorumDecision n) s = .next s) ∧
        (genOk s x = true → sl.round.active = true → sl.round.cancelled = false → qverBad x sl (fld x.sb 0 5) = false →
          let d := fld x.sb 0 5
          (qverRows s x sl d = .ok none → exec (.quorumDecision n) s = .next s) ∧
          (∀ rows, qverRows s x sl d = .ok (some rows) →
            let read := if x.fn = 1#4 then tensorFlits s x x.ha else s
            let r := decideFrom read sl n.toNat rows (sl.round.ring.take d) 0 []
            let wrote := decideWrites read x n.toNat d r
            let ready := decideReady s wrote x n.toNat
            (ready = false → exec (.quorumDecision n) s = .next s) ∧
            (ready = true → OffDomain s wrote → ∃ t, exec (.quorumDecision n) s = .next t ∧ cmdOf t x.id = none ∧ t.mem = s.mem ∧
              t.brood.decided = satInc s.brood.decided ∧
              let y := t.slot n.toNat
              let acr := (sl.used 11).toNat
              (∀ tok, r.tok = some tok → y.live.rd 9 = BitVec.ofNat 64 (((sl.used 9).toNat + r.a + 1) % 2 ^ 32) ∧
                (d = 0 → y.live.rd 11 = sl.live.rd 11) ∧
                (d ≠ 0 → ((y.live.rd 11).toNat : Int) = (acr + (((r.a * 65536 / d : Nat) : Int) - acr) / 8) % 2 ^ 16)) ∧
              (r.tok = none → y.live.rd 9 = sl.live.rd 9 ∧ y.state ≠ sActive) ∧
              (y.state = sActive → y.round.active = true ∧ y.round.num = sl.round.num + 1) ∧
              (y.state ≠ sActive → y.round.active = false) ∧
              y.record.rd 0 = sl.round.copy.rd 1 ∧ y.record.rd 1 = sl.used 9 ∧ fld (y.record.rd 2) 0 8 = d ∧
              fld (y.record.rd 2) 8 8 = r.a ∧ bit (y.record.rd 2) 16 = r.bonus ∧ bit (y.record.rd 2) 17 = r.forced ∧
              bit (y.record.rd 2) 18 = decide (fld (sl.used 8) 0 2 = 1) ∧ bit (y.record.rd 2) 19 = false ∧
              y.record.rd 3 = BitVec.ofNat 64 (r.tok.getD 0 % 2 ^ 18) ∧
              y.record.rd 6 = BitVec.ofNat 64 (sl.round.seq + 1))))) ∧
    (∀ (i : Nat) (en : BitVec 128) (p : List (Nat × Nat)) (mask : Option Nat),
      let tok := entryTok en
      let at_ := (sl.used 9).toNat + i
      let q := draftRow s (entryRef en)
      let verdict := verifyDraft s sl n.toNat i en p mask
      (∀ f, forcedToken mask = some f → verdict = if tok = f then .accept else .stop (some f) true) ∧
      (forcedToken mask = none → probSum p = 0 → verdict = .stop none false) ∧
      (forcedToken mask = none → probSum p ≠ 0 →
        (fld (sl.used 8) 0 2 = 1 → verdict = if tok = argmax p then .accept else .stop (some (argmax p)) false) ∧
        (fld (sl.used 8) 0 2 ≠ 1 →
          (verdict = .accept ↔ 0 < probOf q tok ∧
            draw (sl.used 5).toNat n.toNat at_ drawAccept * probOf q tok < probOf p tok * 2 ^ 24)))) ∧
    (∀ (rows : List (List (Nat × Nat))) (en : BitVec 128) (es : List (BitVec 128)) (i : Nat) (toks : List Nat),
      let verdict := verifyDraft s sl n.toNat i en (rows.getD i []) (draftMask s sl (sl.used 9).toNat toks)
      let r := decideFrom s sl n.toNat rows (en :: es) i toks
      (verdict = .accept → r = decideFrom s sl n.toNat rows es (i + 1) (toks ++ [entryTok en])) ∧
      (∀ tok f, verdict = .stop tok f → r = { a := i, tok := tok, forced := f, bonus := false })) ∧
    (∀ p : List (Nat × Nat), (p.map (·.1)).Pairwise (· < ·) → probSum p ≠ 0 →
      (∃ v, (argmax p, v) ∈ p ∧ (∀ y ∈ p, y.2 ≤ v) ∧ ∀ y ∈ p, y.2 = v → argmax p ≤ y.1) ∧
      ∀ w < 2 ^ 24, ∃ a y b, p = a ++ y :: b ∧ invert p w = y.1 ∧ 2 ^ 24 * probSum a ≤ w * probSum p ∧
        w * probSum p < 2 ^ 24 * (probSum a + y.2)) ∧
    (∀ x : Cmd, cmdOf s x.id = some x →
      (x.op ≠ .sieve ∨ x.started = false ∨ x.held ≠ none → exec (.sieveList x.id) s = .next s) ∧
      (x.op = .sieve → x.started = true → x.held = none →
        let y := s.slot (slotNo x)
        (genOk s x = false → exec (.sieveList x.id) s = .next (cmdDone (countStale s) x 0 [])) ∧
        (genOk s x = true →
          (y.round.active = false ∨ y.round.num ≠ x.round ∨ y.round.cancelled = true →
            exec (.sieveList x.id) s = .next (cmdDone s x 0 [])) ∧
          (y.round.active = true → y.round.num = x.round → y.round.cancelled = false →
            (y.round.ring.length < x.num → exec (.sieveList x.id) s = .next s) ∧
            (∀ ls bs, x.num ≤ y.round.ring.length → sieveRow s x = .ok (ls, bs) →
              let z := if resident s y then y else y.endWith sError 2
              ∃ t ev, exec (.sieveList x.id) s = .next t ∧ t = cmdDone (s.setSlot (slotNo x)
                { z with round := { y.round with lists := y.round.lists.put x.num (shortlist y (draftMask s y
                  (y.used 9).toNat ((y.round.ring.take x.num).map entryTok)) ls bs).1 } }) x ev [])))))

/-- Installing and removing vocabularies and grammars: a bad index, an image that a slot or a grammar uses, or a bad image is
rejected and changes nothing; else the image is resident, or gone; the removal of an image that is not there is done and changes
nothing (R250 to R252). The output of a slot drains into its ring in order, as far as the ring has room, what an earlier
generation left going first; the host's writes that were accepted before are performed first, a stream that cannot be used ends
in STREAM_FAULT, and one behind the re-keying barrier waits (R253, R264, R297); a stream off the domain's pages is meant. That
what an earlier generation left drains first, and that an absent image is looked for before what uses it, are log 25's readings.
-/
def Obligations.TextStepsComplete : Prop :=
  ∀ (s : State) (n : BitVec 12),
    let ready := fun (kind remove : Bool) => cmdReady s.pkg.txStat s.pkg.txCmd (txValue kind remove n) = true
    (ready false false →
      (vocabReason s n.toNat ≠ 0 →
        exec (.textInstallVocabulary n) s = .next (textDone s (vocabReason s n.toNat))) ∧
      (vocabReason s n.toNat = 0 → ∃ t, exec (.textInstallVocabulary n) s = .next t ∧ t.text.grams = s.text.grams ∧
        match vocabImage s with
        | .error r => t = textDone s r
        | .ok v => t.text.vocabs.find n.toNat = some v ∧ t.pkg.txStat = 2)) ∧
    (ready true false →
      (gramReason s n.toNat = 0 → ∀ g, gramImage s = .ok g → gramRoom s n.toNat g = true → ∃ t,
        exec (.textInstallGrammar n) s = .next t ∧ t.text.grams.find n.toNat = some g ∧ t.text.vocabs = s.text.vocabs ∧
          t.pkg.txStat = 2) ∧
      (gramReason s n.toNat = 0 → ∀ g, gramImage s = .ok g → gramRoom s n.toNat g = false →
        exec (.textInstallGrammar n) s = .next (textDone s 3)) ∧
      (gramReason s n.toNat ≠ 0 → exec (.textInstallGrammar n) s = .next (textDone s (gramReason s n.toNat)))) ∧
    (ready false true → vocabReason s n.toNat = 0 → ∃ t, exec (.textRemoveVocabulary n) s = .next t ∧
      t.text.vocabs.find n.toNat = none ∧ (∀ m, m ≠ n.toNat → t.text.vocabs.find m = s.text.vocabs.find m)) ∧
    (ready false true → n.toNat ≤ 15 → s.text.vocabs.find n.toNat = none →
      exec (.textRemoveVocabulary n) s = .next (textDone s 0)) ∧
    (ready true true → n.toNat ≤ 4094 → s.text.grams.find n.toNat = none →
      exec (.textRemoveGrammar n) s = .next (textDone s 0)) ∧
    (∀ r, ∃ p, textDone s r = { s with pkg := p } ∧ p = { s.pkg with txStat := p.txStat, txCmd := 0 } ∧
      (r = 0 → p.txStat = 2)) ∧
    (ready false true → vocabReason s n.toNat ≠ 0 → (15 < n.toNat ∨ s.text.vocabs.find n.toNat ≠ none) →
      exec (.textRemoveVocabulary n) s = .next (textDone s (vocabReason s n.toNat))) ∧
    (ready true true → gramReason s n.toNat = 0 → ∃ t, exec (.textRemoveGrammar n) s = .next t ∧
      t.text.grams.find n.toNat = none ∧ (∀ m, m ≠ n.toNat → t.text.grams.find m = s.text.grams.find m)) ∧
    (ready true true → gramReason s n.toNat ≠ 0 → (4094 < n.toNat ∨ s.text.grams.find n.toNat ≠ none) →
      exec (.textRemoveGrammar n) s = .next (textDone s (gramReason s n.toNat))) ∧
    (let sl := s.slot n.toNat
     let va := streamVa s sl 15
     let own := pendingOut s sl
     (sl.left = [] → sl.text.out = [] → sl.text.finish = none → s.pd.asks = [] → exec (.outputDrain n) s = .next s) ∧
     (sl.left = [] → sl.text.out ≠ [] → va = 0 → s.pd.asks = [] → ∃ t, exec (.outputDrain n) s = .next t ∧ (t.slot n.toNat).text.out = [] ∧
       t.mem = s.mem) ∧
     (∀ u l, sl.left = [] → sl.text.out ≠ [] → va ≠ 0 → drainTo s own = some (u, l) → OffDomain s u → ∃ t,
       exec (.outputDrain n) s = .next t ∧ (t.slot n.toNat).text.out = l.out ∧ (t.slot n.toNat).text.finish = l.finish ∧
         t.mem = u.mem) ∧
     (sl.left = [] → sl.text.out ≠ [] → va ≠ 0 → drainTo s own = none → s.pd.asks = [] → ∃ t, exec (.outputDrain n) s = .next t ∧
       (t.slot n.toNat).text.out = [] ∧ (t.slot n.toNat).text.discard = true ∧ t.mem = s.mem ∧
       (sl.state = 2 → (t.slot n.toNat).state = 4)) ∧
     (∀ l r, sl.left = l :: r →
       (drainTo s l = none → s.pd.asks = [] → ∃ t, exec (.outputDrain n) s = .next t ∧
         (t.slot n.toNat).text = sl.text ∧ (t.slot n.toNat).left = r ∧ t.mem = s.mem) ∧
       (∀ u k, drainTo s l = some (u, k) → OffDomain s u → ∃ t, exec (.outputDrain n) s = .next t ∧
         (t.slot n.toNat).text = sl.text ∧ t.mem = u.mem ∧
         (t.slot n.toNat).left = if k.out = [] ∧ k.finish = none then r else k :: r))) ∧
    (∀ l : Leftover,
      let w := ctxFlits (hostAcquire s) l.ctx l.va 32
      (∀ x ∈ w.inbound, x.peer = true) ∧
      (∀ f, readStream w l.ctx l.va = .error f → drainTo s l = if f.1 = cWait then some (w, l) else none) ∧
      (readStream w l.ctx l.va = .ok none → drainTo s l = none) ∧
      (∀ d, readStream w l.ctx l.va = .ok (some d) →
        (∀ u k, drainBytes w l d = .ok (u, k) → drainTo s l = some (u, k) ∧ u.cells = s.cells ∧
          k.out = l.out.drop (2 ^ d.z - (d.prod + 2 ^ 64 - d.cons) % 2 ^ 64)) ∧
        (∀ f, drainBytes w l d = .error f → drainTo s l = if f.1 = cWait then some (w, l) else none)))

/-! ### Channels, the domain, media, accord engines -/

/-- Channels: entries are installed or removed as a whole range or rejected with a reason; a message enters the next slot of its
buffer, or is not taken while the buffer is full, and one that does not fit the entry is dropped, one that a media binding names
goes to the media unit (R271), and dropped is a multicast of a DOM channel that another than the switch of the group sent
(R312); a reduce result from the switch that serves the group completes its open round, oldest or not, and the maxima of
RESCALE, a result too, release phase 2; a result that serves no open round is dropped; on a DOM channel what arrives uses up
flits that passed the checks. What leaves goes as flits of up to 256 bytes under a header, on domain traffic with the next SEQ
of its destination, package or group, and class, under the key of its link and a nonce of SEQ, class and source (R278, R279,
R282, R283, R285 to R287, R293, R294). Path and receiver of a message in another package, and PROTECTION for a BUF outside HBM,
are log 18's readings. -/
def Obligations.ChannelStepsComplete : Prop :=
  ∀ (s : State),
    (∀ (first : BitVec 10) (count : BitVec 11) (remove : Bool),
      let run := if remove then exec (.channelRemove first count) s else exec (.channelInstall first count) s
      let v := BitVec.ofNat 64 ((if remove then 2 ^ 21 else 0) + count.toNat * 1024 + first.toNat)
      (cmdReady s.pkg.chStat s.pkg.chCmd v = false → run = .next s) ∧
      (cmdReady s.pkg.chStat s.pkg.chCmd v = true →
        (count.toNat < 1 ∨ 1024 < first.toNat + count.toNat → ∃ t, run = .next t ∧ t.chans = s.chans ∧
          t.pkg.chStat.toNat = 3 + 256 * 2) ∧
        (1 ≤ count.toNat → first.toNat + count.toNat ≤ 1024 → chanBusy s first.toNat count.toNat = false →
          (remove = false → (∀ i < count.toNat, entryReason (imageEntry s i) = 0) → ∃ t, run = .next t ∧
            t.pkg.chStat = 2 ∧ ∀ i < count.toNat, chanOf t (first.toNat + i) = some (imageEntry s i)) ∧
          (remove = true → ∃ t, run = .next t ∧ t.pkg.chStat = 2 ∧
            ∀ i < count.toNat, ∀ c, chanOf t (first.toNat + i) = some c → c.valid = false)))) ∧
    (∀ (ch : BitVec 10) (m : Message) (tag : UltraTag), m.ultra = some tag → mdBound s.pkg tag = true →
      exec (.channelMessageArrival ch m) s = exec (.mediaUeMessage ch m.src tag m.bytes) s) ∧
    (∀ (ch : BitVec 10) (m : Message), (∀ tag, m.ultra = some tag → mdBound s.pkg tag = false) →
      let run := exec (.channelMessageArrival ch m) s
      let got := takeChannel s (chanOf s ch.toNat) m.src 4 m.bytes.length
      (got = none → run = .next s) ∧
      (∀ u, got = some u → (chanOf s ch.toNat = none → run = .next u) ∧
        ∀ c, chanOf s ch.toNat = some c →
          let fits := c.valid = true ∧ (c.kind = 1 ∨ c.kind = 2) ∧ m.bytes.length = c.bytes ∧
            (c.dom = true → c.kind = 2 → m.src.toNat = c.switch)
          (¬ fits → run = .next u) ∧ (fits → c.depth ≤ c.msgs.length → run = .next s) ∧
          (fits → c.msgs.length < c.depth → (∀ f, putMessage u ch.toNat c m.bytes = .error f → run = .next u) ∧
            ∀ t, putMessage u ch.toNat c m.bytes = .ok t → run = .next t ∧
              ∃ d, chanOf t ch.toNat = some d ∧ d.msgs = c.msgs ++ [c.next % c.depth] ∧ d.next = c.next + 1))) ∧
    (∀ src kind n, takeChannel s none src kind n = some s ∧
      ∀ c : Chan, (c.dom = false → takeChannel s (some c) src kind n = some s) ∧
        (c.dom = true → takeChannel s (some c) src kind n = takeFlits s src kind ((n + 255) / 256))) ∧
    (∀ (ch : BitVec 10) (res : RoundResult 128) c, chanOf s ch.toNat = some c →
      let run := exec (.reduceResultArrival ch res) s
      let got := takeChannel s (some c) res.src 7 (resultBytes c res.vals)
      let open_ := c.rounds.find? fun r => decide (r.k = res.k) && r.result.isNone
      (got = none → run = .next s) ∧
      (∀ u, got = some u →
        (c.valid = false ∨ res.src.toNat ≠ c.switch ∨ open_ = none → run = .next u) ∧
        (∀ r, c.valid = true → res.src.toNat = c.switch → open_ = some r →
          (c.oper = 3 → r.maxima = none → run = .next u) ∧
          ((c.oper = 3 → r.maxima ≠ none) →
            (cmdOf s r.cmd = none → ∃ t d, run = .next t ∧ chanOf t ch.toNat = some d ∧
              d.rounds = c.rounds.filter fun y => decide (y.k ≠ res.k)) ∧
            (∀ x, cmdOf s r.cmd = some x → ∃ d, d.rounds.map (·.k) = c.rounds.map (·.k) ∧
              (OffDomain (setChan u ch.toNat d) (finishRed (setChan u ch.toNat d) x ch.toNat d r res.vals) →
                run = .next (finishRed (setChan u ch.toNat d) x ch.toNat d r res.vals))))))) ∧
    (∀ (ch : BitVec 10) (res : RoundResult 32) c, chanOf s ch.toNat = some c →
      let run := exec (.rescalePhase1Result ch res) s
      let got := takeChannel s (some c) res.src 7 (4 * res.vals.length)
      let open_ := c.rounds.find? fun r => decide (r.k = res.k) && r.result.isNone
      (got = none → run = .next s) ∧
      (∀ u, got = some u →
        (c.valid = false ∨ res.src.toNat ≠ c.switch ∨ open_ = none ∨ c.oper ≠ 3 → run = .next u) ∧
        (∀ r, c.valid = true → res.src.toNat = c.switch → open_ = some r → c.oper = 3 →
          (r.maxima ≠ none → run = .next u) ∧ (r.maxima = none → canSend s c = false → run = .next s) ∧
          (r.maxima = none → canSend s c = true →
            ∃ t d ms, run = .next t ∧ chanOf t ch.toNat = some d ∧
              d.rounds = (c.rounds.map fun y => if y.k = res.k then { y with maxima := some res.vals } else y) ∧
              t.chans.out = s.chans.out ++ ms ∧ ms.length = (16 * (rescaleTerms c r res.vals).length + 255) / 256 ∧
              ∀ m ∈ ms, m.chan = some ch.toNat ∧ fld m.hdr 36 4 = 6)))) ∧
    (∀ (ch : Nat) (c : Chan) (kind : Nat) (bs : List Byte), kind < 16 → ∃ ms,
      let t := sendOut s ch c kind bs
      let key := ((if 2 ≤ c.kind then 2 ^ 16 else 0) + c.peer) * 4 + c.tc
      t.chans.out = s.chans.out ++ ms ∧ (ms.flatMap (·.bytes)) = bs ∧
      (∀ m ∈ ms, m.chan = some ch ∧ m.bytes.length ≤ 256 ∧ fld m.hdr 0 16 = s.pd.self.toNat ∧ fld m.hdr 16 16 = c.peer ∧
        fld m.hdr 32 2 = c.tc ∧ fld m.hdr 36 4 = kind ∧ (m.hdr.getLsbD 35 = c.dom) ∧
        (c.dom = false → m.crypt = none) ∧
        (c.dom = true → fld m.hdr 40 24 = s.pd.gen.toNat % 2 ^ 24) ∧ (c.dom = false → m.hdr.toNat / 2 ^ 40 = 0)) ∧
      (c.dom = false → t.pd = s.pd) ∧
      (c.dom = true → (∀ i m, ms[i]? = some m → m.hdr.toNat / 2 ^ 64 = (s.pd.sends.get 0 key + i) % 2 ^ 64) ∧
        t.pd.sends.get 0 key = s.pd.sends.get 0 key + ms.length ∧
        (∀ other, other ≠ key → t.pd.sends.get 0 other = s.pd.sends.get 0 other) ∧
        ∀ i m, ms[i]? = some m → ∃ k, m.crypt = some k ∧ fld k.nonce 0 64 = (s.pd.sends.get 0 key + i) % 2 ^ 64 ∧
          fld k.nonce 64 2 = c.tc ∧ fld k.nonce 66 14 = 0 ∧ fld k.nonce 80 16 = s.pd.self.toNat ∧
          k.key = linkKey s.pd.secret s.pd.gen s.pd.self.toNat (if 2 ≤ c.kind then c.switch else c.peer)))

/-- The domain: formation from a manifest that passes, through FORMING, to the members that attestation vouches for; leaving;
re-keying to the next generation once this package has arrived, no flit of its own is outstanding and no round is open;
revocation and a sensor that erase keys, scout SRAM and staging and end in ERASED. A flit is accepted in sequence and then waits
to be performed; an authentication failure or a sequence error is counted, raises level 1, and above the threshold suspends the
domain, and such a flit is not performed; on an Ultra Ethernet port a number is accepted once and within 256 of the highest
(R23, R290, R291, R294, R295, R297, R298). What an engine or an M word does with domain pages is not done before its flits have
left and a response to each has been accepted (R292, R294). The leader's part, which flits are outstanding, which response is
awaited and the order of a flit's checks are log 32's readings. -/
def Obligations.DomainStepsComplete : Prop :=
  ∀ (s : State),
    (∀ reports secret, pdReady s 0 = true → broughtUp s = false → s.pd.state ≠ 1 →
      exec (.domainForm reports secret) s = .next s) ∧
    (∀ reports secret, pdReady s 0 = true → broughtUp s = true →
      let run := exec (.domainForm reports secret) s
      (s.pd.state = 5 → ∃ t, run = .next t ∧ t.pd = s.pd) ∧
      (s.pd.state ≠ 5 → s.pd.state ≠ 1 → (manifest s).ok = false → ∃ t, run = .next t ∧
        t.pd.state = s.pd.state ∧ t.pd.members = s.pd.members ∧ bit t.pd.alarm 0 = true) ∧
      ((manifest s).ok = true → (s.pd.state = 2 ∨ s.pd.state = 3) → ∃ t, run = .next t ∧
        t.pd.state = 3 ∧ t.pd.change = true ∧ t.pd.gen = s.pd.gen ∧ t.pd.members = s.pd.members) ∧
      ((manifest s).ok = true → (s.pd.state = 0 ∨ s.pd.state = 4) → ∃ t, run = .next t ∧ t.pd.state = 1 ∧
        t.pd.domain = (manifest s).domain ∧ t.pd.next = (manifest s).recs ∧ t.pd.gen = s.pd.gen ∧
        t.pd.change = decide (s.pd.state = 4))) ∧
    (∀ reports secret, s.pd.state = 1 →
      let kept := vouched s [] reports s.pd.next
      ∃ t, exec (.domainForm reports secret) s = .next t ∧ t.pd.domain = s.pd.domain ∧
        t.pd.gen = (if s.pd.change then s.pd.gen + 1 else 1) ∧ t.pd.seqErr = 0 ∧ t.pd.authErr = 0 ∧ t.pd.tags = 0 ∧
        (admitted s s.pd.next kept = true → t.pd.state = 2 ∧ t.pd.secret = secret ∧ t.pd.members = kept) ∧
        (admitted s s.pd.next kept = false → t.pd.state = 0 ∧ t.pd.secret = 0 ∧ t.pd.members = []) ∧
        (kept.length < s.pd.next.length → bit t.pd.alarm 0 = true)) ∧
    (∀ known reports recs m, m ∈ vouched s known reports recs ↔ ∃ r ∈ recs, r.id = m ∧
      (m ∈ known ∨ (m = s.pd.self ∧ leaderOf recs = some s.pd.self) ∨ ∃ x ∈ reports, x.id = m ∧
        bit x.chains r.slot.toNat = true ∧ x.firmware = r.firmware ∧ (bit m 15 = true ∨ x.code = r.code))) ∧
    (∀ recs i, leaderOf recs = some i → (∃ r ∈ recs, r.id = i) ∧ bit i 15 = false ∧
      ∀ r ∈ recs, bit r.id 15 = false → i.toNat ≤ r.id.toNat) ∧
    (pdReady s 1 = true → (s.pd.state = 2 ∨ s.pd.state = 3) → ∃ t, exec .domainLeave s = .next t ∧ t.pd.state = 3 ∧
      t.pd.change = true ∧ ∀ r ∈ t.pd.next, r.id ≠ s.pd.self) ∧
    (∀ source : BitVec 8, 3 ≤ source.toNat → source.toNat ≤ 6 → ∃ t u, exec (.tamperSensor source) s = .next t ∧
      (pdReady s 2 = true → exec .domainRevoke s = .next u) ∧
      ∀ z ∈ [t, u], z.pd.state = 5 ∧ z.pd.secret = 0 ∧ z.pd.members = [] ∧ z.staging = [] ∧ z.pkg.devState = 3 ∧
        bit z.pd.alarm 2 = true ∧ z.cells = s.cells ∧ (∀ a, paTarget a < 2 → z.mem.rd a = 0) ∧
        ∀ a, 2 ≤ paTarget a → z.mem.rd a = s.mem.rd a) ∧
    (∀ source : BitVec 8, ¬ (3 ≤ source.toNat ∧ source.toNat ≤ 6) → exec (.tamperSensor source) s = .next s) ∧
    (∀ reports,
      let kept := vouched s s.pd.members reports s.pd.next
      let u := settleAsks s
      (s.pd.asks = [] → u = s) ∧ u = { s with pd := { s.pd with flits := u.pd.flits, asks := u.pd.asks } } ∧
      (s.pd.state = 3 → s.pd.change = true → s.pd.arrived = true → openRounds s = false → flitsOut u = false → ∃ t,
        exec (.rekeyBarrierComplete reports) s = .next t ∧ t.pd.gen = s.pd.gen + 1 ∧ t.pd.arrived = false ∧
        t.pd.change = false ∧ t.pd.tags = 0 ∧
        (s.pd.self ∈ kept → t.pd.state = 2 ∧ t.pd.secret = s.pd.secret ∧ t.pd.members = kept) ∧
        (s.pd.self ∉ kept → t.pd.state = 0 ∧ t.pd.members = [])) ∧
      (s.pd.arrived = false ∨ openRounds s = true ∨ flitsOut u = true → exec (.rekeyBarrierComplete reports) s = .next u) ∧
      ((∃ a ∈ u.pd.asks, ∃ p ∈ a.owed, domainOk s p.toNat = true) → flitsOut u = true) ∧
      (s.pd.state = 3 → s.pd.change = true → s.pd.arrived = true → ∃ t,
        exec (.rekeyDrainTimeout reports) s = .next t ∧ t.pd.gen = s.pd.gen + 1 ∧ t.pd.arrived = false) ∧
      (s.pd.arrived = false → exec (.rekeyDrainTimeout reports) s = .next s)) ∧
    (∀ (k : Asker) (run : State → State), sentDomain s (run s) ≠ [] →
      let z := awaitDomain k run s
      let ms := askNow (loadsFirst (sentDomain s (run s)))
      ((∀ a ∈ s.pd.asks, a.by_ ≠ k) → z = { s with chans := z.chans, pd := z.pd } ∧ z.pd.flits = s.pd.flits ∧ ms ≠ [] ∧
        (askOf z k).owed = ms.map OutMsg.dest ∧ z.chans.out.length = s.chans.out.length + ms.length) ∧
      ((askOf s k).owed ≠ [] → takeResponses (askOf s k).owed s = none → z = s)) ∧
    (∃ t, exec .pderrWindow s = .next t ∧ t.pd.seqErr = 0 ∧ t.pd.authErr = 0 ∧ t.pd.alarm = s.pd.alarm) ∧
    (∀ (hdr : BitVec 128) (ue tagOk : Bool),
      let k := fld hdr 0 16 * 8 + fld hdr 32 2 * 2 + (if ue then 1 else 0)
      let inside := (s.pd.state = 2 ∨ s.pd.state = 3) ∧ hdr.extractLsb' 0 16 ∈ s.pd.members ∧ fld hdr 36 4 < 8 ∧
        hdr.getLsbD 35 = true ∧ (hdr.extractLsb' 16 16 = s.pd.self ∨ hdr.getLsbD 15 = true)
      let good := tagOk = true ∧ fld hdr 40 24 = s.pd.gen.toNat % 2 ^ 24
      let errors := fld s.pd.thr 0 16
      let source := hdr.extractLsb' 0 16
      let kept := fld hdr 36 4 ≠ 3 ∨ (s.pd.flits.filter (flitFrom source 3)).length < awaiting s source
      let performs := fun (t : State) => t.pd.state = s.pd.state ∧ t.pd.seqErr = s.pd.seqErr ∧
        (kept → s.pd.asks = [] → t.pd.flits = s.pd.flits ++ [hdr]) ∧ (kept → ∀ x ∈ t.pd.flits, x ∈ s.pd.flits ++ [hdr]) ∧
        (¬ kept → t.pd.flits = s.pd.flits)
      let counted := fun (t : State) => t.pd.seqErr = s.pd.seqErr + 1 ∧ t.pd.seqs = s.pd.seqs ∧
        (∀ x ∈ t.pd.flits, x ∈ s.pd.flits) ∧
        (errors < s.pd.seqErr.toNat + 1 → t.pd.state = 4 ∧ bit t.pd.alarm 1 = true) ∧
        (s.pd.seqErr.toNat + 1 ≤ errors → t.pd.state = s.pd.state ∧ bit t.pd.alarm 0 = true)
      (¬ inside → exec (.domainFlitReceive hdr ue tagOk) s = .next s) ∧
      (inside → ¬ good → s.pd.authErr.toNat < 2 ^ 32 - 1 → ∃ t, exec (.domainFlitReceive hdr ue tagOk) s = .next t ∧
        t.pd.authErr = s.pd.authErr + 1 ∧ t.pd.seqs = s.pd.seqs ∧ (∀ x ∈ t.pd.flits, x ∈ s.pd.flits) ∧
        (errors < s.pd.authErr.toNat + 1 → t.pd.state = 4 ∧ bit t.pd.alarm 1 = true) ∧
        (s.pd.authErr.toNat + 1 ≤ errors → t.pd.state = s.pd.state ∧ bit t.pd.alarm 0 = true)) ∧
      (inside → good → ue = false →
        (fld hdr 64 64 = s.pd.seqs.get 0 k → ∃ t, exec (.domainFlitReceive hdr ue tagOk) s = .next t ∧
          t.pd.seqs.get 0 k = fld hdr 64 64 + 1 ∧ performs t) ∧
        (fld hdr 64 64 ≠ s.pd.seqs.get 0 k → s.pd.seqErr.toNat < 2 ^ 32 - 1 →
          ∃ t, exec (.domainFlitReceive hdr ue tagOk) s = .next t ∧ counted t)) ∧
      (inside → good → ue = true →
        let again := fld hdr 64 64 + 256 < s.pd.seqs.get 0 k ∨ fld hdr 64 64 ∈ s.pd.seen.get [] k
        (¬ again → ∃ t, exec (.domainFlitReceive hdr ue tagOk) s = .next t ∧
          t.pd.seqs.get 0 k = max (s.pd.seqs.get 0 k) (fld hdr 64 64 + 1) ∧ fld hdr 64 64 ∈ t.pd.seen.get [] k ∧
          (∀ q ∈ s.pd.seen.get [] k, t.pd.seqs.get 0 k ≤ q + 256 → q ∈ t.pd.seen.get [] k) ∧ performs t) ∧
        (again → s.pd.seqErr.toNat < 2 ^ 32 - 1 →
          ∃ t, exec (.domainFlitReceive hdr ue tagOk) s = .next t ∧ counted t)))

/-- Media and device time: a message that an enabled binding names by port, job and process index is cut into records, any other
goes to the channel engine (R271); the ring and its messages are read in order and a record is placed in a free entry of its slot's
window, or dropped and counted; a tick of an ACTIVE slot takes its due time and queues its step with identifier GEN·4,096 +
slot, counting it late where a stream is behind, or counts as missed; the time source loses and regains its lock, and a step
forward counts the ticks it jumps past (R268, R270, R271, R273 to R275). Which free entry is taken is log 27's reading. -/
def Obligations.MediaStepsComplete : Prop :=
  ∀ (s : State),
    (∀ v, ∃ t, exec (.mediaRingTailWrite v) s = .next t ∧ t.pkg.md.head = s.pkg.md.head ∧
      (2 ^ (s.pkg.md.cfg.toNat % 16) < (v - s.pkg.md.head).toNat →
        t.pkg.md.stopped = (s.pkg.md.stopped || s.pkg.md.on) ∧ t.pkg.md.tail = s.pkg.md.tail) ∧
      ((v - s.pkg.md.head).toNat ≤ 2 ^ (s.pkg.md.cfg.toNat % 16) → t.pkg.md.tail = v)) ∧
    (∀ v, ∃ t, exec (.mdcfgWrite v) s = .next t ∧ t.pkg.md.cfg = v &&& 0x1F#64 ∧ t.mem = s.mem ∧ t.cells = s.cells) ∧
    (∀ tag : UltraTag, mdBound s.pkg tag = true ↔ ∃ j < 8, let w := s.pkg.mdue.rd (BitVec.ofNat 3 j)
      bit w 52 = true ∧ fld w 40 12 = tag.pidx.toNat ∧ fld w 16 24 = tag.job.toNat ∧ bit w tag.port.toNat = true) ∧
    (∀ ch src tag bytes,
      (mdBound s.pkg tag = false → exec (.mediaUeMessage ch src tag bytes) s =
        exec (.channelMessageArrival ch { src := src, bytes := bytes }) s) ∧
      (mdBound s.pkg tag = true → ∃ t, exec (.mediaUeMessage ch src tag bytes) s = .next t ∧
        t.pkg.mdRecs = s.pkg.mdRecs ++ (List.range (bytes.length / 512)).map (fun i => (bytes.drop (512 * i)).take 512) ∧
        (bytes.length % 512 = 0 → t.brood = s.brood) ∧
        (bytes.length % 512 ≠ 0 → t.brood.mbad = satInc s.brood.mbad))) ∧
    (s.pkg.md.entry 512 = none → exec (.mediaRecordArrival true) s = .next s) ∧
    (∀ a, s.pkg.md.entry 512 = some a → ∃ t, exec (.mediaRecordArrival true) s = .next t ∧
      t.pkg.md.head = s.pkg.md.head + 1 ∧
      let r := parseRec (s.mem.bytes (hostAddr a) 512)
      (r.bad = true → t.brood.mbad = satInc s.brood.mbad ∧ t.mem = s.mem) ∧
      (r.bad = false → (s.slot r.slot).state ≠ sActive → t.brood.mdrop = satInc s.brood.mdrop ∧ t.mem = s.mem)) ∧
    (s.pkg.mdRecs = [] → exec (.mediaRecordArrival false) s = .next s) ∧
    (∀ bs rest, s.pkg.mdRecs = bs :: rest → ∃ t, exec (.mediaRecordArrival false) s = .next t ∧ t.pkg.mdRecs = rest ∧
      let r := parseRec bs
      let sl := s.slot r.slot
      ∀ w, r.bad = false → sl.state = sActive → (r.gen = 0 ∨ r.gen = sl.gen) → sl.window = some w →
        let keeps := fun x => (t.slot r.slot).window = some x
        (r.stamp < sl.start → t.mem = s.mem ∧ keeps { w with dropOld := satInc w.dropOld }) ∧
        (sl.start ≤ r.stamp → w.freeEntry = none → t.mem = s.mem ∧ keeps { w with dropFull := satInc w.dropFull }) ∧
        (∀ e, sl.start ≤ r.stamp → w.freeEntry = some e → t.mem = s.mem.store (w.at_ e) bs ∧ keeps { w with
          entries := w.entries ++ [{ at_ := e, stamp := r.stamp, stream := r.stream, arrival := w.arrivals }]
          high := w.high.wr r.stream (max (w.high.rd r.stream) r.stamp)
          arrivals := w.arrivals + 1 })) ∧
    (∀ n : BitVec 12,
      let sl := s.slot n.toNat
      let p := period ((sl.f 17).toNat % 2 ^ 32)
      let t0 := (sl.f 18).toNat
      (sl.state ≠ sActive ∨ p = 0 ∨ bit s.brood.slstep 31 = false ∨ s.pkg.time < t0 → exec (.tick n) s = .next s) ∧
      (sl.state = sActive → p ≠ 0 → bit s.brood.slstep 31 = true → t0 ≤ s.pkg.time →
        ∃ t, exec (.tick n) s = .next t ∧ (t.slot n.toNat).live.rd 18 = BitVec.ofNat 64 (t0 + p) ∧
          (sl.stepping = true ∨ slstepStage s = none ∨ (slstepStage s).any (fun q => decide (2 ^ q.2.2.hdr.qlog ≤ q.2.2.queue.length)) →
            (t.slot n.toNat).live.rd 22 = sl.live.rd 22 + 1 ∧ t.mem = s.mem ∧ t.tasks = s.tasks) ∧
          (∀ l i q, sl.stepping = false → slstepStage s = some (l, i, q) → q.queue.length < 2 ^ q.hdr.qlog →
            (t.slot n.toNat).stepping = true ∧ (t.slot n.toNat).live.rd 22 = sl.live.rd 22 ∧
            (t.slot n.toNat).live.rd 21 =
              sl.live.rd 21 + (if behind sl ((t0 : Int) - fld (sl.live.rd 17) 32 32) = true then 1 else 0) ∧
            (t.slot n.toNat).k = sl.k + 1 ∧ (t.slot n.toNat).start = t0 - fld (sl.used 19) 0 40 ∧
            (sl.window = none → t.mem = s.mem) ∧
            (stageOf s l i = some q → ∃ q', stageOf t l i = some q' ∧ q'.queue = q.queue ++ [{
              ident := maskIdent q.hdr (BitVec.ofNat 64 (sl.gen * 4096 + n.toNat)), barrier := false, scope := 10,
              step := some n }])))) ∧
    (∃ t, exec .timeLockLoss s = .next t ∧ (timeSource s.pkg = true → t.pkg.lock = false ∧ t.pkg.hold = true) ∧
      (timeSource s.pkg = false → t = s)) ∧
    (∀ off forward, ∃ t, exec (.timeRelock off forward) s = .next t ∧ (timeSource s.pkg = false → t = s) ∧
      (s.pkg.time < 2 ^ 64 → s.pkg.time ≤ t.pkg.time ∧ t.pkg.time < 2 ^ 64) ∧
      (timeSource s.pkg = true → t.pkg.lock = true ∧ t.pkg.hold = false ∧
        t.pkg.offset = BitVec.ofInt 32 (if forward then (off : Int) else -off) ∧
        (forward = false ∨ off ≤ 10 ^ 9 → t.pkg.time = s.pkg.time ∧ t.brood = s.brood) ∧
        (forward = true → 10 ^ 9 < off → t.pkg.time = min (2 ^ 64 - 1) (s.pkg.time + off) ∧
          ((s.brood.slots.map (·.1)).Nodup → ∀ i sl, (i, sl) ∈ s.brood.slots → sl.state = sActive →
            let p := period ((sl.live.rd 17).toNat % 2 ^ 32)
            let t0 := (sl.live.rd 18).toNat
            let k := (t.pkg.time - t0) / p + 1
            p ≠ 0 → bit s.brood.slstep 31 = true → t0 ≤ t.pkg.time →
            (t.slot i).live.rd 22 = sl.live.rd 22 + BitVec.ofNat 64 k ∧
            (t.slot i).live.rd 18 = sl.live.rd 18 + BitVec.ofNat 64 (k * p)))))

/-- The accord engines take arrivals in order, one whose region another engine holds going on to it (R300, R304). An ACCB takes
the path of the state that its region has when it arrives (R302): the OFF path where the task is deterministic or fused, the
descriptor cannot be read, or the region is OFF, which EN then takes to OBSERVE; the true path in OBSERVE, TRAIN and FALLBACK;
in READY the surrogate's outputs, or every 2^NS-th time the body, to be compared with them. A withdrawn ACCB is answered to
nobody. An ACCINV ends its region and releases its task; a sample of a region that is not held changes nothing; a write of
bytes 0 to 127 of a descriptor at its home, where the tables map it then, by another than the region's own engine, whatever it
writes, ends the region; an epoch runs only on a region in TRAIN or FALLBACK (R305, R306, R308, R309). An engine's turn that reads
and writes no domain page is meant. A lost write of an engine is log 24's reading. -/
def Obligations.AccordStepsComplete : Prop :=
  ∀ (s : State) (e : BitVec 2),
    let rest := (s.accord.msgs.rd e).drop 1
    let ended := fun (t : State) (ctx : BitVec 16) (va : Nat) =>
      ∀ d, ∀ r ∈ t.accord.regions.rd d, r.ctx = ctx → r.va = va → r.state = 0
    let quiet := ∀ d, ∀ r ∈ s.accord.regions.rd d, r.state ≠ 0 → r.written = false
    (s.accord.msgs.rd e = [] → s.pd.asks = [] →
      exec (.accordDecision e) s = .next s ∧ exec (.accordSample e) s = .next s) ∧
    (∀ cell gang gmem ctx va ins off wd tiles first last l,
      s.accord.msgs.rd e = .enter cell gang gmem ctx va ins off wd tiles first last :: l → OffDomain s (decideHead e s) →
      (∀ d r, findRegion s ctx va = some (d, r) → d ≠ e → ∃ t, exec (.accordDecision e) s = .next t ∧
        t.accord.msgs.rd e = rest ∧ t.cells = s.cells ∧
        t.accord.msgs.rd d = s.accord.msgs.rd d ++ [.enter cell gang gmem ctx va ins off wd tiles first last]) ∧
      ((∀ d r, findRegion s ctx va = some (d, r) → d = e) →
        (wd = true → ∃ t, exec (.accordDecision e) s = .next t ∧ t.accord.msgs.rd e = rest ∧ t.cells = s.cells) ∧
        ∀ ci go, wd = false → cellOfTask s gang gmem = some ci → (s.cellAt ci).wait = .accb go →
          ∃ t, exec (.accordDecision e) s = .next t ∧ t.accord.msgs.rd e = rest ∧
            let answer := (t.cellAt ci).wait
            let path := fun on ins check => Wait.accbDone go (.body (openRegion va on e ins check))
            t.cellAt ci = { s.cellAt ci with wait := answer } ∧
            (off = true → answer = path false [] none) ∧
            (quiet → off = false →
              (∀ f, ctxRead s ctx va 256 = .error f → answer = path false [] none) ∧
              ∀ bs, ctxRead s ctx va 256 = .ok bs →
                let d := parseDesc bs
                (malformed d tiles = true → answer = path false [] none) ∧
                (malformed d tiles = false →
                  ((∀ r, findRegion s ctx va = some (e, r) → r.state = 0) → answer = path false [] none ∧
                    (d.en = true → engineFull s e = false → ∃ r ∈ t.accord.regions.rd e, r.ctx = ctx ∧ r.va = va ∧ r.state = 1)) ∧
                  (∀ r, findRegion s ctx va = some (e, r) → (r.state = 1 ∨ r.state = 2 ∨ r.state = 4) →
                    answer = path true ins none) ∧
                  (∀ r, findRegion s ctx va = some (e, r) → r.state = 3 → ∃ outs,
                    answer = (if r.inv % 2 ^ d.ns = 0 then path true ins (some outs)
                      else .accbDone go (.skip d.osrc d.outAt outs)) ∧
                    ∃ x ∈ t.accord.regions.rd e, x.ctx = ctx ∧ x.va = va ∧ x.inv = (r.inv + 1) % 2 ^ 32))))) ∧
    (∀ cell gang gmem ctx va l, s.accord.msgs.rd e = .inval cell gang gmem ctx va :: l → OffDomain s (decideHead e s) →
      ∃ t, exec (.accordDecision e) s = .next t ∧ t.accord.msgs.rd e = rest ∧ ended t ctx va ∧
        ∀ ci, cellOfTask s gang gmem = some ci → (t.cellAt ci).wait ≠ .accinv) ∧
    (∀ cell gang gmem ctx va ins outs check l,
      s.accord.msgs.rd e = .sample cell gang gmem ctx va ins outs check :: l → OffDomain s (sampleHead e s) →
        ∃ t, exec (.accordSample e) s = .next t ∧
        t.accord.msgs.rd e = rest ∧ t.cells.toList.map (·.regs) = s.cells.toList.map (·.regs) ∧
        (quiet → findRegion s ctx va = none → t.mem = s.mem ∧ t.accord.regions = s.accord.regions)) ∧
    (∀ key : RegionKey, (∀ r ∈ s.accord.regions.rd e, r.ctx = key.ctx → r.va = key.va.toNat → r.state ≠ 2 ∧ r.state ≠ 4) →
      quiet → s.pd.asks = [] → exec (.accordEpoch e key) s = .next s) ∧
    (∀ (key : RegionKey) l r m, quiet → s.accord.regions.rd e = l ++ r :: m → r.ctx = key.ctx → r.va = key.va.toNat →
      (r.state = 2 ∨ r.state = 4) → (∀ x ∈ l ++ m, ¬ (x.ctx = key.ctx ∧ x.va = key.va.toNat)) →
      OffDomain s (epochOf e key s) →
      ∃ t, exec (.accordEpoch e key) s = .next t ∧ t.cells = s.cells ∧ t.accord.msgs = s.accord.msgs ∧
        ∃ x, t.accord.regions.rd e = l ++ x :: m ∧ x.ctx = r.ctx ∧ x.va = r.va ∧
          (x = r ∨ (x.state = 3 ∧ x.ver = (r.ver + 1) % 2 ^ 32))) ∧
    (∀ ctx va, ∃ t, exec (.accordDescriptorWrite ctx va) s = .next t ∧ t.cells = s.cells ∧
      t.accord.msgs = s.accord.msgs ∧
      ((∀ d, ∀ r ∈ s.accord.regions.rd d, r.ctx = ctx → r.va = va.toNat → r.state ≠ 0 → r.written = true) →
        ended t ctx va.toNat) ∧
      ((∀ d, ∀ r ∈ s.accord.regions.rd d, r.ctx = ctx → r.va = va.toNat → r.written = false) → t = s)) ∧
    (∀ a bs d, ∀ r ∈ s.accord.regions.rd d, ∀ pa, engXlate { s with mem := s.mem.store a bs } r.ctx r.va 0 = .ok pa →
      a < pa + 128 → pa < a + bs.length → ∃ x ∈ (s.store a bs).accord.regions.rd d, x = { r with written := true }) ∧
    (∀ ctx va bs t, ctxWrite s ctx va bs = .ok t → let u := ctxTry s e ctx va bs
      u.mem = t.mem ∧ u.accord.regions.rd e = s.accord.regions.rd e ∧
        ∀ d, d ≠ e → u.accord.regions.rd d = t.accord.regions.rd d)

/-! ### Registers and time -/

/-- s0 reads zero and k0 all ones, and what lands in them is discarded. A result for s[i] is read back under that name; in
supervisor mode s48 to s63 are the shadow bank, and the task's own stay. CALL and CALLI put the return index in flight for s63
(R86). -/
def Obligations.RegisterFileRules : Prop :=
  (∀ c : Cell, c.rdS 0 = 0 ∧ c.rdK 0 = BitVec.allOnes 256 ∧
    (∀ v, c.land (c.dstS 0 v) = c) ∧ (∀ v, c.land (.k 0 v) = c) ∧
    (∀ i v, i ≠ 0 → (c.land (c.dstS i v)).rdS i = v ∧ ∀ j, j ≠ i → (c.land (c.dstS i v)).rdS j = c.rdS j) ∧
    (∀ i v, i ≠ 0 → (c.land (.k i v)).rdK i = v ∧ ∀ j, j ≠ i → (c.land (.k i v)).rdK j = c.rdK j) ∧
    (∀ i : BitVec 6, c.sup = true → 48 ≤ i.toNat →
      c.rdS i = c.regs.sh.rd (i.extractLsb' 0 4) ∧ ∀ v, (c.land (c.dstS i v)).regs.s = c.regs.s)) ∧
  (∀ (h : Header) (s : State) (o : CB), Plain h s →
    let link := InFlight.mk (s.cell.dstS 63 (s.cell.pipe.seq.zeroExtend 64)) 1 h.slot 0 0 0
    ((Instr.call h o).WellFormed → ∃ t, exec (.call h o) s = .next t ∧
      t.cell.pipe.inflight = s.cell.pipe.inflight ++ [link]) ∧
    ((Instr.calli h o).WellFormed → ∃ t, exec (.calli h o) s = .next t ∧
      t.cell.pipe.inflight = s.cell.pipe.inflight ++ [link]))

/-- A result of latency n lands when n issue cycles have passed and not before (R76): until then its register reads as it did,
from then on it reads the result, whatever else is in flight for other registers. Time alone changes nothing but that
register. Where a variable-latency result has reached the same register in that cycle, the one of the higher slot is kept (R84);
which issue cycle such a result belongs to is log 3's reading. -/
def Obligations.ResultsLandInTime : Prop :=
  (∀ (c : Cell) (l r : List InFlight) (x : InFlight) (i : BitVec 6) (v : Word), c.pipe.inflight = l ++ x :: r →
    x.land = .s i v → i ≠ 0 → 1 ≤ x.n → (∀ y ∈ l ++ r ++ c.pipe.late, scalarOf y.land ≠ some i) →
    (∀ k < x.n, (Cell.ticks k c).regs.s.rd i = c.regs.s.rd i) ∧
    (∀ k, x.n ≤ k → (Cell.ticks k c).regs.s.rd i = v)) ∧
  (∀ (c : Cell) (x : InFlight) (k : Nat), c.pipe.inflight = [x] → 1 ≤ x.n → x.ev = 0 → c.pipe.untag = 0 →
    c.pipe.late = [] →
    (∀ n v, x.land ≠ .cr n v) → (∀ n set v sd sh, x.land ≠ .rmw n set v sd sh) →
    (Cell.ticks k c).regs = (if k < x.n then c.regs else c.regs.land x.land) ∧
    (Cell.ticks k c).tr = c.tr ∧ (Cell.ticks k c).nx = c.nx ∧ (Cell.ticks k c).mx = c.mx ∧
    (Cell.ticks k c).entry = c.entry ∧ (Cell.ticks k c).pad = c.pad ∧ (Cell.ticks k c).pipe.pc = c.pipe.pc ∧
    (Cell.ticks k c).pipe.pend = c.pipe.pend) ∧
  (∀ (c : Cell) (l r : List InFlight) (x y : InFlight) (i : BitVec 6) (v w : Word), c.pipe.inflight = l ++ x :: r →
    x.land = .s i v → i ≠ 0 → x.n = 1 → (∀ z ∈ l ++ r, scalarOf z.land ≠ some i) → c.pipe.late = [y] →
    y.land = .s i w → c.regs.s.rd i = w →
    (x.slot.toNat < y.slot.toNat → (c.tick.1).regs.s.rd i = w) ∧
    (y.slot.toNat < x.slot.toNat → (c.tick.1).regs.s.rd i = v))

/-! ### Who may issue what -/

/-- A handler that issues a word of slots 3 to 5 other than NOP takes ILLEGAL_OP, and so does one that issues EXIT, SPAWN, SPAWNG,
BAR, BARA, BARCFG, CARVE, DECPL, REJOIN, WAIT, LOOP, LOOPX, ACCB, ACCE or ACCINV; TRET, TLBI and DBAR in user mode take
PRIVILEGE; a word that waits for a tag it names, or allocates one that is pending, does not issue, and nothing but the model's
own mark of the attempt changes (R45, R75, R111, R199, R320, R381, R440). -/
def Obligations.RestrictionsOfMode : Prop :=
  ∀ (i : Instr) (w : BitVec 80) (s : State), i.WellFormed → encode i = some w → s.core = false →
    let h := Header.parse w
    let waits := s.cell.pipe.pend &&& h.cmk ≠ 0 ∨ (h.av = 1#1 ∧ bit s.cell.pipe.pend h.tag.toNat = true)
    (waits → exec i s = .next (frozen s)) ∧
    (¬ waits → s.cell.sup = true → 3 ≤ h.slot.toNat → (∀ g, i ≠ .nop g) →
      exec i s = .next (trapped s (trapOf cIllegalOp (h.slot.zeroExtend 64)))) ∧
    (¬ waits → s.cell.sup = true → notInHandler i = true →
      exec i s = .next (trapped s (trapOf cIllegalOp (h.slot.zeroExtend 64)))) ∧
    (¬ waits → s.cell.sup = false → ((∃ g o, i = .tret g o) ∨ (∃ g o, i = .tlbi g o) ∨ ∃ g o, i = .dbar g o) →
      exec i s = .next (trapped s (trapOf cPrivilege (h.slot.zeroExtend 64))))

/-! ### Encoding -/

/-- Words that the spec writes out decode to the instructions that they stand for, at least one of every slot, and words that
it calls illegal are rejected by name (R69, R109, R112, R313, R359, R377, R386, R405, R407, R413, R437). -/
def Obligations.DecodesWrittenWords : Prop :=
  let h := fun (slot : BitVec 3) => Header.mk 1 slot 0 0 0 0
  decode 0x800008044080FFFFFFF8 = .ok (.addImm (h 0) ⟨4, 2, 0, 0xFFFFFFF8⟩) ∧
  decode 0x80000808B28000000001 = .ok (.subImm (h 0) ⟨11, 10, 0, 1⟩) ∧
  decode 0x80000014310510000000 = .ok (.div (h 0) ⟨3, 4, 5, 1⟩) ∧
  decode 0x8000010441000000000C = .ok (.brc (h 0) ⟨1, 1, 12⟩) ∧
  decode 0x80000114000000000000 = .ok (.ret (h 0) ⟨0, 0, 0⟩) ∧
  decode 0x80000300100000000001 = .ok (.crrd (h 0) ⟨1, 0, 0, 0, 0, 0, 0, 1⟩) ∧
  decode 0x900000081E8080100000 = .ok (.st (h 1) ⟨15, 4, 0, 0, 2, 0, 0, 0, 0, 1, 0⟩) ∧
  decode 0xA0000048440000000100 = .ok (.aadd (h 2) ⟨1, 1, 0, 0, 256⟩) ∧
  decode 0xB0000078287800000000 = .ok (.vred (h 3) ⟨20, 15, 0, 0, 0, 0⟩) ∧
  decode 0xB0000081940000000000 = .ok (.kand (h 3) ⟨3, 1, 2, 0⟩) ∧
  decode 0xC000000C881000000000 = .ok (.mma (h 4) ⟨1, 0, 1, 0, 0, 0, 1⟩) ∧
  decode 0xC0B00020140000000000 = .ok (.mcall { h 4 with av := 1, tag := 3 } ⟨5⟩) ∧
  decode 0xD0A00028C04000000000 = .ok (.qres { h 5 with av := 1, tag := 2 } ⟨3, 0, 4, 0, 0, 0, 0⟩) ∧
  decode 0xE00008044080FFFFFFF8 = .error .illegalSlot ∧
  decode 0x800008304080FFFFFFF8 = .error .unlistedOpcode ∧
  decode 0x800008044084FFFFFFF8 = .error .illegalField ∧
  decode 0x800008044081FFFFFFF8 = .error .reservedBits

/-- Decode and encode agree: the word that the encoder writes for a well-formed instruction decodes to that instruction, with
every operand, and every instruction that is a word of a program has one (R69, R94, R106 to R122). -/
def Obligations.EncodingRoundTrip : Prop :=
  (∀ i : Instr, (encode i).isSome = i.isWord) ∧
  ∀ (i : Instr) (w : BitVec 80), i.WellFormed → encode i = some w → decode w = .ok i

/-- A word that the decoder accepts is the encoding of the one well-formed instruction that it answers: no bit of a word is
dropped, and no two words stand for one instruction (R69, R94, R108). -/
def Obligations.DecodingIsExact : Prop :=
  ∀ (w : BitVec 80) (i : Instr), decode w = .ok i → i.WellFormed ∧ encode i = some w

/-! ### Reset, steps, invariants -/

/-- After reset every register that the spec gives a reset value holds it: DEVSTAT, NXTHR, NXCNT and NXCTL, LIMIT, the depth
table and BRDITER, PDTHR and PDTMO, the step of every frame, GEN of every slot, and the first TLBI number (R17, R25, R148,
R223, R227, R231, R295). Both memories are in canonical form. -/
def Obligations.ResetState : Prop :=
  State.reset.Canonical ∧
  (∀ c : BitVec 9, let x := State.reset.cellAt c
    x.running = false ∧ x.sup = false ∧ x.nx.ctl = 0 ∧ x.nx.win = 0 ∧
      ∀ i, x.nx.thr.rd i = 0xFFFFFFFF#64 ∧ x.nx.cnt.rd i = 0) ∧
  (∀ f, (State.reset.pkg.throttle.rd f).limit = 2560 ∧ (State.reset.pkg.throttle.rd f).floor = 0) ∧
  State.reset.brood.iter = 2 ∧ State.reset.brood.dtab0 = 0x0403030202010100#64 ∧
  State.reset.brood.dtab1 = 0x100C0A0807060504#64 ∧ State.reset.brood.qnext = 0 ∧
  (∀ i, (State.reset.slot i).gen = 1 ∧ (State.reset.slot i).state = 0 ∧ (State.reset.slot i).len = 0) ∧
  State.reset.pd.thr = 0x006400000010#64 ∧ State.reset.pd.tmo = 1000 ∧ State.reset.pd.state = 0 ∧
  devStat State.reset.pkg = 0 ∧ State.reset.pkg.fclk = 0x8888 ∧ State.reset.pkg.tlbiNext = 1 ∧ State.reset.pkg.quiesce = 0

/-- A step of a cell that issues alone runs the word it fetched: when the word at the program counter closes its bundle and
decodes to i, the step is what `exec i` does in the held machine (one issue cycle and the PD spent), and then the bundle's own
end: the program counter moves on, loops close and barrier phases release. A word that traps leaves its trap, one that cannot
issue leaves the held machine, one that has polled what it did to memory, and one that needs it an idle issue cycle. An EXIT ends
the task after the other words of its bundle, with what was in flight landed. A bundle of
several words: one whose slots do not rise traps at the word that breaks the rule; else the first word in slot order that traps
decides, a second word for one tag among them, and nothing else of the bundle happens; else a word that needs it an idle cycle,
or one that waits, holds them all; else all issue in one cycle, in slot order (R70 to R76, R79, R155, R196, R197, R360, R440). -/
def Obligations.StepRunsTheDecodedWord : Prop :=
  (∀ (s held t : State) (w : BitVec 80) (i : Instr), s.agenda = [] →
    let s0 := clockStep s
    let c := s.cur
    Alone s0 c → Fetched s0 c w held → decode w = .ok i → exec i held = .next t →
    (t.cell.verdict = .issued → (∀ h o, i ≠ .tret h o) → t.cell.running = true → t.cur = c →
      t.cell.pipe.inflight.length ≤ Config.flightMax →
      step s = .next (settleGang (finishBundle s0 (updPipe t c fun p =>
        { p with pend := held.cell.pipe.pend ||| (p.pend &&& ~~~held.cell.pipe.pend) }) c) (s0.cellAt c).task.gang)) ∧
    (t.cell.verdict = .issued → (∃ h o, i = .exit h o) → (exited held c).cell.running = false →
      step s = .next (settleGang (finishBundle s0 (exited held c) c) (s0.cellAt c).task.gang)) ∧
    (t.cell.verdict = .trapped → step s = .next (t.mark c .trapped)) ∧
    (t.cell.verdict = .frozen → step s = .next (holdBundle held c)) ∧
    (t.cell.verdict = .polled → t.cur = c → step s = .next (holdBundle t c)) ∧
    (t.cell.verdict = .idle → step s = .next (idleBundle held c))) ∧
  ∀ (s spent : State) (ws : List (BitVec 80)) (pc : BitVec 32), s.agenda = [] →
    let s0 := clockStep s
    let c := s.cur
    let held := updPipe spent c fun p => { p with seq := pc + BitVec.ofNat 32 ws.length }
    let slots := ws.map fun w => (Header.parse w).slot.toNat
    let traps := fun (z : State) x => step s = .next ((takeTrap z c x pc true).mark c .trapped)
    Alone s0 c → FetchedBundle s0 c ws pc spent → spent.cur = c → (spent.cellAt c).pipe.pc = pc →
    (∀ k, k < slots.length → 6 ≤ slots.getD k 0 → (∀ m < k, slots.getD m 0 < 6) →
      traps spent (trapOf cIllegalSlot ((pc + BitVec.ofNat 32 k).zeroExtend 64))) ∧
    (∀ k, k + 1 < slots.length → (∀ x ∈ slots, x < 6) → slots.getD (k + 1) 0 ≤ slots.getD k 0 →
      (∀ m < k, slots.getD m 0 < slots.getD (m + 1) 0) →
      traps spent (trapOf cBundleForm ((pc + BitVec.ofNat 32 (k + 1)).zeroExtend 64))) ∧
    ((∀ x ∈ slots, x < 6) → slots.Pairwise (· < ·) → ∀ l w r, ws = l ++ w :: r → (tagsOf l).Nodup →
      ¬ (tagsOf (l ++ [w])).Nodup → (∀ x ∈ l ++ [w], ∃ v, v ≠ Verdict.trapped ∧ Attempts held v x) →
      traps held (trapOf cIllegalTag ((Header.parse w).slot.zeroExtend 64))) ∧
    ((∀ x ∈ slots, x < 6) → slots.Pairwise (· < ·) → (tagsOf ws).Nodup →
      (∀ l w r, ws = l ++ w :: r →
        (∀ x ∈ l, ∃ v, v ≠ Verdict.trapped ∧ Attempts held v x) →
        ((∀ i, decode w ≠ .ok i) → traps held (trapOf cIllegalOp ((Header.parse w).slot.zeroExtend 64))) ∧
        ∀ i t, decode w = .ok i → exec i held = .next t → t.cell.verdict = .trapped → step s = .next (t.mark c .trapped)) ∧
      ((∀ w ∈ ws, ∃ v, v ≠ Verdict.trapped ∧ Attempts held v w) → (∃ w ∈ ws, Attempts held .idle w) →
        step s = .next (idleBundle held c)) ∧
      ((∀ w ∈ ws, ∃ v, v ≠ Verdict.trapped ∧ v ≠ .idle ∧ Attempts held v w) → (∃ w ∈ ws, Attempts held .frozen w) →
        step s = .next (holdBundle held c)) ∧
      (∀ l w r i t, ws = l ++ w :: r → (∀ x ∈ l ++ r, Attempts held .issued x) → decode w = .ok i →
        exec i held = .next t → t.cell.verdict = .polled → t.cur = c → step s = .next (holdBundle t c)) ∧
      (∀ (is : List Instr) (u : State), ws.map decode = is.map .ok → (∀ w ∈ ws, Attempts held .issued w) →
        (∀ h o, .tret h o ∉ is) → (∃ h o, .exit h o ∈ is) → u.cur = c → (exited u c).cell.running = false →
        InOrder held.cell.pipe.pend (is.filter fun i => match i with | .exit _ _ => false | _ => true) 0 held u →
        step s = .next (settleGang (finishBundle s0 (exited u c) c) (s0.cellAt c).task.gang)) ∧
      (∀ is t, ws.map decode = is.map .ok → (∀ w ∈ ws, Attempts held .issued w) → (∀ h o, .tret h o ∉ is) →
        (∀ h o, .exit h o ∉ is) →
        InOrder held.cell.pipe.pend is 0 held t → t.cell.running = true → t.cur = c →
        t.cell.pipe.inflight.length ≤ Config.flightMax →
        step s = .next (settleGang (finishBundle s0 t c) (s0.cellAt c).task.gang)))

/-- Every step keeps both memories in canonical form, whoever takes it: the form is the model's representation of the byte address
space of R4 (log 1). -/
def Obligations.StepsKeepMemoryCanonical : Prop :=
  ∀ s t : State, s.Canonical → step s = .next t → t.Canonical
end

