-- ==== Sys2Proof/Laws/Mem.lean ====
section
/-! SUPPORT. Memory: a read after a write, and the canonical form that every operation keeps (log 1). -/

namespace Sys2Proof

/-! ### Maps from numbers -/

theorem SMap.get_put_same {α : Type} (d : α) (m : SMap α) (a : Nat) (v : α) : SMap.get d (SMap.put m a v) a = v := by
  induction m with
  | nil => simp [SMap.put, SMap.get]
  | cons e r ih =>
    obtain ⟨k, w⟩ := e
    simp only [SMap.put]
    split
    · simp [SMap.get]
    · split
      · simp [SMap.get]
      · rename_i h1 h2
        simp only [SMap.get]
        rw [if_neg (fun e => h2 e.symm)]
        exact ih

theorem SMap.get_put_other {α : Type} (d : α) (m : SMap α) {a b : Nat} (v : α) (h : b ≠ a) :
    SMap.get d (SMap.put m a v) b = SMap.get d m b := by
  induction m with
  | nil => simp [SMap.put, SMap.get, Ne.symm h]
  | cons e r ih =>
    obtain ⟨k, w⟩ := e
    simp only [SMap.put]
    split
    · simp only [SMap.get, Ne.symm h, if_false]
    · split
      · rename_i h1 h2
        subst h2
        simp only [SMap.get, Ne.symm h, if_false]
      · simp only [SMap.get, ih]

/-- Looking a key up is reading it with no value as the default. -/
theorem SMap.find_eq_get {α : Type} (m : SMap α) (a : Nat) : SMap.find m a = SMap.get none (m.map fun e => (e.1, some e.2)) a := by
  induction m with
  | nil => rfl
  | cons e r ih => simp only [SMap.find, List.map_cons, SMap.get, ih]

theorem SMap.map_put {α β : Type} (f : α → β) (m : SMap α) (a : Nat) (v : α) :
    (SMap.put m a v).map (fun e => (e.1, f e.2)) = SMap.put (m.map fun e => (e.1, f e.2)) a (f v) := by
  induction m with
  | nil => rfl
  | cons e r ih =>
    simp only [SMap.put, List.map_cons]
    split_ifs <;> simp [ih]

theorem SMap.find_put_same {α : Type} (m : SMap α) (a : Nat) (v : α) : SMap.find (SMap.put m a v) a = some v := by
  rw [SMap.find_eq_get, SMap.map_put, SMap.get_put_same]

theorem SMap.find_put_other {α : Type} (m : SMap α) {a b : Nat} (v : α) (h : b ≠ a) :
    SMap.find (SMap.put m a v) b = SMap.find m b := by
  rw [SMap.find_eq_get, SMap.map_put, SMap.get_put_other _ _ _ h, ← SMap.find_eq_get]

theorem SMap.get_del_same {α : Type} (d : α) (m : SMap α) (a : Nat) : SMap.get d (SMap.del m a) a = d := by
  induction m with
  | nil => rfl
  | cons e r ih =>
    obtain ⟨k, w⟩ := e
    simp only [SMap.del]
    split
    · exact ih
    · rename_i h
      simp only [SMap.get, h, if_false]
      exact ih

theorem SMap.get_del_other {α : Type} (d : α) (m : SMap α) {a b : Nat} (h : b ≠ a) :
    SMap.get d (SMap.del m a) b = SMap.get d m b := by
  induction m with
  | nil => rfl
  | cons e r ih =>
    obtain ⟨k, w⟩ := e
    simp only [SMap.del]
    split
    · rename_i h1
      subst h1
      simp only [SMap.get, Ne.symm h, if_false]
      exact ih
    · simp only [SMap.get, ih]

theorem SMap.mem_put {α : Type} {m : SMap α} {a : Nat} {v : α} {e : Nat × α} (h : e ∈ SMap.put m a v) :
    e = (a, v) ∨ e ∈ m := by
  induction m with
  | nil => simpa [SMap.put] using h
  | cons x r ih =>
    obtain ⟨k, w⟩ := x
    simp only [SMap.put] at h
    split at h
    · simpa using h
    · split at h
      · rcases List.mem_cons.1 h with e | e
        · exact .inl e
        · exact .inr (List.mem_cons_of_mem _ e)
      · rcases List.mem_cons.1 h with e | e
        · exact .inr (by simp [e])
        · rcases ih e with e | e
          · exact .inl e
          · exact .inr (List.mem_cons_of_mem _ e)

theorem SMap.mem_del {α : Type} {m : SMap α} {a : Nat} {e : Nat × α} (h : e ∈ SMap.del m a) : e ∈ m := by
  induction m with
  | nil => exact h
  | cons x r ih =>
    obtain ⟨k, w⟩ := x
    simp only [SMap.del] at h
    split at h
    · exact List.mem_cons_of_mem _ (ih h)
    · rcases List.mem_cons.1 h with e | e
      · simp [e]
      · exact List.mem_cons_of_mem _ (ih e)

/-- Keys rise. -/
def SMap.Rising {α : Type} (m : SMap α) : Prop := m.Pairwise fun x y => x.1 < y.1

theorem SMap.Rising.put {α : Type} {m : SMap α} (h : SMap.Rising m) (a : Nat) (v : α) :
    SMap.Rising (SMap.put m a v) := by
  induction m with
  | nil => simp [SMap.put, SMap.Rising]
  | cons x r ih =>
    obtain ⟨k, w⟩ := x
    obtain ⟨h1, h2⟩ := List.pairwise_cons.1 h
    simp only [SMap.put]
    split
    · rename_i c
      refine List.pairwise_cons.2 ⟨fun y hy => ?_, h⟩
      rcases List.mem_cons.1 hy with e | e
      · subst e; exact c
      · exact lt_trans c (h1 y e)
    · split
      · rename_i c1 c2
        subst c2
        exact List.pairwise_cons.2 ⟨h1, h2⟩
      · rename_i c1 c2
        refine List.pairwise_cons.2 ⟨fun y hy => ?_, ih h2⟩
        rcases SMap.mem_put hy with e | e
        · subst e; dsimp only; omega
        · exact h1 y e

theorem SMap.Rising.del {α : Type} {m : SMap α} (h : SMap.Rising m) (a : Nat) : SMap.Rising (SMap.del m a) := by
  induction m with
  | nil => exact h
  | cons x r ih =>
    obtain ⟨k, w⟩ := x
    obtain ⟨h1, h2⟩ := List.pairwise_cons.1 h
    simp only [SMap.del]
    split
    · exact ih h2
    · exact List.pairwise_cons.2 ⟨fun y hy => h1 y (SMap.mem_del hy), ih h2⟩

namespace Machine

/-! ### Bytes -/

theorem Mem.rd_wr_same (m : Mem) (a : Nat) (b : Byte) : (m.wr a b).rd a = b := by
  unfold Mem.rd Mem.wr
  split
  · rename_i h; rw [h]; exact SMap.get_del_same _ _ _
  · exact SMap.get_put_same _ _ _ _

theorem Mem.rd_wr_other (m : Mem) {a x : Nat} (b : Byte) (h : x ≠ a) : (m.wr a b).rd x = m.rd x := by
  unfold Mem.rd Mem.wr
  split
  · exact SMap.get_del_other _ _ h
  · exact SMap.get_put_other _ _ _ h

/-- A store changes its own bytes and no other. -/
theorem Mem.rd_store (m : Mem) (a : Nat) (bs : List Byte) (x : Nat) :
    (m.store a bs).rd x = if a ≤ x ∧ x < a + bs.length then bs.getD (x - a) 0 else m.rd x := by
  induction bs generalizing m a with
  | nil =>
    simp only [Mem.store, List.length_nil]
    rw [if_neg (by omega)]
  | cons b r ih =>
    rw [Mem.store, ih]
    simp only [List.length_cons]
    by_cases h : x = a
    · subst h
      rw [if_neg (by omega), if_pos (by omega), Mem.rd_wr_same]
      simp
    · rw [Mem.rd_wr_other _ _ h]
      by_cases h2 : a + 1 ≤ x ∧ x < a + 1 + r.length
      · rw [if_pos h2, if_pos (by omega)]
        have e : x - a = (x - (a + 1)) + 1 := by omega
        rw [e]
        simp
      · rw [if_neg h2, if_neg (by omega)]

theorem Mem.length_bytes (m : Mem) (a n : Nat) : (m.bytes a n).length = n := by
  induction n generalizing a with
  | zero => rfl
  | succ n ih => simp [Mem.bytes, ih]

theorem Mem.getD_bytes (m : Mem) (a n i : Nat) (h : i < n) : (m.bytes a n).getD i 0 = m.rd (a + i) := by
  induction n generalizing a i with
  | zero => omega
  | succ n ih =>
    cases i with
    | zero => simp [Mem.bytes]
    | succ i =>
      have := ih (a + 1) i (by omega)
      simp only [Mem.bytes, List.getD_cons_succ, this]
      congr 1
      omega

/-- What was stored is read back. -/
theorem Mem.bytes_store (m : Mem) (a : Nat) (bs : List Byte) : (m.store a bs).bytes a bs.length = bs := by
  apply List.ext_getElem
  · exact Mem.length_bytes _ _ _
  · intro i h1 h2
    have e := Mem.getD_bytes (m.store a bs) a bs.length i h2
    rw [Mem.rd_store, if_pos (by omega)] at e
    have e2 : a + i - a = i := by omega
    rw [e2] at e
    simpa [List.getD_eq_getElem?_getD, h1, h2] using e

/-- Two runs of bytes are equal where every byte is. -/
theorem Mem.bytes_congr {m m' : Mem} {a n : Nat} (h : ∀ i < n, m'.rd (a + i) = m.rd (a + i)) :
    m'.bytes a n = m.bytes a n := by
  induction n generalizing a with
  | zero => rfl
  | succ n ih =>
    simp only [Mem.bytes]
    rw [show m'.rd a = m.rd a from h 0 (by omega), ih (fun i hi => by
      have := h (i + 1) (by omega)
      rwa [show a + (i + 1) = a + 1 + i by omega] at this)]

/-! ### The canonical form -/

theorem Mem.wf_iff (m : Mem) : m.wf = true ↔ SMap.Rising m ∧ ∀ e ∈ m, e.2 ≠ 0 := by
  induction m with
  | nil => simp [Mem.wf, SMap.Rising]
  | cons x r ih =>
    obtain ⟨a, b⟩ := x
    cases r with
    | nil => simp [Mem.wf, SMap.Rising]
    | cons y r =>
      obtain ⟨a', b'⟩ := y
      simp only [Mem.wf, Bool.and_eq_true, decide_eq_true_eq, ih]
      constructor
      · rintro ⟨⟨h1, h2⟩, h3, h4⟩
        refine ⟨List.pairwise_cons.2 ⟨fun z hz => ?_, h3⟩, fun z hz => ?_⟩
        · rcases List.mem_cons.1 hz with e | e
          · subst e; exact h2
          · exact lt_trans h2 ((List.pairwise_cons.1 h3).1 z e)
        · rcases List.mem_cons.1 hz with e | e
          · subst e; exact h1
          · exact h4 z e
      · rintro ⟨h1, h2⟩
        obtain ⟨h3, h4⟩ := List.pairwise_cons.1 h1
        exact ⟨⟨h2 (a, b) (by simp), h3 (a', b') (by simp)⟩, h4, fun z hz => h2 z (List.mem_cons_of_mem _ hz)⟩

theorem Mem.wf_wr {m : Mem} (h : m.wf = true) (a : Nat) (b : Byte) : (m.wr a b).wf = true := by
  obtain ⟨h1, h2⟩ := (Mem.wf_iff m).1 h
  unfold Mem.wr
  split
  · exact (Mem.wf_iff _).2 ⟨h1.del a, fun e he => h2 e (SMap.mem_del he)⟩
  · rename_i hb
    refine (Mem.wf_iff _).2 ⟨h1.put a b, fun e he => ?_⟩
    rcases SMap.mem_put he with k | k
    · subst k; exact hb
    · exact h2 e k

theorem Mem.wf_store {m : Mem} (h : m.wf = true) (a : Nat) (bs : List Byte) : (m.store a bs).wf = true := by
  induction bs generalizing m a with
  | nil => exact h
  | cons b r ih => exact ih (Mem.wf_wr h a b) (a + 1)

theorem Mem.wf_storeNat {m : Mem} (h : m.wf = true) (a n v : Nat) : (m.storeNat a n v).wf = true :=
  Mem.wf_store h a _

theorem Mem.wf_filter {m : Mem} (h : m.wf = true) (p : Nat × Byte → Bool) : Mem.wf (m.filter p) = true := by
  obtain ⟨h1, h2⟩ := (Mem.wf_iff m).1 h
  exact (Mem.wf_iff _).2 ⟨h1.filter _, fun e he => h2 e (List.mem_of_mem_filter he)⟩

theorem Mem.wf_clear {m : Mem} (h : m.wf = true) (lo hi : Nat) : (m.clear lo hi).wf = true := Mem.wf_filter h _

/-- Two canonical memories that read alike are equal. -/
theorem Mem.ext_of_wf {m m' : Mem} (h : m.wf = true) (h' : m'.wf = true) (e : ∀ a, m.rd a = m'.rd a) : m = m' := by
  obtain ⟨h1, h2⟩ := (Mem.wf_iff m).1 h
  obtain ⟨h3, h4⟩ := (Mem.wf_iff m').1 h'
  clear h h'
  have below : ∀ (m : Mem) (a : Nat), (∀ x ∈ m, a < x.1) → m.rd a = 0 := by
    intro m a hm
    unfold Mem.rd
    induction m with
    | nil => rfl
    | cons x r ih =>
      obtain ⟨k, w⟩ := x
      have := hm (k, w) (by simp)
      simp only [SMap.get]
      rw [if_neg (by dsimp only at this; omega)]
      exact ih fun y hy => hm y (List.mem_cons_of_mem _ hy)
  induction m generalizing m' with
  | nil =>
    cases m' with
    | nil => rfl
    | cons y r =>
      obtain ⟨k, w⟩ := y
      have := e k
      simp [Mem.rd, SMap.get] at this
      exact absurd this.symm (h4 (k, w) (by simp))
  | cons x r ih =>
    obtain ⟨k, w⟩ := x
    obtain ⟨p1, p2⟩ := List.pairwise_cons.1 h1
    cases m' with
    | nil =>
      have := e k
      simp [Mem.rd, SMap.get] at this
      exact absurd this (h2 (k, w) (by simp))
    | cons y r' =>
      obtain ⟨k', w'⟩ := y
      obtain ⟨q1, q2⟩ := List.pairwise_cons.1 h3
      have hk : k = k' := by
        rcases Nat.lt_trichotomy k k' with c | c | c
        · have z := below ((k', w') :: r') k (fun y hy => by
            rcases List.mem_cons.1 hy with d | d
            · subst d; exact c
            · exact lt_trans c (q1 y d))
          rw [← e k] at z
          simp [Mem.rd, SMap.get] at z
          exact absurd z (h2 (k, w) (by simp))
        · exact c
        · have z := below ((k, w) :: r) k' (fun y hy => by
            rcases List.mem_cons.1 hy with d | d
            · subst d; exact c
            · exact lt_trans c (p1 y d))
          rw [e k'] at z
          simp [Mem.rd, SMap.get] at z
          exact absurd z (h4 (k', w') (by simp))
      subst hk
      have hw : w = w' := by simpa [Mem.rd, SMap.get] using e k
      subst hw
      congr 1
      refine ih (fun a => ?_) p2 (fun z hz => h2 z (List.mem_cons_of_mem _ hz)) q2
        (fun z hz => h4 z (List.mem_cons_of_mem _ hz))
      by_cases c : k = a
      · subst c
        rw [below r k p1, below r' k q1]
      · have := e a
        simpa [Mem.rd, SMap.get, c] using this

end Machine

end Sys2Proof
end

