-- ==== Sys2Proof/Laws/State.lean ====
section
/-! SUPPORT. What each named update of the state leaves in each field. -/

namespace Sys2Proof.Machine

theorem Reg.rd_wr_same {n : Nat} {α : Type} (f : Reg n α) (i : BitVec n) (x : α) : (f.wr i x).rd i = x := by
  simp [Reg.rd, Reg.wr]

theorem Reg.rd_wr_other {n : Nat} {α : Type} (f : Reg n α) {i j : BitVec n} (x : α) (h : j ≠ i) :
    (f.wr i x).rd j = f.rd j := by
  have e : i.toNat ≠ j.toNat := fun e => h (BitVec.eq_of_toNat_eq e.symm)
  simp only [Reg.rd, Reg.wr]
  exact Vector.getElem_set_ne _ _ e

theorem Reg.wr_self {n : Nat} {α : Type} (f : Reg n α) (i : BitVec n) : f.wr i (f.rd i) = f := by
  simp [Reg.rd, Reg.wr]

theorem Reg.wr_wr {n : Nat} {α : Type} (f : Reg n α) (i : BitVec n) (x y : α) : (f.wr i x).wr i y = f.wr i y := by
  simp [Reg.wr]

theorem Reg.rd_fill {n : Nat} {α : Type} (i : BitVec n) (x : α) : (Reg.fill x : Reg n α).rd i = x := by
  simp [Reg.rd, Reg.fill]

/-! ### Cells -/

@[simp] theorem State.setCell_cellAt (s : State) (c : BitVec 9) (x : Cell) : (s.setCell c x).cellAt c = x :=
  Reg.rd_wr_same _ _ _

theorem State.setCell_other (s : State) {c d : BitVec 9} (x : Cell) (h : d ≠ c) :
    (s.setCell c x).cellAt d = s.cellAt d := Reg.rd_wr_other _ _ h

@[simp] theorem State.setCell_self (s : State) (c : BitVec 9) : s.setCell c (s.cellAt c) = s := by
  simp only [State.setCell, State.cellAt, Reg.wr_self]

@[simp] theorem State.setCell_setCell (s : State) (c : BitVec 9) (x y : Cell) :
    (s.setCell c x).setCell c y = s.setCell c y := by
  simp only [State.setCell, Reg.wr_wr]

@[simp] theorem State.updAt_cellAt (s : State) (c : BitVec 9) (f : Cell → Cell) :
    (s.updAt c f).cellAt c = f (s.cellAt c) := Reg.rd_wr_same _ _ _

theorem State.updAt_other (s : State) {c d : BitVec 9} (f : Cell → Cell) (h : d ≠ c) :
    (s.updAt c f).cellAt d = s.cellAt d := Reg.rd_wr_other _ _ h

theorem State.updAt_updAt (s : State) (c : BitVec 9) (f g : Cell → Cell) :
    (s.updAt c f).updAt c g = s.updAt c fun x => g (f x) := by
  simp only [State.updAt, State.setCell_cellAt, State.setCell_setCell]

theorem State.updAt_id (s : State) (c : BitVec 9) (f : Cell → Cell) (h : f (s.cellAt c) = s.cellAt c) :
    s.updAt c f = s := by
  simp only [State.updAt, h, State.setCell_self]

/-! ### The updates, field by field -/

@[simp] theorem State.setCell_cur (s : State) (c : BitVec 9) (x : Cell) : (s.setCell c x).cur = s.cur := rfl
@[simp] theorem State.setCell_core (s : State) (c : BitVec 9) (x : Cell) : (s.setCell c x).core = s.core := rfl
@[simp] theorem State.setCell_agenda (s : State) (c : BitVec 9) (x : Cell) : (s.setCell c x).agenda = s.agenda := rfl
@[simp] theorem State.setCell_steps (s : State) (c : BitVec 9) (x : Cell) : (s.setCell c x).steps = s.steps := rfl
@[simp] theorem State.setCell_nextId (s : State) (c : BitVec 9) (x : Cell) : (s.setCell c x).nextId = s.nextId := rfl
@[simp] theorem State.setCell_mem (s : State) (c : BitVec 9) (x : Cell) : (s.setCell c x).mem = s.mem := rfl
@[simp] theorem State.setCell_staging (s : State) (c : BitVec 9) (x : Cell) : (s.setCell c x).staging = s.staging := rfl
@[simp] theorem State.setCell_inbound (s : State) (c : BitVec 9) (x : Cell) : (s.setCell c x).inbound = s.inbound := rfl
@[simp] theorem State.setCell_response (s : State) (c : BitVec 9) (x : Cell) : (s.setCell c x).response = s.response := rfl
@[simp] theorem State.setCell_tasks (s : State) (c : BitVec 9) (x : Cell) : (s.setCell c x).tasks = s.tasks := rfl
@[simp] theorem State.setCell_pkg (s : State) (c : BitVec 9) (x : Cell) : (s.setCell c x).pkg = s.pkg := rfl
@[simp] theorem State.setCell_cmds (s : State) (c : BitVec 9) (x : Cell) : (s.setCell c x).cmds = s.cmds := rfl
@[simp] theorem State.setCell_brood (s : State) (c : BitVec 9) (x : Cell) : (s.setCell c x).brood = s.brood := rfl
@[simp] theorem State.setCell_text (s : State) (c : BitVec 9) (x : Cell) : (s.setCell c x).text = s.text := rfl
@[simp] theorem State.setCell_chans (s : State) (c : BitVec 9) (x : Cell) : (s.setCell c x).chans = s.chans := rfl
@[simp] theorem State.setCell_pd (s : State) (c : BitVec 9) (x : Cell) : (s.setCell c x).pd = s.pd := rfl
@[simp] theorem State.setCell_accord (s : State) (c : BitVec 9) (x : Cell) : (s.setCell c x).accord = s.accord := rfl

@[simp] theorem State.updAt_cur (s : State) (c : BitVec 9) (f : Cell → Cell) : (s.updAt c f).cur = s.cur := rfl
@[simp] theorem State.updAt_core (s : State) (c : BitVec 9) (f : Cell → Cell) : (s.updAt c f).core = s.core := rfl
@[simp] theorem State.updAt_agenda (s : State) (c : BitVec 9) (f : Cell → Cell) : (s.updAt c f).agenda = s.agenda := rfl
@[simp] theorem State.updAt_steps (s : State) (c : BitVec 9) (f : Cell → Cell) : (s.updAt c f).steps = s.steps := rfl
@[simp] theorem State.updAt_nextId (s : State) (c : BitVec 9) (f : Cell → Cell) : (s.updAt c f).nextId = s.nextId := rfl
@[simp] theorem State.updAt_mem (s : State) (c : BitVec 9) (f : Cell → Cell) : (s.updAt c f).mem = s.mem := rfl
@[simp] theorem State.updAt_staging (s : State) (c : BitVec 9) (f : Cell → Cell) : (s.updAt c f).staging = s.staging := rfl
@[simp] theorem State.updAt_inbound (s : State) (c : BitVec 9) (f : Cell → Cell) : (s.updAt c f).inbound = s.inbound := rfl
@[simp] theorem State.updAt_response (s : State) (c : BitVec 9) (f : Cell → Cell) : (s.updAt c f).response = s.response :=
  rfl
@[simp] theorem State.updAt_tasks (s : State) (c : BitVec 9) (f : Cell → Cell) : (s.updAt c f).tasks = s.tasks := rfl
@[simp] theorem State.updAt_pkg (s : State) (c : BitVec 9) (f : Cell → Cell) : (s.updAt c f).pkg = s.pkg := rfl
@[simp] theorem State.updAt_cmds (s : State) (c : BitVec 9) (f : Cell → Cell) : (s.updAt c f).cmds = s.cmds := rfl
@[simp] theorem State.updAt_brood (s : State) (c : BitVec 9) (f : Cell → Cell) : (s.updAt c f).brood = s.brood := rfl
@[simp] theorem State.updAt_text (s : State) (c : BitVec 9) (f : Cell → Cell) : (s.updAt c f).text = s.text := rfl
@[simp] theorem State.updAt_chans (s : State) (c : BitVec 9) (f : Cell → Cell) : (s.updAt c f).chans = s.chans := rfl
@[simp] theorem State.updAt_pd (s : State) (c : BitVec 9) (f : Cell → Cell) : (s.updAt c f).pd = s.pd := rfl
@[simp] theorem State.updAt_accord (s : State) (c : BitVec 9) (f : Cell → Cell) : (s.updAt c f).accord = s.accord := rfl

@[simp] theorem State.upd_cur (s : State) (f : Cell → Cell) : (s.upd f).cur = s.cur := rfl
@[simp] theorem State.upd_core (s : State) (f : Cell → Cell) : (s.upd f).core = s.core := rfl
@[simp] theorem State.upd_agenda (s : State) (f : Cell → Cell) : (s.upd f).agenda = s.agenda := rfl
@[simp] theorem State.upd_steps (s : State) (f : Cell → Cell) : (s.upd f).steps = s.steps := rfl
@[simp] theorem State.upd_nextId (s : State) (f : Cell → Cell) : (s.upd f).nextId = s.nextId := rfl
@[simp] theorem State.upd_mem (s : State) (f : Cell → Cell) : (s.upd f).mem = s.mem := rfl
@[simp] theorem State.upd_staging (s : State) (f : Cell → Cell) : (s.upd f).staging = s.staging := rfl
@[simp] theorem State.upd_inbound (s : State) (f : Cell → Cell) : (s.upd f).inbound = s.inbound := rfl
@[simp] theorem State.upd_response (s : State) (f : Cell → Cell) : (s.upd f).response = s.response := rfl
@[simp] theorem State.upd_tasks (s : State) (f : Cell → Cell) : (s.upd f).tasks = s.tasks := rfl
@[simp] theorem State.upd_pkg (s : State) (f : Cell → Cell) : (s.upd f).pkg = s.pkg := rfl
@[simp] theorem State.upd_cmds (s : State) (f : Cell → Cell) : (s.upd f).cmds = s.cmds := rfl
@[simp] theorem State.upd_brood (s : State) (f : Cell → Cell) : (s.upd f).brood = s.brood := rfl
@[simp] theorem State.upd_text (s : State) (f : Cell → Cell) : (s.upd f).text = s.text := rfl
@[simp] theorem State.upd_chans (s : State) (f : Cell → Cell) : (s.upd f).chans = s.chans := rfl
@[simp] theorem State.upd_pd (s : State) (f : Cell → Cell) : (s.upd f).pd = s.pd := rfl
@[simp] theorem State.upd_accord (s : State) (f : Cell → Cell) : (s.upd f).accord = s.accord := rfl

@[simp] theorem State.mark_cur (s : State) (c : BitVec 9) (v : Verdict) : (s.mark c v).cur = s.cur := rfl
@[simp] theorem State.mark_core (s : State) (c : BitVec 9) (v : Verdict) : (s.mark c v).core = s.core := rfl
@[simp] theorem State.mark_agenda (s : State) (c : BitVec 9) (v : Verdict) : (s.mark c v).agenda = s.agenda := rfl
@[simp] theorem State.mark_steps (s : State) (c : BitVec 9) (v : Verdict) : (s.mark c v).steps = s.steps := rfl
@[simp] theorem State.mark_nextId (s : State) (c : BitVec 9) (v : Verdict) : (s.mark c v).nextId = s.nextId := rfl
@[simp] theorem State.mark_mem (s : State) (c : BitVec 9) (v : Verdict) : (s.mark c v).mem = s.mem := rfl
@[simp] theorem State.mark_staging (s : State) (c : BitVec 9) (v : Verdict) : (s.mark c v).staging = s.staging := rfl
@[simp] theorem State.mark_inbound (s : State) (c : BitVec 9) (v : Verdict) : (s.mark c v).inbound = s.inbound := rfl
@[simp] theorem State.mark_response (s : State) (c : BitVec 9) (v : Verdict) : (s.mark c v).response = s.response := rfl
@[simp] theorem State.mark_tasks (s : State) (c : BitVec 9) (v : Verdict) : (s.mark c v).tasks = s.tasks := rfl
@[simp] theorem State.mark_pkg (s : State) (c : BitVec 9) (v : Verdict) : (s.mark c v).pkg = s.pkg := rfl
@[simp] theorem State.mark_cmds (s : State) (c : BitVec 9) (v : Verdict) : (s.mark c v).cmds = s.cmds := rfl
@[simp] theorem State.mark_brood (s : State) (c : BitVec 9) (v : Verdict) : (s.mark c v).brood = s.brood := rfl
@[simp] theorem State.mark_text (s : State) (c : BitVec 9) (v : Verdict) : (s.mark c v).text = s.text := rfl
@[simp] theorem State.mark_chans (s : State) (c : BitVec 9) (v : Verdict) : (s.mark c v).chans = s.chans := rfl
@[simp] theorem State.mark_pd (s : State) (c : BitVec 9) (v : Verdict) : (s.mark c v).pd = s.pd := rfl
@[simp] theorem State.mark_accord (s : State) (c : BitVec 9) (v : Verdict) : (s.mark c v).accord = s.accord := rfl

@[simp] theorem State.push_cur (s : State) (l : List InFlight) : (s.push l).cur = s.cur := rfl
@[simp] theorem State.push_core (s : State) (l : List InFlight) : (s.push l).core = s.core := rfl
@[simp] theorem State.push_agenda (s : State) (l : List InFlight) : (s.push l).agenda = s.agenda := rfl
@[simp] theorem State.push_steps (s : State) (l : List InFlight) : (s.push l).steps = s.steps := rfl
@[simp] theorem State.push_nextId (s : State) (l : List InFlight) : (s.push l).nextId = s.nextId := rfl
@[simp] theorem State.push_mem (s : State) (l : List InFlight) : (s.push l).mem = s.mem := rfl
@[simp] theorem State.push_staging (s : State) (l : List InFlight) : (s.push l).staging = s.staging := rfl
@[simp] theorem State.push_inbound (s : State) (l : List InFlight) : (s.push l).inbound = s.inbound := rfl
@[simp] theorem State.push_response (s : State) (l : List InFlight) : (s.push l).response = s.response := rfl
@[simp] theorem State.push_tasks (s : State) (l : List InFlight) : (s.push l).tasks = s.tasks := rfl
@[simp] theorem State.push_pkg (s : State) (l : List InFlight) : (s.push l).pkg = s.pkg := rfl
@[simp] theorem State.push_cmds (s : State) (l : List InFlight) : (s.push l).cmds = s.cmds := rfl
@[simp] theorem State.push_brood (s : State) (l : List InFlight) : (s.push l).brood = s.brood := rfl
@[simp] theorem State.push_text (s : State) (l : List InFlight) : (s.push l).text = s.text := rfl
@[simp] theorem State.push_chans (s : State) (l : List InFlight) : (s.push l).chans = s.chans := rfl
@[simp] theorem State.push_pd (s : State) (l : List InFlight) : (s.push l).pd = s.pd := rfl
@[simp] theorem State.push_accord (s : State) (l : List InFlight) : (s.push l).accord = s.accord := rfl

@[simp] theorem State.jump_cur (s : State) (t : BitVec 32) : (s.jump t).cur = s.cur := rfl
@[simp] theorem State.jump_core (s : State) (t : BitVec 32) : (s.jump t).core = s.core := rfl
@[simp] theorem State.jump_agenda (s : State) (t : BitVec 32) : (s.jump t).agenda = s.agenda := rfl
@[simp] theorem State.jump_steps (s : State) (t : BitVec 32) : (s.jump t).steps = s.steps := rfl
@[simp] theorem State.jump_nextId (s : State) (t : BitVec 32) : (s.jump t).nextId = s.nextId := rfl
@[simp] theorem State.jump_mem (s : State) (t : BitVec 32) : (s.jump t).mem = s.mem := rfl
@[simp] theorem State.jump_staging (s : State) (t : BitVec 32) : (s.jump t).staging = s.staging := rfl
@[simp] theorem State.jump_inbound (s : State) (t : BitVec 32) : (s.jump t).inbound = s.inbound := rfl
@[simp] theorem State.jump_response (s : State) (t : BitVec 32) : (s.jump t).response = s.response := rfl
@[simp] theorem State.jump_tasks (s : State) (t : BitVec 32) : (s.jump t).tasks = s.tasks := rfl
@[simp] theorem State.jump_pkg (s : State) (t : BitVec 32) : (s.jump t).pkg = s.pkg := rfl
@[simp] theorem State.jump_cmds (s : State) (t : BitVec 32) : (s.jump t).cmds = s.cmds := rfl
@[simp] theorem State.jump_brood (s : State) (t : BitVec 32) : (s.jump t).brood = s.brood := rfl
@[simp] theorem State.jump_text (s : State) (t : BitVec 32) : (s.jump t).text = s.text := rfl
@[simp] theorem State.jump_chans (s : State) (t : BitVec 32) : (s.jump t).chans = s.chans := rfl
@[simp] theorem State.jump_pd (s : State) (t : BitVec 32) : (s.jump t).pd = s.pd := rfl
@[simp] theorem State.jump_accord (s : State) (t : BitVec 32) : (s.jump t).accord = s.accord := rfl

@[simp] theorem State.startLoop_cur (s : State) (v : BitVec 1) (l : LoopSt) : (s.startLoop v l).cur = s.cur := rfl
@[simp] theorem State.startLoop_core (s : State) (v : BitVec 1) (l : LoopSt) : (s.startLoop v l).core = s.core := rfl
@[simp] theorem State.startLoop_agenda (s : State) (v : BitVec 1) (l : LoopSt) : (s.startLoop v l).agenda = s.agenda := rfl
@[simp] theorem State.startLoop_steps (s : State) (v : BitVec 1) (l : LoopSt) : (s.startLoop v l).steps = s.steps := rfl
@[simp] theorem State.startLoop_nextId (s : State) (v : BitVec 1) (l : LoopSt) : (s.startLoop v l).nextId = s.nextId := rfl
@[simp] theorem State.startLoop_mem (s : State) (v : BitVec 1) (l : LoopSt) : (s.startLoop v l).mem = s.mem := rfl
@[simp] theorem State.startLoop_staging (s : State) (v : BitVec 1) (l : LoopSt) : (s.startLoop v l).staging = s.staging :=
  rfl
@[simp] theorem State.startLoop_inbound (s : State) (v : BitVec 1) (l : LoopSt) : (s.startLoop v l).inbound = s.inbound :=
  rfl
@[simp] theorem State.startLoop_response (s : State) (v : BitVec 1) (l : LoopSt) : (s.startLoop v l).response = s.response :=
  rfl
@[simp] theorem State.startLoop_tasks (s : State) (v : BitVec 1) (l : LoopSt) : (s.startLoop v l).tasks = s.tasks := rfl
@[simp] theorem State.startLoop_pkg (s : State) (v : BitVec 1) (l : LoopSt) : (s.startLoop v l).pkg = s.pkg := rfl
@[simp] theorem State.startLoop_cmds (s : State) (v : BitVec 1) (l : LoopSt) : (s.startLoop v l).cmds = s.cmds := rfl
@[simp] theorem State.startLoop_brood (s : State) (v : BitVec 1) (l : LoopSt) : (s.startLoop v l).brood = s.brood := rfl
@[simp] theorem State.startLoop_text (s : State) (v : BitVec 1) (l : LoopSt) : (s.startLoop v l).text = s.text := rfl
@[simp] theorem State.startLoop_chans (s : State) (v : BitVec 1) (l : LoopSt) : (s.startLoop v l).chans = s.chans := rfl
@[simp] theorem State.startLoop_pd (s : State) (v : BitVec 1) (l : LoopSt) : (s.startLoop v l).pd = s.pd := rfl
@[simp] theorem State.startLoop_accord (s : State) (v : BitVec 1) (l : LoopSt) : (s.startLoop v l).accord = s.accord := rfl

@[simp] theorem State.report_cells (s : State) (r : Report) : (s.report r).cells = s.cells := rfl
@[simp] theorem State.report_cur (s : State) (r : Report) : (s.report r).cur = s.cur := rfl
@[simp] theorem State.report_core (s : State) (r : Report) : (s.report r).core = s.core := rfl
@[simp] theorem State.report_agenda (s : State) (r : Report) : (s.report r).agenda = s.agenda := rfl
@[simp] theorem State.report_steps (s : State) (r : Report) : (s.report r).steps = s.steps := rfl
@[simp] theorem State.report_nextId (s : State) (r : Report) : (s.report r).nextId = s.nextId := rfl
@[simp] theorem State.report_mem (s : State) (r : Report) : (s.report r).mem = s.mem := rfl
@[simp] theorem State.report_staging (s : State) (r : Report) : (s.report r).staging = s.staging := rfl
@[simp] theorem State.report_inbound (s : State) (r : Report) : (s.report r).inbound = s.inbound := rfl
@[simp] theorem State.report_response (s : State) (r : Report) : (s.report r).response = s.response := rfl
@[simp] theorem State.report_tasks (s : State) (r : Report) : (s.report r).tasks = s.tasks := rfl
@[simp] theorem State.report_cmds (s : State) (r : Report) : (s.report r).cmds = s.cmds := rfl
@[simp] theorem State.report_brood (s : State) (r : Report) : (s.report r).brood = s.brood := rfl
@[simp] theorem State.report_text (s : State) (r : Report) : (s.report r).text = s.text := rfl
@[simp] theorem State.report_chans (s : State) (r : Report) : (s.report r).chans = s.chans := rfl
@[simp] theorem State.report_pd (s : State) (r : Report) : (s.report r).pd = s.pd := rfl
@[simp] theorem State.report_accord (s : State) (r : Report) : (s.report r).accord = s.accord := rfl

@[simp] theorem State.setSlot_cells (s : State) (i : Nat) (x : Slot) : (s.setSlot i x).cells = s.cells := rfl
@[simp] theorem State.setSlot_cur (s : State) (i : Nat) (x : Slot) : (s.setSlot i x).cur = s.cur := rfl
@[simp] theorem State.setSlot_core (s : State) (i : Nat) (x : Slot) : (s.setSlot i x).core = s.core := rfl
@[simp] theorem State.setSlot_agenda (s : State) (i : Nat) (x : Slot) : (s.setSlot i x).agenda = s.agenda := rfl
@[simp] theorem State.setSlot_steps (s : State) (i : Nat) (x : Slot) : (s.setSlot i x).steps = s.steps := rfl
@[simp] theorem State.setSlot_nextId (s : State) (i : Nat) (x : Slot) : (s.setSlot i x).nextId = s.nextId := rfl
@[simp] theorem State.setSlot_mem (s : State) (i : Nat) (x : Slot) : (s.setSlot i x).mem = s.mem := rfl
@[simp] theorem State.setSlot_staging (s : State) (i : Nat) (x : Slot) : (s.setSlot i x).staging = s.staging := rfl
@[simp] theorem State.setSlot_inbound (s : State) (i : Nat) (x : Slot) : (s.setSlot i x).inbound = s.inbound := rfl
@[simp] theorem State.setSlot_response (s : State) (i : Nat) (x : Slot) : (s.setSlot i x).response = s.response := rfl
@[simp] theorem State.setSlot_tasks (s : State) (i : Nat) (x : Slot) : (s.setSlot i x).tasks = s.tasks := rfl
@[simp] theorem State.setSlot_pkg (s : State) (i : Nat) (x : Slot) : (s.setSlot i x).pkg = s.pkg := rfl
@[simp] theorem State.setSlot_cmds (s : State) (i : Nat) (x : Slot) : (s.setSlot i x).cmds = s.cmds := rfl
@[simp] theorem State.setSlot_text (s : State) (i : Nat) (x : Slot) : (s.setSlot i x).text = s.text := rfl
@[simp] theorem State.setSlot_chans (s : State) (i : Nat) (x : Slot) : (s.setSlot i x).chans = s.chans := rfl
@[simp] theorem State.setSlot_pd (s : State) (i : Nat) (x : Slot) : (s.setSlot i x).pd = s.pd := rfl
@[simp] theorem State.setSlot_accord (s : State) (i : Nat) (x : Slot) : (s.setSlot i x).accord = s.accord := rfl

@[simp] theorem State.updSlot_cells (s : State) (i : Nat) (f : Slot → Slot) : (s.updSlot i f).cells = s.cells := rfl
@[simp] theorem State.updSlot_cur (s : State) (i : Nat) (f : Slot → Slot) : (s.updSlot i f).cur = s.cur := rfl
@[simp] theorem State.updSlot_core (s : State) (i : Nat) (f : Slot → Slot) : (s.updSlot i f).core = s.core := rfl
@[simp] theorem State.updSlot_agenda (s : State) (i : Nat) (f : Slot → Slot) : (s.updSlot i f).agenda = s.agenda := rfl
@[simp] theorem State.updSlot_steps (s : State) (i : Nat) (f : Slot → Slot) : (s.updSlot i f).steps = s.steps := rfl
@[simp] theorem State.updSlot_nextId (s : State) (i : Nat) (f : Slot → Slot) : (s.updSlot i f).nextId = s.nextId := rfl
@[simp] theorem State.updSlot_mem (s : State) (i : Nat) (f : Slot → Slot) : (s.updSlot i f).mem = s.mem := rfl
@[simp] theorem State.updSlot_staging (s : State) (i : Nat) (f : Slot → Slot) : (s.updSlot i f).staging = s.staging := rfl
@[simp] theorem State.updSlot_inbound (s : State) (i : Nat) (f : Slot → Slot) : (s.updSlot i f).inbound = s.inbound := rfl
@[simp] theorem State.updSlot_response (s : State) (i : Nat) (f : Slot → Slot) : (s.updSlot i f).response = s.response :=
  rfl
@[simp] theorem State.updSlot_tasks (s : State) (i : Nat) (f : Slot → Slot) : (s.updSlot i f).tasks = s.tasks := rfl
@[simp] theorem State.updSlot_pkg (s : State) (i : Nat) (f : Slot → Slot) : (s.updSlot i f).pkg = s.pkg := rfl
@[simp] theorem State.updSlot_cmds (s : State) (i : Nat) (f : Slot → Slot) : (s.updSlot i f).cmds = s.cmds := rfl
@[simp] theorem State.updSlot_text (s : State) (i : Nat) (f : Slot → Slot) : (s.updSlot i f).text = s.text := rfl
@[simp] theorem State.updSlot_chans (s : State) (i : Nat) (f : Slot → Slot) : (s.updSlot i f).chans = s.chans := rfl
@[simp] theorem State.updSlot_pd (s : State) (i : Nat) (f : Slot → Slot) : (s.updSlot i f).pd = s.pd := rfl
@[simp] theorem State.updSlot_accord (s : State) (i : Nat) (f : Slot → Slot) : (s.updSlot i f).accord = s.accord := rfl

@[simp] theorem State.poke_cells (s : State) (hit : Nat → Bool) : (s.poke hit).cells = s.cells :=
  by unfold State.poke; split <;> rfl
@[simp] theorem State.poke_cur (s : State) (hit : Nat → Bool) : (s.poke hit).cur = s.cur :=
  by unfold State.poke; split <;> rfl
@[simp] theorem State.poke_core (s : State) (hit : Nat → Bool) : (s.poke hit).core = s.core :=
  by unfold State.poke; split <;> rfl
@[simp] theorem State.poke_agenda (s : State) (hit : Nat → Bool) : (s.poke hit).agenda = s.agenda :=
  by unfold State.poke; split <;> rfl
@[simp] theorem State.poke_steps (s : State) (hit : Nat → Bool) : (s.poke hit).steps = s.steps :=
  by unfold State.poke; split <;> rfl
@[simp] theorem State.poke_nextId (s : State) (hit : Nat → Bool) : (s.poke hit).nextId = s.nextId :=
  by unfold State.poke; split <;> rfl
@[simp] theorem State.poke_mem (s : State) (hit : Nat → Bool) : (s.poke hit).mem = s.mem :=
  by unfold State.poke; split <;> rfl
@[simp] theorem State.poke_staging (s : State) (hit : Nat → Bool) : (s.poke hit).staging = s.staging :=
  by unfold State.poke; split <;> rfl
@[simp] theorem State.poke_inbound (s : State) (hit : Nat → Bool) : (s.poke hit).inbound = s.inbound :=
  by unfold State.poke; split <;> rfl
@[simp] theorem State.poke_response (s : State) (hit : Nat → Bool) : (s.poke hit).response = s.response :=
  by unfold State.poke; split <;> rfl
@[simp] theorem State.poke_tasks (s : State) (hit : Nat → Bool) : (s.poke hit).tasks = s.tasks :=
  by unfold State.poke; split <;> rfl
@[simp] theorem State.poke_pkg (s : State) (hit : Nat → Bool) : (s.poke hit).pkg = s.pkg :=
  by unfold State.poke; split <;> rfl
@[simp] theorem State.poke_cmds (s : State) (hit : Nat → Bool) : (s.poke hit).cmds = s.cmds :=
  by unfold State.poke; split <;> rfl
@[simp] theorem State.poke_brood (s : State) (hit : Nat → Bool) : (s.poke hit).brood = s.brood :=
  by unfold State.poke; split <;> rfl
@[simp] theorem State.poke_text (s : State) (hit : Nat → Bool) : (s.poke hit).text = s.text :=
  by unfold State.poke; split <;> rfl
@[simp] theorem State.poke_chans (s : State) (hit : Nat → Bool) : (s.poke hit).chans = s.chans :=
  by unfold State.poke; split <;> rfl
@[simp] theorem State.poke_pd (s : State) (hit : Nat → Bool) : (s.poke hit).pd = s.pd := by unfold State.poke; split <;> rfl

@[simp] theorem State.store_cells (s : State) (a : Nat) (bs : List Byte) : (s.store a bs).cells = s.cells :=
  State.poke_cells _ _
@[simp] theorem State.store_cur (s : State) (a : Nat) (bs : List Byte) : (s.store a bs).cur = s.cur := State.poke_cur _ _
@[simp] theorem State.store_core (s : State) (a : Nat) (bs : List Byte) : (s.store a bs).core = s.core :=
  State.poke_core _ _
@[simp] theorem State.store_agenda (s : State) (a : Nat) (bs : List Byte) : (s.store a bs).agenda = s.agenda :=
  State.poke_agenda _ _
@[simp] theorem State.store_steps (s : State) (a : Nat) (bs : List Byte) : (s.store a bs).steps = s.steps :=
  State.poke_steps _ _
@[simp] theorem State.store_nextId (s : State) (a : Nat) (bs : List Byte) : (s.store a bs).nextId = s.nextId :=
  State.poke_nextId _ _
@[simp] theorem State.store_staging (s : State) (a : Nat) (bs : List Byte) : (s.store a bs).staging = s.staging :=
  State.poke_staging _ _
@[simp] theorem State.store_inbound (s : State) (a : Nat) (bs : List Byte) : (s.store a bs).inbound = s.inbound :=
  State.poke_inbound _ _
@[simp] theorem State.store_response (s : State) (a : Nat) (bs : List Byte) : (s.store a bs).response = s.response :=
  State.poke_response _ _
@[simp] theorem State.store_tasks (s : State) (a : Nat) (bs : List Byte) : (s.store a bs).tasks = s.tasks :=
  State.poke_tasks _ _
@[simp] theorem State.store_pkg (s : State) (a : Nat) (bs : List Byte) : (s.store a bs).pkg = s.pkg := State.poke_pkg _ _
@[simp] theorem State.store_cmds (s : State) (a : Nat) (bs : List Byte) : (s.store a bs).cmds = s.cmds :=
  State.poke_cmds _ _
@[simp] theorem State.store_brood (s : State) (a : Nat) (bs : List Byte) : (s.store a bs).brood = s.brood :=
  State.poke_brood _ _
@[simp] theorem State.store_text (s : State) (a : Nat) (bs : List Byte) : (s.store a bs).text = s.text :=
  State.poke_text _ _
@[simp] theorem State.store_chans (s : State) (a : Nat) (bs : List Byte) : (s.store a bs).chans = s.chans :=
  State.poke_chans _ _
@[simp] theorem State.store_pd (s : State) (a : Nat) (bs : List Byte) : (s.store a bs).pd = s.pd := State.poke_pd _ _

@[simp] theorem State.flush_cells (s : State) (ls : List Line) : (s.flush ls).cells = s.cells := State.poke_cells _ _
@[simp] theorem State.flush_cur (s : State) (ls : List Line) : (s.flush ls).cur = s.cur := State.poke_cur _ _
@[simp] theorem State.flush_core (s : State) (ls : List Line) : (s.flush ls).core = s.core := State.poke_core _ _
@[simp] theorem State.flush_agenda (s : State) (ls : List Line) : (s.flush ls).agenda = s.agenda := State.poke_agenda _ _
@[simp] theorem State.flush_steps (s : State) (ls : List Line) : (s.flush ls).steps = s.steps := State.poke_steps _ _
@[simp] theorem State.flush_nextId (s : State) (ls : List Line) : (s.flush ls).nextId = s.nextId := State.poke_nextId _ _
@[simp] theorem State.flush_staging (s : State) (ls : List Line) : (s.flush ls).staging = s.staging :=
  State.poke_staging _ _
@[simp] theorem State.flush_inbound (s : State) (ls : List Line) : (s.flush ls).inbound = s.inbound :=
  State.poke_inbound _ _
@[simp] theorem State.flush_response (s : State) (ls : List Line) : (s.flush ls).response = s.response :=
  State.poke_response _ _
@[simp] theorem State.flush_tasks (s : State) (ls : List Line) : (s.flush ls).tasks = s.tasks := State.poke_tasks _ _
@[simp] theorem State.flush_pkg (s : State) (ls : List Line) : (s.flush ls).pkg = s.pkg := State.poke_pkg _ _
@[simp] theorem State.flush_cmds (s : State) (ls : List Line) : (s.flush ls).cmds = s.cmds := State.poke_cmds _ _
@[simp] theorem State.flush_brood (s : State) (ls : List Line) : (s.flush ls).brood = s.brood := State.poke_brood _ _
@[simp] theorem State.flush_text (s : State) (ls : List Line) : (s.flush ls).text = s.text := State.poke_text _ _
@[simp] theorem State.flush_chans (s : State) (ls : List Line) : (s.flush ls).chans = s.chans := State.poke_chans _ _
@[simp] theorem State.flush_pd (s : State) (ls : List Line) : (s.flush ls).pd = s.pd := State.poke_pd _ _

@[simp] theorem setGang_cells (s : State) (g : Gang) : (setGang s g).cells = s.cells := rfl
@[simp] theorem setGang_cur (s : State) (g : Gang) : (setGang s g).cur = s.cur := rfl
@[simp] theorem setGang_core (s : State) (g : Gang) : (setGang s g).core = s.core := rfl
@[simp] theorem setGang_agenda (s : State) (g : Gang) : (setGang s g).agenda = s.agenda := rfl
@[simp] theorem setGang_steps (s : State) (g : Gang) : (setGang s g).steps = s.steps := rfl
@[simp] theorem setGang_nextId (s : State) (g : Gang) : (setGang s g).nextId = s.nextId := rfl
@[simp] theorem setGang_mem (s : State) (g : Gang) : (setGang s g).mem = s.mem := rfl
@[simp] theorem setGang_staging (s : State) (g : Gang) : (setGang s g).staging = s.staging := rfl
@[simp] theorem setGang_inbound (s : State) (g : Gang) : (setGang s g).inbound = s.inbound := rfl
@[simp] theorem setGang_response (s : State) (g : Gang) : (setGang s g).response = s.response := rfl
@[simp] theorem setGang_pkg (s : State) (g : Gang) : (setGang s g).pkg = s.pkg := rfl
@[simp] theorem setGang_cmds (s : State) (g : Gang) : (setGang s g).cmds = s.cmds := rfl
@[simp] theorem setGang_brood (s : State) (g : Gang) : (setGang s g).brood = s.brood := rfl
@[simp] theorem setGang_text (s : State) (g : Gang) : (setGang s g).text = s.text := rfl
@[simp] theorem setGang_chans (s : State) (g : Gang) : (setGang s g).chans = s.chans := rfl
@[simp] theorem setGang_pd (s : State) (g : Gang) : (setGang s g).pd = s.pd := rfl
@[simp] theorem setGang_accord (s : State) (g : Gang) : (setGang s g).accord = s.accord := rfl

@[simp] theorem setLaunch_cells (s : State) (l : Launch) : (setLaunch s l).cells = s.cells := rfl
@[simp] theorem setLaunch_cur (s : State) (l : Launch) : (setLaunch s l).cur = s.cur := rfl
@[simp] theorem setLaunch_core (s : State) (l : Launch) : (setLaunch s l).core = s.core := rfl
@[simp] theorem setLaunch_agenda (s : State) (l : Launch) : (setLaunch s l).agenda = s.agenda := rfl
@[simp] theorem setLaunch_steps (s : State) (l : Launch) : (setLaunch s l).steps = s.steps := rfl
@[simp] theorem setLaunch_nextId (s : State) (l : Launch) : (setLaunch s l).nextId = s.nextId := rfl
@[simp] theorem setLaunch_mem (s : State) (l : Launch) : (setLaunch s l).mem = s.mem := rfl
@[simp] theorem setLaunch_staging (s : State) (l : Launch) : (setLaunch s l).staging = s.staging := rfl
@[simp] theorem setLaunch_inbound (s : State) (l : Launch) : (setLaunch s l).inbound = s.inbound := rfl
@[simp] theorem setLaunch_response (s : State) (l : Launch) : (setLaunch s l).response = s.response := rfl
@[simp] theorem setLaunch_pkg (s : State) (l : Launch) : (setLaunch s l).pkg = s.pkg := rfl
@[simp] theorem setLaunch_cmds (s : State) (l : Launch) : (setLaunch s l).cmds = s.cmds := rfl
@[simp] theorem setLaunch_brood (s : State) (l : Launch) : (setLaunch s l).brood = s.brood := rfl
@[simp] theorem setLaunch_text (s : State) (l : Launch) : (setLaunch s l).text = s.text := rfl
@[simp] theorem setLaunch_chans (s : State) (l : Launch) : (setLaunch s l).chans = s.chans := rfl
@[simp] theorem setLaunch_pd (s : State) (l : Launch) : (setLaunch s l).pd = s.pd := rfl
@[simp] theorem setLaunch_accord (s : State) (l : Launch) : (setLaunch s l).accord = s.accord := rfl

@[simp] theorem setCmd_cells (s : State) (x : Cmd) : (setCmd s x).cells = s.cells := rfl
@[simp] theorem setCmd_cur (s : State) (x : Cmd) : (setCmd s x).cur = s.cur := rfl
@[simp] theorem setCmd_core (s : State) (x : Cmd) : (setCmd s x).core = s.core := rfl
@[simp] theorem setCmd_agenda (s : State) (x : Cmd) : (setCmd s x).agenda = s.agenda := rfl
@[simp] theorem setCmd_steps (s : State) (x : Cmd) : (setCmd s x).steps = s.steps := rfl
@[simp] theorem setCmd_nextId (s : State) (x : Cmd) : (setCmd s x).nextId = s.nextId := rfl
@[simp] theorem setCmd_mem (s : State) (x : Cmd) : (setCmd s x).mem = s.mem := rfl
@[simp] theorem setCmd_staging (s : State) (x : Cmd) : (setCmd s x).staging = s.staging := rfl
@[simp] theorem setCmd_inbound (s : State) (x : Cmd) : (setCmd s x).inbound = s.inbound := rfl
@[simp] theorem setCmd_response (s : State) (x : Cmd) : (setCmd s x).response = s.response := rfl
@[simp] theorem setCmd_tasks (s : State) (x : Cmd) : (setCmd s x).tasks = s.tasks := rfl
@[simp] theorem setCmd_pkg (s : State) (x : Cmd) : (setCmd s x).pkg = s.pkg := rfl
@[simp] theorem setCmd_brood (s : State) (x : Cmd) : (setCmd s x).brood = s.brood := rfl
@[simp] theorem setCmd_text (s : State) (x : Cmd) : (setCmd s x).text = s.text := rfl
@[simp] theorem setCmd_chans (s : State) (x : Cmd) : (setCmd s x).chans = s.chans := rfl
@[simp] theorem setCmd_pd (s : State) (x : Cmd) : (setCmd s x).pd = s.pd := rfl
@[simp] theorem setCmd_accord (s : State) (x : Cmd) : (setCmd s x).accord = s.accord := rfl

@[simp] theorem dropCmd_cells (s : State) (i : Nat) : (dropCmd s i).cells = s.cells := rfl
@[simp] theorem dropCmd_cur (s : State) (i : Nat) : (dropCmd s i).cur = s.cur := rfl
@[simp] theorem dropCmd_core (s : State) (i : Nat) : (dropCmd s i).core = s.core := rfl
@[simp] theorem dropCmd_agenda (s : State) (i : Nat) : (dropCmd s i).agenda = s.agenda := rfl
@[simp] theorem dropCmd_steps (s : State) (i : Nat) : (dropCmd s i).steps = s.steps := rfl
@[simp] theorem dropCmd_nextId (s : State) (i : Nat) : (dropCmd s i).nextId = s.nextId := rfl
@[simp] theorem dropCmd_mem (s : State) (i : Nat) : (dropCmd s i).mem = s.mem := rfl
@[simp] theorem dropCmd_staging (s : State) (i : Nat) : (dropCmd s i).staging = s.staging := rfl
@[simp] theorem dropCmd_inbound (s : State) (i : Nat) : (dropCmd s i).inbound = s.inbound := rfl
@[simp] theorem dropCmd_response (s : State) (i : Nat) : (dropCmd s i).response = s.response := rfl
@[simp] theorem dropCmd_tasks (s : State) (i : Nat) : (dropCmd s i).tasks = s.tasks := rfl
@[simp] theorem dropCmd_pkg (s : State) (i : Nat) : (dropCmd s i).pkg = s.pkg := rfl
@[simp] theorem dropCmd_brood (s : State) (i : Nat) : (dropCmd s i).brood = s.brood := rfl
@[simp] theorem dropCmd_text (s : State) (i : Nat) : (dropCmd s i).text = s.text := rfl
@[simp] theorem dropCmd_pd (s : State) (i : Nat) : (dropCmd s i).pd = s.pd := rfl
@[simp] theorem dropCmd_accord (s : State) (i : Nat) : (dropCmd s i).accord = s.accord := rfl

@[simp] theorem onSaved_cells (s : State) (g : Nat) (f : Cell → Cell) : (onSaved s g f).cells = s.cells := rfl
@[simp] theorem onSaved_cur (s : State) (g : Nat) (f : Cell → Cell) : (onSaved s g f).cur = s.cur := rfl
@[simp] theorem onSaved_core (s : State) (g : Nat) (f : Cell → Cell) : (onSaved s g f).core = s.core := rfl
@[simp] theorem onSaved_agenda (s : State) (g : Nat) (f : Cell → Cell) : (onSaved s g f).agenda = s.agenda := rfl
@[simp] theorem onSaved_steps (s : State) (g : Nat) (f : Cell → Cell) : (onSaved s g f).steps = s.steps := rfl
@[simp] theorem onSaved_nextId (s : State) (g : Nat) (f : Cell → Cell) : (onSaved s g f).nextId = s.nextId := rfl
@[simp] theorem onSaved_mem (s : State) (g : Nat) (f : Cell → Cell) : (onSaved s g f).mem = s.mem := rfl
@[simp] theorem onSaved_staging (s : State) (g : Nat) (f : Cell → Cell) : (onSaved s g f).staging = s.staging := rfl
@[simp] theorem onSaved_inbound (s : State) (g : Nat) (f : Cell → Cell) : (onSaved s g f).inbound = s.inbound := rfl
@[simp] theorem onSaved_response (s : State) (g : Nat) (f : Cell → Cell) : (onSaved s g f).response = s.response := rfl
@[simp] theorem onSaved_pkg (s : State) (g : Nat) (f : Cell → Cell) : (onSaved s g f).pkg = s.pkg := rfl
@[simp] theorem onSaved_cmds (s : State) (g : Nat) (f : Cell → Cell) : (onSaved s g f).cmds = s.cmds := rfl
@[simp] theorem onSaved_brood (s : State) (g : Nat) (f : Cell → Cell) : (onSaved s g f).brood = s.brood := rfl
@[simp] theorem onSaved_text (s : State) (g : Nat) (f : Cell → Cell) : (onSaved s g f).text = s.text := rfl
@[simp] theorem onSaved_chans (s : State) (g : Nat) (f : Cell → Cell) : (onSaved s g f).chans = s.chans := rfl
@[simp] theorem onSaved_pd (s : State) (g : Nat) (f : Cell → Cell) : (onSaved s g f).pd = s.pd := rfl
@[simp] theorem onSaved_accord (s : State) (g : Nat) (f : Cell → Cell) : (onSaved s g f).accord = s.accord := rfl

@[simp] theorem dropHeld_cells (s : State) (g : Nat) (m : BitVec 6) : (dropHeld s g m).cells = s.cells := rfl
@[simp] theorem dropHeld_cur (s : State) (g : Nat) (m : BitVec 6) : (dropHeld s g m).cur = s.cur := rfl
@[simp] theorem dropHeld_core (s : State) (g : Nat) (m : BitVec 6) : (dropHeld s g m).core = s.core := rfl
@[simp] theorem dropHeld_agenda (s : State) (g : Nat) (m : BitVec 6) : (dropHeld s g m).agenda = s.agenda := rfl
@[simp] theorem dropHeld_steps (s : State) (g : Nat) (m : BitVec 6) : (dropHeld s g m).steps = s.steps := rfl
@[simp] theorem dropHeld_nextId (s : State) (g : Nat) (m : BitVec 6) : (dropHeld s g m).nextId = s.nextId := rfl
@[simp] theorem dropHeld_mem (s : State) (g : Nat) (m : BitVec 6) : (dropHeld s g m).mem = s.mem := rfl
@[simp] theorem dropHeld_staging (s : State) (g : Nat) (m : BitVec 6) : (dropHeld s g m).staging = s.staging := rfl
@[simp] theorem dropHeld_inbound (s : State) (g : Nat) (m : BitVec 6) : (dropHeld s g m).inbound = s.inbound := rfl
@[simp] theorem dropHeld_response (s : State) (g : Nat) (m : BitVec 6) : (dropHeld s g m).response = s.response := rfl
@[simp] theorem dropHeld_tasks (s : State) (g : Nat) (m : BitVec 6) : (dropHeld s g m).tasks = s.tasks := rfl
@[simp] theorem dropHeld_pkg (s : State) (g : Nat) (m : BitVec 6) : (dropHeld s g m).pkg = s.pkg := rfl
@[simp] theorem dropHeld_brood (s : State) (g : Nat) (m : BitVec 6) : (dropHeld s g m).brood = s.brood := rfl
@[simp] theorem dropHeld_text (s : State) (g : Nat) (m : BitVec 6) : (dropHeld s g m).text = s.text := rfl
@[simp] theorem dropHeld_pd (s : State) (g : Nat) (m : BitVec 6) : (dropHeld s g m).pd = s.pd := rfl
@[simp] theorem dropHeld_accord (s : State) (g : Nat) (m : BitVec 6) : (dropHeld s g m).accord = s.accord := rfl

@[simp] theorem freeArea_cells (s : State) (c : BitVec 16) (k : Nat) : (freeArea s c k).cells = s.cells := rfl
@[simp] theorem freeArea_cur (s : State) (c : BitVec 16) (k : Nat) : (freeArea s c k).cur = s.cur := rfl
@[simp] theorem freeArea_core (s : State) (c : BitVec 16) (k : Nat) : (freeArea s c k).core = s.core := rfl
@[simp] theorem freeArea_agenda (s : State) (c : BitVec 16) (k : Nat) : (freeArea s c k).agenda = s.agenda := rfl
@[simp] theorem freeArea_steps (s : State) (c : BitVec 16) (k : Nat) : (freeArea s c k).steps = s.steps := rfl
@[simp] theorem freeArea_nextId (s : State) (c : BitVec 16) (k : Nat) : (freeArea s c k).nextId = s.nextId := rfl
@[simp] theorem freeArea_mem (s : State) (c : BitVec 16) (k : Nat) : (freeArea s c k).mem = s.mem := rfl
@[simp] theorem freeArea_staging (s : State) (c : BitVec 16) (k : Nat) : (freeArea s c k).staging = s.staging := rfl
@[simp] theorem freeArea_inbound (s : State) (c : BitVec 16) (k : Nat) : (freeArea s c k).inbound = s.inbound := rfl
@[simp] theorem freeArea_response (s : State) (c : BitVec 16) (k : Nat) : (freeArea s c k).response = s.response := rfl
@[simp] theorem freeArea_tasks (s : State) (c : BitVec 16) (k : Nat) : (freeArea s c k).tasks = s.tasks := rfl
@[simp] theorem freeArea_cmds (s : State) (c : BitVec 16) (k : Nat) : (freeArea s c k).cmds = s.cmds := rfl
@[simp] theorem freeArea_brood (s : State) (c : BitVec 16) (k : Nat) : (freeArea s c k).brood = s.brood := rfl
@[simp] theorem freeArea_text (s : State) (c : BitVec 16) (k : Nat) : (freeArea s c k).text = s.text := rfl
@[simp] theorem freeArea_chans (s : State) (c : BitVec 16) (k : Nat) : (freeArea s c k).chans = s.chans := rfl
@[simp] theorem freeArea_pd (s : State) (c : BitVec 16) (k : Nat) : (freeArea s c k).pd = s.pd := rfl
@[simp] theorem freeArea_accord (s : State) (c : BitVec 16) (k : Nat) : (freeArea s c k).accord = s.accord := rfl

@[simp] theorem updPipe_cur (s : State) (c : BitVec 9) (f : Pipe → Pipe) : (updPipe s c f).cur = s.cur := rfl
@[simp] theorem updPipe_core (s : State) (c : BitVec 9) (f : Pipe → Pipe) : (updPipe s c f).core = s.core := rfl
@[simp] theorem updPipe_agenda (s : State) (c : BitVec 9) (f : Pipe → Pipe) : (updPipe s c f).agenda = s.agenda := rfl
@[simp] theorem updPipe_steps (s : State) (c : BitVec 9) (f : Pipe → Pipe) : (updPipe s c f).steps = s.steps := rfl
@[simp] theorem updPipe_nextId (s : State) (c : BitVec 9) (f : Pipe → Pipe) : (updPipe s c f).nextId = s.nextId := rfl
@[simp] theorem updPipe_mem (s : State) (c : BitVec 9) (f : Pipe → Pipe) : (updPipe s c f).mem = s.mem := rfl
@[simp] theorem updPipe_staging (s : State) (c : BitVec 9) (f : Pipe → Pipe) : (updPipe s c f).staging = s.staging := rfl
@[simp] theorem updPipe_inbound (s : State) (c : BitVec 9) (f : Pipe → Pipe) : (updPipe s c f).inbound = s.inbound := rfl
@[simp] theorem updPipe_response (s : State) (c : BitVec 9) (f : Pipe → Pipe) : (updPipe s c f).response = s.response := rfl
@[simp] theorem updPipe_tasks (s : State) (c : BitVec 9) (f : Pipe → Pipe) : (updPipe s c f).tasks = s.tasks := rfl
@[simp] theorem updPipe_pkg (s : State) (c : BitVec 9) (f : Pipe → Pipe) : (updPipe s c f).pkg = s.pkg := rfl
@[simp] theorem updPipe_cmds (s : State) (c : BitVec 9) (f : Pipe → Pipe) : (updPipe s c f).cmds = s.cmds := rfl
@[simp] theorem updPipe_brood (s : State) (c : BitVec 9) (f : Pipe → Pipe) : (updPipe s c f).brood = s.brood := rfl
@[simp] theorem updPipe_text (s : State) (c : BitVec 9) (f : Pipe → Pipe) : (updPipe s c f).text = s.text := rfl
@[simp] theorem updPipe_chans (s : State) (c : BitVec 9) (f : Pipe → Pipe) : (updPipe s c f).chans = s.chans := rfl
@[simp] theorem updPipe_pd (s : State) (c : BitVec 9) (f : Pipe → Pipe) : (updPipe s c f).pd = s.pd := rfl
@[simp] theorem updPipe_accord (s : State) (c : BitVec 9) (f : Pipe → Pipe) : (updPipe s c f).accord = s.accord := rfl

@[simp] theorem updEvents_cur (s : State) (c : BitVec 9) (f : Events → Events) : (updEvents s c f).cur = s.cur := rfl
@[simp] theorem updEvents_core (s : State) (c : BitVec 9) (f : Events → Events) : (updEvents s c f).core = s.core := rfl
@[simp] theorem updEvents_agenda (s : State) (c : BitVec 9) (f : Events → Events) : (updEvents s c f).agenda = s.agenda :=
  rfl
@[simp] theorem updEvents_steps (s : State) (c : BitVec 9) (f : Events → Events) : (updEvents s c f).steps = s.steps := rfl
@[simp] theorem updEvents_nextId (s : State) (c : BitVec 9) (f : Events → Events) : (updEvents s c f).nextId = s.nextId :=
  rfl
@[simp] theorem updEvents_mem (s : State) (c : BitVec 9) (f : Events → Events) : (updEvents s c f).mem = s.mem := rfl
@[simp] theorem updEvents_staging (s : State) (c : BitVec 9) (f : Events → Events) : (updEvents s c f).staging = s.staging :=
  rfl
@[simp] theorem updEvents_inbound (s : State) (c : BitVec 9) (f : Events → Events) : (updEvents s c f).inbound = s.inbound :=
  rfl
@[simp] theorem updEvents_response (s : State) (c : BitVec 9) (f : Events → Events) : (updEvents s c f).response = s.response :=
  rfl
@[simp] theorem updEvents_tasks (s : State) (c : BitVec 9) (f : Events → Events) : (updEvents s c f).tasks = s.tasks := rfl
@[simp] theorem updEvents_pkg (s : State) (c : BitVec 9) (f : Events → Events) : (updEvents s c f).pkg = s.pkg := rfl
@[simp] theorem updEvents_cmds (s : State) (c : BitVec 9) (f : Events → Events) : (updEvents s c f).cmds = s.cmds := rfl
@[simp] theorem updEvents_brood (s : State) (c : BitVec 9) (f : Events → Events) : (updEvents s c f).brood = s.brood := rfl
@[simp] theorem updEvents_text (s : State) (c : BitVec 9) (f : Events → Events) : (updEvents s c f).text = s.text := rfl
@[simp] theorem updEvents_chans (s : State) (c : BitVec 9) (f : Events → Events) : (updEvents s c f).chans = s.chans := rfl
@[simp] theorem updEvents_pd (s : State) (c : BitVec 9) (f : Events → Events) : (updEvents s c f).pd = s.pd := rfl
@[simp] theorem updEvents_accord (s : State) (c : BitVec 9) (f : Events → Events) : (updEvents s c f).accord = s.accord :=
  rfl

@[simp] theorem setChan_cells (s : State) (i : Nat) (x : Chan) : (setChan s i x).cells = s.cells := rfl
@[simp] theorem setChan_cur (s : State) (i : Nat) (x : Chan) : (setChan s i x).cur = s.cur := rfl
@[simp] theorem setChan_core (s : State) (i : Nat) (x : Chan) : (setChan s i x).core = s.core := rfl
@[simp] theorem setChan_agenda (s : State) (i : Nat) (x : Chan) : (setChan s i x).agenda = s.agenda := rfl
@[simp] theorem setChan_steps (s : State) (i : Nat) (x : Chan) : (setChan s i x).steps = s.steps := rfl
@[simp] theorem setChan_nextId (s : State) (i : Nat) (x : Chan) : (setChan s i x).nextId = s.nextId := rfl
@[simp] theorem setChan_mem (s : State) (i : Nat) (x : Chan) : (setChan s i x).mem = s.mem := rfl
@[simp] theorem setChan_staging (s : State) (i : Nat) (x : Chan) : (setChan s i x).staging = s.staging := rfl
@[simp] theorem setChan_inbound (s : State) (i : Nat) (x : Chan) : (setChan s i x).inbound = s.inbound := rfl
@[simp] theorem setChan_response (s : State) (i : Nat) (x : Chan) : (setChan s i x).response = s.response := rfl
@[simp] theorem setChan_tasks (s : State) (i : Nat) (x : Chan) : (setChan s i x).tasks = s.tasks := rfl
@[simp] theorem setChan_pkg (s : State) (i : Nat) (x : Chan) : (setChan s i x).pkg = s.pkg := rfl
@[simp] theorem setChan_cmds (s : State) (i : Nat) (x : Chan) : (setChan s i x).cmds = s.cmds := rfl
@[simp] theorem setChan_brood (s : State) (i : Nat) (x : Chan) : (setChan s i x).brood = s.brood := rfl
@[simp] theorem setChan_text (s : State) (i : Nat) (x : Chan) : (setChan s i x).text = s.text := rfl
@[simp] theorem setChan_pd (s : State) (i : Nat) (x : Chan) : (setChan s i x).pd = s.pd := rfl
@[simp] theorem setChan_accord (s : State) (i : Nat) (x : Chan) : (setChan s i x).accord = s.accord := rfl

@[simp] theorem setRange_cells (s : State) (c : BitVec 9) (r : Option Range) : (setRange s c r).cells = s.cells := rfl
@[simp] theorem setRange_cur (s : State) (c : BitVec 9) (r : Option Range) : (setRange s c r).cur = s.cur := rfl
@[simp] theorem setRange_core (s : State) (c : BitVec 9) (r : Option Range) : (setRange s c r).core = s.core := rfl
@[simp] theorem setRange_agenda (s : State) (c : BitVec 9) (r : Option Range) : (setRange s c r).agenda = s.agenda := rfl
@[simp] theorem setRange_steps (s : State) (c : BitVec 9) (r : Option Range) : (setRange s c r).steps = s.steps := rfl
@[simp] theorem setRange_nextId (s : State) (c : BitVec 9) (r : Option Range) : (setRange s c r).nextId = s.nextId := rfl
@[simp] theorem setRange_mem (s : State) (c : BitVec 9) (r : Option Range) : (setRange s c r).mem = s.mem := rfl
@[simp] theorem setRange_staging (s : State) (c : BitVec 9) (r : Option Range) : (setRange s c r).staging = s.staging := rfl
@[simp] theorem setRange_inbound (s : State) (c : BitVec 9) (r : Option Range) : (setRange s c r).inbound = s.inbound := rfl
@[simp] theorem setRange_response (s : State) (c : BitVec 9) (r : Option Range) : (setRange s c r).response = s.response :=
  rfl
@[simp] theorem setRange_pkg (s : State) (c : BitVec 9) (r : Option Range) : (setRange s c r).pkg = s.pkg := rfl
@[simp] theorem setRange_cmds (s : State) (c : BitVec 9) (r : Option Range) : (setRange s c r).cmds = s.cmds := rfl
@[simp] theorem setRange_brood (s : State) (c : BitVec 9) (r : Option Range) : (setRange s c r).brood = s.brood := rfl
@[simp] theorem setRange_text (s : State) (c : BitVec 9) (r : Option Range) : (setRange s c r).text = s.text := rfl
@[simp] theorem setRange_chans (s : State) (c : BitVec 9) (r : Option Range) : (setRange s c r).chans = s.chans := rfl
@[simp] theorem setRange_pd (s : State) (c : BitVec 9) (r : Option Range) : (setRange s c r).pd = s.pd := rfl
@[simp] theorem setRange_accord (s : State) (c : BitVec 9) (r : Option Range) : (setRange s c r).accord = s.accord := rfl

@[simp] theorem quarantine_cells (s : State) (p : List Freed) : (quarantine s p).cells = s.cells := rfl
@[simp] theorem quarantine_cur (s : State) (p : List Freed) : (quarantine s p).cur = s.cur := rfl
@[simp] theorem quarantine_core (s : State) (p : List Freed) : (quarantine s p).core = s.core := rfl
@[simp] theorem quarantine_agenda (s : State) (p : List Freed) : (quarantine s p).agenda = s.agenda := rfl
@[simp] theorem quarantine_steps (s : State) (p : List Freed) : (quarantine s p).steps = s.steps := rfl
@[simp] theorem quarantine_nextId (s : State) (p : List Freed) : (quarantine s p).nextId = s.nextId := rfl
@[simp] theorem quarantine_mem (s : State) (p : List Freed) : (quarantine s p).mem = s.mem := rfl
@[simp] theorem quarantine_staging (s : State) (p : List Freed) : (quarantine s p).staging = s.staging := rfl
@[simp] theorem quarantine_inbound (s : State) (p : List Freed) : (quarantine s p).inbound = s.inbound := rfl
@[simp] theorem quarantine_response (s : State) (p : List Freed) : (quarantine s p).response = s.response := rfl
@[simp] theorem quarantine_tasks (s : State) (p : List Freed) : (quarantine s p).tasks = s.tasks := rfl
@[simp] theorem quarantine_cmds (s : State) (p : List Freed) : (quarantine s p).cmds = s.cmds := rfl
@[simp] theorem quarantine_brood (s : State) (p : List Freed) : (quarantine s p).brood = s.brood := rfl
@[simp] theorem quarantine_text (s : State) (p : List Freed) : (quarantine s p).text = s.text := rfl
@[simp] theorem quarantine_chans (s : State) (p : List Freed) : (quarantine s p).chans = s.chans := rfl
@[simp] theorem quarantine_pd (s : State) (p : List Freed) : (quarantine s p).pd = s.pd := rfl
@[simp] theorem quarantine_accord (s : State) (p : List Freed) : (quarantine s p).accord = s.accord := rfl

@[simp] theorem setVocabs_cells (s : State) (v : SMap Vocab) : (setVocabs s v).cells = s.cells :=
  by unfold setVocabs; split <;> rfl
@[simp] theorem setVocabs_cur (s : State) (v : SMap Vocab) : (setVocabs s v).cur = s.cur :=
  by unfold setVocabs; split <;> rfl
@[simp] theorem setVocabs_core (s : State) (v : SMap Vocab) : (setVocabs s v).core = s.core :=
  by unfold setVocabs; split <;> rfl
@[simp] theorem setVocabs_agenda (s : State) (v : SMap Vocab) : (setVocabs s v).agenda = s.agenda :=
  by unfold setVocabs; split <;> rfl
@[simp] theorem setVocabs_steps (s : State) (v : SMap Vocab) : (setVocabs s v).steps = s.steps :=
  by unfold setVocabs; split <;> rfl
@[simp] theorem setVocabs_nextId (s : State) (v : SMap Vocab) : (setVocabs s v).nextId = s.nextId :=
  by unfold setVocabs; split <;> rfl
@[simp] theorem setVocabs_mem (s : State) (v : SMap Vocab) : (setVocabs s v).mem = s.mem :=
  by unfold setVocabs; split <;> rfl
@[simp] theorem setVocabs_staging (s : State) (v : SMap Vocab) : (setVocabs s v).staging = s.staging :=
  by unfold setVocabs; split <;> rfl
@[simp] theorem setVocabs_inbound (s : State) (v : SMap Vocab) : (setVocabs s v).inbound = s.inbound :=
  by unfold setVocabs; split <;> rfl
@[simp] theorem setVocabs_response (s : State) (v : SMap Vocab) : (setVocabs s v).response = s.response :=
  by unfold setVocabs; split <;> rfl
@[simp] theorem setVocabs_tasks (s : State) (v : SMap Vocab) : (setVocabs s v).tasks = s.tasks :=
  by unfold setVocabs; split <;> rfl
@[simp] theorem setVocabs_pkg (s : State) (v : SMap Vocab) : (setVocabs s v).pkg = s.pkg :=
  by unfold setVocabs; split <;> rfl
@[simp] theorem setVocabs_cmds (s : State) (v : SMap Vocab) : (setVocabs s v).cmds = s.cmds :=
  by unfold setVocabs; split <;> rfl
@[simp] theorem setVocabs_brood (s : State) (v : SMap Vocab) : (setVocabs s v).brood = s.brood :=
  by unfold setVocabs; split <;> rfl
@[simp] theorem setVocabs_chans (s : State) (v : SMap Vocab) : (setVocabs s v).chans = s.chans :=
  by unfold setVocabs; split <;> rfl
@[simp] theorem setVocabs_pd (s : State) (v : SMap Vocab) : (setVocabs s v).pd = s.pd := by unfold setVocabs; split <;> rfl
@[simp] theorem setVocabs_accord (s : State) (v : SMap Vocab) : (setVocabs s v).accord = s.accord :=
  by unfold setVocabs; split <;> rfl

@[simp] theorem setGrams_cells (s : State) (g : SMap Gram) : (setGrams s g).cells = s.cells :=
  by unfold setGrams; split <;> rfl
@[simp] theorem setGrams_cur (s : State) (g : SMap Gram) : (setGrams s g).cur = s.cur := by unfold setGrams; split <;> rfl
@[simp] theorem setGrams_core (s : State) (g : SMap Gram) : (setGrams s g).core = s.core :=
  by unfold setGrams; split <;> rfl
@[simp] theorem setGrams_agenda (s : State) (g : SMap Gram) : (setGrams s g).agenda = s.agenda :=
  by unfold setGrams; split <;> rfl
@[simp] theorem setGrams_steps (s : State) (g : SMap Gram) : (setGrams s g).steps = s.steps :=
  by unfold setGrams; split <;> rfl
@[simp] theorem setGrams_nextId (s : State) (g : SMap Gram) : (setGrams s g).nextId = s.nextId :=
  by unfold setGrams; split <;> rfl
@[simp] theorem setGrams_mem (s : State) (g : SMap Gram) : (setGrams s g).mem = s.mem := by unfold setGrams; split <;> rfl
@[simp] theorem setGrams_staging (s : State) (g : SMap Gram) : (setGrams s g).staging = s.staging :=
  by unfold setGrams; split <;> rfl
@[simp] theorem setGrams_inbound (s : State) (g : SMap Gram) : (setGrams s g).inbound = s.inbound :=
  by unfold setGrams; split <;> rfl
@[simp] theorem setGrams_response (s : State) (g : SMap Gram) : (setGrams s g).response = s.response :=
  by unfold setGrams; split <;> rfl
@[simp] theorem setGrams_tasks (s : State) (g : SMap Gram) : (setGrams s g).tasks = s.tasks :=
  by unfold setGrams; split <;> rfl
@[simp] theorem setGrams_pkg (s : State) (g : SMap Gram) : (setGrams s g).pkg = s.pkg := by unfold setGrams; split <;> rfl
@[simp] theorem setGrams_cmds (s : State) (g : SMap Gram) : (setGrams s g).cmds = s.cmds :=
  by unfold setGrams; split <;> rfl
@[simp] theorem setGrams_brood (s : State) (g : SMap Gram) : (setGrams s g).brood = s.brood :=
  by unfold setGrams; split <;> rfl
@[simp] theorem setGrams_chans (s : State) (g : SMap Gram) : (setGrams s g).chans = s.chans :=
  by unfold setGrams; split <;> rfl
@[simp] theorem setGrams_pd (s : State) (g : SMap Gram) : (setGrams s g).pd = s.pd := by unfold setGrams; split <;> rfl
@[simp] theorem setGrams_accord (s : State) (g : SMap Gram) : (setGrams s g).accord = s.accord :=
  by unfold setGrams; split <;> rfl

@[simp] theorem setQueue_cells (s : State) (q : BitVec 3) (f : LaunchQueue → LaunchQueue) : (setQueue s q f).cells = s.cells :=
  rfl
@[simp] theorem setQueue_cur (s : State) (q : BitVec 3) (f : LaunchQueue → LaunchQueue) : (setQueue s q f).cur = s.cur :=
  rfl
@[simp] theorem setQueue_core (s : State) (q : BitVec 3) (f : LaunchQueue → LaunchQueue) : (setQueue s q f).core = s.core :=
  rfl
@[simp] theorem setQueue_agenda (s : State) (q : BitVec 3) (f : LaunchQueue → LaunchQueue) : (setQueue s q f).agenda = s.agenda :=
  rfl
@[simp] theorem setQueue_steps (s : State) (q : BitVec 3) (f : LaunchQueue → LaunchQueue) : (setQueue s q f).steps = s.steps :=
  rfl
@[simp] theorem setQueue_nextId (s : State) (q : BitVec 3) (f : LaunchQueue → LaunchQueue) : (setQueue s q f).nextId = s.nextId :=
  rfl
@[simp] theorem setQueue_mem (s : State) (q : BitVec 3) (f : LaunchQueue → LaunchQueue) : (setQueue s q f).mem = s.mem :=
  rfl
@[simp] theorem setQueue_staging (s : State) (q : BitVec 3) (f : LaunchQueue → LaunchQueue) : (setQueue s q f).staging = s.staging :=
  rfl
@[simp] theorem setQueue_inbound (s : State) (q : BitVec 3) (f : LaunchQueue → LaunchQueue) : (setQueue s q f).inbound = s.inbound :=
  rfl
@[simp] theorem setQueue_response (s : State) (q : BitVec 3) (f : LaunchQueue → LaunchQueue) : (setQueue s q f).response = s.response :=
  rfl
@[simp] theorem setQueue_tasks (s : State) (q : BitVec 3) (f : LaunchQueue → LaunchQueue) : (setQueue s q f).tasks = s.tasks :=
  rfl
@[simp] theorem setQueue_cmds (s : State) (q : BitVec 3) (f : LaunchQueue → LaunchQueue) : (setQueue s q f).cmds = s.cmds :=
  rfl
@[simp] theorem setQueue_brood (s : State) (q : BitVec 3) (f : LaunchQueue → LaunchQueue) : (setQueue s q f).brood = s.brood :=
  rfl
@[simp] theorem setQueue_text (s : State) (q : BitVec 3) (f : LaunchQueue → LaunchQueue) : (setQueue s q f).text = s.text :=
  rfl
@[simp] theorem setQueue_chans (s : State) (q : BitVec 3) (f : LaunchQueue → LaunchQueue) : (setQueue s q f).chans = s.chans :=
  rfl
@[simp] theorem setQueue_pd (s : State) (q : BitVec 3) (f : LaunchQueue → LaunchQueue) : (setQueue s q f).pd = s.pd := rfl
@[simp] theorem setQueue_accord (s : State) (q : BitVec 3) (f : LaunchQueue → LaunchQueue) : (setQueue s q f).accord = s.accord :=
  rfl

@[simp] theorem redirectTo_cells (s : State) (g : Nat) (m : BitVec 6) (l : List Redirected) : (redirectTo s g m l).cells = s.cells :=
  rfl
@[simp] theorem redirectTo_cur (s : State) (g : Nat) (m : BitVec 6) (l : List Redirected) : (redirectTo s g m l).cur = s.cur :=
  rfl
@[simp] theorem redirectTo_core (s : State) (g : Nat) (m : BitVec 6) (l : List Redirected) : (redirectTo s g m l).core = s.core :=
  rfl
@[simp] theorem redirectTo_agenda (s : State) (g : Nat) (m : BitVec 6) (l : List Redirected) : (redirectTo s g m l).agenda = s.agenda :=
  rfl
@[simp] theorem redirectTo_steps (s : State) (g : Nat) (m : BitVec 6) (l : List Redirected) : (redirectTo s g m l).steps = s.steps :=
  rfl
@[simp] theorem redirectTo_nextId (s : State) (g : Nat) (m : BitVec 6) (l : List Redirected) : (redirectTo s g m l).nextId = s.nextId :=
  rfl
@[simp] theorem redirectTo_mem (s : State) (g : Nat) (m : BitVec 6) (l : List Redirected) : (redirectTo s g m l).mem = s.mem :=
  rfl
@[simp] theorem redirectTo_staging (s : State) (g : Nat) (m : BitVec 6) (l : List Redirected) : (redirectTo s g m l).staging = s.staging :=
  rfl
@[simp] theorem redirectTo_inbound (s : State) (g : Nat) (m : BitVec 6) (l : List Redirected) : (redirectTo s g m l).inbound = s.inbound :=
  rfl
@[simp] theorem redirectTo_response (s : State) (g : Nat) (m : BitVec 6) (l : List Redirected) : (redirectTo s g m l).response = s.response :=
  rfl
@[simp] theorem redirectTo_pkg (s : State) (g : Nat) (m : BitVec 6) (l : List Redirected) : (redirectTo s g m l).pkg = s.pkg :=
  rfl
@[simp] theorem redirectTo_cmds (s : State) (g : Nat) (m : BitVec 6) (l : List Redirected) : (redirectTo s g m l).cmds = s.cmds :=
  rfl
@[simp] theorem redirectTo_brood (s : State) (g : Nat) (m : BitVec 6) (l : List Redirected) : (redirectTo s g m l).brood = s.brood :=
  rfl
@[simp] theorem redirectTo_text (s : State) (g : Nat) (m : BitVec 6) (l : List Redirected) : (redirectTo s g m l).text = s.text :=
  rfl
@[simp] theorem redirectTo_chans (s : State) (g : Nat) (m : BitVec 6) (l : List Redirected) : (redirectTo s g m l).chans = s.chans :=
  rfl
@[simp] theorem redirectTo_pd (s : State) (g : Nat) (m : BitVec 6) (l : List Redirected) : (redirectTo s g m l).pd = s.pd :=
  rfl
@[simp] theorem redirectTo_accord (s : State) (g : Nat) (m : BitVec 6) (l : List Redirected) : (redirectTo s g m l).accord = s.accord :=
  rfl

@[simp] theorem emitFlit_cells (s : State) (ch : Option Nat) (t : FlitTo) (p : Option Path) (bs : List Byte) : (emitFlit s ch t p bs).cells = s.cells :=
  rfl
@[simp] theorem emitFlit_cur (s : State) (ch : Option Nat) (t : FlitTo) (p : Option Path) (bs : List Byte) : (emitFlit s ch t p bs).cur = s.cur :=
  rfl
@[simp] theorem emitFlit_core (s : State) (ch : Option Nat) (t : FlitTo) (p : Option Path) (bs : List Byte) : (emitFlit s ch t p bs).core = s.core :=
  rfl
@[simp] theorem emitFlit_agenda (s : State) (ch : Option Nat) (t : FlitTo) (p : Option Path) (bs : List Byte) : (emitFlit s ch t p bs).agenda = s.agenda :=
  rfl
@[simp] theorem emitFlit_steps (s : State) (ch : Option Nat) (t : FlitTo) (p : Option Path) (bs : List Byte) : (emitFlit s ch t p bs).steps = s.steps :=
  rfl
@[simp] theorem emitFlit_nextId (s : State) (ch : Option Nat) (t : FlitTo) (p : Option Path) (bs : List Byte) : (emitFlit s ch t p bs).nextId = s.nextId :=
  rfl
@[simp] theorem emitFlit_mem (s : State) (ch : Option Nat) (t : FlitTo) (p : Option Path) (bs : List Byte) : (emitFlit s ch t p bs).mem = s.mem :=
  rfl
@[simp] theorem emitFlit_staging (s : State) (ch : Option Nat) (t : FlitTo) (p : Option Path) (bs : List Byte) : (emitFlit s ch t p bs).staging = s.staging :=
  rfl
@[simp] theorem emitFlit_inbound (s : State) (ch : Option Nat) (t : FlitTo) (p : Option Path) (bs : List Byte) : (emitFlit s ch t p bs).inbound = s.inbound :=
  rfl
@[simp] theorem emitFlit_response (s : State) (ch : Option Nat) (t : FlitTo) (p : Option Path) (bs : List Byte) : (emitFlit s ch t p bs).response = s.response :=
  rfl
@[simp] theorem emitFlit_tasks (s : State) (ch : Option Nat) (t : FlitTo) (p : Option Path) (bs : List Byte) : (emitFlit s ch t p bs).tasks = s.tasks :=
  rfl
@[simp] theorem emitFlit_pkg (s : State) (ch : Option Nat) (t : FlitTo) (p : Option Path) (bs : List Byte) : (emitFlit s ch t p bs).pkg = s.pkg :=
  rfl
@[simp] theorem emitFlit_cmds (s : State) (ch : Option Nat) (t : FlitTo) (p : Option Path) (bs : List Byte) : (emitFlit s ch t p bs).cmds = s.cmds :=
  rfl
@[simp] theorem emitFlit_brood (s : State) (ch : Option Nat) (t : FlitTo) (p : Option Path) (bs : List Byte) : (emitFlit s ch t p bs).brood = s.brood :=
  rfl
@[simp] theorem emitFlit_text (s : State) (ch : Option Nat) (t : FlitTo) (p : Option Path) (bs : List Byte) : (emitFlit s ch t p bs).text = s.text :=
  rfl
@[simp] theorem emitFlit_accord (s : State) (ch : Option Nat) (t : FlitTo) (p : Option Path) (bs : List Byte) : (emitFlit s ch t p bs).accord = s.accord :=
  rfl

end Sys2Proof.Machine
end

