-- ==== Sys2Proof/Laws/Ops.lean ====
section
/-! SUPPORT. For each shared operation, once, everything it can do. -/

namespace Sys2Proof.Machine

/-! ### How a word issues -/

theorem allocTag_none {h : Header} (e : h.av = 0#1) (c : Cell) : allocTag h c = c := by
  simp [allocTag, e]

theorem Plain.wait {h : Header} {s : State} (p : Plain h s) : tagWait h s.cell = false := by
  simp [tagWait, p.1, p.2.1]

theorem Plain.tag {h : Header} {s : State} (p : Plain h s) (b : Bool) : tagBad h b = false := by
  simp [tagBad, p.2.1, p.2.2]

theorem Tagged.wait {h : Header} {s : State} (p : Tagged h s) : tagWait h s.cell = false := by
  simp [tagWait, p.1, p.2.2]

theorem Tagged.tag {h : Header} {s : State} (p : Tagged h s) : tagBad h true = false := by
  simp [tagBad, p.2.1]

/-- A word without a tag that passes its checks does what its body says. -/
theorem issueWord_plain {h : Header} {legal handler priv tags : Bool} {s : State} {body : Cell → Issue}
    (p : Plain h s) (hl : legal = true) (hh : s.cell.sup = true → handler = true)
    (hv : priv = true → s.cell.sup = true) :
    issueWord h legal handler priv tags s body = finish s (body s.cell) := by
  have e1 : (!legal || (s.cell.sup && !handler)) = false := by
    cases hs : s.cell.sup <;> simp_all
  have e2 : (priv && !s.cell.sup) = false := by
    cases hs : s.cell.sup <;> cases priv <;> simp_all
  simp only [issueWord, p.wait, p.tag tags, e1, e2, Bool.false_eq_true, if_false]
  cases body s.cell with
  | go s' =>
    have e : (s'.upd (allocTag h)) = s' := State.updAt_id _ _ _ (allocTag_none p.2.1 _)
    simp only [e]
  | trap t => rfl
  | freeze => rfl
  | poll s1 => rfl
  | needIdle => rfl

/-- A word with a tag that passes its checks does what its body says and allocates the tag. -/
theorem issueWord_tagged {h : Header} {legal handler priv : Bool} {s s' : State} {body : Cell → Issue}
    (p : Tagged h s) (hl : legal = true) (hh : s.cell.sup = true → handler = true)
    (hv : priv = true → s.cell.sup = true) (hb : body s.cell = .go s') :
    issueWord h legal handler priv true s body = .next ((s'.upd (allocTag h)).mark s.cur .issued) := by
  have e1 : (!legal || (s.cell.sup && !handler)) = false := by
    cases hs : s.cell.sup <;> simp_all
  have e2 : (priv && !s.cell.sup) = false := by
    cases hs : s.cell.sup <;> cases priv <;> simp_all
  simp only [issueWord, p.wait, p.tag, e1, e2, Bool.false_eq_true, if_false, hb]
  rfl

/-- A word whose fields are illegal, or that a handler may not issue, takes ILLEGAL_OP (R108, R199). -/
theorem issueWord_illegal {h : Header} {legal handler priv tags : Bool} {s : State} {body : Cell → Issue}
    (hw : tagWait h s.cell = false) (hl : legal = false ∨ s.cell.sup = true ∧ handler = false) :
    issueWord h legal handler priv tags s body = .next (trapped s (trapOf cIllegalOp (h.slot.zeroExtend 64))) := by
  have e1 : (!legal || (s.cell.sup && !handler)) = true := by
    rcases hl with e | ⟨e, f⟩ <;> simp [*]
  simp only [issueWord, hw, e1, Bool.false_eq_true, if_false, if_true]
  rfl

/-- A privileged word in user mode takes PRIVILEGE (R111). -/
theorem issueWord_privilege {h : Header} {legal handler tags : Bool} {s : State} {body : Cell → Issue}
    (hw : tagWait h s.cell = false) (hl : legal = true) (hu : s.cell.sup = false) :
    issueWord h legal handler true tags s body = .next (trapped s (trapOf cPrivilege (h.slot.zeroExtend 64))) := by
  simp only [issueWord, hw, hl, hu, Bool.false_eq_true, if_false]
  rfl

/-- A word that waits for a tag does not issue (R75). -/
theorem issueWord_wait {h : Header} {legal handler priv tags : Bool} {s : State} {body : Cell → Issue}
    (hw : tagWait h s.cell = true) : issueWord h legal handler priv tags s body = .next (frozen s) := by
  simp only [issueWord, hw, if_true]
  rfl

/-- A word never stops the machine. -/
theorem finish_next (s : State) (r : Issue) : ∃ t, finish s r = .next t := by
  cases r with
  | trap t => unfold finish; dsimp only; split <;> exact ⟨_, rfl⟩
  | _ => exact ⟨_, rfl⟩

theorem issueWord_next (h : Header) (legal handler priv tags : Bool) (s : State) (body : Cell → Issue) :
    ∃ t, issueWord h legal handler priv tags s body = .next t := finish_next _ _

/-- A word whose only effects are results of one fixed latency. -/
theorem issueResults_plain {h : Header} {legal handler : Bool} {s : State} {lands : Cell → List Land} {n : Nat}
    {ev : BitVec 8} (p : Plain h s) (hl : legal = true) (hh : s.cell.sup = true → handler = true) :
    issueResults h legal handler s lands n ev = .next (issued s (inFlight h n ev (lands s.cell))) :=
  issueWord_plain p hl hh (fun e => by simp at e)

/-! ### What a named part reads after its update -/

@[simp] theorem State.slot_setSlot (s : State) (i : Nat) (x : Slot) : (s.setSlot i x).slot i = x := SMap.get_put_same _ _ _ _

theorem State.slot_setSlot_other (s : State) {i j : Nat} (x : Slot) (h : j ≠ i) : (s.setSlot i x).slot j = s.slot j :=
  SMap.get_put_other _ _ _ h

@[simp] theorem chanOf_setChan (s : State) (i : Nat) (x : Chan) : chanOf (setChan s i x) i = some x := SMap.find_put_same _ _ _

theorem chanOf_setChan_other (s : State) {i j : Nat} (x : Chan) (h : j ≠ i) : chanOf (setChan s i x) j = chanOf s j :=
  SMap.find_put_other _ _ h

/-- The range of a cell after its replacement, if it names that cell, and that of another cell (R48). -/
theorem rangeOf_setRange (s : State) (r : Range) : rangeOf (setRange s r.cell (some r)) r.cell = some r := by
  have gone : ∀ l : List Range, l.find? (fun _ => false) = none := fun l => List.find?_eq_none.2 (by simp)
  simp [rangeOf, setRange, List.find?_append, gone]

theorem rangeOf_setRange_none (s : State) (c : BitVec 9) : rangeOf (setRange s c none) c = none := by
  simp [rangeOf, setRange]

end Sys2Proof.Machine
end

