-- ==== Sys2Proof/Laws/Rows.lean ====
section
/-! SUPPORT. Byte order, rows and their bytes, bit by bit (R4, R125). -/

namespace Sys2Proof.Machine

/-! ### Byte lists and numbers -/

theorem length_toBytes (n v : Nat) : (toBytes n v).length = n := by
  induction n generalizing v with
  | zero => rfl
  | succ n ih => simp [toBytes, ih]

theorem getD_toBytes (n v i : Nat) (h : i < n) : (toBytes n v).getD i 0 = BitVec.ofNat 8 (v / 256 ^ i) := by
  induction n generalizing v i with
  | zero => omega
  | succ n ih =>
    cases i with
    | zero => simp [toBytes]
    | succ i =>
      simp only [toBytes, List.getD_cons_succ]
      rw [ih _ _ (by omega), Nat.pow_succ, Nat.div_div_eq_div_mul, Nat.mul_comm (256 ^ i)]

theorem leNat_lt (bs : List Byte) : leNat bs < 256 ^ bs.length := by
  induction bs with
  | nil => simp [leNat]
  | cons b r ih =>
    simp only [leNat, List.length_cons, Nat.pow_succ]
    have := b.isLt
    omega

/-- The number of a byte list, bit by bit. -/
theorem testBit_leNat (bs : List Byte) (j : Nat) :
    (leNat bs).testBit j = (bs.getD (j / 8) 0).getLsbD (j % 8) := by
  induction bs generalizing j with
  | nil => simp [leNat]
  | cons b r ih =>
    have e : leNat (b :: r) = 2 ^ 8 * leNat r + b.toNat := by simp only [leNat]; omega
    rw [e, Nat.testBit_two_pow_mul_add _ b.isLt]
    by_cases h : j < 8
    · rw [if_pos h, show j / 8 = 0 by omega, show j % 8 = j by omega]
      rfl
    · rw [if_neg h, ih, show j / 8 = (j - 8) / 8 + 1 by omega, show j % 8 = (j - 8) % 8 by omega]
      rfl

/-- The bytes of a number stand for its residue. -/
theorem leNat_toBytes (n v : Nat) : leNat (toBytes n v) = v % 256 ^ n := by
  induction n generalizing v with
  | zero => simp [toBytes, leNat, Nat.mod_one]
  | succ n ih =>
    simp only [toBytes, leNat, ih, BitVec.toNat_ofNat]
    have e : 256 ^ (n + 1) = 256 * 256 ^ n := by rw [Nat.pow_succ, Nat.mul_comm]
    rw [e, Nat.mod_mul]

/-- The bytes of the number of a byte list are that list. -/
theorem toBytes_leNat (bs : List Byte) : toBytes bs.length (leNat bs) = bs := by
  induction bs with
  | nil => rfl
  | cons b r ih =>
    simp only [List.length_cons, toBytes, leNat]
    have e1 : BitVec.ofNat 8 (b.toNat + 256 * leNat r) = b := by
      apply BitVec.eq_of_toNat_eq
      simp only [BitVec.toNat_ofNat]
      have := b.isLt
      omega
    have e2 : (b.toNat + 256 * leNat r) / 256 = leNat r := by
      have := b.isLt
      omega
    rw [e1, e2, ih]

/-- An access of `n` bytes reads back the number stored, reduced to its width. -/
theorem Mem.nat_storeNat (m : Mem) (a n v : Nat) : (m.storeNat a n v).nat a n = v % 256 ^ n := by
  have e := Mem.bytes_store m a (toBytes n v)
  rw [length_toBytes] at e
  rw [Mem.nat, Mem.storeNat, e, leNat_toBytes]

/-! ### Rows -/

theorem getLsbD_byteAt (r : Row) (i j : Nat) (h : j < 8) : (byteAt r i).getLsbD j = r.getLsbD (8 * i + j) := by
  simp [byteAt, h]

theorem getD_rowBytes (r : Row) (i : Nat) (h : i < 256) : (rowBytes r).getD i 0 = byteAt r i := by
  rw [rowBytes, getD_toBytes _ _ _ h]
  apply BitVec.eq_of_getLsbD_eq
  intro j hj
  rw [getLsbD_byteAt _ _ _ hj, BitVec.getLsbD_ofNat, BitVec.getLsbD]
  simp only [hj, decide_true, Bool.true_and]
  rw [show (256 : Nat) = 2 ^ 8 by norm_num, ← Nat.pow_mul, Nat.testBit_div_two_pow]
  congr 1
  omega

theorem length_rowBytes (r : Row) : (rowBytes r).length = 256 := length_toBytes _ _

/-- A row and its bytes, one from the other. -/
theorem byteAt_bytesRow (bs : List Byte) (i : Nat) (h : i < 256) : byteAt (bytesRow bs) i = bs.getD i 0 := by
  apply BitVec.eq_of_getLsbD_eq
  intro j hj
  rw [getLsbD_byteAt _ _ _ hj, bytesRow, BitVec.getLsbD_ofNat, testBit_leNat]
  rw [show (8 * i + j) / 8 = i by omega, show (8 * i + j) % 8 = j by omega]
  simp [show 8 * i + j < 2048 by omega]

theorem testBit_ofLanes (w : Nat) (hw : 0 < w) (xs : List Nat) (j : Nat) :
    (ofLanes w xs).testBit j = (xs.getD (j / w) 0).testBit (j % w) := by
  induction xs generalizing j with
  | nil => simp [ofLanes]
  | cons x r ih =>
    have e : ofLanes w (x :: r) = 2 ^ w * ofLanes w r + x % 2 ^ w := by simp only [ofLanes]; omega
    rw [e, Nat.testBit_two_pow_mul_add _ (Nat.mod_lt _ (Nat.two_pow_pos w))]
    by_cases h : j < w
    · rw [if_pos h, Nat.div_eq_of_lt h, Nat.mod_eq_of_lt h]
      simp [h]
    · have h' : w ≤ j := by omega
      rw [if_neg h, ih, Nat.div_eq_sub_div hw h', Nat.mod_eq_sub_mod h']
      rfl

/-- The bits that a byte mask governs. -/
theorem getLsbD_byteMask (k : BitVec 256) (j : Nat) (h : j < 2048) :
    (laneMask 8 256 k).getLsbD j = k.getLsbD (j / 8) := by
  have hq : j / 8 < 256 := by omega
  rw [laneMask, rowOf, BitVec.getLsbD_ofNat, testBit_ofLanes 8 (by omega)]
  simp only [h, decide_true, Bool.true_and, List.getD_eq_getElem?_getD, List.getElem?_map,
    List.getElem?_range hq, Option.map_some, Option.getD_some]
  have hm : j % 8 < 8 := by omega
  cases k.getLsbD (j / 8) with
  | false => simp
  | true =>
    rw [if_pos rfl, Nat.testBit_two_pow_sub_one]
    simp [hm]

/-! ### Lines of the L1 (R171) -/

/-- A filled line holds its own bytes where it has them, else those of memory. -/
theorem byteAt_fill (own : BitVec 256) (data : Row) (m : Mem) (tag i : Nat) (h : i < 256) :
    byteAt ((data &&& laneMask 8 256 own) ||| (bytesRow (m.bytes tag 256) &&& ~~~(laneMask 8 256 own))) i =
      if own.getLsbD i then byteAt data i else m.rd (tag + i) := by
  have e : byteAt (bytesRow (m.bytes tag 256)) i = m.rd (tag + i) := by
    rw [byteAt_bytesRow _ _ h, Mem.getD_bytes _ _ _ _ h]
  apply BitVec.eq_of_getLsbD_eq
  intro j hj
  have hb : 8 * i + j < 2048 := by omega
  have e2 := congrArg (fun x => x.getLsbD j) e
  simp only [getLsbD_byteAt _ _ _ hj] at e2
  rw [getLsbD_byteAt _ _ _ hj, BitVec.getLsbD_or, BitVec.getLsbD_and, BitVec.getLsbD_and, BitVec.getLsbD_not,
    getLsbD_byteMask _ _ hb, show (8 * i + j) / 8 = i by omega, e2]
  cases own.getLsbD i <;> simp [hb, getLsbD_byteAt _ _ _ hj]

end Sys2Proof.Machine
end

