-- ==== Sys2Proof/Laws/Lines.lean ====
section
/-! SUPPORT. Lines of the L1: what a fill, a write and a write-back leave in each byte, and which line a cell finds
(R171). -/

namespace Sys2Proof.Machine

/-! ### Which line -/

theorem lineOf_tag (ls : List Line) (t : Nat) : (lineOf ls t).tag = t := by
  unfold lineOf
  cases h : ls.find? fun l => decide (l.tag = t) with
  | none => rfl
  | some l => simpa using List.find?_some h

theorem lineOf_put_same (ls : List Line) (l : Line) : lineOf (putLine ls l) l.tag = l := by
  have e : (ls.filter fun x => decide (x.tag ≠ l.tag)).find? (fun x => decide (x.tag = l.tag)) = none := by
    rw [List.find?_eq_none]
    intro x hx
    have := (List.mem_filter.1 hx).2
    simpa using this
  unfold lineOf putLine
  rw [List.find?_append, e]
  simp

theorem lineOf_put_other (ls : List Line) (l : Line) {t : Nat} (h : t ≠ l.tag) :
    lineOf (putLine ls l) t = lineOf ls t := by
  have e : (ls.filter fun x => decide (x.tag ≠ l.tag)).find? (fun x => decide (x.tag = t)) =
      ls.find? fun x => decide (x.tag = t) := by
    rw [List.find?_filter]
    congr 1
    funext x
    by_cases k : x.tag = t
    · simp [k, h]
    · simp [k]
  unfold lineOf putLine
  rw [List.find?_append, e]
  have e2 : [l].find? (fun x => decide (x.tag = t)) = none := by simp [Ne.symm h]
  rw [e2, Option.or_none]

/-! ### Bytes of a line -/

theorem Line.fill_byte (l : Line) (m : Mem) (i : Nat) (h : i < 256) :
    byteAt (l.fill m).data i = if l.have_.getLsbD i then byteAt l.data i else m.rd (l.tag + i) :=
  byteAt_fill _ _ _ _ _ h

theorem Line.fill_have (l : Line) (m : Mem) (i : Nat) (h : i < 256) : (l.fill m).have_.getLsbD i = true := by
  rw [Line.fill, BitVec.getLsbD_allOnes]
  exact decide_eq_true h

/-- The bytes that a write of `n` bytes at `off` covers. -/
theorem getLsbD_range (n off i : Nat) (h : i < 256) :
    (BitVec.ofNat 256 ((2 ^ n - 1) <<< off)).getLsbD i = decide (off ≤ i ∧ i < off + n) := by
  rw [BitVec.getLsbD_ofNat, Nat.testBit_shiftLeft, Nat.testBit_two_pow_sub_one]
  simp only [h, decide_true, Bool.true_and]
  by_cases a : off ≤ i <;> by_cases b : i < off + n <;> simp [a, b] <;> omega

theorem Line.write_have (l : Line) (off : Nat) (bs : List Byte) (i : Nat) (h : i < 256) :
    (l.write off bs).have_.getLsbD i = (l.have_.getLsbD i || decide (off ≤ i ∧ i < off + bs.length)) := by
  simp only [Line.write, BitVec.getLsbD_or, getLsbD_range _ _ _ h]

theorem Line.write_dirty (l : Line) (off : Nat) (bs : List Byte) (i : Nat) (h : i < 256) :
    (l.write off bs).dirty.getLsbD i = (l.dirty.getLsbD i || decide (off ≤ i ∧ i < off + bs.length)) := by
  simp only [Line.write, BitVec.getLsbD_or, getLsbD_range _ _ _ h]

/-- A write changes its own bytes of the line and no other. -/
theorem Line.write_byte (l : Line) (off : Nat) (bs : List Byte) (i : Nat) (h : i < 256) :
    byteAt (l.write off bs).data i =
      if off ≤ i ∧ i < off + bs.length then bs.getD (i - off) 0 else byteAt l.data i := by
  apply BitVec.eq_of_getLsbD_eq
  intro j hj
  have hb : 8 * i + j < 2048 := by omega
  have hs : (BitVec.ofNat 2048 (leNat bs <<< (8 * off))).getLsbD (8 * i + j) =
      (decide (off ≤ i) && (bs.getD (i - off) 0).getLsbD j) := by
    rw [BitVec.getLsbD_ofNat, Nat.testBit_shiftLeft, testBit_leNat]
    simp only [hb, decide_true, Bool.true_and]
    by_cases a : off ≤ i
    · rw [show (8 * i + j - 8 * off) / 8 = i - off by omega, show (8 * i + j - 8 * off) % 8 = j by omega]
      simp [a]
      omega
    · simp [a]
      omega
  rw [getLsbD_byteAt _ _ _ hj]
  simp only [Line.write, BitVec.getLsbD_or, BitVec.getLsbD_and, BitVec.getLsbD_not, getLsbD_byteMask _ _ hb,
    show (8 * i + j) / 8 = i by omega, getLsbD_range _ _ _ h, hs, hb, decide_true, Bool.true_and]
  by_cases a : off ≤ i ∧ i < off + bs.length
  · simp [a]
  · rw [if_neg a, getLsbD_byteAt _ _ _ hj]
    by_cases a1 : off ≤ i
    · have k1 : bs.length ≤ i - off := by omega
      have k2 : off + bs.length ≤ i := by omega
      simp [a1, k1, k2]
    · simp [a1]

/-! ### Write-back -/

theorem flush_aux (l : Line) (n : Nat) (hn : n ≤ 256) (m : Mem) (x : Nat) :
    ((List.range n).foldl (fun m i =>
      if bit l.dirty i then m.wr (l.tag + i) (BitVec.ofNat 8 (lane 8 l.data i)) else m) m).rd x =
      if l.tag ≤ x ∧ x < l.tag + n ∧ l.dirty.getLsbD (x - l.tag) then byteAt l.data (x - l.tag) else m.rd x := by
  induction n with
  | zero => simp; omega
  | succ n ih =>
    have e : BitVec.ofNat 8 (lane 8 l.data n) = byteAt l.data n := by
      apply BitVec.eq_of_getLsbD_eq
      intro j hj
      rw [getLsbD_byteAt _ _ _ hj, BitVec.getLsbD_ofNat, lane, Nat.testBit_mod_two_pow, Nat.testBit_shiftRight]
      simp [hj, BitVec.getLsbD]
    rw [List.range_succ, List.foldl_append]
    simp only [List.foldl_cons, List.foldl_nil, e]
    split
    · rename_i hd
      by_cases hx : x = l.tag + n
      · subst hx
        rw [Mem.rd_wr_same, if_pos ⟨by omega, by omega, by
          rw [show l.tag + n - l.tag = n by omega]; exact hd⟩, show l.tag + n - l.tag = n by omega]
      · rw [Mem.rd_wr_other _ _ hx, ih (by omega)]
        by_cases k : l.tag ≤ x ∧ x < l.tag + n ∧ l.dirty.getLsbD (x - l.tag) = true
        · rw [if_pos k, if_pos ⟨k.1, by omega, k.2.2⟩]
        · rw [if_neg k, if_neg (fun q => k ⟨q.1, by omega, q.2.2⟩)]
    · rename_i hd
      rw [ih (by omega)]
      by_cases k : l.tag ≤ x ∧ x < l.tag + n ∧ l.dirty.getLsbD (x - l.tag) = true
      · rw [if_pos k, if_pos ⟨k.1, by omega, k.2.2⟩]
      · rw [if_neg k, if_neg]
        intro q
        by_cases hx : x = l.tag + n
        · subst hx
          rw [show l.tag + n - l.tag = n by omega] at q
          exact hd q.2.2
        · exact k ⟨q.1, by omega, q.2.2⟩

/-- A write-back writes the dirty bytes of the line, and only those (R171). -/
theorem Line.flush_rd (l : Line) (m : Mem) (x : Nat) :
    (l.flush m).rd x =
      if l.tag ≤ x ∧ x < l.tag + 256 ∧ l.dirty.getLsbD (x - l.tag) then byteAt l.data (x - l.tag) else m.rd x :=
  flush_aux l 256 (Nat.le_refl _) m x

theorem Line.flush_wf (l : Line) {m : Mem} (h : m.wf = true) : (l.flush m).wf = true := by
  unfold Line.flush
  induction List.range 256 generalizing m with
  | nil => exact h
  | cons i r ih =>
    rw [List.foldl_cons]
    apply ih
    split
    · exact Mem.wf_wr h _ _
    · exact h

/-! ### Plain accesses -/

/-- Addresses in one line. -/
theorem line_offsets {pa n i : Nat} (h : pa % 256 + n ≤ 256) (hi : i < n) :
    (pa + i) / 256 * 256 = pa / 256 * 256 ∧ (pa + i) % 256 = pa % 256 + i ∧
      pa / 256 * 256 + (pa % 256 + i) = pa + i := by omega

/-- A plain load in one line reads what the cell sees. -/
theorem l1Load_seen (s : State) (ci : BitVec 9) (pa n : Nat) (h : pa % 256 + n ≤ 256)
    (hc : ∀ i < n, cacheable ci (pa + i) = cacheable ci pa) :
    (l1Load s ci pa n).1 = (List.range n).map fun i => seen s ci (pa + i) := by
  unfold l1Load
  split
  · rename_i c
    apply List.ext_getElem
    · simp [length_rowBytes]
      omega
    · intro i h1 h2
      have hi : i < n := by simpa using h2
      have hq : pa % 256 + i < 256 := by omega
      rw [List.getElem_take, List.getElem_drop, List.getElem_map, List.getElem_range]
      have e1 := getD_rowBytes ((lineOf (s.cellAt (l1Owner s ci)).lines (pa / 256 * 256)).fill s.mem).data _ hq
      rw [List.getD_eq_getElem _ _ (by rw [length_rowBytes]; exact hq)] at e1
      rw [e1, Line.fill_byte _ _ _ hq, lineOf_tag, seen]
      obtain ⟨e2, e3, e4⟩ := line_offsets h hi
      simp only [e2, e3, e4, hc i hi, c, Bool.true_and]
  · rename_i c
    apply List.ext_getElem
    · simp [Mem.length_bytes]
    · intro i h1 h2
      have hi : i < n := by simpa using h2
      have e1 := Mem.getD_bytes s.mem pa n i hi
      rw [List.getD_eq_getElem _ _ (by rw [Mem.length_bytes]; exact hi)] at e1
      simp only [List.getElem_map, List.getElem_range]
      rw [e1, seen]
      simp [hc i hi, c]

end Sys2Proof.Machine
end

