-- ==== Sys2Proof/Laws/Canon.lean ====
section
/-! SUPPORT. The shared operations that write memory keep both memories in canonical form. -/

namespace Sys2Proof.Machine

/-- Where neither memory changes, the form stays. -/
theorem State.Canonical.of_eq {s t : State} (h : s.Canonical) (hm : t.mem = s.mem) (hs : t.staging = s.staging) :
    t.Canonical := by
  unfold State.Canonical at *
  rwa [hm, hs]

theorem State.Canonical.updAt {s : State} (h : s.Canonical) (c : BitVec 9) (f : Cell → Cell) : (s.updAt c f).Canonical :=
  h.of_eq rfl rfl

theorem State.Canonical.upd {s : State} (h : s.Canonical) (f : Cell → Cell) : (s.upd f).Canonical := h.of_eq rfl rfl

theorem State.Canonical.with_mem {s : State} (h : s.Canonical) {m : Mem} (hm : m.wf = true) :
    State.Canonical { s with mem := m } := ⟨hm, h.2⟩

theorem State.Canonical.with_staging {s : State} (h : s.Canonical) {m : Mem} (hm : m.wf = true) :
    State.Canonical { s with staging := m } := ⟨h.1, hm⟩

/-- Marking regions writes no memory. -/
theorem State.Canonical.poke {s : State} (h : s.Canonical) (hit : Nat → Bool) : (s.poke hit).Canonical :=
  h.of_eq (State.poke_mem s hit) (State.poke_staging s hit)

theorem State.Canonical.store {s : State} (h : s.Canonical) (a : Nat) (bs : List Byte) : (s.store a bs).Canonical :=
  (h.with_mem (Mem.wf_store h.1 a bs)).poke _

/-- Turns that keep both memories canonical keep them so one after another. -/
theorem State.Canonical.each {α : Type} {turn : State → α → State} (keep : ∀ s x, s.Canonical → (turn s x).Canonical)
    {s : State} (h : s.Canonical) (xs : List α) : (xs.foldl turn s).Canonical :=
  xs.foldlRecOn turn h fun s hs x _ => keep s x hs

/-- The lines of a list go home one after another. -/
theorem Line.flushAll_wf {m : Mem} (hm : m.wf = true) (ls : List Line) : (ls.foldl (fun m l => l.flush m) m).wf = true :=
  ls.foldlRecOn (motive := fun m : Mem => m.wf = true) (fun m l => l.flush m) hm fun _ hm l _ => Line.flush_wf l hm

theorem State.Canonical.flush {s : State} (h : s.Canonical) (ls : List Line) : (s.flush ls).Canonical :=
  (h.with_mem (Line.flushAll_wf h.1 ls)).poke _

/-! ### Flits -/

theorem emitFlit_canonical {s : State} (h : s.Canonical) (chan : Option Nat) (t : FlitTo) (path : Option Path)
    (bs : List Byte) : (emitFlit s chan t path bs).Canonical := h.of_eq rfl rfl

theorem memoryFlit_canonical {s : State} (h : s.Canonical) (dom : Bool) (kind dest a : Nat) (bs : List Byte) :
    (memoryFlit s dom kind dest a bs).Canonical := by
  unfold memoryFlit
  split
  · exact h
  · exact emitFlit_canonical h _ _ _ _

theorem peerFlits_canonical {s : State} (h : s.Canonical) (dom : Bool) (kind pa : Nat) (bs : List Byte) :
    (peerFlits s dom kind pa bs).Canonical := by
  unfold peerFlits
  split
  · exact State.Canonical.each (fun _ _ hb => memoryFlit_canonical hb _ _ _ _ _) h _
  · exact h

theorem loadFlits_canonical {s : State} (h : s.Canonical) (segs : List Seg) : (loadFlits s segs).Canonical := by
  refine State.Canonical.each (fun b g hb => ?_) h segs
  split
  · exact State.Canonical.each (fun _ _ hc => memoryFlit_canonical hc _ _ _ _ _) hb _
  · exact hb

/-! ### Reports, ticks, results -/

theorem State.Canonical.report {s : State} (h : s.Canonical) (r : Report) : (s.report r).Canonical := h.of_eq rfl rfl

theorem State.Canonical.numericReport {s : State} (h : s.Canonical) (c : BitVec 9) : (s.numericReport c).Canonical :=
  h.report _

theorem State.Canonical.tickAt {s : State} (h : s.Canonical) (c : BitVec 9) : (s.tickAt c).Canonical := by
  unfold State.tickAt
  dsimp only
  split
  · exact State.Canonical.numericReport (s := s.setCell c _) (h.of_eq rfl rfl) c
  · exact h.of_eq rfl rfl

theorem State.Canonical.countAt {s : State} (h : s.Canonical) (c : BitVec 9) (ev : BitVec 8) : (s.countAt c ev).Canonical := by
  unfold State.countAt
  dsimp only
  split
  · exact State.Canonical.numericReport (s := s.setCell c _) (h.of_eq rfl rfl) c
  · exact h.of_eq rfl rfl

theorem State.Canonical.push {s : State} (h : s.Canonical) (l : List InFlight) : (s.push l).Canonical := h.of_eq rfl rfl

theorem addAccess_canonical {s : State} (h : s.Canonical) (x : Header) (l : List Land) (w : Bool) (pa : Nat)
    (dom ord : Bool) : (addAccess s x l w pa dom ord).Canonical := h.of_eq rfl rfl

/-! ### Translation and the L1 -/

/-- An answer that leaves main memory and the staging slices as `s` has them. -/
def SameMemory (s : State) : Except Trap (Nat × State) → Prop
  | .error _ => True
  | .ok r => r.2.mem = s.mem ∧ r.2.staging = s.staging

/-- A translation changes only the translation cache. -/
theorem xlate_sameMemory (s : State) (ci : BitVec 9) (va : Word) (kind : Nat) : SameMemory s (xlate s ci va kind) := by
  unfold xlate
  dsimp only
  repeat' first
    | exact trivial
    | exact ⟨rfl, rfl⟩
    | split

theorem xlate_memory {s t : State} {ci : BitVec 9} {va : Word} {kind pa : Nat} (h : xlate s ci va kind = .ok (pa, t)) :
    t.mem = s.mem ∧ t.staging = s.staging := by
  have k := xlate_sameMemory s ci va kind
  rw [h] at k
  exact k

/-- Lines that leave the L1 write back what they hold dirty. -/
theorem l1Trim_canonical {s : State} (h : s.Canonical) (o : BitVec 9) : (l1Trim s o).Canonical :=
  (h.updAt o _).flush _

theorem l1Load_canonical {s : State} (h : s.Canonical) (ci : BitVec 9) (pa n : Nat) : (l1Load s ci pa n).2.Canonical := by
  unfold l1Load
  split
  · exact l1Trim_canonical (h.updAt _ _) _
  · exact h

theorem l1Open_canonical {s : State} (h : s.Canonical) (ci : BitVec 9) : (l1Open s ci).Canonical := h.of_eq rfl rfl

theorem l1Store_canonical {s : State} (h : s.Canonical) (ci : BitVec 9) (pa : Nat) (bs : List Byte) :
    (l1Store s ci pa bs).Canonical := by
  unfold l1Store
  split
  · exact l1Trim_canonical (h.updAt _ _) _
  · exact h.store _ _

theorem l1Purge_canonical {s : State} (h : s.Canonical) (ci : BitVec 9) (pa : Nat) : (l1Purge s ci pa).Canonical :=
  (h.updAt _ _).flush _

theorem l1Clean_canonical {s : State} (h : s.Canonical) (ci : BitVec 9) : (l1Clean s ci).Canonical :=
  (h.updAt _ _).flush _

theorem readPlain_canonical {s : State} (h : s.Canonical) (sp : Space) (a n : Nat) : (readPlain s sp a n).2.Canonical := by
  cases sp
  · exact l1Load_canonical h s.cur a n
  · exact h
  · exact h

theorem writePlain_canonical {s : State} (h : s.Canonical) (sp : Space) (a : Nat) (bs : List Byte) :
    (writePlain s sp a bs).Canonical := by
  cases sp
  · exact l1Store_canonical h _ _ _
  · exact h.upd _
  · exact h.with_staging (Mem.wf_store h.2 _ _)

theorem readHome_canonical {s : State} (h : s.Canonical) (sp : Space) (a n : Nat) : (readHome s sp a n).2.Canonical := by
  cases sp
  · exact l1Purge_canonical h _ _
  · exact h
  · exact h

theorem writeHome_canonical {s : State} (h : s.Canonical) (sp : Space) (a : Nat) (bs : List Byte) :
    (writeHome s sp a bs).Canonical := by
  cases sp
  · exact (l1Purge_canonical h s.cur a).store _ _
  · exact h.upd _
  · exact h.with_staging (Mem.wf_store h.2 _ _)

/-! ### Inbound writes and phases -/

theorem broodShadow_canonical {s : State} (h : s.Canonical) (a : Nat) (b : Byte) : (broodShadow s a b).Canonical := by
  unfold broodShadow
  dsimp only
  split
  · exact h.of_eq rfl rfl
  · split
    · exact h.of_eq rfl rfl
    · exact h

theorem performInbound_canonical {s : State} (h : s.Canonical) (w : Inbound) : (performInbound broodShadow s w).Canonical := by
  unfold performInbound
  refine State.Canonical.each (fun b i hb => ?_) h _
  dsimp only
  split
  · exact broodShadow_canonical hb _ _
  · split
    · exact hb
    · exact hb.store _ _

theorem drainInbound_canonical {s : State} (h : s.Canonical) (due : Inbound → Bool) : (drainInbound s due).Canonical :=
  State.Canonical.each (fun _ w hb => performInbound_canonical hb w) (by exact h.of_eq rfl rfl) _

theorem closePhase_canonical {s : State} (h : s.Canonical) (ci : BitVec 9) (scope : Nat) : (closePhase s ci scope).Canonical := by
  unfold closePhase
  split
  · exact l1Clean_canonical h ci
  · exact h

theorem openPhase_canonical {s : State} (h : s.Canonical) (ci : BitVec 9) (scope : Nat) : (openPhase s ci scope).Canonical := by
  have opened : ∀ t : State, t.Canonical → (if scopeActs t ci scope then l1Open t ci else t).Canonical := by
    intro t ht
    split
    · exact l1Open_canonical ht ci
    · exact ht
  refine opened _ ?_
  split
  · exact drainInbound_canonical h _
  · exact h

theorem openAcquire_canonical {s : State} (h : s.Canonical) (ci : BitVec 9) (scope : Nat) :
    (openAcquire s ci scope).Canonical := by
  unfold openAcquire
  split
  · exact l1Open_canonical h ci
  · exact openPhase_canonical h ci scope

/-! ### Engines -/

theorem segStore_canonical {s : State} (h : s.Canonical) (g : Seg) (bs : List Byte) : (segStore s g bs).Canonical :=
  peerFlits_canonical (h.store _ _) _ _ _ _

theorem mainStore_canonical (g : List Seg) (bs : List Byte) {s : State} (h : s.Canonical) : (mainStore g bs s).Canonical := by
  induction g generalizing bs s with
  | nil => exact h
  | cons x r ih => exact ih _ (segStore_canonical h _ _)

theorem ctxWrite_canonical {s t : State} {ctx : BitVec 16} {va : Nat} {bs : List Byte} (h : s.Canonical)
    (e : ctxWrite s ctx va bs = .ok t) : t.Canonical := by
  unfold ctxWrite at e
  split at e
  · cases e
  · cases e
    exact mainStore_canonical _ _ h

theorem onTask_memory (s : State) (gang : Nat) (gmem : BitVec 6) (f : Cell → Cell) :
    (onTask s gang gmem f).mem = s.mem ∧ (onTask s gang gmem f).staging = s.staging := by
  unfold onTask
  split <;> exact ⟨rfl, rfl⟩

theorem State.Canonical.onTask {s : State} (h : s.Canonical) (gang : Nat) (gmem : BitVec 6) (f : Cell → Cell) :
    (onTask s gang gmem f).Canonical := h.of_eq (onTask_memory s gang gmem f).1 (onTask_memory s gang gmem f).2

theorem redirectTo_canonical {s : State} (h : s.Canonical) (gang : Nat) (gmem : BitVec 6) (l : List Redirected) :
    (redirectTo s gang gmem l).Canonical := h.of_eq rfl rfl

theorem cmdPad_canonical {s : State} (h : s.Canonical) (x : Cmd) (a : Nat) (bs : List Byte) : (cmdPad s x a bs).Canonical := by
  unfold cmdPad
  split
  · exact redirectTo_canonical h _ _ _
  · exact h.updAt _ _

theorem engStore_canonical (x : Cmd) (g : List Seg) (bs : List Byte) {s : State} (h : s.Canonical) :
    (engStore x g bs s).Canonical := by
  induction g generalizing bs s with
  | nil => exact h
  | cons y r ih =>
    refine ih _ ?_
    cases y with
    | mk sp a n =>
      cases sp
      · exact segStore_canonical h _ _
      · exact cmdPad_canonical h _ _ _
      · exact h.with_staging (Mem.wf_store h.2 _ _)

theorem writeSegs_canonical (ci : BitVec 9) (g : List Seg) (bs : List Byte) {s : State} (h : s.Canonical) :
    (writeSegs ci g bs s).Canonical := by
  induction g generalizing bs s with
  | nil => exact h
  | cons y r ih =>
    refine ih _ ?_
    cases y with
    | mk sp a n =>
      cases sp
      · exact peerFlits_canonical (h.store _ _) _ _ _ _
      · exact h.updAt _ _
      · exact h.with_staging (Mem.wf_store h.2 _ _)

theorem cmdFault_canonical {s : State} (h : s.Canonical) (x : Cmd) (f : BitVec 8 × Nat) : (cmdFault s x f).Canonical := by
  unfold cmdFault
  split
  · exact h.of_eq rfl rfl
  · split
    · exact h.of_eq rfl rfl
    · split
      · exact h.of_eq rfl rfl
      · exact State.Canonical.onTask (s := setCmd s _) (h.of_eq rfl rfl) _ _ _

theorem countTask_canonical {s : State} (h : s.Canonical) (gang : Nat) (gmem : BitVec 6) (ev : BitVec 8) :
    (countTask s gang gmem ev).Canonical := by
  unfold countTask
  split
  · exact h.countAt _ _
  · split
    · exact h
    · dsimp only
      split
      · exact (redirectTo_canonical h _ _ _).report _
      · exact redirectTo_canonical h _ _ _

theorem taskLands_canonical {s : State} (h : s.Canonical) (x : Cmd) (lands : List Land) : (taskLands s x lands).Canonical := by
  unfold taskLands
  split
  · exact h.updAt _ _
  · exact redirectTo_canonical h _ _ _

theorem cmdDone_canonical {s : State} (h : s.Canonical) (x : Cmd) (ev : BitVec 8) (lands : List Land) :
    (cmdDone s x ev lands).Canonical := by
  unfold cmdDone
  exact State.Canonical.onTask
    (taskLands_canonical (countTask_canonical (s := dropCmd s x.id) (h.of_eq rfl rfl) _ _ _) _ _) _ _ _

/-! ### The host's memory, the save area -/

theorem entryWrite_canonical {s : State} (h : s.Canonical) (e i v : Nat) : (entryWrite s e i v).Canonical :=
  h.store _ _

theorem saveRun_canonical (ctx : BitVec 16) (base limit : Nat) (f off : Nat) (bs : List Byte) {s : State} (h : s.Canonical) :
    (saveRun ctx base limit f off bs s).1.Canonical := by
  induction f generalizing off bs s with
  | zero => exact h
  | succ f ih =>
    unfold saveRun
    split
    · exact h
    · split
      · exact h
      · split
        · exact h
        · exact ih _ _ (h.store _ _)

/-! ### The end of a task, traps -/

theorem barrierCheck_canonical {s : State} (h : s.Canonical) (gid : Nat) (n : BitVec 4) : (barrierCheck s gid n).Canonical := by
  unfold barrierCheck
  split
  · exact h
  · dsimp only
    split
    · exact h
    · refine State.Canonical.each (fun b c hb => ?_) (by exact h.of_eq rfl rfl) _
      split
      · split
        · split
          · exact openPhase_canonical (hb.updAt _ _) _ _
          · exact hb
        · exact hb.updAt _ _
      · exact hb

theorem rejoinCheck_canonical {s : State} (h : s.Canonical) (gid : Nat) : (rejoinCheck s gid).Canonical := by
  unfold rejoinCheck
  split
  · exact h
  · split
    · exact h
    · split
      · exact h
      · exact State.Canonical.each (fun _ _ hb => hb.updAt _ _) (by exact h.of_eq rfl rfl) _

theorem settleGang_canonical {s : State} (h : s.Canonical) (gang : Nat) : (settleGang s gang).Canonical :=
  rejoinCheck_canonical (State.Canonical.each (fun _ _ hb => barrierCheck_canonical hb _ _) h _) _

theorem State.Canonical.setSlot {s : State} (h : s.Canonical) (i : Nat) (x : Slot) : (s.setSlot i x).Canonical := h.of_eq rfl rfl

theorem State.Canonical.tasks {s : State} (h : s.Canonical) (x : Tasks) : State.Canonical { s with tasks := x } := h

theorem freeArea_canonical {s : State} (h : s.Canonical) (ctx : BitVec 16) (key : Nat) : (freeArea s ctx key).Canonical := h

/-- What the end of a task leaves of its gang. -/
theorem endGang_canonical {s : State} (h : s.Canonical) (gid : Nat) (gmem : BitVec 6) :
    State.Canonical (match gangOf s gid with
      | none => s
      | some g =>
        if (g.exited ++ [gmem]).length < g.size then
          rejoinCheck ((List.range 16).foldl (fun s n => barrierCheck s gid (BitVec.ofNat 4 n))
            (setGang s { g with exited := g.exited ++ [gmem] })) gid
        else
          match g.step with
          | none => { s with tasks := { s.tasks with gangs := s.tasks.gangs.filter fun x => decide (x.id ≠ gid) } }
          | some sl =>
            State.setSlot { s with tasks := { s.tasks with gangs := s.tasks.gangs.filter fun x => decide (x.id ≠ gid) } } sl.toNat
              { State.slot { s with tasks := { s.tasks with gangs := s.tasks.gangs.filter fun x => decide (x.id ≠ gid) } } sl.toNat with
                stepping := false }) := by
  split
  · exact h
  · split
    · exact rejoinCheck_canonical
        (State.Canonical.each (fun _ _ hb => barrierCheck_canonical hb _ _) (h.tasks _) _) _
    · split
      · exact h.tasks _
      · exact (h.tasks _).setSlot _ _

theorem endTask_canonical {s : State} (h : s.Canonical) (ci : BitVec 9) : (endTask s ci).Canonical :=
  endGang_canonical (freeArea_canonical (State.Canonical.tasks (h.updAt ci _) _) _ _) _ _

theorem abortTask_canonical {s : State} (h : s.Canonical) (ci : BitVec 9) : (abortTask s ci).Canonical := by
  unfold abortTask
  dsimp only
  split
  · exact endTask_canonical (s := dropHeld s _ _) h ci
  · exact State.Canonical.updAt (s := dropHeld s _ _) h ci _

/-- Taking a trap writes no memory but what the end of a task, after a double trap, opens (R197, R200). -/
theorem takeTrap_canonical {s : State} (h : s.Canonical) (ci : BitVec 9) (t : Trap) (epc : BitVec 32) (pd : Bool) :
    (takeTrap s ci t epc pd).Canonical := by
  unfold takeTrap
  dsimp only
  split
  · exact abortTask_canonical (h.report _) ci
  · split
    · exact (h.report _).updAt _ _
    · exact h.updAt _ _

/-! ### How a word issues -/

/-- The machine that the issue of a word leaves, where it leaves one. -/
def Issue.leaves : Issue → Option State
  | .go s => some s
  | .poll s => some s
  | _ => none

/-- Whatever a word comes to, the next state has the form if the one that its own issue leaves has it. -/
theorem finish_canonical {s t : State} (hs : s.Canonical) {r : Issue} (hr : ∀ u, r.leaves = some u → u.Canonical)
    (e : finish s r = .next t) : t.Canonical := by
  cases r with
  | go u => cases e; exact (hr u rfl).updAt _ _
  | poll u => cases e; exact (hr u rfl).updAt _ _
  | freeze => cases e; exact hs.updAt _ _
  | needIdle => cases e; exact hs.updAt _ _
  | trap x =>
    unfold finish at e
    dsimp only at e
    by_cases k : x.cause = cWait
    · rw [if_pos k] at e; cases e; exact hs.updAt _ _
    · rw [if_neg k] at e; cases e; exact (takeTrap_canonical hs _ _ _ _).updAt _ _

/-- A check that stops a word leaves no machine of its own: what is left comes from the other branch. -/
theorem leaves_past {p : Prop} [Decidable p] {a b : Issue} {u : State} (ha : a.leaves = none)
    (e : (if p then a else b).leaves = some u) : b.leaves = some u := by
  by_cases k : p
  · rw [if_pos k, ha] at e; cases e
  · rwa [if_neg k] at e

/-- A word that issues or polls keeps the form if its own effect does. -/
theorem issueWord_canonical {h : Header} {legal handler priv tags : Bool} {s t : State} {body : Cell → Issue}
    (hs : s.Canonical) (hb : ∀ u, (body s.cell).leaves = some u → u.Canonical)
    (e : issueWord h legal handler priv tags s body = .next t) : t.Canonical := by
  refine finish_canonical hs (fun u hu => ?_) e
  have past := leaves_past rfl (leaves_past rfl (leaves_past rfl (leaves_past rfl hu)))
  cases k : body s.cell with
  | go v => rw [k] at past; cases past; exact (hb _ (by rw [k]; rfl)).upd _
  | poll v => rw [k] at past; cases past; exact hb _ (by rw [k]; rfl)
  | trap _ => rw [k] at past; cases past
  | freeze => rw [k] at past; cases past
  | needIdle => rw [k] at past; cases past

/-- A word whose only effects are results in flight keeps the form. -/
theorem issueResults_canonical {h : Header} {legal handler : Bool} {s t : State} {lands : Cell → List Land} {n : Nat}
    {ev : BitVec 8} (hs : s.Canonical) (e : issueResults h legal handler s lands n ev = .next t) : t.Canonical := by
  refine issueWord_canonical hs ?_ e
  intro u hu
  cases hu
  exact hs.push _

end Sys2Proof.Machine
end

