-- ==== Sys2Proof/Laws/Asks.lean ====
section
/-! SUPPORT. Who waits for the responses of domain pages: what each shared operation does, and what it does where nobody waits. -/

namespace Sys2Proof.Machine

/-! ### Asks -/

/-- An asker has asked for what was last kept of it; an ask for nothing is none. -/
@[simp] theorem askOf_setAsk (s : State) (a : Ask) : askOf (setAsk s a) a.by_ = a := by
  have gone : ∀ l : List Ask, l.find? (fun _ => false) = none := fun l => List.find?_eq_none.2 (by simp)
  by_cases k : a.owed = [] ∧ a.got = []
  · obtain ⟨b, o, g⟩ := a
    obtain ⟨rfl, rfl⟩ := k
    simp [askOf, setAsk, gone]
  · simp [askOf, setAsk, k, List.find?_append, gone]

/-- Keeping an ask leaves every other asker's. -/
theorem askOf_setAsk_other (s : State) (a : Ask) {k : Asker} (h : k ≠ a.by_) : askOf (setAsk s a) k = askOf s k := by
  have same : (fun x : Ask => !decide (x.by_ = a.by_) && decide (x.by_ = k)) = fun x => decide (x.by_ = k) := by
    funext x
    by_cases e : x.by_ = k <;> simp [e, h]
  unfold askOf setAsk
  dsimp only
  split <;> simp [List.find?_append, same, h.symm]

@[simp] theorem askOf_dropAsk (s : State) (k : Asker) : askOf (dropAsk s k) k = { by_ := k, owed := [], got := [] } :=
  askOf_setAsk s { by_ := k, owed := [], got := [] }

theorem setAsk_mem (s : State) (a : Ask) : (setAsk s a).mem = s.mem := rfl
theorem setAsk_cells (s : State) (a : Ask) : (setAsk s a).cells = s.cells := rfl

/-- Where nobody has asked for anything, nothing is collected. -/
theorem collect_none {s : State} (k : Asker) (h : s.pd.asks = []) : collect k s = s := by
  have e : askOf s k = { by_ := k, owed := [], got := [] } := by simp [askOf, h]
  obtain ⟨⟩ := s
  rename_i pd _
  obtain ⟨⟩ := pd
  cases h
  rw [collect, e]
  rfl

/-- Where nobody waits and the work sends no flit to a domain page, it is done at once (R292, R294). -/
theorem awaitDomain_off {s : State} {k : Asker} {run : State → State} (h : s.pd.asks = []) (h0 : sentDomain s (run s) = []) :
    awaitDomain k run s = run s := by
  unfold awaitDomain
  simp only [collect_none k h, h0, if_true]

/-- Work whose flits have left waits while a response is still owed, and nothing else happens. -/
theorem awaitDomain_waits {s : State} {k : Asker} {run : State → State} (h : takeResponses (askOf s k).owed s = none)
    (h0 : sentDomain s (run s) ≠ []) : awaitDomain k run s = s := by
  have o : (askOf s k).owed ≠ [] := by
    intro e
    rw [e] at h
    cases h
  simp only [awaitDomain, collect, h, h0, o, if_false, if_true, ne_eq, not_false_eq_true]

theorem settleAsks_none {s : State} (h : s.pd.asks = []) : settleAsks s = s := by simp [settleAsks, h]

/-- Bytes at home in this package need no flit. -/
theorem homeLoad_here (s : State) (c : BitVec 9) (dom : Bool) {pa : Nat} (h : paTarget pa ≠ 3) : homeLoad s c dom pa = .ready s := by
  simp [homeLoad, h]

/-! ### Accesses behind an ordered one -/

theorem orderedIssue_free {c : Cell} (h : orderWaits c = false) (r : Issue) : orderedIssue c r = r := by
  cases r <;> simp [orderedIssue, h]

theorem orderedIssue_holds {c : Cell} (h : orderWaits c = true) (s : State) : orderedIssue c (.go s) = .freeze := by
  simp [orderedIssue, h]

/-- The wait for an ordered access leaves no machine of its own. -/
theorem orderedIssue_leaves {c : Cell} {r : Issue} {u : State} (h : (orderedIssue c r).leaves = some u) : r.leaves = some u := by
  cases r with
  | go s =>
    unfold orderedIssue at h
    dsimp only at h
    split at h
    · cases h
    · exact h
  | _ => exact h

/-! ### Both memories keep their form -/

theorem setAsk_canonical {s : State} (h : s.Canonical) (a : Ask) : (setAsk s a).Canonical := h.of_eq rfl rfl

theorem takeFlits_canonical {s t : State} (h : s.Canonical) {src : BitVec 16} {kind n : Nat}
    (e : takeFlits s src kind n = some t) : t.Canonical := by
  unfold takeFlits at e
  dsimp only at e
  split at e
  · cases e
  · cases e; exact h.of_eq rfl rfl

theorem takeResponses_canonical {l : List (BitVec 16)} {s t : State} (h : s.Canonical) (e : takeResponses l s = some t) :
    t.Canonical := by
  induction l generalizing s with
  | nil => cases e; exact h
  | cons p r ih =>
    obtain ⟨u, hu, ht⟩ := Option.bind_eq_some_iff.1 e
    exact ih (takeFlits_canonical h hu) ht

theorem collect_canonical {s : State} (h : s.Canonical) (k : Asker) : (collect k s).Canonical := by
  unfold collect
  dsimp only
  split
  · exact h
  · next e => exact setAsk_canonical (takeResponses_canonical h e) _

/-- Work that keeps the form keeps it also where it waits for responses. -/
theorem awaitDomain_canonical {s : State} {k : Asker} {run : State → State} (h : s.Canonical)
    (keep : ∀ t : State, t.Canonical → (run t).Canonical) : (awaitDomain k run s).Canonical := by
  have h1 := collect_canonical h k
  unfold awaitDomain
  dsimp only
  split
  · exact keep _ h1
  · split
    · exact h1
    · split
      · have h2 : State.Canonical { collect k s with pd := { (collect k s).pd with quiet := true } } := h1.of_eq rfl rfl
        exact setAsk_canonical (State.Canonical.of_eq (keep _ h2) rfl rfl) { by_ := k, owed := [], got := [] }
      · exact State.Canonical.each (fun _ _ hb => emitFlit_canonical hb _ _ _ _) (setAsk_canonical h1 _) _

theorem settleAsks_canonical {s : State} (h : s.Canonical) : (settleAsks s).Canonical := by
  refine State.Canonical.each (fun b a hb => ?_) h _
  split
  · exact hb
  · split
    · exact hb
    · next e => exact setAsk_canonical (takeResponses_canonical hb e) _

/-- What a load before its bundle leaves, where it leaves a machine. -/
def HomeLoad.leaves : HomeLoad → Option State
  | .ready s => some s
  | .sent s => some s
  | .waits => none

theorem homeLoad_canonical {s u : State} (h : s.Canonical) {c : BitVec 9} {dom : Bool} {pa : Nat}
    (e : (homeLoad s c dom pa).leaves = some u) : u.Canonical := by
  unfold homeLoad at e
  split at e
  · cases e; exact h
  · split at e
    · cases e; exact memoryFlit_canonical h _ _ _ _ _
    · split at e
      · cases e
        exact State.Canonical.of_eq (memoryFlit_canonical h true 0 (peerOf pa) pa []) rfl rfl
      · unfold takeAsked at e
        split at e
        · cases e
        · next t k =>
          cases e
          split at k
          · cases k
          · dsimp only at k
            split at k
            · cases k
            · obtain ⟨v, hv, rfl⟩ := Option.map_eq_some_iff.1 k
              exact State.Canonical.of_eq (takeResponses_canonical h hv) rfl rfl

end Sys2Proof.Machine
end

