-- ==== Sys2Proof/Laws/Exec.lean ====
section
/-! SUPPORT. Each arm of the dispatch and each check of a word, as an equation, so that no proof unfolds either match. -/

namespace Sys2Proof.Machine

theorem exec_add (h : Header) (o : CR) (s : State) : exec (.add h o) s = execAdd h o s := rfl
theorem exec_addImm (h : Header) (o : CI) (s : State) : exec (.addImm h o) s = execAddImm h o s := rfl
theorem exec_sub (h : Header) (o : CR) (s : State) : exec (.sub h o) s = execSub h o s := rfl
theorem exec_subImm (h : Header) (o : CI) (s : State) : exec (.subImm h o) s = execSubImm h o s := rfl
theorem exec_mul (h : Header) (o : CR) (s : State) : exec (.mul h o) s = execMul h o s := rfl
theorem exec_mulImm (h : Header) (o : CI) (s : State) : exec (.mulImm h o) s = execMulImm h o s := rfl
theorem exec_mulh (h : Header) (o : CR) (s : State) : exec (.mulh h o) s = execMulh h o s := rfl
theorem exec_mulhImm (h : Header) (o : CI) (s : State) : exec (.mulhImm h o) s = execMulhImm h o s := rfl
theorem exec_div (h : Header) (o : CR) (s : State) : exec (.div h o) s = execDiv h o s := rfl
theorem exec_divImm (h : Header) (o : CI) (s : State) : exec (.divImm h o) s = execDivImm h o s := rfl
theorem exec_rem (h : Header) (o : CR) (s : State) : exec (.rem h o) s = execRem h o s := rfl
theorem exec_remImm (h : Header) (o : CI) (s : State) : exec (.remImm h o) s = execRemImm h o s := rfl
theorem exec_and (h : Header) (o : CR) (s : State) : exec (.and h o) s = execAnd h o s := rfl
theorem exec_andImm (h : Header) (o : CI) (s : State) : exec (.andImm h o) s = execAndImm h o s := rfl
theorem exec_or (h : Header) (o : CR) (s : State) : exec (.or h o) s = execOr h o s := rfl
theorem exec_orImm (h : Header) (o : CI) (s : State) : exec (.orImm h o) s = execOrImm h o s := rfl
theorem exec_xor (h : Header) (o : CR) (s : State) : exec (.xor h o) s = execXor h o s := rfl
theorem exec_xorImm (h : Header) (o : CI) (s : State) : exec (.xorImm h o) s = execXorImm h o s := rfl
theorem exec_shl (h : Header) (o : CR) (s : State) : exec (.shl h o) s = execShl h o s := rfl
theorem exec_shlImm (h : Header) (o : CI) (s : State) : exec (.shlImm h o) s = execShlImm h o s := rfl
theorem exec_shr (h : Header) (o : CR) (s : State) : exec (.shr h o) s = execShr h o s := rfl
theorem exec_shrImm (h : Header) (o : CI) (s : State) : exec (.shrImm h o) s = execShrImm h o s := rfl
theorem exec_sra (h : Header) (o : CR) (s : State) : exec (.sra h o) s = execSra h o s := rfl
theorem exec_min (h : Header) (o : CR) (s : State) : exec (.min h o) s = execMin h o s := rfl
theorem exec_max (h : Header) (o : CR) (s : State) : exec (.max h o) s = execMax h o s := rfl
theorem exec_cmp (h : Header) (o : CR) (s : State) : exec (.cmp h o) s = execCmp h o s := rfl
theorem exec_sel (h : Header) (o : CR) (s : State) : exec (.sel h o) s = execSel h o s := rfl
theorem exec_clz (h : Header) (o : CR) (s : State) : exec (.clz h o) s = execClz h o s := rfl
theorem exec_popc (h : Header) (o : CR) (s : State) : exec (.popc h o) s = execPopc h o s := rfl
theorem exec_brev (h : Header) (o : CR) (s : State) : exec (.brev h o) s = execBrev h o s := rfl
theorem exec_ext (h : Header) (o : CR) (s : State) : exec (.ext h o) s = execExt h o s := rfl
theorem exec_bfx (h : Header) (o : CR) (s : State) : exec (.bfx h o) s = execBfx h o s := rfl
theorem exec_bfi (h : Header) (o : CR) (s : State) : exec (.bfi h o) s = execBfi h o s := rfl
theorem exec_li (h : Header) (o : CI) (s : State) : exec (.li h o) s = execLi h o s := rfl
theorem exec_lih (h : Header) (o : CI) (s : State) : exec (.lih h o) s = execLih h o s := rfl
theorem exec_br (h : Header) (o : CB) (s : State) : exec (.br h o) s = execBr h o s := rfl
theorem exec_brc (h : Header) (o : CB) (s : State) : exec (.brc h o) s = execBrc h o s := rfl
theorem exec_bri (h : Header) (o : CB) (s : State) : exec (.bri h o) s = execBri h o s := rfl
theorem exec_call (h : Header) (o : CB) (s : State) : exec (.call h o) s = execCall h o s := rfl
theorem exec_calli (h : Header) (o : CB) (s : State) : exec (.calli h o) s = execCalli h o s := rfl
theorem exec_ret (h : Header) (o : CB) (s : State) : exec (.ret h o) s = execRet h o s := rfl
theorem exec_loop (h : Header) (o : CL) (s : State) : exec (.loop h o) s = execLoop h o s := rfl
theorem exec_loopx (h : Header) (o : CL) (s : State) : exec (.loopx h o) s = execLoopx h o s := rfl
theorem exec_exit (h : Header) (o : CS) (s : State) : exec (.exit h o) s = execExit h o s := rfl
theorem exec_spawn (h : Header) (o : CS) (s : State) : exec (.spawn h o) s = execSpawn h o s := rfl
theorem exec_spawng (h : Header) (o : CS) (s : State) : exec (.spawng h o) s = execSpawng h o s := rfl
theorem exec_bar (h : Header) (o : CS) (s : State) : exec (.bar h o) s = execBar h o s := rfl
theorem exec_bara (h : Header) (o : CS) (s : State) : exec (.bara h o) s = execBara h o s := rfl
theorem exec_barcfg (h : Header) (o : CS) (s : State) : exec (.barcfg h o) s = execBarcfg h o s := rfl
theorem exec_wait (h : Header) (o : CS) (s : State) : exec (.wait h o) s = execWait h o s := rfl
theorem exec_phase (h : Header) (o : CS) (s : State) : exec (.phase h o) s = execPhase h o s := rfl
theorem exec_fence (h : Header) (o : CS) (s : State) : exec (.fence h o) s = execFence h o s := rfl
theorem exec_xfence (h : Header) (o : CS) (s : State) : exec (.xfence h o) s = execXfence h o s := rfl
theorem exec_carve (h : Header) (o : CS) (s : State) : exec (.carve h o) s = execCarve h o s := rfl
theorem exec_decpl (h : Header) (o : CS) (s : State) : exec (.decpl h o) s = execDecpl h o s := rfl
theorem exec_rejoin (h : Header) (o : CS) (s : State) : exec (.rejoin h o) s = execRejoin h o s := rfl
theorem exec_crrd (h : Header) (o : CS) (s : State) : exec (.crrd h o) s = execCrrd h o s := rfl
theorem exec_crwr (h : Header) (o : CS) (s : State) : exec (.crwr h o) s = execCrwr h o s := rfl
theorem exec_crset (h : Header) (o : CS) (s : State) : exec (.crset h o) s = execCrset h o s := rfl
theorem exec_crclr (h : Header) (o : CS) (s : State) : exec (.crclr h o) s = execCrclr h o s := rfl
theorem exec_trap (h : Header) (o : CS) (s : State) : exec (.trap h o) s = execTrap h o s := rfl
theorem exec_tret (h : Header) (o : CS) (s : State) : exec (.tret h o) s = execTret h o s := rfl
theorem exec_brk (h : Header) (o : CS) (s : State) : exec (.brk h o) s = execBrk h o s := rfl
theorem exec_tlbi (h : Header) (o : CS) (s : State) : exec (.tlbi h o) s = execTlbi h o s := rfl
theorem exec_rdtime (h : Header) (o : CS) (s : State) : exec (.rdtime h o) s = execRdtime h o s := rfl
theorem exec_accb (h : Header) (o : CB) (s : State) : exec (.accb h o) s = execAccb h o s := rfl
theorem exec_acce (h : Header) (o : CB) (s : State) : exec (.acce h o) s = execAcce h o s := rfl
theorem exec_accinv (h : Header) (o : CS) (s : State) : exec (.accinv h o) s = execAccinv h o s := rfl
theorem exec_nop (h : Header) (s : State) : exec (.nop h) s = execNop h s := rfl
theorem exec_ld (h : Header) (o : AM) (s : State) : exec (.ld h o) s = execLd h o s := rfl
theorem exec_st (h : Header) (o : AM) (s : State) : exec (.st h o) s = execSt h o s := rfl
theorem exec_ldv (h : Header) (o : AM) (s : State) : exec (.ldv h o) s = execLdv h o s := rfl
theorem exec_stv (h : Header) (o : AM) (s : State) : exec (.stv h o) s = execStv h o s := rfl
theorem exec_amo (h : Header) (o : AT) (s : State) : exec (.amo h o) s = execAmo h o s := rfl
theorem exec_cas (h : Header) (o : AT) (s : State) : exec (.cas h o) s = execCas h o s := rfl
theorem exec_pref (h : Header) (o : AM) (s : State) : exec (.pref h o) s = execPref h o s := rfl
theorem exec_amov (h : Header) (o : AA) (s : State) : exec (.amov h o) s = execAmov h o s := rfl
theorem exec_aget (h : Header) (o : AA) (s : State) : exec (.aget h o) s = execAget h o s := rfl
theorem exec_aadd (h : Header) (o : AA) (s : State) : exec (.aadd h o) s = execAadd h o s := rfl
theorem exec_amode (h : Header) (o : AA) (s : State) : exec (.amode h o) s = execAmode h o s := rfl
theorem exec_aupd (h : Header) (o : AA) (s : State) : exec (.aupd h o) s = execAupd h o s := rfl
theorem exec_lea (h : Header) (o : AM) (s : State) : exec (.lea h o) s = execLea h o s := rfl
theorem exec_hld (h : Header) (o : AM) (s : State) : exec (.hld h o) s = execHld h o s := rfl
theorem exec_hst (h : Header) (o : AM) (s : State) : exec (.hst h o) s = execHst h o s := rfl
theorem exec_hset (h : Header) (o : AH) (s : State) : exec (.hset h o) s = execHset h o s := rfl
theorem exec_hget (h : Header) (o : AH) (s : State) : exec (.hget h o) s = execHget h o s := rfl
theorem exec_vadd (h : Header) (o : VR) (s : State) : exec (.vadd h o) s = execVadd h o s := rfl
theorem exec_vaddImm (h : Header) (o : VI) (s : State) : exec (.vaddImm h o) s = execVaddImm h o s := rfl
theorem exec_vsub (h : Header) (o : VR) (s : State) : exec (.vsub h o) s = execVsub h o s := rfl
theorem exec_vsubImm (h : Header) (o : VI) (s : State) : exec (.vsubImm h o) s = execVsubImm h o s := rfl
theorem exec_vmul (h : Header) (o : VR) (s : State) : exec (.vmul h o) s = execVmul h o s := rfl
theorem exec_vmulImm (h : Header) (o : VI) (s : State) : exec (.vmulImm h o) s = execVmulImm h o s := rfl
theorem exec_vfma (h : Header) (o : VR) (s : State) : exec (.vfma h o) s = execVfma h o s := rfl
theorem exec_vfmaImm (h : Header) (o : VI) (s : State) : exec (.vfmaImm h o) s = execVfmaImm h o s := rfl
theorem exec_vmin (h : Header) (o : VR) (s : State) : exec (.vmin h o) s = execVmin h o s := rfl
theorem exec_vminImm (h : Header) (o : VI) (s : State) : exec (.vminImm h o) s = execVminImm h o s := rfl
theorem exec_vmax (h : Header) (o : VR) (s : State) : exec (.vmax h o) s = execVmax h o s := rfl
theorem exec_vmaxImm (h : Header) (o : VI) (s : State) : exec (.vmaxImm h o) s = execVmaxImm h o s := rfl
theorem exec_vrcp (h : Header) (o : VR) (s : State) : exec (.vrcp h o) s = execVrcp h o s := rfl
theorem exec_vrsq (h : Header) (o : VR) (s : State) : exec (.vrsq h o) s = execVrsq h o s := rfl
theorem exec_vexp2 (h : Header) (o : VR) (s : State) : exec (.vexp2 h o) s = execVexp2 h o s := rfl
theorem exec_vlog2 (h : Header) (o : VR) (s : State) : exec (.vlog2 h o) s = execVlog2 h o s := rfl
theorem exec_vtanh (h : Header) (o : VR) (s : State) : exec (.vtanh h o) s = execVtanh h o s := rfl
theorem exec_vcvt (h : Header) (o : VR) (s : State) : exec (.vcvt h o) s = execVcvt h o s := rfl
theorem exec_vcmp (h : Header) (o : VR) (s : State) : exec (.vcmp h o) s = execVcmp h o s := rfl
theorem exec_vsel (h : Header) (o : VR) (s : State) : exec (.vsel h o) s = execVsel h o s := rfl
theorem exec_vand (h : Header) (o : VR) (s : State) : exec (.vand h o) s = execVand h o s := rfl
theorem exec_vandImm (h : Header) (o : VI) (s : State) : exec (.vandImm h o) s = execVandImm h o s := rfl
theorem exec_vor (h : Header) (o : VR) (s : State) : exec (.vor h o) s = execVor h o s := rfl
theorem exec_vorImm (h : Header) (o : VI) (s : State) : exec (.vorImm h o) s = execVorImm h o s := rfl
theorem exec_vxor (h : Header) (o : VR) (s : State) : exec (.vxor h o) s = execVxor h o s := rfl
theorem exec_vxorImm (h : Header) (o : VI) (s : State) : exec (.vxorImm h o) s = execVxorImm h o s := rfl
theorem exec_vshl (h : Header) (o : VR) (s : State) : exec (.vshl h o) s = execVshl h o s := rfl
theorem exec_vshlImm (h : Header) (o : VI) (s : State) : exec (.vshlImm h o) s = execVshlImm h o s := rfl
theorem exec_vshr (h : Header) (o : VR) (s : State) : exec (.vshr h o) s = execVshr h o s := rfl
theorem exec_vshrImm (h : Header) (o : VI) (s : State) : exec (.vshrImm h o) s = execVshrImm h o s := rfl
theorem exec_vmov (h : Header) (o : VR) (s : State) : exec (.vmov h o) s = execVmov h o s := rfl
theorem exec_vbcast (h : Header) (o : VX) (s : State) : exec (.vbcast h o) s = execVbcast h o s := rfl
theorem exec_vext (h : Header) (o : VX) (s : State) : exec (.vext h o) s = execVext h o s := rfl
theorem exec_vins (h : Header) (o : VX) (s : State) : exec (.vins h o) s = execVins h o s := rfl
theorem exec_vperm (h : Header) (o : VR) (s : State) : exec (.vperm h o) s = execVperm h o s := rfl
theorem exec_viota (h : Header) (o : VX) (s : State) : exec (.viota h o) s = execViota h o s := rfl
theorem exec_vred (h : Header) (o : VX) (s : State) : exec (.vred h o) s = execVred h o s := rfl
theorem exec_kand (h : Header) (o : KR) (s : State) : exec (.kand h o) s = execKand h o s := rfl
theorem exec_kor (h : Header) (o : KR) (s : State) : exec (.kor h o) s = execKor h o s := rfl
theorem exec_kxor (h : Header) (o : KR) (s : State) : exec (.kxor h o) s = execKxor h o s := rfl
theorem exec_kmov (h : Header) (o : KR) (s : State) : exec (.kmov h o) s = execKmov h o s := rfl
theorem exec_kpopc (h : Header) (o : KR) (s : State) : exec (.kpopc h o) s = execKpopc h o s := rfl
theorem exec_mla (h : Header) (o : ML) (s : State) : exec (.mla h o) s = execMla h o s := rfl
theorem exec_mlb (h : Header) (o : ML) (s : State) : exec (.mlb h o) s = execMlb h o s := rfl
theorem exec_mma (h : Header) (o : MM) (s : State) : exec (.mma h o) s = execMma h o s := rfl
theorem exec_mzero (h : Header) (o : MM) (s : State) : exec (.mzero h o) s = execMzero h o s := rfl
theorem exec_mcfg (h : Header) (o : MM) (s : State) : exec (.mcfg h o) s = execMcfg h o s := rfl
theorem exec_mstz (h : Header) (o : MZ) (s : State) : exec (.mstz h o) s = execMstz h o s := rfl
theorem exec_mldz (h : Header) (o : MZ) (s : State) : exec (.mldz h o) s = execMldz h o s := rfl
theorem exec_mcall (h : Header) (o : MC) (s : State) : exec (.mcall h o) s = execMcall h o s := rfl
theorem exec_msetq (h : Header) (o : MQ) (s : State) : exec (.msetq h o) s = execMsetq h o s := rfl
theorem exec_mfmt (h : Header) (o : MF) (s : State) : exec (.mfmt h o) s = execMfmt h o s := rfl
theorem exec_mcode (h : Header) (o : ML) (s : State) : exec (.mcode h o) s = execMcode h o s := rfl
theorem exec_mstore (h : Header) (o : MS) (s : State) : exec (.mstore h o) s = execMstore h o s := rfl
theorem exec_mloop (h : Header) (o : MC) (s : State) : exec (.mloop h o) s = execMloop h o s := rfl
theorem exec_mend (h : Header) (o : MC) (s : State) : exec (.mend h o) s = execMend h o s := rfl
theorem exec_cpy (h : Header) (o : EC) (s : State) : exec (.cpy h o) s = execCpy h o s := rfl
theorem exec_chsend (h : Header) (o : EC) (s : State) : exec (.chsend h o) s = execChsend h o s := rfl
theorem exec_chrecv (h : Header) (o : EC) (s : State) : exec (.chrecv h o) s = execChrecv h o s := rfl
theorem exec_chred (h : Header) (o : EC) (s : State) : exec (.chred h o) s = execChred h o s := rfl
theorem exec_qprop (h : Header) (o : EC) (s : State) : exec (.qprop h o) s = execQprop h o s := rfl
theorem exec_qver (h : Header) (o : EC) (s : State) : exec (.qver h o) s = execQver h o s := rfl
theorem exec_qres (h : Header) (o : EC) (s : State) : exec (.qres h o) s = execQres h o s := rfl
theorem exec_bset (h : Header) (o : EC) (s : State) : exec (.bset h o) s = execBset h o s := rfl
theorem exec_bget (h : Header) (o : EC) (s : State) : exec (.bget h o) s = execBget h o s := rfl
theorem exec_sieve (h : Header) (o : EC) (s : State) : exec (.sieve h o) s = execSieve h o s := rfl
theorem exec_tokz (h : Header) (o : EC) (s : State) : exec (.tokz h o) s = execTokz h o s := rfl
theorem exec_detok (h : Header) (o : EC) (s : State) : exec (.detok h o) s = execDetok h o s := rfl
theorem exec_gadv (h : Header) (o : EC) (s : State) : exec (.gadv h o) s = execGadv h o s := rfl
theorem exec_gmask (h : Header) (o : EC) (s : State) : exec (.gmask h o) s = execGmask h o s := rfl
theorem exec_sltick (h : Header) (o : EC) (s : State) : exec (.sltick h o) s = execSltick h o s := rfl
theorem exec_slpin (h : Header) (o : EC) (s : State) : exec (.slpin h o) s = execSlpin h o s := rfl
theorem exec_slget (h : Header) (o : EC) (s : State) : exec (.slget h o) s = execSlget h o s := rfl
theorem exec_dbar (h : Header) (o : EC) (s : State) : exec (.dbar h o) s = execDbar h o s := rfl
theorem exec_engineFault (c : BitVec 9) (s : State) : exec (.engineFault c) s = execEngineFault c s := rfl
theorem exec_grammarOverflow (c : BitVec 9) (s : State) : exec (.grammarOverflow c) s = execGrammarOverflow c s := rfl
theorem exec_microFault (c : BitVec 9) (s : State) : exec (.microFault c) s = execMicroFault c s := rfl
theorem exec_numericLimit (c : BitVec 9) (s : State) : exec (.numericLimit c) s = execNumericLimit c s := rfl
theorem exec_machineCheck (c : BitVec 9) (access : Option Nat) (pa : BitVec 64) (s : State) : exec (.machineCheck c access pa) s = execMachineCheck c access pa s := rfl
theorem exec_stepTrap (c : BitVec 9) (s : State) : exec (.stepTrap c) s = execStepTrap c s := rfl
theorem exec_softwareTrapTaken (c : BitVec 9) (s : State) : exec (.softwareTrapTaken c) s = execSoftwareTrapTaken c s := rfl
theorem exec_variableResultLand (c : BitVec 9) (id : Nat) (s : State) : exec (.variableResultLand c id) s = execVariableResultLand c id s := rfl
theorem exec_engineCommandComplete (id : Nat) (s : State) : exec (.engineCommandComplete id) s = execEngineCommandComplete id s := rfl
theorem exec_translationWalkDone (c : BitVec 9) (va : BitVec 64) (s : State) : exec (.translationWalkDone c va) s = execTranslationWalkDone c va s := rfl
theorem exec_latchTransfer (c : BitVec 9) (s : State) : exec (.latchTransfer c) s = execLatchTransfer c s := rfl
theorem exec_mmaStart (c : BitVec 9) (s : State) : exec (.mmaStart c) s = execMmaStart c s := rfl
theorem exec_mmaRetire (c : BitVec 9) (s : State) : exec (.mmaRetire c) s = execMmaRetire c s := rfl
theorem exec_tilePipeStart (c : BitVec 9) (s : State) : exec (.tilePipeStart c) s = execTilePipeStart c s := rfl
theorem exec_mcallRoutineRun (c : BitVec 9) (s : State) : exec (.mcallRoutineRun c) s = execMcallRoutineRun c s := rfl
theorem exec_dispatchDecision (scout : Bool) (s : State) : exec (.dispatchDecision scout) s = execDispatchDecision scout s := rfl
theorem exec_preemption (c : BitVec 9) (s : State) : exec (.preemption c) s = execPreemption c s := rfl
theorem exec_emergencyAreaFree (scout : Bool) (s : State) : exec (.emergencyAreaFree scout) s = execEmergencyAreaFree scout s := rfl
theorem exec_taskRestore (c : BitVec 9) (s : State) : exec (.taskRestore c) s = execTaskRestore c s := rfl
theorem exec_parkRelease (uid : Nat) (s : State) : exec (.parkRelease uid) s = execParkRelease uid s := rfl
theorem exec_cellClearDone (c : BitVec 9) (s : State) : exec (.cellClearDone c) s = execCellClearDone c s := rfl
theorem exec_carveRelease (gang : Nat) (s : State) : exec (.carveRelease gang) s = execCarveRelease gang s := rfl
theorem exec_spawnUnitEnqueue (c : BitVec 9) (s : State) : exec (.spawnUnitEnqueue c) s = execSpawnUnitEnqueue c s := rfl
theorem exec_seedEnqueue (launch : Nat) (s : State) : exec (.seedEnqueue launch) s = execSeedEnqueue launch s := rfl
theorem exec_launchEntryRead (s : State) : exec (.launchEntryRead) s = execLaunchEntryRead s := rfl
theorem exec_launchAdmit (s : State) : exec (.launchAdmit) s = execLaunchAdmit s := rfl
theorem exec_launchComplete (launch : Nat) (s : State) : exec (.launchComplete launch) s = execLaunchComplete launch s := rfl
theorem exec_lqtailWrite (q : BitVec 3) (v : BitVec 64) (s : State) : exec (.lqtailWrite q v) s = execLqtailWrite q v s := rfl
theorem exec_lqcfgWrite (q : BitVec 3) (v : BitVec 64) (s : State) : exec (.lqcfgWrite q v) s = execLqcfgWrite q v s := rfl
theorem exec_fclkWrite (v : BitVec 64) (s : State) : exec (.fclkWrite v) s = execFclkWrite v s := rfl
theorem exec_clockGlideEnd (f : BitVec 2) (s : State) : exec (.clockGlideEnd f) s = execClockGlideEnd f s := rfl
theorem exec_registerWrite (off : BitVec 16) (v : BitVec 64) (s : State) : exec (.registerWrite off v) s = execRegisterWrite off v s := rfl
theorem exec_throttleWindow (f : BitVec 2) (cur : BitVec 12) (temp : Int) (s : State) : exec (.throttleWindow f cur temp) s = execThrottleWindow f cur temp s := rfl
theorem exec_fimeasClrpk (f : BitVec 2) (s : State) : exec (.fimeasClrpk f) s = execFimeasClrpk f s := rfl
theorem exec_packageReset (firmware frame0 scout : Bool) (s : State) : exec (.packageReset firmware frame0 scout) s = execPackageReset firmware frame0 scout s := rfl
theorem exec_frameRailOk (f : BitVec 2) (s : State) : exec (.frameRailOk f) s = execFrameRailOk f s := rfl
theorem exec_frameBringupTimeout (f : BitVec 2) (s : State) : exec (.frameBringupTimeout f) s = execFrameBringupTimeout f s := rfl
theorem exec_linkPortDown (p : Nat) (s : State) : exec (.linkPortDown p) s = execLinkPortDown p s := rfl
theorem exec_linkPortUp (p : Nat) (s : State) : exec (.linkPortUp p) s = execLinkPortUp p s := rfl
theorem exec_hostWriteAccept (src : Origin) (pa : BitVec 56) (bytes : List Byte) (s : State) : exec (.hostWriteAccept src pa bytes) s = execHostWriteAccept src pa bytes s := rfl
theorem exec_hostWritePerform (i : Nat) (s : State) : exec (.hostWritePerform i) s = execHostWritePerform i s := rfl
theorem exec_hostRead (pa : BitVec 56) (n : Nat) (s : State) : exec (.hostRead pa n) s = execHostRead pa n s := rfl
theorem exec_reportRecord (s : State) : exec (.reportRecord) s = execReportRecord s := rfl
theorem exec_nxWindowStart (c : BitVec 9) (s : State) : exec (.nxWindowStart c) s = execNxWindowStart c s := rfl
theorem exec_efctlResume (c : BitVec 9) (s : State) : exec (.efctlResume c) s = execEfctlResume c s := rfl
theorem exec_efctlAbandon (c : BitVec 9) (s : State) : exec (.efctlAbandon c) s = execEfctlAbandon c s := rfl
theorem exec_fpreqWrite (c : BitVec 9) (v : BitVec 64) (s : State) : exec (.fpreqWrite c v) s = execFpreqWrite c v s := rfl
theorem exec_fastPathMapDone (c : BitVec 9) (s : State) : exec (.fastPathMapDone c) s = execFastPathMapDone c s := rfl
theorem exec_contextCreate (s : State) : exec (.contextCreate) s = execContextCreate s := rfl
theorem exec_contextDestroy (s : State) : exec (.contextDestroy) s = execContextDestroy s := rfl
theorem exec_contextInvalidate (whole : Bool) (s : State) : exec (.contextInvalidate whole) s = execContextInvalidate whole s := rfl
theorem exec_contextSetPool (s : State) : exec (.contextSetPool) s = execContextSetPool s := rfl
theorem exec_contextBadCommand (code : BitVec 3) (s : State) : exec (.contextBadCommand code) s = execContextBadCommand code s := rfl
theorem exec_quiesceAdvance (s : State) : exec (.quiesceAdvance) s = execQuiesceAdvance s := rfl
theorem exec_quarantineRelease (s : State) : exec (.quarantineRelease) s = execQuarantineRelease s := rfl
theorem exec_broodSnapshot (s : State) : exec (.broodSnapshot) s = execBroodSnapshot s := rfl
theorem exec_roundDraftEnqueue (slot : BitVec 12) (s : State) : exec (.roundDraftEnqueue slot) s = execRoundDraftEnqueue slot s := rfl
theorem exec_quorumDecision (slot : BitVec 12) (s : State) : exec (.quorumDecision slot) s = execQuorumDecision slot s := rfl
theorem exec_sieveList (id : Nat) (s : State) : exec (.sieveList id) s = execSieveList id s := rfl
theorem exec_outputDrain (slot : BitVec 12) (s : State) : exec (.outputDrain slot) s = execOutputDrain slot s := rfl
theorem exec_textInstallVocabulary (idx : BitVec 12) (s : State) : exec (.textInstallVocabulary idx) s = execTextInstallVocabulary idx s := rfl
theorem exec_textInstallGrammar (id : BitVec 12) (s : State) : exec (.textInstallGrammar id) s = execTextInstallGrammar id s := rfl
theorem exec_textRemoveVocabulary (idx : BitVec 12) (s : State) : exec (.textRemoveVocabulary idx) s = execTextRemoveVocabulary idx s := rfl
theorem exec_textRemoveGrammar (id : BitVec 12) (s : State) : exec (.textRemoveGrammar id) s = execTextRemoveGrammar id s := rfl
theorem exec_channelInstall (first : BitVec 10) (count : BitVec 11) (s : State) : exec (.channelInstall first count) s = execChannelInstall first count s := rfl
theorem exec_channelRemove (first : BitVec 10) (count : BitVec 11) (s : State) : exec (.channelRemove first count) s = execChannelRemove first count s := rfl
theorem exec_channelMessageArrival (ch : BitVec 10) (m : Message) (s : State) : exec (.channelMessageArrival ch m) s = execChannelMessageArrival ch m s := rfl
theorem exec_reduceResultArrival (ch : BitVec 10) (res : RoundResult 128) (s : State) : exec (.reduceResultArrival ch res) s = execReduceResultArrival ch res s := rfl
theorem exec_domainFlitReceive (hdr : BitVec 128) (ue tagOk : Bool) (s : State) : exec (.domainFlitReceive hdr ue tagOk) s = execDomainFlitReceive hdr ue tagOk s := rfl
theorem exec_pderrWindow (s : State) : exec (.pderrWindow) s = execPderrWindow s := rfl
theorem exec_domainForm (reports : List Measured) (secret : BitVec 384) (s : State) : exec (.domainForm reports secret) s = execDomainForm reports secret s := rfl
theorem exec_domainLeave (s : State) : exec (.domainLeave) s = execDomainLeave s := rfl
theorem exec_domainRevoke (s : State) : exec (.domainRevoke) s = execDomainRevoke s := rfl
theorem exec_tamperSensor (source : BitVec 8) (s : State) : exec (.tamperSensor source) s = execTamperSensor source s := rfl
theorem exec_rekeyBarrierComplete (reports : List Measured) (s : State) : exec (.rekeyBarrierComplete reports) s = execRekeyBarrierComplete reports s := rfl
theorem exec_rekeyDrainTimeout (reports : List Measured) (s : State) : exec (.rekeyDrainTimeout reports) s = execRekeyDrainTimeout reports s := rfl
theorem exec_mediaRingTailWrite (v : BitVec 64) (s : State) : exec (.mediaRingTailWrite v) s = execMediaRingTailWrite v s := rfl
theorem exec_mediaUeMessage (ch : BitVec 10) (src : BitVec 16) (tag : UltraTag) (bytes : List Byte) (s : State) : exec (.mediaUeMessage ch src tag bytes) s = execMediaUeMessage ch src tag bytes s := rfl
theorem exec_mediaRecordArrival (ring : Bool) (s : State) : exec (.mediaRecordArrival ring) s = execMediaRecordArrival ring s := rfl
theorem exec_tick (slot : BitVec 12) (s : State) : exec (.tick slot) s = execTick slot s := rfl
theorem exec_timeLockLoss (s : State) : exec (.timeLockLoss) s = execTimeLockLoss s := rfl
theorem exec_timeRelock (offset : Nat) (forward : Bool) (s : State) : exec (.timeRelock offset forward) s = execTimeRelock offset forward s := rfl
theorem exec_accordDecision (engine : BitVec 2) (s : State) : exec (.accordDecision engine) s = execAccordDecision engine s := rfl
theorem exec_accordSample (engine : BitVec 2) (s : State) : exec (.accordSample engine) s = execAccordSample engine s := rfl
theorem exec_accordEpoch (engine : BitVec 2) (key : RegionKey) (s : State) :
    exec (.accordEpoch engine key) s = execAccordEpoch engine key s := rfl
theorem exec_accordDescriptorWrite (ctx : BitVec 16) (va : BitVec 64) (s : State) : exec (.accordDescriptorWrite ctx va) s = execAccordDescriptorWrite ctx va s := rfl
theorem exec_cellAccessPerformed (c : BitVec 9) (id : Nat) (s : State) : exec (.cellAccessPerformed c id) s = execCellAccessPerformed c id s := rfl
theorem exec_l1LineEviction (c : BitVec 9) (line : Nat) (code : Bool) (s : State) : exec (.l1LineEviction c line code) s = execL1LineEviction c line code s := rfl
theorem exec_waitTimeout (c : BitVec 9) (s : State) : exec (.waitTimeout c) s = execWaitTimeout c s := rfl
theorem exec_mdcfgWrite (v : BitVec 64) (s : State) : exec (.mdcfgWrite v) s = execMdcfgWrite v s := rfl
theorem exec_peerInboundAccess (at_ : PeerTarget) (op : BitVec 4) (size : BitVec 2) (v : BitVec 128) (s : State) : exec (.peerInboundAccess at_ op size v) s = execPeerInboundAccess at_ op size v s := rfl
theorem exec_rescalePhase1Result (ch : BitVec 10) (res : RoundResult 32) (s : State) : exec (.rescalePhase1Result ch res) s = execRescalePhase1Result ch res s := rfl

theorem check_add {h : Header} {o : CR} (w : (Instr.add h o).WellFormed) :
    (slotC h && fnZero o) = true := w
theorem check_addImm {h : Header} {o : CI} (w : (Instr.addImm h o).WellFormed) :
    (slotC h && ciZero o) = true := w
theorem check_sub {h : Header} {o : CR} (w : (Instr.sub h o).WellFormed) :
    (slotC h && fnZero o) = true := w
theorem check_subImm {h : Header} {o : CI} (w : (Instr.subImm h o).WellFormed) :
    (slotC h && ciZero o) = true := w
theorem check_mul {h : Header} {o : CR} (w : (Instr.mul h o).WellFormed) :
    (slotC h && fnZero o) = true := w
theorem check_mulImm {h : Header} {o : CI} (w : (Instr.mulImm h o).WellFormed) :
    (slotC h && ciZero o) = true := w
theorem check_mulh {h : Header} {o : CR} (w : (Instr.mulh h o).WellFormed) :
    (slotC h && fnLow1 o) = true := w
theorem check_mulhImm {h : Header} {o : CI} (w : (Instr.mulhImm h o).WellFormed) :
    (slotC h && ciLow1 o) = true := w
theorem check_div {h : Header} {o : CR} (w : (Instr.div h o).WellFormed) :
    (slotC h && fnLow1 o) = true := w
theorem check_divImm {h : Header} {o : CI} (w : (Instr.divImm h o).WellFormed) :
    (slotC h && ciLow1 o) = true := w
theorem check_rem {h : Header} {o : CR} (w : (Instr.rem h o).WellFormed) :
    (slotC h && fnLow1 o) = true := w
theorem check_remImm {h : Header} {o : CI} (w : (Instr.remImm h o).WellFormed) :
    (slotC h && ciLow1 o) = true := w
theorem check_and {h : Header} {o : CR} (w : (Instr.and h o).WellFormed) :
    (slotC h && fnZero o) = true := w
theorem check_andImm {h : Header} {o : CI} (w : (Instr.andImm h o).WellFormed) :
    (slotC h && ciZero o) = true := w
theorem check_or {h : Header} {o : CR} (w : (Instr.or h o).WellFormed) :
    (slotC h && fnZero o) = true := w
theorem check_orImm {h : Header} {o : CI} (w : (Instr.orImm h o).WellFormed) :
    (slotC h && ciZero o) = true := w
theorem check_xor {h : Header} {o : CR} (w : (Instr.xor h o).WellFormed) :
    (slotC h && fnZero o) = true := w
theorem check_xorImm {h : Header} {o : CI} (w : (Instr.xorImm h o).WellFormed) :
    (slotC h && ciZero o) = true := w
theorem check_shl {h : Header} {o : CR} (w : (Instr.shl h o).WellFormed) :
    (slotC h && fnZero o) = true := w
theorem check_shlImm {h : Header} {o : CI} (w : (Instr.shlImm h o).WellFormed) :
    (slotC h && ciZero o) = true := w
theorem check_shr {h : Header} {o : CR} (w : (Instr.shr h o).WellFormed) :
    (slotC h && fnLow1 o) = true := w
theorem check_shrImm {h : Header} {o : CI} (w : (Instr.shrImm h o).WellFormed) :
    (slotC h && ciLow1 o) = true := w
theorem check_sra {h : Header} {o : CR} (w : (Instr.sra h o).WellFormed) :
    (slotC h && fnZero o) = true := w
theorem check_min {h : Header} {o : CR} (w : (Instr.min h o).WellFormed) :
    (slotC h && fnLow1 o) = true := w
theorem check_max {h : Header} {o : CR} (w : (Instr.max h o).WellFormed) :
    (slotC h && fnLow1 o) = true := w
theorem check_cmp {h : Header} {o : CR} (w : (Instr.cmp h o).WellFormed) :
    (slotC h && fnCmp o) = true := w
theorem check_sel {h : Header} {o : CR} (w : (Instr.sel h o).WellFormed) :
    (slotC h && fnZero o) = true := w
theorem check_clz {h : Header} {o : CR} (w : (Instr.clz h o).WellFormed) :
    (slotC h && fnUnary o) = true := w
theorem check_popc {h : Header} {o : CR} (w : (Instr.popc h o).WellFormed) :
    (slotC h && fnUnary o) = true := w
theorem check_brev {h : Header} {o : CR} (w : (Instr.brev h o).WellFormed) :
    (slotC h && fnUnary o) = true := w
theorem check_ext {h : Header} {o : CR} (w : (Instr.ext h o).WellFormed) :
    (slotC h && fnExt o) = true := w
theorem check_bfx {h : Header} {o : CR} (w : (Instr.bfx h o).WellFormed) :
    (slotC h && fnLow1 o) = true := w
theorem check_bfi {h : Header} {o : CR} (w : (Instr.bfi h o).WellFormed) :
    (slotC h && fnZero o) = true := w
theorem check_li {h : Header} {o : CI} (w : (Instr.li h o).WellFormed) :
    (slotC h && ciLoad o) = true := w
theorem check_lih {h : Header} {o : CI} (w : (Instr.lih h o).WellFormed) :
    (slotC h && ciLoad o) = true := w
theorem check_br {h : Header} {o : CB} (w : (Instr.br h o).WellFormed) :
    (slotC h && cbDirect o) = true := w
theorem check_brc {h : Header} {o : CB} (w : (Instr.brc h o).WellFormed) :
    (slotC h && cbCond o) = true := w
theorem check_bri {h : Header} {o : CB} (w : (Instr.bri h o).WellFormed) :
    (slotC h && cbIndirect o) = true := w
theorem check_call {h : Header} {o : CB} (w : (Instr.call h o).WellFormed) :
    (slotC h && cbDirect o) = true := w
theorem check_calli {h : Header} {o : CB} (w : (Instr.calli h o).WellFormed) :
    (slotC h && cbIndirect o) = true := w
theorem check_ret {h : Header} {o : CB} (w : (Instr.ret h o).WellFormed) :
    (slotC h && cbNone o) = true := w
theorem check_loop {h : Header} {o : CL} (w : (Instr.loop h o).WellFormed) :
    (slotC h && clLoop o) = true := w
theorem check_loopx {h : Header} {o : CL} (w : (Instr.loopx h o).WellFormed) :
    (slotC h && clLoopx o) = true := w
theorem check_exit {h : Header} {o : CS} (w : (Instr.exit h o).WellFormed) :
    (slotC h && csNone o) = true := w
theorem check_spawn {h : Header} {o : CS} (w : (Instr.spawn h o).WellFormed) :
    (slotC h && csSpawn o) = true := w
theorem check_spawng {h : Header} {o : CS} (w : (Instr.spawng h o).WellFormed) :
    (slotC h && csSpawng o) = true := w
theorem check_bar {h : Header} {o : CS} (w : (Instr.bar h o).WellFormed) :
    (slotC h && csBar o) = true := w
theorem check_bara {h : Header} {o : CS} (w : (Instr.bara h o).WellFormed) :
    (slotC h && csBar o) = true := w
theorem check_barcfg {h : Header} {o : CS} (w : (Instr.barcfg h o).WellFormed) :
    (slotC h && csBarcfg o) = true := w
theorem check_wait {h : Header} {o : CS} (w : (Instr.wait h o).WellFormed) :
    (slotC h && csWait o) = true := w
theorem check_phase {h : Header} {o : CS} (w : (Instr.phase h o).WellFormed) :
    (slotC h && csPhase o) = true := w
theorem check_fence {h : Header} {o : CS} (w : (Instr.fence h o).WellFormed) :
    (slotC h && csFence o) = true := w
theorem check_xfence {h : Header} {o : CS} (w : (Instr.xfence h o).WellFormed) :
    (slotC h && csXfence o) = true := w
theorem check_carve {h : Header} {o : CS} (w : (Instr.carve h o).WellFormed) :
    (slotC h && csCarve o) = true := w
theorem check_decpl {h : Header} {o : CS} (w : (Instr.decpl h o).WellFormed) :
    (slotC h && csNone o) = true := w
theorem check_rejoin {h : Header} {o : CS} (w : (Instr.rejoin h o).WellFormed) :
    (slotC h && csNone o) = true := w
theorem check_crrd {h : Header} {o : CS} (w : (Instr.crrd h o).WellFormed) :
    (slotC h && csCrrd o) = true := w
theorem check_crwr {h : Header} {o : CS} (w : (Instr.crwr h o).WellFormed) :
    (slotC h && csCrwr o) = true := w
theorem check_crset {h : Header} {o : CS} (w : (Instr.crset h o).WellFormed) :
    (slotC h && csCr o) = true := w
theorem check_crclr {h : Header} {o : CS} (w : (Instr.crclr h o).WellFormed) :
    (slotC h && csCr o) = true := w
theorem check_trap {h : Header} {o : CS} (w : (Instr.trap h o).WellFormed) :
    (slotC h && csTrap o) = true := w
theorem check_tret {h : Header} {o : CS} (w : (Instr.tret h o).WellFormed) :
    (slotC h && csNone o) = true := w
theorem check_brk {h : Header} {o : CS} (w : (Instr.brk h o).WellFormed) :
    (slotC h && csNone o) = true := w
theorem check_tlbi {h : Header} {o : CS} (w : (Instr.tlbi h o).WellFormed) :
    (slotC h && csTlbi o) = true := w
theorem check_rdtime {h : Header} {o : CS} (w : (Instr.rdtime h o).WellFormed) :
    (slotC h && csRdtime o) = true := w
theorem check_accb {h : Header} {o : CB} (w : (Instr.accb h o).WellFormed) :
    (slotC h && cbRegion o) = true := w
theorem check_acce {h : Header} {o : CB} (w : (Instr.acce h o).WellFormed) :
    (slotC h && cbIndirect o) = true := w
theorem check_accinv {h : Header} {o : CS} (w : (Instr.accinv h o).WellFormed) :
    (slotC h && csAccinv o) = true := w
theorem check_nop (h : Header) (w : (Instr.nop h).WellFormed) : slotN h = true := w
theorem check_ld {h : Header} {o : AM} (w : (Instr.ld h o).WellFormed) :
    (slotA h && amLd o) = true := w
theorem check_st {h : Header} {o : AM} (w : (Instr.st h o).WellFormed) :
    (slotA h && amSt o) = true := w
theorem check_ldv {h : Header} {o : AM} (w : (Instr.ldv h o).WellFormed) :
    (slotA h && amRow o) = true := w
theorem check_stv {h : Header} {o : AM} (w : (Instr.stv h o).WellFormed) :
    (slotA h && amRow o) = true := w
theorem check_amo {h : Header} {o : AT} (w : (Instr.amo h o).WellFormed) :
    (slotA h && atAmo o) = true := w
theorem check_cas {h : Header} {o : AT} (w : (Instr.cas h o).WellFormed) :
    (slotA h && atCas o) = true := w
theorem check_pref {h : Header} {o : AM} (w : (Instr.pref h o).WellFormed) :
    (slotA h && amPref o) = true := w
theorem check_amov {h : Header} {o : AA} (w : (Instr.amov h o).WellFormed) :
    (slotA h && aaMov o) = true := w
theorem check_aget {h : Header} {o : AA} (w : (Instr.aget h o).WellFormed) :
    (slotA h && aaGet o) = true := w
theorem check_aadd {h : Header} {o : AA} (w : (Instr.aadd h o).WellFormed) :
    (slotA h && aaAdd o) = true := w
theorem check_amode {h : Header} {o : AA} (w : (Instr.amode h o).WellFormed) :
    (slotA h && aaMode o) = true := w
theorem check_aupd {h : Header} {o : AA} (w : (Instr.aupd h o).WellFormed) :
    (slotA h && aaUpd o) = true := w
theorem check_lea {h : Header} {o : AM} (w : (Instr.lea h o).WellFormed) :
    (slotA h && amLea o) = true := w
theorem check_hld {h : Header} {o : AM} (w : (Instr.hld h o).WellFormed) :
    (slotA h && amHandle o) = true := w
theorem check_hst {h : Header} {o : AM} (w : (Instr.hst h o).WellFormed) :
    (slotA h && amHandle o) = true := w
theorem check_hset {h : Header} {o : AH} (w : (Instr.hset h o).WellFormed) :
    (slotA h && ahSet o) = true := w
theorem check_hget {h : Header} {o : AH} (w : (Instr.hget h o).WellFormed) :
    (slotA h && ahGet o) = true := w
theorem check_vadd {h : Header} {o : VR} (w : (Instr.vadd h o).WellFormed) :
    (slotV h && vrArith o) = true := w
theorem check_vaddImm {h : Header} {o : VI} (w : (Instr.vaddImm h o).WellFormed) :
    (slotV h && viArith o) = true := w
theorem check_vsub {h : Header} {o : VR} (w : (Instr.vsub h o).WellFormed) :
    (slotV h && vrArith o) = true := w
theorem check_vsubImm {h : Header} {o : VI} (w : (Instr.vsubImm h o).WellFormed) :
    (slotV h && viArith o) = true := w
theorem check_vmul {h : Header} {o : VR} (w : (Instr.vmul h o).WellFormed) :
    (slotV h && vrArith o) = true := w
theorem check_vmulImm {h : Header} {o : VI} (w : (Instr.vmulImm h o).WellFormed) :
    (slotV h && viArith o) = true := w
theorem check_vfma {h : Header} {o : VR} (w : (Instr.vfma h o).WellFormed) :
    (slotV h && vrArith o) = true := w
theorem check_vfmaImm {h : Header} {o : VI} (w : (Instr.vfmaImm h o).WellFormed) :
    (slotV h && viArith o) = true := w
theorem check_vmin {h : Header} {o : VR} (w : (Instr.vmin h o).WellFormed) :
    (slotV h && vrMinMax o) = true := w
theorem check_vminImm {h : Header} {o : VI} (w : (Instr.vminImm h o).WellFormed) :
    (slotV h && viPlain o) = true := w
theorem check_vmax {h : Header} {o : VR} (w : (Instr.vmax h o).WellFormed) :
    (slotV h && vrMinMax o) = true := w
theorem check_vmaxImm {h : Header} {o : VI} (w : (Instr.vmaxImm h o).WellFormed) :
    (slotV h && viPlain o) = true := w
theorem check_vrcp {h : Header} {o : VR} (w : (Instr.vrcp h o).WellFormed) :
    (slotV h && vrDev o) = true := w
theorem check_vrsq {h : Header} {o : VR} (w : (Instr.vrsq h o).WellFormed) :
    (slotV h && vrDev o) = true := w
theorem check_vexp2 {h : Header} {o : VR} (w : (Instr.vexp2 h o).WellFormed) :
    (slotV h && vrDev o) = true := w
theorem check_vlog2 {h : Header} {o : VR} (w : (Instr.vlog2 h o).WellFormed) :
    (slotV h && vrDev o) = true := w
theorem check_vtanh {h : Header} {o : VR} (w : (Instr.vtanh h o).WellFormed) :
    (slotV h && vrDev o) = true := w
theorem check_vcvt {h : Header} {o : VR} (w : (Instr.vcvt h o).WellFormed) :
    (slotV h && vrCvt o) = true := w
theorem check_vcmp {h : Header} {o : VR} (w : (Instr.vcmp h o).WellFormed) :
    (slotV h && vrCmp o) = true := w
theorem check_vsel {h : Header} {o : VR} (w : (Instr.vsel h o).WellFormed) :
    (slotV h && vrSel o) = true := w
theorem check_vand {h : Header} {o : VR} (w : (Instr.vand h o).WellFormed) :
    (slotV h && vrBits o) = true := w
theorem check_vandImm {h : Header} {o : VI} (w : (Instr.vandImm h o).WellFormed) :
    (slotV h && viPlain o) = true := w
theorem check_vor {h : Header} {o : VR} (w : (Instr.vor h o).WellFormed) :
    (slotV h && vrBits o) = true := w
theorem check_vorImm {h : Header} {o : VI} (w : (Instr.vorImm h o).WellFormed) :
    (slotV h && viPlain o) = true := w
theorem check_vxor {h : Header} {o : VR} (w : (Instr.vxor h o).WellFormed) :
    (slotV h && vrBits o) = true := w
theorem check_vxorImm {h : Header} {o : VI} (w : (Instr.vxorImm h o).WellFormed) :
    (slotV h && viPlain o) = true := w
theorem check_vshl {h : Header} {o : VR} (w : (Instr.vshl h o).WellFormed) :
    (slotV h && vrShift o) = true := w
theorem check_vshlImm {h : Header} {o : VI} (w : (Instr.vshlImm h o).WellFormed) :
    (slotV h && viShift o) = true := w
theorem check_vshr {h : Header} {o : VR} (w : (Instr.vshr h o).WellFormed) :
    (slotV h && vrShift o) = true := w
theorem check_vshrImm {h : Header} {o : VI} (w : (Instr.vshrImm h o).WellFormed) :
    (slotV h && viShift o) = true := w
theorem check_vmov {h : Header} {o : VR} (w : (Instr.vmov h o).WellFormed) :
    (slotV h && vrMov o) = true := w
theorem check_vbcast {h : Header} {o : VX} (w : (Instr.vbcast h o).WellFormed) :
    (slotV h && vxBcast o) = true := w
theorem check_vext {h : Header} {o : VX} (w : (Instr.vext h o).WellFormed) :
    (slotV h && vxLane o) = true := w
theorem check_vins {h : Header} {o : VX} (w : (Instr.vins h o).WellFormed) :
    (slotV h && vxLane o) = true := w
theorem check_vperm {h : Header} {o : VR} (w : (Instr.vperm h o).WellFormed) :
    (slotV h && vrPerm o) = true := w
theorem check_viota {h : Header} {o : VX} (w : (Instr.viota h o).WellFormed) :
    (slotV h && vxIota o) = true := w
theorem check_vred {h : Header} {o : VX} (w : (Instr.vred h o).WellFormed) :
    (slotV h && vxRed o) = true := w
theorem check_kand {h : Header} {o : KR} (w : (Instr.kand h o).WellFormed) :
    (slotV h && krBin o) = true := w
theorem check_kor {h : Header} {o : KR} (w : (Instr.kor h o).WellFormed) :
    (slotV h && krBin o) = true := w
theorem check_kxor {h : Header} {o : KR} (w : (Instr.kxor h o).WellFormed) :
    (slotV h && krBin o) = true := w
theorem check_kmov {h : Header} {o : KR} (w : (Instr.kmov h o).WellFormed) :
    (slotV h && krMov o) = true := w
theorem check_kpopc {h : Header} {o : KR} (w : (Instr.kpopc h o).WellFormed) :
    (slotV h && krPopc o) = true := w
theorem check_mla {h : Header} {o : ML} (w : (Instr.mla h o).WellFormed) :
    (slotM h && mlMla o) = true := w
theorem check_mlb {h : Header} {o : ML} (w : (Instr.mlb h o).WellFormed) :
    (slotM h && mlMlb o) = true := w
theorem check_mma {h : Header} {o : MM} (w : (Instr.mma h o).WellFormed) :
    (slotM h && mmMma o) = true := w
theorem check_mzero {h : Header} {o : MM} (w : (Instr.mzero h o).WellFormed) :
    (slotM h && mmZero o) = true := w
theorem check_mcfg {h : Header} {o : MM} (w : (Instr.mcfg h o).WellFormed) :
    (slotM h && mmCfg o) = true := w
theorem check_mstz {h : Header} {o : MZ} (w : (Instr.mstz h o).WellFormed) :
    (slotM h && mzStore o) = true := w
theorem check_mldz {h : Header} {o : MZ} (w : (Instr.mldz h o).WellFormed) :
    (slotM h && mzLoad o) = true := w
theorem check_mcall {h : Header} {o : MC} (w : (Instr.mcall h o).WellFormed) :
    (slotM h && mcAny o) = true := w
theorem check_msetq {h : Header} {o : MQ} (w : (Instr.msetq h o).WellFormed) :
    (slotM h && mqAny o) = true := w
theorem check_mfmt {h : Header} {o : MF} (w : (Instr.mfmt h o).WellFormed) :
    (slotM h && mfAny o) = true := w
theorem check_mcode {h : Header} {o : ML} (w : (Instr.mcode h o).WellFormed) :
    (slotM h && mlCode o) = true := w
theorem check_mstore {h : Header} {o : MS} (w : (Instr.mstore h o).WellFormed) :
    (slotM h && msStore o) = true := w
theorem check_mloop {h : Header} {o : MC} (w : (Instr.mloop h o).WellFormed) :
    (slotM h && mcAny o) = true := w
theorem check_mend {h : Header} {o : MC} (w : (Instr.mend h o).WellFormed) :
    (slotM h && mcNone o) = true := w
theorem check_cpy {h : Header} {o : EC} (w : (Instr.cpy h o).WellFormed) :
    (slotE h && ecCpy o) = true := w
theorem check_chsend {h : Header} {o : EC} (w : (Instr.chsend h o).WellFormed) :
    (slotE h && ecChan1 o) = true := w
theorem check_chrecv {h : Header} {o : EC} (w : (Instr.chrecv h o).WellFormed) :
    (slotE h && ecChan1 o) = true := w
theorem check_chred {h : Header} {o : EC} (w : (Instr.chred h o).WellFormed) :
    (slotE h && ecChan o) = true := w
theorem check_qprop {h : Header} {o : EC} (w : (Instr.qprop h o).WellFormed) :
    (slotE h && ecSlotH o) = true := w
theorem check_qver {h : Header} {o : EC} (w : (Instr.qver h o).WellFormed) :
    (slotE h && ecQver o) = true := w
theorem check_qres {h : Header} {o : EC} (w : (Instr.qres h o).WellFormed) :
    (slotE h && ecSlotH o) = true := w
theorem check_bset {h : Header} {o : EC} (w : (Instr.bset h o).WellFormed) :
    (slotE h && ecBset o) = true := w
theorem check_bget {h : Header} {o : EC} (w : (Instr.bget h o).WellFormed) :
    (slotE h && ecField o) = true := w
theorem check_sieve {h : Header} {o : EC} (w : (Instr.sieve h o).WellFormed) :
    (slotE h && ecSlotH o) = true := w
theorem check_tokz {h : Header} {o : EC} (w : (Instr.tokz h o).WellFormed) :
    (slotE h && ecSlotH o) = true := w
theorem check_detok {h : Header} {o : EC} (w : (Instr.detok h o).WellFormed) :
    (slotE h && ecSlotH o) = true := w
theorem check_gadv {h : Header} {o : EC} (w : (Instr.gadv h o).WellFormed) :
    (slotE h && ecSlotS o) = true := w
theorem check_gmask {h : Header} {o : EC} (w : (Instr.gmask h o).WellFormed) :
    (slotE h && ecGmask o) = true := w
theorem check_sltick {h : Header} {o : EC} (w : (Instr.sltick h o).WellFormed) :
    (slotE h && ecSltick o) = true := w
theorem check_slpin {h : Header} {o : EC} (w : (Instr.slpin h o).WellFormed) :
    (slotE h && ecSlotH o) = true := w
theorem check_slget {h : Header} {o : EC} (w : (Instr.slget h o).WellFormed) :
    (slotE h && ecSlotH o) = true := w
theorem check_dbar {h : Header} {o : EC} (w : (Instr.dbar h o).WellFormed) :
    (slotE h && ecNone o) = true := w

end Sys2Proof.Machine
end

