-- ==== Sys2Proof/Laws/Formats.lean ====
section
/-! SUPPORT. Each operand format and the header read back from the bits that the encoder gives them (R69, R94). -/

namespace Sys2Proof

/-- The low part of two joined bit strings. -/
theorem field_last {m n : Nat} (a : BitVec m) (b : BitVec n) : (a ++ b).extractLsb' 0 n = b := by
  apply BitVec.eq_of_getLsbD_eq
  intro i hi
  simp [BitVec.getLsbD_append, hi]

/-- A field above the low part of two joined bit strings. -/
theorem field_peel {m n : Nat} (a : BitVec m) (b : BitVec n) (k w : Nat) :
    (a ++ b).extractLsb' (n + k) w = a.extractLsb' k w := by
  apply BitVec.eq_of_getLsbD_eq
  intro i hi
  have e : n + k + i - n = k + i := by omega
  simp [BitVec.getLsbD_append, hi, e]
  omega

/-- All bits of a string. -/
theorem field_all {n : Nat} (a : BitVec n) : a.extractLsb' 0 n = a := by
  apply BitVec.eq_of_getLsbD_eq
  intro i hi
  simp [hi]

theorem CR.bits_sd (o : CR) : o.bits.extractLsb' 44 6 = o.sd :=
  (field_peel (m := 22) (n := 28) (o.sd ++ o.sa ++ o.sb ++ o.fn) 0#28 16 6).trans ((field_peel (m := 18) (n := 4)
    (o.sd ++ o.sa ++ o.sb) o.fn 12 6).trans ((field_peel (m := 12) (n := 6) (o.sd ++ o.sa) o.sb 6 6).trans
    ((field_peel (m := 6) (n := 6) (o.sd) o.sa 0 6).trans (field_all o.sd))))

theorem CR.bits_sa (o : CR) : o.bits.extractLsb' 38 6 = o.sa :=
  (field_peel (m := 22) (n := 28) (o.sd ++ o.sa ++ o.sb ++ o.fn) 0#28 10 6).trans ((field_peel (m := 18) (n := 4)
    (o.sd ++ o.sa ++ o.sb) o.fn 6 6).trans ((field_peel (m := 12) (n := 6) (o.sd ++ o.sa) o.sb 0 6).trans
    (field_last (m := 6) (o.sd) o.sa)))

theorem CR.bits_sb (o : CR) : o.bits.extractLsb' 32 6 = o.sb :=
  (field_peel (m := 22) (n := 28) (o.sd ++ o.sa ++ o.sb ++ o.fn) 0#28 4 6).trans ((field_peel (m := 18) (n := 4)
    (o.sd ++ o.sa ++ o.sb) o.fn 0 6).trans (field_last (m := 12) (o.sd ++ o.sa) o.sb))

theorem CR.bits_fn (o : CR) : o.bits.extractLsb' 28 4 = o.fn :=
  (field_peel (m := 22) (n := 28) (o.sd ++ o.sa ++ o.sb ++ o.fn) 0#28 0 4).trans (field_last (m := 18) (o.sd ++
    o.sa ++ o.sb) o.fn)

theorem CR.bits_zero4 (o : CR) : o.bits.extractLsb' 0 28 = 0#28 :=
  field_last (m := 22) (o.sd ++ o.sa ++ o.sb ++ o.fn) 0#28

theorem CR.parse_bits (o : CR) : CR.parse o.bits = some o := by
  simp only [CR.parse, CR.bits_sd o, CR.bits_sa o, CR.bits_sb o, CR.bits_fn o, CR.bits_zero4 o, if_true]

theorem CI.bits_sd (o : CI) : o.bits.extractLsb' 44 6 = o.sd :=
  (field_peel (m := 18) (n := 32) (o.sd ++ o.sa ++ o.fn ++ 0#2) o.imm 12 6).trans ((field_peel (m := 16) (n := 2)
    (o.sd ++ o.sa ++ o.fn) 0#2 10 6).trans ((field_peel (m := 12) (n := 4) (o.sd ++ o.sa) o.fn 6 6).trans
    ((field_peel (m := 6) (n := 6) (o.sd) o.sa 0 6).trans (field_all o.sd))))

theorem CI.bits_sa (o : CI) : o.bits.extractLsb' 38 6 = o.sa :=
  (field_peel (m := 18) (n := 32) (o.sd ++ o.sa ++ o.fn ++ 0#2) o.imm 6 6).trans ((field_peel (m := 16) (n := 2)
    (o.sd ++ o.sa ++ o.fn) 0#2 4 6).trans ((field_peel (m := 12) (n := 4) (o.sd ++ o.sa) o.fn 0 6).trans
    (field_last (m := 6) (o.sd) o.sa)))

theorem CI.bits_fn (o : CI) : o.bits.extractLsb' 34 4 = o.fn :=
  (field_peel (m := 18) (n := 32) (o.sd ++ o.sa ++ o.fn ++ 0#2) o.imm 2 4).trans ((field_peel (m := 16) (n := 2)
    (o.sd ++ o.sa ++ o.fn) 0#2 0 4).trans (field_last (m := 12) (o.sd ++ o.sa) o.fn))

theorem CI.bits_zero3 (o : CI) : o.bits.extractLsb' 32 2 = 0#2 :=
  (field_peel (m := 18) (n := 32) (o.sd ++ o.sa ++ o.fn ++ 0#2) o.imm 0 2).trans (field_last (m := 16) (o.sd ++
    o.sa ++ o.fn) 0#2)

theorem CI.bits_imm (o : CI) : o.bits.extractLsb' 0 32 = o.imm :=
  field_last (m := 18) (o.sd ++ o.sa ++ o.fn ++ 0#2) o.imm

theorem CI.parse_bits (o : CI) : CI.parse o.bits = some o := by
  simp only [CI.parse, CI.bits_sd o, CI.bits_sa o, CI.bits_fn o, CI.bits_zero3 o, CI.bits_imm o, if_true]

theorem CB.bits_cond (o : CB) : o.bits.extractLsb' 46 4 = o.cond :=
  (field_peel (m := 18) (n := 32) (o.cond ++ o.sa ++ 0#8) o.off 14 4).trans ((field_peel (m := 10) (n := 8) (o.cond
    ++ o.sa) 0#8 6 4).trans ((field_peel (m := 4) (n := 6) (o.cond) o.sa 0 4).trans (field_all o.cond)))

theorem CB.bits_sa (o : CB) : o.bits.extractLsb' 40 6 = o.sa :=
  (field_peel (m := 18) (n := 32) (o.cond ++ o.sa ++ 0#8) o.off 8 6).trans ((field_peel (m := 10) (n := 8) (o.cond
    ++ o.sa) 0#8 0 6).trans (field_last (m := 4) (o.cond) o.sa))

theorem CB.bits_zero2 (o : CB) : o.bits.extractLsb' 32 8 = 0#8 :=
  (field_peel (m := 18) (n := 32) (o.cond ++ o.sa ++ 0#8) o.off 0 8).trans (field_last (m := 10) (o.cond ++ o.sa) 0#8)

theorem CB.bits_off (o : CB) : o.bits.extractLsb' 0 32 = o.off :=
  field_last (m := 18) (o.cond ++ o.sa ++ 0#8) o.off

theorem CB.parse_bits (o : CB) : CB.parse o.bits = some o := by
  simp only [CB.parse, CB.bits_cond o, CB.bits_sa o, CB.bits_zero2 o, CB.bits_off o, if_true]

theorem CL.bits_isImm (o : CL) : o.bits.extractLsb' 49 1 = o.isImm :=
  (field_peel (m := 34) (n := 16) (o.isImm ++ o.level ++ o.reg ++ 0#10 ++ o.count) o.stop 33 1).trans ((field_peel
    (m := 18) (n := 16) (o.isImm ++ o.level ++ o.reg ++ 0#10) o.count 17 1).trans ((field_peel (m := 8) (n := 10)
    (o.isImm ++ o.level ++ o.reg) 0#10 7 1).trans ((field_peel (m := 2) (n := 6) (o.isImm ++ o.level) o.reg 1
    1).trans ((field_peel (m := 1) (n := 1) (o.isImm) o.level 0 1).trans (field_all o.isImm)))))

theorem CL.bits_level (o : CL) : o.bits.extractLsb' 48 1 = o.level :=
  (field_peel (m := 34) (n := 16) (o.isImm ++ o.level ++ o.reg ++ 0#10 ++ o.count) o.stop 32 1).trans ((field_peel
    (m := 18) (n := 16) (o.isImm ++ o.level ++ o.reg ++ 0#10) o.count 16 1).trans ((field_peel (m := 8) (n := 10)
    (o.isImm ++ o.level ++ o.reg) 0#10 6 1).trans ((field_peel (m := 2) (n := 6) (o.isImm ++ o.level) o.reg 0
    1).trans (field_last (m := 1) (o.isImm) o.level))))

theorem CL.bits_reg (o : CL) : o.bits.extractLsb' 42 6 = o.reg :=
  (field_peel (m := 34) (n := 16) (o.isImm ++ o.level ++ o.reg ++ 0#10 ++ o.count) o.stop 26 6).trans ((field_peel
    (m := 18) (n := 16) (o.isImm ++ o.level ++ o.reg ++ 0#10) o.count 10 6).trans ((field_peel (m := 8) (n := 10)
    (o.isImm ++ o.level ++ o.reg) 0#10 0 6).trans (field_last (m := 2) (o.isImm ++ o.level) o.reg)))

theorem CL.bits_zero3 (o : CL) : o.bits.extractLsb' 32 10 = 0#10 :=
  (field_peel (m := 34) (n := 16) (o.isImm ++ o.level ++ o.reg ++ 0#10 ++ o.count) o.stop 16 10).trans ((field_peel
    (m := 18) (n := 16) (o.isImm ++ o.level ++ o.reg ++ 0#10) o.count 0 10).trans (field_last (m := 8) (o.isImm ++
    o.level ++ o.reg) 0#10))

theorem CL.bits_count (o : CL) : o.bits.extractLsb' 16 16 = o.count :=
  (field_peel (m := 34) (n := 16) (o.isImm ++ o.level ++ o.reg ++ 0#10 ++ o.count) o.stop 0 16).trans (field_last
    (m := 18) (o.isImm ++ o.level ++ o.reg ++ 0#10) o.count)

theorem CL.bits_stop (o : CL) : o.bits.extractLsb' 0 16 = o.stop :=
  field_last (m := 34) (o.isImm ++ o.level ++ o.reg ++ 0#10 ++ o.count) o.stop

theorem CL.parse_bits (o : CL) : CL.parse o.bits = some o := by
  simp only [CL.parse, CL.bits_isImm o, CL.bits_level o, CL.bits_reg o, CL.bits_zero3 o, CL.bits_count o,
    CL.bits_stop o, if_true]

theorem CS.bits_sd (o : CS) : o.bits.extractLsb' 44 6 = o.sd :=
  (field_peel (m := 38) (n := 12) (o.sd ++ o.sa ++ o.sb ++ o.scope ++ o.clsA ++ o.clsB ++ o.imm) o.cr 32 6).trans
    ((field_peel (m := 30) (n := 8) (o.sd ++ o.sa ++ o.sb ++ o.scope ++ o.clsA ++ o.clsB) o.imm 24 6).trans
    ((field_peel (m := 26) (n := 4) (o.sd ++ o.sa ++ o.sb ++ o.scope ++ o.clsA) o.clsB 20 6).trans ((field_peel (m
    := 22) (n := 4) (o.sd ++ o.sa ++ o.sb ++ o.scope) o.clsA 16 6).trans ((field_peel (m := 18) (n := 4) (o.sd ++
    o.sa ++ o.sb) o.scope 12 6).trans ((field_peel (m := 12) (n := 6) (o.sd ++ o.sa) o.sb 6 6).trans ((field_peel
    (m := 6) (n := 6) (o.sd) o.sa 0 6).trans (field_all o.sd)))))))

theorem CS.bits_sa (o : CS) : o.bits.extractLsb' 38 6 = o.sa :=
  (field_peel (m := 38) (n := 12) (o.sd ++ o.sa ++ o.sb ++ o.scope ++ o.clsA ++ o.clsB ++ o.imm) o.cr 26 6).trans
    ((field_peel (m := 30) (n := 8) (o.sd ++ o.sa ++ o.sb ++ o.scope ++ o.clsA ++ o.clsB) o.imm 18 6).trans
    ((field_peel (m := 26) (n := 4) (o.sd ++ o.sa ++ o.sb ++ o.scope ++ o.clsA) o.clsB 14 6).trans ((field_peel (m
    := 22) (n := 4) (o.sd ++ o.sa ++ o.sb ++ o.scope) o.clsA 10 6).trans ((field_peel (m := 18) (n := 4) (o.sd ++
    o.sa ++ o.sb) o.scope 6 6).trans ((field_peel (m := 12) (n := 6) (o.sd ++ o.sa) o.sb 0 6).trans (field_last (m
    := 6) (o.sd) o.sa))))))

theorem CS.bits_sb (o : CS) : o.bits.extractLsb' 32 6 = o.sb :=
  (field_peel (m := 38) (n := 12) (o.sd ++ o.sa ++ o.sb ++ o.scope ++ o.clsA ++ o.clsB ++ o.imm) o.cr 20 6).trans
    ((field_peel (m := 30) (n := 8) (o.sd ++ o.sa ++ o.sb ++ o.scope ++ o.clsA ++ o.clsB) o.imm 12 6).trans
    ((field_peel (m := 26) (n := 4) (o.sd ++ o.sa ++ o.sb ++ o.scope ++ o.clsA) o.clsB 8 6).trans ((field_peel (m
    := 22) (n := 4) (o.sd ++ o.sa ++ o.sb ++ o.scope) o.clsA 4 6).trans ((field_peel (m := 18) (n := 4) (o.sd ++
    o.sa ++ o.sb) o.scope 0 6).trans (field_last (m := 12) (o.sd ++ o.sa) o.sb)))))

theorem CS.bits_scope (o : CS) : o.bits.extractLsb' 28 4 = o.scope :=
  (field_peel (m := 38) (n := 12) (o.sd ++ o.sa ++ o.sb ++ o.scope ++ o.clsA ++ o.clsB ++ o.imm) o.cr 16 4).trans
    ((field_peel (m := 30) (n := 8) (o.sd ++ o.sa ++ o.sb ++ o.scope ++ o.clsA ++ o.clsB) o.imm 8 4).trans
    ((field_peel (m := 26) (n := 4) (o.sd ++ o.sa ++ o.sb ++ o.scope ++ o.clsA) o.clsB 4 4).trans ((field_peel (m
    := 22) (n := 4) (o.sd ++ o.sa ++ o.sb ++ o.scope) o.clsA 0 4).trans (field_last (m := 18) (o.sd ++ o.sa ++
    o.sb) o.scope))))

theorem CS.bits_clsA (o : CS) : o.bits.extractLsb' 24 4 = o.clsA :=
  (field_peel (m := 38) (n := 12) (o.sd ++ o.sa ++ o.sb ++ o.scope ++ o.clsA ++ o.clsB ++ o.imm) o.cr 12 4).trans
    ((field_peel (m := 30) (n := 8) (o.sd ++ o.sa ++ o.sb ++ o.scope ++ o.clsA ++ o.clsB) o.imm 4 4).trans
    ((field_peel (m := 26) (n := 4) (o.sd ++ o.sa ++ o.sb ++ o.scope ++ o.clsA) o.clsB 0 4).trans (field_last (m :=
    22) (o.sd ++ o.sa ++ o.sb ++ o.scope) o.clsA)))

theorem CS.bits_clsB (o : CS) : o.bits.extractLsb' 20 4 = o.clsB :=
  (field_peel (m := 38) (n := 12) (o.sd ++ o.sa ++ o.sb ++ o.scope ++ o.clsA ++ o.clsB ++ o.imm) o.cr 8 4).trans
    ((field_peel (m := 30) (n := 8) (o.sd ++ o.sa ++ o.sb ++ o.scope ++ o.clsA ++ o.clsB) o.imm 0 4).trans
    (field_last (m := 26) (o.sd ++ o.sa ++ o.sb ++ o.scope ++ o.clsA) o.clsB))

theorem CS.bits_imm (o : CS) : o.bits.extractLsb' 12 8 = o.imm :=
  (field_peel (m := 38) (n := 12) (o.sd ++ o.sa ++ o.sb ++ o.scope ++ o.clsA ++ o.clsB ++ o.imm) o.cr 0 8).trans
    (field_last (m := 30) (o.sd ++ o.sa ++ o.sb ++ o.scope ++ o.clsA ++ o.clsB) o.imm)

theorem CS.bits_cr (o : CS) : o.bits.extractLsb' 0 12 = o.cr :=
  field_last (m := 38) (o.sd ++ o.sa ++ o.sb ++ o.scope ++ o.clsA ++ o.clsB ++ o.imm) o.cr

theorem CS.parse_bits (o : CS) : CS.parse o.bits = some o := by
  simp only [CS.parse, CS.bits_sd o, CS.bits_sa o, CS.bits_sb o, CS.bits_scope o, CS.bits_clsA o, CS.bits_clsB o,
    CS.bits_imm o, CS.bits_cr o]

theorem AM.bits_data (o : AM) : o.bits.extractLsb' 41 9 = o.data :=
  (field_peel (m := 30) (n := 20) (o.data ++ o.ai ++ o.hb ++ o.b ++ o.size ++ o.sign ++ o.ord ++ o.scope ++ o.u ++
    o.space) o.disp 21 9).trans ((field_peel (m := 28) (n := 2) (o.data ++ o.ai ++ o.hb ++ o.b ++ o.size ++ o.sign
    ++ o.ord ++ o.scope ++ o.u) o.space 19 9).trans ((field_peel (m := 27) (n := 1) (o.data ++ o.ai ++ o.hb ++ o.b
    ++ o.size ++ o.sign ++ o.ord ++ o.scope) o.u 18 9).trans ((field_peel (m := 23) (n := 4) (o.data ++ o.ai ++
    o.hb ++ o.b ++ o.size ++ o.sign ++ o.ord) o.scope 14 9).trans ((field_peel (m := 21) (n := 2) (o.data ++ o.ai
    ++ o.hb ++ o.b ++ o.size ++ o.sign) o.ord 12 9).trans ((field_peel (m := 20) (n := 1) (o.data ++ o.ai ++ o.hb
    ++ o.b ++ o.size) o.sign 11 9).trans ((field_peel (m := 18) (n := 2) (o.data ++ o.ai ++ o.hb ++ o.b) o.size 9
    9).trans ((field_peel (m := 17) (n := 1) (o.data ++ o.ai ++ o.hb) o.b 8 9).trans ((field_peel (m := 13) (n :=
    4) (o.data ++ o.ai) o.hb 4 9).trans ((field_peel (m := 9) (n := 4) (o.data) o.ai 0 9).trans (field_all
    o.data))))))))))

theorem AM.bits_ai (o : AM) : o.bits.extractLsb' 37 4 = o.ai :=
  (field_peel (m := 30) (n := 20) (o.data ++ o.ai ++ o.hb ++ o.b ++ o.size ++ o.sign ++ o.ord ++ o.scope ++ o.u ++
    o.space) o.disp 17 4).trans ((field_peel (m := 28) (n := 2) (o.data ++ o.ai ++ o.hb ++ o.b ++ o.size ++ o.sign
    ++ o.ord ++ o.scope ++ o.u) o.space 15 4).trans ((field_peel (m := 27) (n := 1) (o.data ++ o.ai ++ o.hb ++ o.b
    ++ o.size ++ o.sign ++ o.ord ++ o.scope) o.u 14 4).trans ((field_peel (m := 23) (n := 4) (o.data ++ o.ai ++
    o.hb ++ o.b ++ o.size ++ o.sign ++ o.ord) o.scope 10 4).trans ((field_peel (m := 21) (n := 2) (o.data ++ o.ai
    ++ o.hb ++ o.b ++ o.size ++ o.sign) o.ord 8 4).trans ((field_peel (m := 20) (n := 1) (o.data ++ o.ai ++ o.hb ++
    o.b ++ o.size) o.sign 7 4).trans ((field_peel (m := 18) (n := 2) (o.data ++ o.ai ++ o.hb ++ o.b) o.size 5
    4).trans ((field_peel (m := 17) (n := 1) (o.data ++ o.ai ++ o.hb) o.b 4 4).trans ((field_peel (m := 13) (n :=
    4) (o.data ++ o.ai) o.hb 0 4).trans (field_last (m := 9) (o.data) o.ai)))))))))

theorem AM.bits_hb (o : AM) : o.bits.extractLsb' 33 4 = o.hb :=
  (field_peel (m := 30) (n := 20) (o.data ++ o.ai ++ o.hb ++ o.b ++ o.size ++ o.sign ++ o.ord ++ o.scope ++ o.u ++
    o.space) o.disp 13 4).trans ((field_peel (m := 28) (n := 2) (o.data ++ o.ai ++ o.hb ++ o.b ++ o.size ++ o.sign
    ++ o.ord ++ o.scope ++ o.u) o.space 11 4).trans ((field_peel (m := 27) (n := 1) (o.data ++ o.ai ++ o.hb ++ o.b
    ++ o.size ++ o.sign ++ o.ord ++ o.scope) o.u 10 4).trans ((field_peel (m := 23) (n := 4) (o.data ++ o.ai ++
    o.hb ++ o.b ++ o.size ++ o.sign ++ o.ord) o.scope 6 4).trans ((field_peel (m := 21) (n := 2) (o.data ++ o.ai ++
    o.hb ++ o.b ++ o.size ++ o.sign) o.ord 4 4).trans ((field_peel (m := 20) (n := 1) (o.data ++ o.ai ++ o.hb ++
    o.b ++ o.size) o.sign 3 4).trans ((field_peel (m := 18) (n := 2) (o.data ++ o.ai ++ o.hb ++ o.b) o.size 1
    4).trans ((field_peel (m := 17) (n := 1) (o.data ++ o.ai ++ o.hb) o.b 0 4).trans (field_last (m := 13) (o.data
    ++ o.ai) o.hb))))))))

theorem AM.bits_b (o : AM) : o.bits.extractLsb' 32 1 = o.b :=
  (field_peel (m := 30) (n := 20) (o.data ++ o.ai ++ o.hb ++ o.b ++ o.size ++ o.sign ++ o.ord ++ o.scope ++ o.u ++
    o.space) o.disp 12 1).trans ((field_peel (m := 28) (n := 2) (o.data ++ o.ai ++ o.hb ++ o.b ++ o.size ++ o.sign
    ++ o.ord ++ o.scope ++ o.u) o.space 10 1).trans ((field_peel (m := 27) (n := 1) (o.data ++ o.ai ++ o.hb ++ o.b
    ++ o.size ++ o.sign ++ o.ord ++ o.scope) o.u 9 1).trans ((field_peel (m := 23) (n := 4) (o.data ++ o.ai ++ o.hb
    ++ o.b ++ o.size ++ o.sign ++ o.ord) o.scope 5 1).trans ((field_peel (m := 21) (n := 2) (o.data ++ o.ai ++ o.hb
    ++ o.b ++ o.size ++ o.sign) o.ord 3 1).trans ((field_peel (m := 20) (n := 1) (o.data ++ o.ai ++ o.hb ++ o.b ++
    o.size) o.sign 2 1).trans ((field_peel (m := 18) (n := 2) (o.data ++ o.ai ++ o.hb ++ o.b) o.size 0 1).trans
    (field_last (m := 17) (o.data ++ o.ai ++ o.hb) o.b)))))))

theorem AM.bits_size (o : AM) : o.bits.extractLsb' 30 2 = o.size :=
  (field_peel (m := 30) (n := 20) (o.data ++ o.ai ++ o.hb ++ o.b ++ o.size ++ o.sign ++ o.ord ++ o.scope ++ o.u ++
    o.space) o.disp 10 2).trans ((field_peel (m := 28) (n := 2) (o.data ++ o.ai ++ o.hb ++ o.b ++ o.size ++ o.sign
    ++ o.ord ++ o.scope ++ o.u) o.space 8 2).trans ((field_peel (m := 27) (n := 1) (o.data ++ o.ai ++ o.hb ++ o.b
    ++ o.size ++ o.sign ++ o.ord ++ o.scope) o.u 7 2).trans ((field_peel (m := 23) (n := 4) (o.data ++ o.ai ++ o.hb
    ++ o.b ++ o.size ++ o.sign ++ o.ord) o.scope 3 2).trans ((field_peel (m := 21) (n := 2) (o.data ++ o.ai ++ o.hb
    ++ o.b ++ o.size ++ o.sign) o.ord 1 2).trans ((field_peel (m := 20) (n := 1) (o.data ++ o.ai ++ o.hb ++ o.b ++
    o.size) o.sign 0 2).trans (field_last (m := 18) (o.data ++ o.ai ++ o.hb ++ o.b) o.size))))))

theorem AM.bits_sign (o : AM) : o.bits.extractLsb' 29 1 = o.sign :=
  (field_peel (m := 30) (n := 20) (o.data ++ o.ai ++ o.hb ++ o.b ++ o.size ++ o.sign ++ o.ord ++ o.scope ++ o.u ++
    o.space) o.disp 9 1).trans ((field_peel (m := 28) (n := 2) (o.data ++ o.ai ++ o.hb ++ o.b ++ o.size ++ o.sign
    ++ o.ord ++ o.scope ++ o.u) o.space 7 1).trans ((field_peel (m := 27) (n := 1) (o.data ++ o.ai ++ o.hb ++ o.b
    ++ o.size ++ o.sign ++ o.ord ++ o.scope) o.u 6 1).trans ((field_peel (m := 23) (n := 4) (o.data ++ o.ai ++ o.hb
    ++ o.b ++ o.size ++ o.sign ++ o.ord) o.scope 2 1).trans ((field_peel (m := 21) (n := 2) (o.data ++ o.ai ++ o.hb
    ++ o.b ++ o.size ++ o.sign) o.ord 0 1).trans (field_last (m := 20) (o.data ++ o.ai ++ o.hb ++ o.b ++ o.size)
    o.sign)))))

theorem AM.bits_ord (o : AM) : o.bits.extractLsb' 27 2 = o.ord :=
  (field_peel (m := 30) (n := 20) (o.data ++ o.ai ++ o.hb ++ o.b ++ o.size ++ o.sign ++ o.ord ++ o.scope ++ o.u ++
    o.space) o.disp 7 2).trans ((field_peel (m := 28) (n := 2) (o.data ++ o.ai ++ o.hb ++ o.b ++ o.size ++ o.sign
    ++ o.ord ++ o.scope ++ o.u) o.space 5 2).trans ((field_peel (m := 27) (n := 1) (o.data ++ o.ai ++ o.hb ++ o.b
    ++ o.size ++ o.sign ++ o.ord ++ o.scope) o.u 4 2).trans ((field_peel (m := 23) (n := 4) (o.data ++ o.ai ++ o.hb
    ++ o.b ++ o.size ++ o.sign ++ o.ord) o.scope 0 2).trans (field_last (m := 21) (o.data ++ o.ai ++ o.hb ++ o.b ++
    o.size ++ o.sign) o.ord))))

theorem AM.bits_scope (o : AM) : o.bits.extractLsb' 23 4 = o.scope :=
  (field_peel (m := 30) (n := 20) (o.data ++ o.ai ++ o.hb ++ o.b ++ o.size ++ o.sign ++ o.ord ++ o.scope ++ o.u ++
    o.space) o.disp 3 4).trans ((field_peel (m := 28) (n := 2) (o.data ++ o.ai ++ o.hb ++ o.b ++ o.size ++ o.sign
    ++ o.ord ++ o.scope ++ o.u) o.space 1 4).trans ((field_peel (m := 27) (n := 1) (o.data ++ o.ai ++ o.hb ++ o.b
    ++ o.size ++ o.sign ++ o.ord ++ o.scope) o.u 0 4).trans (field_last (m := 23) (o.data ++ o.ai ++ o.hb ++ o.b ++
    o.size ++ o.sign ++ o.ord) o.scope)))

theorem AM.bits_u (o : AM) : o.bits.extractLsb' 22 1 = o.u :=
  (field_peel (m := 30) (n := 20) (o.data ++ o.ai ++ o.hb ++ o.b ++ o.size ++ o.sign ++ o.ord ++ o.scope ++ o.u ++
    o.space) o.disp 2 1).trans ((field_peel (m := 28) (n := 2) (o.data ++ o.ai ++ o.hb ++ o.b ++ o.size ++ o.sign
    ++ o.ord ++ o.scope ++ o.u) o.space 0 1).trans (field_last (m := 27) (o.data ++ o.ai ++ o.hb ++ o.b ++ o.size
    ++ o.sign ++ o.ord ++ o.scope) o.u))

theorem AM.bits_space (o : AM) : o.bits.extractLsb' 20 2 = o.space :=
  (field_peel (m := 30) (n := 20) (o.data ++ o.ai ++ o.hb ++ o.b ++ o.size ++ o.sign ++ o.ord ++ o.scope ++ o.u ++
    o.space) o.disp 0 2).trans (field_last (m := 28) (o.data ++ o.ai ++ o.hb ++ o.b ++ o.size ++ o.sign ++ o.ord ++
    o.scope ++ o.u) o.space)

theorem AM.bits_disp (o : AM) : o.bits.extractLsb' 0 20 = o.disp :=
  field_last (m := 30) (o.data ++ o.ai ++ o.hb ++ o.b ++ o.size ++ o.sign ++ o.ord ++ o.scope ++ o.u ++ o.space) o.disp

theorem AM.parse_bits (o : AM) : AM.parse o.bits = some o := by
  simp only [AM.parse, AM.bits_data o, AM.bits_ai o, AM.bits_hb o, AM.bits_b o, AM.bits_size o, AM.bits_sign o,
    AM.bits_ord o, AM.bits_scope o, AM.bits_u o, AM.bits_space o, AM.bits_disp o]

theorem AA.bits_ad (o : AA) : o.bits.extractLsb' 46 4 = o.ad :=
  (field_peel (m := 18) (n := 32) (o.ad ++ o.aa ++ o.ss ++ o.fn) o.imm 14 4).trans ((field_peel (m := 14) (n := 4)
    (o.ad ++ o.aa ++ o.ss) o.fn 10 4).trans ((field_peel (m := 8) (n := 6) (o.ad ++ o.aa) o.ss 4 4).trans
    ((field_peel (m := 4) (n := 4) (o.ad) o.aa 0 4).trans (field_all o.ad))))

theorem AA.bits_aa (o : AA) : o.bits.extractLsb' 42 4 = o.aa :=
  (field_peel (m := 18) (n := 32) (o.ad ++ o.aa ++ o.ss ++ o.fn) o.imm 10 4).trans ((field_peel (m := 14) (n := 4)
    (o.ad ++ o.aa ++ o.ss) o.fn 6 4).trans ((field_peel (m := 8) (n := 6) (o.ad ++ o.aa) o.ss 0 4).trans
    (field_last (m := 4) (o.ad) o.aa)))

theorem AA.bits_ss (o : AA) : o.bits.extractLsb' 36 6 = o.ss :=
  (field_peel (m := 18) (n := 32) (o.ad ++ o.aa ++ o.ss ++ o.fn) o.imm 4 6).trans ((field_peel (m := 14) (n := 4)
    (o.ad ++ o.aa ++ o.ss) o.fn 0 6).trans (field_last (m := 8) (o.ad ++ o.aa) o.ss))

theorem AA.bits_fn (o : AA) : o.bits.extractLsb' 32 4 = o.fn :=
  (field_peel (m := 18) (n := 32) (o.ad ++ o.aa ++ o.ss ++ o.fn) o.imm 0 4).trans (field_last (m := 14) (o.ad ++
    o.aa ++ o.ss) o.fn)

theorem AA.bits_imm (o : AA) : o.bits.extractLsb' 0 32 = o.imm :=
  field_last (m := 18) (o.ad ++ o.aa ++ o.ss ++ o.fn) o.imm

theorem AA.parse_bits (o : AA) : AA.parse o.bits = some o := by
  simp only [AA.parse, AA.bits_ad o, AA.bits_aa o, AA.bits_ss o, AA.bits_fn o, AA.bits_imm o]

theorem AT.bits_sd (o : AT) : o.bits.extractLsb' 44 6 = o.sd :=
  (field_peel (m := 41) (n := 9) (o.sd ++ o.ss ++ o.sc ++ o.ai ++ o.hb ++ o.b ++ o.op ++ o.size ++ o.ord ++ o.scope
    ++ o.space) 0#9 35 6).trans ((field_peel (m := 39) (n := 2) (o.sd ++ o.ss ++ o.sc ++ o.ai ++ o.hb ++ o.b ++
    o.op ++ o.size ++ o.ord ++ o.scope) o.space 33 6).trans ((field_peel (m := 35) (n := 4) (o.sd ++ o.ss ++ o.sc
    ++ o.ai ++ o.hb ++ o.b ++ o.op ++ o.size ++ o.ord) o.scope 29 6).trans ((field_peel (m := 33) (n := 2) (o.sd ++
    o.ss ++ o.sc ++ o.ai ++ o.hb ++ o.b ++ o.op ++ o.size) o.ord 27 6).trans ((field_peel (m := 31) (n := 2) (o.sd
    ++ o.ss ++ o.sc ++ o.ai ++ o.hb ++ o.b ++ o.op) o.size 25 6).trans ((field_peel (m := 27) (n := 4) (o.sd ++
    o.ss ++ o.sc ++ o.ai ++ o.hb ++ o.b) o.op 21 6).trans ((field_peel (m := 26) (n := 1) (o.sd ++ o.ss ++ o.sc ++
    o.ai ++ o.hb) o.b 20 6).trans ((field_peel (m := 22) (n := 4) (o.sd ++ o.ss ++ o.sc ++ o.ai) o.hb 16 6).trans
    ((field_peel (m := 18) (n := 4) (o.sd ++ o.ss ++ o.sc) o.ai 12 6).trans ((field_peel (m := 12) (n := 6) (o.sd
    ++ o.ss) o.sc 6 6).trans ((field_peel (m := 6) (n := 6) (o.sd) o.ss 0 6).trans (field_all o.sd)))))))))))

theorem AT.bits_ss (o : AT) : o.bits.extractLsb' 38 6 = o.ss :=
  (field_peel (m := 41) (n := 9) (o.sd ++ o.ss ++ o.sc ++ o.ai ++ o.hb ++ o.b ++ o.op ++ o.size ++ o.ord ++ o.scope
    ++ o.space) 0#9 29 6).trans ((field_peel (m := 39) (n := 2) (o.sd ++ o.ss ++ o.sc ++ o.ai ++ o.hb ++ o.b ++
    o.op ++ o.size ++ o.ord ++ o.scope) o.space 27 6).trans ((field_peel (m := 35) (n := 4) (o.sd ++ o.ss ++ o.sc
    ++ o.ai ++ o.hb ++ o.b ++ o.op ++ o.size ++ o.ord) o.scope 23 6).trans ((field_peel (m := 33) (n := 2) (o.sd ++
    o.ss ++ o.sc ++ o.ai ++ o.hb ++ o.b ++ o.op ++ o.size) o.ord 21 6).trans ((field_peel (m := 31) (n := 2) (o.sd
    ++ o.ss ++ o.sc ++ o.ai ++ o.hb ++ o.b ++ o.op) o.size 19 6).trans ((field_peel (m := 27) (n := 4) (o.sd ++
    o.ss ++ o.sc ++ o.ai ++ o.hb ++ o.b) o.op 15 6).trans ((field_peel (m := 26) (n := 1) (o.sd ++ o.ss ++ o.sc ++
    o.ai ++ o.hb) o.b 14 6).trans ((field_peel (m := 22) (n := 4) (o.sd ++ o.ss ++ o.sc ++ o.ai) o.hb 10 6).trans
    ((field_peel (m := 18) (n := 4) (o.sd ++ o.ss ++ o.sc) o.ai 6 6).trans ((field_peel (m := 12) (n := 6) (o.sd ++
    o.ss) o.sc 0 6).trans (field_last (m := 6) (o.sd) o.ss))))))))))

theorem AT.bits_sc (o : AT) : o.bits.extractLsb' 32 6 = o.sc :=
  (field_peel (m := 41) (n := 9) (o.sd ++ o.ss ++ o.sc ++ o.ai ++ o.hb ++ o.b ++ o.op ++ o.size ++ o.ord ++ o.scope
    ++ o.space) 0#9 23 6).trans ((field_peel (m := 39) (n := 2) (o.sd ++ o.ss ++ o.sc ++ o.ai ++ o.hb ++ o.b ++
    o.op ++ o.size ++ o.ord ++ o.scope) o.space 21 6).trans ((field_peel (m := 35) (n := 4) (o.sd ++ o.ss ++ o.sc
    ++ o.ai ++ o.hb ++ o.b ++ o.op ++ o.size ++ o.ord) o.scope 17 6).trans ((field_peel (m := 33) (n := 2) (o.sd ++
    o.ss ++ o.sc ++ o.ai ++ o.hb ++ o.b ++ o.op ++ o.size) o.ord 15 6).trans ((field_peel (m := 31) (n := 2) (o.sd
    ++ o.ss ++ o.sc ++ o.ai ++ o.hb ++ o.b ++ o.op) o.size 13 6).trans ((field_peel (m := 27) (n := 4) (o.sd ++
    o.ss ++ o.sc ++ o.ai ++ o.hb ++ o.b) o.op 9 6).trans ((field_peel (m := 26) (n := 1) (o.sd ++ o.ss ++ o.sc ++
    o.ai ++ o.hb) o.b 8 6).trans ((field_peel (m := 22) (n := 4) (o.sd ++ o.ss ++ o.sc ++ o.ai) o.hb 4 6).trans
    ((field_peel (m := 18) (n := 4) (o.sd ++ o.ss ++ o.sc) o.ai 0 6).trans (field_last (m := 12) (o.sd ++ o.ss)
    o.sc)))))))))

theorem AT.bits_ai (o : AT) : o.bits.extractLsb' 28 4 = o.ai :=
  (field_peel (m := 41) (n := 9) (o.sd ++ o.ss ++ o.sc ++ o.ai ++ o.hb ++ o.b ++ o.op ++ o.size ++ o.ord ++ o.scope
    ++ o.space) 0#9 19 4).trans ((field_peel (m := 39) (n := 2) (o.sd ++ o.ss ++ o.sc ++ o.ai ++ o.hb ++ o.b ++
    o.op ++ o.size ++ o.ord ++ o.scope) o.space 17 4).trans ((field_peel (m := 35) (n := 4) (o.sd ++ o.ss ++ o.sc
    ++ o.ai ++ o.hb ++ o.b ++ o.op ++ o.size ++ o.ord) o.scope 13 4).trans ((field_peel (m := 33) (n := 2) (o.sd ++
    o.ss ++ o.sc ++ o.ai ++ o.hb ++ o.b ++ o.op ++ o.size) o.ord 11 4).trans ((field_peel (m := 31) (n := 2) (o.sd
    ++ o.ss ++ o.sc ++ o.ai ++ o.hb ++ o.b ++ o.op) o.size 9 4).trans ((field_peel (m := 27) (n := 4) (o.sd ++ o.ss
    ++ o.sc ++ o.ai ++ o.hb ++ o.b) o.op 5 4).trans ((field_peel (m := 26) (n := 1) (o.sd ++ o.ss ++ o.sc ++ o.ai
    ++ o.hb) o.b 4 4).trans ((field_peel (m := 22) (n := 4) (o.sd ++ o.ss ++ o.sc ++ o.ai) o.hb 0 4).trans
    (field_last (m := 18) (o.sd ++ o.ss ++ o.sc) o.ai))))))))

theorem AT.bits_hb (o : AT) : o.bits.extractLsb' 24 4 = o.hb :=
  (field_peel (m := 41) (n := 9) (o.sd ++ o.ss ++ o.sc ++ o.ai ++ o.hb ++ o.b ++ o.op ++ o.size ++ o.ord ++ o.scope
    ++ o.space) 0#9 15 4).trans ((field_peel (m := 39) (n := 2) (o.sd ++ o.ss ++ o.sc ++ o.ai ++ o.hb ++ o.b ++
    o.op ++ o.size ++ o.ord ++ o.scope) o.space 13 4).trans ((field_peel (m := 35) (n := 4) (o.sd ++ o.ss ++ o.sc
    ++ o.ai ++ o.hb ++ o.b ++ o.op ++ o.size ++ o.ord) o.scope 9 4).trans ((field_peel (m := 33) (n := 2) (o.sd ++
    o.ss ++ o.sc ++ o.ai ++ o.hb ++ o.b ++ o.op ++ o.size) o.ord 7 4).trans ((field_peel (m := 31) (n := 2) (o.sd
    ++ o.ss ++ o.sc ++ o.ai ++ o.hb ++ o.b ++ o.op) o.size 5 4).trans ((field_peel (m := 27) (n := 4) (o.sd ++ o.ss
    ++ o.sc ++ o.ai ++ o.hb ++ o.b) o.op 1 4).trans ((field_peel (m := 26) (n := 1) (o.sd ++ o.ss ++ o.sc ++ o.ai
    ++ o.hb) o.b 0 4).trans (field_last (m := 22) (o.sd ++ o.ss ++ o.sc ++ o.ai) o.hb)))))))

theorem AT.bits_b (o : AT) : o.bits.extractLsb' 23 1 = o.b :=
  (field_peel (m := 41) (n := 9) (o.sd ++ o.ss ++ o.sc ++ o.ai ++ o.hb ++ o.b ++ o.op ++ o.size ++ o.ord ++ o.scope
    ++ o.space) 0#9 14 1).trans ((field_peel (m := 39) (n := 2) (o.sd ++ o.ss ++ o.sc ++ o.ai ++ o.hb ++ o.b ++
    o.op ++ o.size ++ o.ord ++ o.scope) o.space 12 1).trans ((field_peel (m := 35) (n := 4) (o.sd ++ o.ss ++ o.sc
    ++ o.ai ++ o.hb ++ o.b ++ o.op ++ o.size ++ o.ord) o.scope 8 1).trans ((field_peel (m := 33) (n := 2) (o.sd ++
    o.ss ++ o.sc ++ o.ai ++ o.hb ++ o.b ++ o.op ++ o.size) o.ord 6 1).trans ((field_peel (m := 31) (n := 2) (o.sd
    ++ o.ss ++ o.sc ++ o.ai ++ o.hb ++ o.b ++ o.op) o.size 4 1).trans ((field_peel (m := 27) (n := 4) (o.sd ++ o.ss
    ++ o.sc ++ o.ai ++ o.hb ++ o.b) o.op 0 1).trans (field_last (m := 26) (o.sd ++ o.ss ++ o.sc ++ o.ai ++ o.hb)
    o.b))))))

theorem AT.bits_op (o : AT) : o.bits.extractLsb' 19 4 = o.op :=
  (field_peel (m := 41) (n := 9) (o.sd ++ o.ss ++ o.sc ++ o.ai ++ o.hb ++ o.b ++ o.op ++ o.size ++ o.ord ++ o.scope
    ++ o.space) 0#9 10 4).trans ((field_peel (m := 39) (n := 2) (o.sd ++ o.ss ++ o.sc ++ o.ai ++ o.hb ++ o.b ++
    o.op ++ o.size ++ o.ord ++ o.scope) o.space 8 4).trans ((field_peel (m := 35) (n := 4) (o.sd ++ o.ss ++ o.sc ++
    o.ai ++ o.hb ++ o.b ++ o.op ++ o.size ++ o.ord) o.scope 4 4).trans ((field_peel (m := 33) (n := 2) (o.sd ++
    o.ss ++ o.sc ++ o.ai ++ o.hb ++ o.b ++ o.op ++ o.size) o.ord 2 4).trans ((field_peel (m := 31) (n := 2) (o.sd
    ++ o.ss ++ o.sc ++ o.ai ++ o.hb ++ o.b ++ o.op) o.size 0 4).trans (field_last (m := 27) (o.sd ++ o.ss ++ o.sc
    ++ o.ai ++ o.hb ++ o.b) o.op)))))

theorem AT.bits_size (o : AT) : o.bits.extractLsb' 17 2 = o.size :=
  (field_peel (m := 41) (n := 9) (o.sd ++ o.ss ++ o.sc ++ o.ai ++ o.hb ++ o.b ++ o.op ++ o.size ++ o.ord ++ o.scope
    ++ o.space) 0#9 8 2).trans ((field_peel (m := 39) (n := 2) (o.sd ++ o.ss ++ o.sc ++ o.ai ++ o.hb ++ o.b ++ o.op
    ++ o.size ++ o.ord ++ o.scope) o.space 6 2).trans ((field_peel (m := 35) (n := 4) (o.sd ++ o.ss ++ o.sc ++ o.ai
    ++ o.hb ++ o.b ++ o.op ++ o.size ++ o.ord) o.scope 2 2).trans ((field_peel (m := 33) (n := 2) (o.sd ++ o.ss ++
    o.sc ++ o.ai ++ o.hb ++ o.b ++ o.op ++ o.size) o.ord 0 2).trans (field_last (m := 31) (o.sd ++ o.ss ++ o.sc ++
    o.ai ++ o.hb ++ o.b ++ o.op) o.size))))

theorem AT.bits_ord (o : AT) : o.bits.extractLsb' 15 2 = o.ord :=
  (field_peel (m := 41) (n := 9) (o.sd ++ o.ss ++ o.sc ++ o.ai ++ o.hb ++ o.b ++ o.op ++ o.size ++ o.ord ++ o.scope
    ++ o.space) 0#9 6 2).trans ((field_peel (m := 39) (n := 2) (o.sd ++ o.ss ++ o.sc ++ o.ai ++ o.hb ++ o.b ++ o.op
    ++ o.size ++ o.ord ++ o.scope) o.space 4 2).trans ((field_peel (m := 35) (n := 4) (o.sd ++ o.ss ++ o.sc ++ o.ai
    ++ o.hb ++ o.b ++ o.op ++ o.size ++ o.ord) o.scope 0 2).trans (field_last (m := 33) (o.sd ++ o.ss ++ o.sc ++
    o.ai ++ o.hb ++ o.b ++ o.op ++ o.size) o.ord)))

theorem AT.bits_scope (o : AT) : o.bits.extractLsb' 11 4 = o.scope :=
  (field_peel (m := 41) (n := 9) (o.sd ++ o.ss ++ o.sc ++ o.ai ++ o.hb ++ o.b ++ o.op ++ o.size ++ o.ord ++ o.scope
    ++ o.space) 0#9 2 4).trans ((field_peel (m := 39) (n := 2) (o.sd ++ o.ss ++ o.sc ++ o.ai ++ o.hb ++ o.b ++ o.op
    ++ o.size ++ o.ord ++ o.scope) o.space 0 4).trans (field_last (m := 35) (o.sd ++ o.ss ++ o.sc ++ o.ai ++ o.hb
    ++ o.b ++ o.op ++ o.size ++ o.ord) o.scope))

theorem AT.bits_space (o : AT) : o.bits.extractLsb' 9 2 = o.space :=
  (field_peel (m := 41) (n := 9) (o.sd ++ o.ss ++ o.sc ++ o.ai ++ o.hb ++ o.b ++ o.op ++ o.size ++ o.ord ++ o.scope
    ++ o.space) 0#9 0 2).trans (field_last (m := 39) (o.sd ++ o.ss ++ o.sc ++ o.ai ++ o.hb ++ o.b ++ o.op ++ o.size
    ++ o.ord ++ o.scope) o.space)

theorem AT.bits_zero11 (o : AT) : o.bits.extractLsb' 0 9 = 0#9 :=
  field_last (m := 41) (o.sd ++ o.ss ++ o.sc ++ o.ai ++ o.hb ++ o.b ++ o.op ++ o.size ++ o.ord ++ o.scope ++
    o.space) 0#9

theorem AT.parse_bits (o : AT) : AT.parse o.bits = some o := by
  simp only [AT.parse, AT.bits_sd o, AT.bits_ss o, AT.bits_sc o, AT.bits_ai o, AT.bits_hb o, AT.bits_b o,
    AT.bits_op o, AT.bits_size o, AT.bits_ord o, AT.bits_scope o, AT.bits_space o, AT.bits_zero11 o, if_true]

theorem AH.bits_hd (o : AH) : o.bits.extractLsb' 46 4 = o.hd :=
  (field_peel (m := 18) (n := 32) (o.hd ++ o.hs ++ o.ss ++ o.id) o.imm 14 4).trans ((field_peel (m := 14) (n := 4)
    (o.hd ++ o.hs ++ o.ss) o.id 10 4).trans ((field_peel (m := 8) (n := 6) (o.hd ++ o.hs) o.ss 4 4).trans
    ((field_peel (m := 4) (n := 4) (o.hd) o.hs 0 4).trans (field_all o.hd))))

theorem AH.bits_hs (o : AH) : o.bits.extractLsb' 42 4 = o.hs :=
  (field_peel (m := 18) (n := 32) (o.hd ++ o.hs ++ o.ss ++ o.id) o.imm 10 4).trans ((field_peel (m := 14) (n := 4)
    (o.hd ++ o.hs ++ o.ss) o.id 6 4).trans ((field_peel (m := 8) (n := 6) (o.hd ++ o.hs) o.ss 0 4).trans
    (field_last (m := 4) (o.hd) o.hs)))

theorem AH.bits_ss (o : AH) : o.bits.extractLsb' 36 6 = o.ss :=
  (field_peel (m := 18) (n := 32) (o.hd ++ o.hs ++ o.ss ++ o.id) o.imm 4 6).trans ((field_peel (m := 14) (n := 4)
    (o.hd ++ o.hs ++ o.ss) o.id 0 6).trans (field_last (m := 8) (o.hd ++ o.hs) o.ss))

theorem AH.bits_id (o : AH) : o.bits.extractLsb' 32 4 = o.id :=
  (field_peel (m := 18) (n := 32) (o.hd ++ o.hs ++ o.ss ++ o.id) o.imm 0 4).trans (field_last (m := 14) (o.hd ++
    o.hs ++ o.ss) o.id)

theorem AH.bits_imm (o : AH) : o.bits.extractLsb' 0 32 = o.imm :=
  field_last (m := 18) (o.hd ++ o.hs ++ o.ss ++ o.id) o.imm

theorem AH.parse_bits (o : AH) : AH.parse o.bits = some o := by
  simp only [AH.parse, AH.bits_hd o, AH.bits_hs o, AH.bits_ss o, AH.bits_id o, AH.bits_imm o]

theorem VR.bits_vd (o : VR) : o.bits.extractLsb' 41 9 = o.vd :=
  (field_peel (m := 48) (n := 2) (o.vd ++ o.va ++ o.vb ++ o.k ++ o.ty ++ o.negA ++ o.negB ++ o.absA ++ o.absB ++
    o.sat ++ o.clamp ++ o.scale ++ o.rnd) o.bc 39 9).trans ((field_peel (m := 45) (n := 3) (o.vd ++ o.va ++ o.vb ++
    o.k ++ o.ty ++ o.negA ++ o.negB ++ o.absA ++ o.absB ++ o.sat ++ o.clamp ++ o.scale) o.rnd 36 9).trans
    ((field_peel (m := 40) (n := 5) (o.vd ++ o.va ++ o.vb ++ o.k ++ o.ty ++ o.negA ++ o.negB ++ o.absA ++ o.absB ++
    o.sat ++ o.clamp) o.scale 31 9).trans ((field_peel (m := 39) (n := 1) (o.vd ++ o.va ++ o.vb ++ o.k ++ o.ty ++
    o.negA ++ o.negB ++ o.absA ++ o.absB ++ o.sat) o.clamp 30 9).trans ((field_peel (m := 38) (n := 1) (o.vd ++
    o.va ++ o.vb ++ o.k ++ o.ty ++ o.negA ++ o.negB ++ o.absA ++ o.absB) o.sat 29 9).trans ((field_peel (m := 37)
    (n := 1) (o.vd ++ o.va ++ o.vb ++ o.k ++ o.ty ++ o.negA ++ o.negB ++ o.absA) o.absB 28 9).trans ((field_peel (m
    := 36) (n := 1) (o.vd ++ o.va ++ o.vb ++ o.k ++ o.ty ++ o.negA ++ o.negB) o.absA 27 9).trans ((field_peel (m :=
    35) (n := 1) (o.vd ++ o.va ++ o.vb ++ o.k ++ o.ty ++ o.negA) o.negB 26 9).trans ((field_peel (m := 34) (n := 1)
    (o.vd ++ o.va ++ o.vb ++ o.k ++ o.ty) o.negA 25 9).trans ((field_peel (m := 30) (n := 4) (o.vd ++ o.va ++ o.vb
    ++ o.k) o.ty 21 9).trans ((field_peel (m := 27) (n := 3) (o.vd ++ o.va ++ o.vb) o.k 18 9).trans ((field_peel (m
    := 18) (n := 9) (o.vd ++ o.va) o.vb 9 9).trans ((field_peel (m := 9) (n := 9) (o.vd) o.va 0 9).trans (field_all
    o.vd)))))))))))))

theorem VR.bits_va (o : VR) : o.bits.extractLsb' 32 9 = o.va :=
  (field_peel (m := 48) (n := 2) (o.vd ++ o.va ++ o.vb ++ o.k ++ o.ty ++ o.negA ++ o.negB ++ o.absA ++ o.absB ++
    o.sat ++ o.clamp ++ o.scale ++ o.rnd) o.bc 30 9).trans ((field_peel (m := 45) (n := 3) (o.vd ++ o.va ++ o.vb ++
    o.k ++ o.ty ++ o.negA ++ o.negB ++ o.absA ++ o.absB ++ o.sat ++ o.clamp ++ o.scale) o.rnd 27 9).trans
    ((field_peel (m := 40) (n := 5) (o.vd ++ o.va ++ o.vb ++ o.k ++ o.ty ++ o.negA ++ o.negB ++ o.absA ++ o.absB ++
    o.sat ++ o.clamp) o.scale 22 9).trans ((field_peel (m := 39) (n := 1) (o.vd ++ o.va ++ o.vb ++ o.k ++ o.ty ++
    o.negA ++ o.negB ++ o.absA ++ o.absB ++ o.sat) o.clamp 21 9).trans ((field_peel (m := 38) (n := 1) (o.vd ++
    o.va ++ o.vb ++ o.k ++ o.ty ++ o.negA ++ o.negB ++ o.absA ++ o.absB) o.sat 20 9).trans ((field_peel (m := 37)
    (n := 1) (o.vd ++ o.va ++ o.vb ++ o.k ++ o.ty ++ o.negA ++ o.negB ++ o.absA) o.absB 19 9).trans ((field_peel (m
    := 36) (n := 1) (o.vd ++ o.va ++ o.vb ++ o.k ++ o.ty ++ o.negA ++ o.negB) o.absA 18 9).trans ((field_peel (m :=
    35) (n := 1) (o.vd ++ o.va ++ o.vb ++ o.k ++ o.ty ++ o.negA) o.negB 17 9).trans ((field_peel (m := 34) (n := 1)
    (o.vd ++ o.va ++ o.vb ++ o.k ++ o.ty) o.negA 16 9).trans ((field_peel (m := 30) (n := 4) (o.vd ++ o.va ++ o.vb
    ++ o.k) o.ty 12 9).trans ((field_peel (m := 27) (n := 3) (o.vd ++ o.va ++ o.vb) o.k 9 9).trans ((field_peel (m
    := 18) (n := 9) (o.vd ++ o.va) o.vb 0 9).trans (field_last (m := 9) (o.vd) o.va))))))))))))

theorem VR.bits_vb (o : VR) : o.bits.extractLsb' 23 9 = o.vb :=
  (field_peel (m := 48) (n := 2) (o.vd ++ o.va ++ o.vb ++ o.k ++ o.ty ++ o.negA ++ o.negB ++ o.absA ++ o.absB ++
    o.sat ++ o.clamp ++ o.scale ++ o.rnd) o.bc 21 9).trans ((field_peel (m := 45) (n := 3) (o.vd ++ o.va ++ o.vb ++
    o.k ++ o.ty ++ o.negA ++ o.negB ++ o.absA ++ o.absB ++ o.sat ++ o.clamp ++ o.scale) o.rnd 18 9).trans
    ((field_peel (m := 40) (n := 5) (o.vd ++ o.va ++ o.vb ++ o.k ++ o.ty ++ o.negA ++ o.negB ++ o.absA ++ o.absB ++
    o.sat ++ o.clamp) o.scale 13 9).trans ((field_peel (m := 39) (n := 1) (o.vd ++ o.va ++ o.vb ++ o.k ++ o.ty ++
    o.negA ++ o.negB ++ o.absA ++ o.absB ++ o.sat) o.clamp 12 9).trans ((field_peel (m := 38) (n := 1) (o.vd ++
    o.va ++ o.vb ++ o.k ++ o.ty ++ o.negA ++ o.negB ++ o.absA ++ o.absB) o.sat 11 9).trans ((field_peel (m := 37)
    (n := 1) (o.vd ++ o.va ++ o.vb ++ o.k ++ o.ty ++ o.negA ++ o.negB ++ o.absA) o.absB 10 9).trans ((field_peel (m
    := 36) (n := 1) (o.vd ++ o.va ++ o.vb ++ o.k ++ o.ty ++ o.negA ++ o.negB) o.absA 9 9).trans ((field_peel (m :=
    35) (n := 1) (o.vd ++ o.va ++ o.vb ++ o.k ++ o.ty ++ o.negA) o.negB 8 9).trans ((field_peel (m := 34) (n := 1)
    (o.vd ++ o.va ++ o.vb ++ o.k ++ o.ty) o.negA 7 9).trans ((field_peel (m := 30) (n := 4) (o.vd ++ o.va ++ o.vb
    ++ o.k) o.ty 3 9).trans ((field_peel (m := 27) (n := 3) (o.vd ++ o.va ++ o.vb) o.k 0 9).trans (field_last (m :=
    18) (o.vd ++ o.va) o.vb)))))))))))

theorem VR.bits_k (o : VR) : o.bits.extractLsb' 20 3 = o.k :=
  (field_peel (m := 48) (n := 2) (o.vd ++ o.va ++ o.vb ++ o.k ++ o.ty ++ o.negA ++ o.negB ++ o.absA ++ o.absB ++
    o.sat ++ o.clamp ++ o.scale ++ o.rnd) o.bc 18 3).trans ((field_peel (m := 45) (n := 3) (o.vd ++ o.va ++ o.vb ++
    o.k ++ o.ty ++ o.negA ++ o.negB ++ o.absA ++ o.absB ++ o.sat ++ o.clamp ++ o.scale) o.rnd 15 3).trans
    ((field_peel (m := 40) (n := 5) (o.vd ++ o.va ++ o.vb ++ o.k ++ o.ty ++ o.negA ++ o.negB ++ o.absA ++ o.absB ++
    o.sat ++ o.clamp) o.scale 10 3).trans ((field_peel (m := 39) (n := 1) (o.vd ++ o.va ++ o.vb ++ o.k ++ o.ty ++
    o.negA ++ o.negB ++ o.absA ++ o.absB ++ o.sat) o.clamp 9 3).trans ((field_peel (m := 38) (n := 1) (o.vd ++ o.va
    ++ o.vb ++ o.k ++ o.ty ++ o.negA ++ o.negB ++ o.absA ++ o.absB) o.sat 8 3).trans ((field_peel (m := 37) (n :=
    1) (o.vd ++ o.va ++ o.vb ++ o.k ++ o.ty ++ o.negA ++ o.negB ++ o.absA) o.absB 7 3).trans ((field_peel (m := 36)
    (n := 1) (o.vd ++ o.va ++ o.vb ++ o.k ++ o.ty ++ o.negA ++ o.negB) o.absA 6 3).trans ((field_peel (m := 35) (n
    := 1) (o.vd ++ o.va ++ o.vb ++ o.k ++ o.ty ++ o.negA) o.negB 5 3).trans ((field_peel (m := 34) (n := 1) (o.vd
    ++ o.va ++ o.vb ++ o.k ++ o.ty) o.negA 4 3).trans ((field_peel (m := 30) (n := 4) (o.vd ++ o.va ++ o.vb ++ o.k)
    o.ty 0 3).trans (field_last (m := 27) (o.vd ++ o.va ++ o.vb) o.k))))))))))

theorem VR.bits_ty (o : VR) : o.bits.extractLsb' 16 4 = o.ty :=
  (field_peel (m := 48) (n := 2) (o.vd ++ o.va ++ o.vb ++ o.k ++ o.ty ++ o.negA ++ o.negB ++ o.absA ++ o.absB ++
    o.sat ++ o.clamp ++ o.scale ++ o.rnd) o.bc 14 4).trans ((field_peel (m := 45) (n := 3) (o.vd ++ o.va ++ o.vb ++
    o.k ++ o.ty ++ o.negA ++ o.negB ++ o.absA ++ o.absB ++ o.sat ++ o.clamp ++ o.scale) o.rnd 11 4).trans
    ((field_peel (m := 40) (n := 5) (o.vd ++ o.va ++ o.vb ++ o.k ++ o.ty ++ o.negA ++ o.negB ++ o.absA ++ o.absB ++
    o.sat ++ o.clamp) o.scale 6 4).trans ((field_peel (m := 39) (n := 1) (o.vd ++ o.va ++ o.vb ++ o.k ++ o.ty ++
    o.negA ++ o.negB ++ o.absA ++ o.absB ++ o.sat) o.clamp 5 4).trans ((field_peel (m := 38) (n := 1) (o.vd ++ o.va
    ++ o.vb ++ o.k ++ o.ty ++ o.negA ++ o.negB ++ o.absA ++ o.absB) o.sat 4 4).trans ((field_peel (m := 37) (n :=
    1) (o.vd ++ o.va ++ o.vb ++ o.k ++ o.ty ++ o.negA ++ o.negB ++ o.absA) o.absB 3 4).trans ((field_peel (m := 36)
    (n := 1) (o.vd ++ o.va ++ o.vb ++ o.k ++ o.ty ++ o.negA ++ o.negB) o.absA 2 4).trans ((field_peel (m := 35) (n
    := 1) (o.vd ++ o.va ++ o.vb ++ o.k ++ o.ty ++ o.negA) o.negB 1 4).trans ((field_peel (m := 34) (n := 1) (o.vd
    ++ o.va ++ o.vb ++ o.k ++ o.ty) o.negA 0 4).trans (field_last (m := 30) (o.vd ++ o.va ++ o.vb ++ o.k)
    o.ty)))))))))

theorem VR.bits_negA (o : VR) : o.bits.extractLsb' 15 1 = o.negA :=
  (field_peel (m := 48) (n := 2) (o.vd ++ o.va ++ o.vb ++ o.k ++ o.ty ++ o.negA ++ o.negB ++ o.absA ++ o.absB ++
    o.sat ++ o.clamp ++ o.scale ++ o.rnd) o.bc 13 1).trans ((field_peel (m := 45) (n := 3) (o.vd ++ o.va ++ o.vb ++
    o.k ++ o.ty ++ o.negA ++ o.negB ++ o.absA ++ o.absB ++ o.sat ++ o.clamp ++ o.scale) o.rnd 10 1).trans
    ((field_peel (m := 40) (n := 5) (o.vd ++ o.va ++ o.vb ++ o.k ++ o.ty ++ o.negA ++ o.negB ++ o.absA ++ o.absB ++
    o.sat ++ o.clamp) o.scale 5 1).trans ((field_peel (m := 39) (n := 1) (o.vd ++ o.va ++ o.vb ++ o.k ++ o.ty ++
    o.negA ++ o.negB ++ o.absA ++ o.absB ++ o.sat) o.clamp 4 1).trans ((field_peel (m := 38) (n := 1) (o.vd ++ o.va
    ++ o.vb ++ o.k ++ o.ty ++ o.negA ++ o.negB ++ o.absA ++ o.absB) o.sat 3 1).trans ((field_peel (m := 37) (n :=
    1) (o.vd ++ o.va ++ o.vb ++ o.k ++ o.ty ++ o.negA ++ o.negB ++ o.absA) o.absB 2 1).trans ((field_peel (m := 36)
    (n := 1) (o.vd ++ o.va ++ o.vb ++ o.k ++ o.ty ++ o.negA ++ o.negB) o.absA 1 1).trans ((field_peel (m := 35) (n
    := 1) (o.vd ++ o.va ++ o.vb ++ o.k ++ o.ty ++ o.negA) o.negB 0 1).trans (field_last (m := 34) (o.vd ++ o.va ++
    o.vb ++ o.k ++ o.ty) o.negA))))))))

theorem VR.bits_negB (o : VR) : o.bits.extractLsb' 14 1 = o.negB :=
  (field_peel (m := 48) (n := 2) (o.vd ++ o.va ++ o.vb ++ o.k ++ o.ty ++ o.negA ++ o.negB ++ o.absA ++ o.absB ++
    o.sat ++ o.clamp ++ o.scale ++ o.rnd) o.bc 12 1).trans ((field_peel (m := 45) (n := 3) (o.vd ++ o.va ++ o.vb ++
    o.k ++ o.ty ++ o.negA ++ o.negB ++ o.absA ++ o.absB ++ o.sat ++ o.clamp ++ o.scale) o.rnd 9 1).trans
    ((field_peel (m := 40) (n := 5) (o.vd ++ o.va ++ o.vb ++ o.k ++ o.ty ++ o.negA ++ o.negB ++ o.absA ++ o.absB ++
    o.sat ++ o.clamp) o.scale 4 1).trans ((field_peel (m := 39) (n := 1) (o.vd ++ o.va ++ o.vb ++ o.k ++ o.ty ++
    o.negA ++ o.negB ++ o.absA ++ o.absB ++ o.sat) o.clamp 3 1).trans ((field_peel (m := 38) (n := 1) (o.vd ++ o.va
    ++ o.vb ++ o.k ++ o.ty ++ o.negA ++ o.negB ++ o.absA ++ o.absB) o.sat 2 1).trans ((field_peel (m := 37) (n :=
    1) (o.vd ++ o.va ++ o.vb ++ o.k ++ o.ty ++ o.negA ++ o.negB ++ o.absA) o.absB 1 1).trans ((field_peel (m := 36)
    (n := 1) (o.vd ++ o.va ++ o.vb ++ o.k ++ o.ty ++ o.negA ++ o.negB) o.absA 0 1).trans (field_last (m := 35)
    (o.vd ++ o.va ++ o.vb ++ o.k ++ o.ty ++ o.negA) o.negB)))))))

theorem VR.bits_absA (o : VR) : o.bits.extractLsb' 13 1 = o.absA :=
  (field_peel (m := 48) (n := 2) (o.vd ++ o.va ++ o.vb ++ o.k ++ o.ty ++ o.negA ++ o.negB ++ o.absA ++ o.absB ++
    o.sat ++ o.clamp ++ o.scale ++ o.rnd) o.bc 11 1).trans ((field_peel (m := 45) (n := 3) (o.vd ++ o.va ++ o.vb ++
    o.k ++ o.ty ++ o.negA ++ o.negB ++ o.absA ++ o.absB ++ o.sat ++ o.clamp ++ o.scale) o.rnd 8 1).trans
    ((field_peel (m := 40) (n := 5) (o.vd ++ o.va ++ o.vb ++ o.k ++ o.ty ++ o.negA ++ o.negB ++ o.absA ++ o.absB ++
    o.sat ++ o.clamp) o.scale 3 1).trans ((field_peel (m := 39) (n := 1) (o.vd ++ o.va ++ o.vb ++ o.k ++ o.ty ++
    o.negA ++ o.negB ++ o.absA ++ o.absB ++ o.sat) o.clamp 2 1).trans ((field_peel (m := 38) (n := 1) (o.vd ++ o.va
    ++ o.vb ++ o.k ++ o.ty ++ o.negA ++ o.negB ++ o.absA ++ o.absB) o.sat 1 1).trans ((field_peel (m := 37) (n :=
    1) (o.vd ++ o.va ++ o.vb ++ o.k ++ o.ty ++ o.negA ++ o.negB ++ o.absA) o.absB 0 1).trans (field_last (m := 36)
    (o.vd ++ o.va ++ o.vb ++ o.k ++ o.ty ++ o.negA ++ o.negB) o.absA))))))

theorem VR.bits_absB (o : VR) : o.bits.extractLsb' 12 1 = o.absB :=
  (field_peel (m := 48) (n := 2) (o.vd ++ o.va ++ o.vb ++ o.k ++ o.ty ++ o.negA ++ o.negB ++ o.absA ++ o.absB ++
    o.sat ++ o.clamp ++ o.scale ++ o.rnd) o.bc 10 1).trans ((field_peel (m := 45) (n := 3) (o.vd ++ o.va ++ o.vb ++
    o.k ++ o.ty ++ o.negA ++ o.negB ++ o.absA ++ o.absB ++ o.sat ++ o.clamp ++ o.scale) o.rnd 7 1).trans
    ((field_peel (m := 40) (n := 5) (o.vd ++ o.va ++ o.vb ++ o.k ++ o.ty ++ o.negA ++ o.negB ++ o.absA ++ o.absB ++
    o.sat ++ o.clamp) o.scale 2 1).trans ((field_peel (m := 39) (n := 1) (o.vd ++ o.va ++ o.vb ++ o.k ++ o.ty ++
    o.negA ++ o.negB ++ o.absA ++ o.absB ++ o.sat) o.clamp 1 1).trans ((field_peel (m := 38) (n := 1) (o.vd ++ o.va
    ++ o.vb ++ o.k ++ o.ty ++ o.negA ++ o.negB ++ o.absA ++ o.absB) o.sat 0 1).trans (field_last (m := 37) (o.vd ++
    o.va ++ o.vb ++ o.k ++ o.ty ++ o.negA ++ o.negB ++ o.absA) o.absB)))))

theorem VR.bits_sat (o : VR) : o.bits.extractLsb' 11 1 = o.sat :=
  (field_peel (m := 48) (n := 2) (o.vd ++ o.va ++ o.vb ++ o.k ++ o.ty ++ o.negA ++ o.negB ++ o.absA ++ o.absB ++
    o.sat ++ o.clamp ++ o.scale ++ o.rnd) o.bc 9 1).trans ((field_peel (m := 45) (n := 3) (o.vd ++ o.va ++ o.vb ++
    o.k ++ o.ty ++ o.negA ++ o.negB ++ o.absA ++ o.absB ++ o.sat ++ o.clamp ++ o.scale) o.rnd 6 1).trans
    ((field_peel (m := 40) (n := 5) (o.vd ++ o.va ++ o.vb ++ o.k ++ o.ty ++ o.negA ++ o.negB ++ o.absA ++ o.absB ++
    o.sat ++ o.clamp) o.scale 1 1).trans ((field_peel (m := 39) (n := 1) (o.vd ++ o.va ++ o.vb ++ o.k ++ o.ty ++
    o.negA ++ o.negB ++ o.absA ++ o.absB ++ o.sat) o.clamp 0 1).trans (field_last (m := 38) (o.vd ++ o.va ++ o.vb
    ++ o.k ++ o.ty ++ o.negA ++ o.negB ++ o.absA ++ o.absB) o.sat))))

theorem VR.bits_clamp (o : VR) : o.bits.extractLsb' 10 1 = o.clamp :=
  (field_peel (m := 48) (n := 2) (o.vd ++ o.va ++ o.vb ++ o.k ++ o.ty ++ o.negA ++ o.negB ++ o.absA ++ o.absB ++
    o.sat ++ o.clamp ++ o.scale ++ o.rnd) o.bc 8 1).trans ((field_peel (m := 45) (n := 3) (o.vd ++ o.va ++ o.vb ++
    o.k ++ o.ty ++ o.negA ++ o.negB ++ o.absA ++ o.absB ++ o.sat ++ o.clamp ++ o.scale) o.rnd 5 1).trans
    ((field_peel (m := 40) (n := 5) (o.vd ++ o.va ++ o.vb ++ o.k ++ o.ty ++ o.negA ++ o.negB ++ o.absA ++ o.absB ++
    o.sat ++ o.clamp) o.scale 0 1).trans (field_last (m := 39) (o.vd ++ o.va ++ o.vb ++ o.k ++ o.ty ++ o.negA ++
    o.negB ++ o.absA ++ o.absB ++ o.sat) o.clamp)))

theorem VR.bits_scale (o : VR) : o.bits.extractLsb' 5 5 = o.scale :=
  (field_peel (m := 48) (n := 2) (o.vd ++ o.va ++ o.vb ++ o.k ++ o.ty ++ o.negA ++ o.negB ++ o.absA ++ o.absB ++
    o.sat ++ o.clamp ++ o.scale ++ o.rnd) o.bc 3 5).trans ((field_peel (m := 45) (n := 3) (o.vd ++ o.va ++ o.vb ++
    o.k ++ o.ty ++ o.negA ++ o.negB ++ o.absA ++ o.absB ++ o.sat ++ o.clamp ++ o.scale) o.rnd 0 5).trans
    (field_last (m := 40) (o.vd ++ o.va ++ o.vb ++ o.k ++ o.ty ++ o.negA ++ o.negB ++ o.absA ++ o.absB ++ o.sat ++
    o.clamp) o.scale))

theorem VR.bits_rnd (o : VR) : o.bits.extractLsb' 2 3 = o.rnd :=
  (field_peel (m := 48) (n := 2) (o.vd ++ o.va ++ o.vb ++ o.k ++ o.ty ++ o.negA ++ o.negB ++ o.absA ++ o.absB ++
    o.sat ++ o.clamp ++ o.scale ++ o.rnd) o.bc 0 3).trans (field_last (m := 45) (o.vd ++ o.va ++ o.vb ++ o.k ++
    o.ty ++ o.negA ++ o.negB ++ o.absA ++ o.absB ++ o.sat ++ o.clamp ++ o.scale) o.rnd)

theorem VR.bits_bc (o : VR) : o.bits.extractLsb' 0 2 = o.bc :=
  field_last (m := 48) (o.vd ++ o.va ++ o.vb ++ o.k ++ o.ty ++ o.negA ++ o.negB ++ o.absA ++ o.absB ++ o.sat ++
    o.clamp ++ o.scale ++ o.rnd) o.bc

theorem VR.parse_bits (o : VR) : VR.parse o.bits = some o := by
  simp only [VR.parse, VR.bits_vd o, VR.bits_va o, VR.bits_vb o, VR.bits_k o, VR.bits_ty o, VR.bits_negA o,
    VR.bits_negB o, VR.bits_absA o, VR.bits_absB o, VR.bits_sat o, VR.bits_clamp o, VR.bits_scale o, VR.bits_rnd o,
    VR.bits_bc o]

theorem VI.bits_vd (o : VI) : o.bits.extractLsb' 41 9 = o.vd :=
  (field_peel (m := 46) (n := 4) (o.vd ++ o.va ++ o.imm ++ o.k ++ o.ty ++ o.sat ++ o.clamp ++ o.rnd) 0#4 37
    9).trans ((field_peel (m := 43) (n := 3) (o.vd ++ o.va ++ o.imm ++ o.k ++ o.ty ++ o.sat ++ o.clamp) o.rnd 34
    9).trans ((field_peel (m := 42) (n := 1) (o.vd ++ o.va ++ o.imm ++ o.k ++ o.ty ++ o.sat) o.clamp 33 9).trans
    ((field_peel (m := 41) (n := 1) (o.vd ++ o.va ++ o.imm ++ o.k ++ o.ty) o.sat 32 9).trans ((field_peel (m := 37)
    (n := 4) (o.vd ++ o.va ++ o.imm ++ o.k) o.ty 28 9).trans ((field_peel (m := 34) (n := 3) (o.vd ++ o.va ++
    o.imm) o.k 25 9).trans ((field_peel (m := 18) (n := 16) (o.vd ++ o.va) o.imm 9 9).trans ((field_peel (m := 9)
    (n := 9) (o.vd) o.va 0 9).trans (field_all o.vd))))))))

theorem VI.bits_va (o : VI) : o.bits.extractLsb' 32 9 = o.va :=
  (field_peel (m := 46) (n := 4) (o.vd ++ o.va ++ o.imm ++ o.k ++ o.ty ++ o.sat ++ o.clamp ++ o.rnd) 0#4 28
    9).trans ((field_peel (m := 43) (n := 3) (o.vd ++ o.va ++ o.imm ++ o.k ++ o.ty ++ o.sat ++ o.clamp) o.rnd 25
    9).trans ((field_peel (m := 42) (n := 1) (o.vd ++ o.va ++ o.imm ++ o.k ++ o.ty ++ o.sat) o.clamp 24 9).trans
    ((field_peel (m := 41) (n := 1) (o.vd ++ o.va ++ o.imm ++ o.k ++ o.ty) o.sat 23 9).trans ((field_peel (m := 37)
    (n := 4) (o.vd ++ o.va ++ o.imm ++ o.k) o.ty 19 9).trans ((field_peel (m := 34) (n := 3) (o.vd ++ o.va ++
    o.imm) o.k 16 9).trans ((field_peel (m := 18) (n := 16) (o.vd ++ o.va) o.imm 0 9).trans (field_last (m := 9)
    (o.vd) o.va)))))))

theorem VI.bits_imm (o : VI) : o.bits.extractLsb' 16 16 = o.imm :=
  (field_peel (m := 46) (n := 4) (o.vd ++ o.va ++ o.imm ++ o.k ++ o.ty ++ o.sat ++ o.clamp ++ o.rnd) 0#4 12
    16).trans ((field_peel (m := 43) (n := 3) (o.vd ++ o.va ++ o.imm ++ o.k ++ o.ty ++ o.sat ++ o.clamp) o.rnd 9
    16).trans ((field_peel (m := 42) (n := 1) (o.vd ++ o.va ++ o.imm ++ o.k ++ o.ty ++ o.sat) o.clamp 8 16).trans
    ((field_peel (m := 41) (n := 1) (o.vd ++ o.va ++ o.imm ++ o.k ++ o.ty) o.sat 7 16).trans ((field_peel (m := 37)
    (n := 4) (o.vd ++ o.va ++ o.imm ++ o.k) o.ty 3 16).trans ((field_peel (m := 34) (n := 3) (o.vd ++ o.va ++
    o.imm) o.k 0 16).trans (field_last (m := 18) (o.vd ++ o.va) o.imm))))))

theorem VI.bits_k (o : VI) : o.bits.extractLsb' 13 3 = o.k :=
  (field_peel (m := 46) (n := 4) (o.vd ++ o.va ++ o.imm ++ o.k ++ o.ty ++ o.sat ++ o.clamp ++ o.rnd) 0#4 9 3).trans
    ((field_peel (m := 43) (n := 3) (o.vd ++ o.va ++ o.imm ++ o.k ++ o.ty ++ o.sat ++ o.clamp) o.rnd 6 3).trans
    ((field_peel (m := 42) (n := 1) (o.vd ++ o.va ++ o.imm ++ o.k ++ o.ty ++ o.sat) o.clamp 5 3).trans ((field_peel
    (m := 41) (n := 1) (o.vd ++ o.va ++ o.imm ++ o.k ++ o.ty) o.sat 4 3).trans ((field_peel (m := 37) (n := 4)
    (o.vd ++ o.va ++ o.imm ++ o.k) o.ty 0 3).trans (field_last (m := 34) (o.vd ++ o.va ++ o.imm) o.k)))))

theorem VI.bits_ty (o : VI) : o.bits.extractLsb' 9 4 = o.ty :=
  (field_peel (m := 46) (n := 4) (o.vd ++ o.va ++ o.imm ++ o.k ++ o.ty ++ o.sat ++ o.clamp ++ o.rnd) 0#4 5 4).trans
    ((field_peel (m := 43) (n := 3) (o.vd ++ o.va ++ o.imm ++ o.k ++ o.ty ++ o.sat ++ o.clamp) o.rnd 2 4).trans
    ((field_peel (m := 42) (n := 1) (o.vd ++ o.va ++ o.imm ++ o.k ++ o.ty ++ o.sat) o.clamp 1 4).trans ((field_peel
    (m := 41) (n := 1) (o.vd ++ o.va ++ o.imm ++ o.k ++ o.ty) o.sat 0 4).trans (field_last (m := 37) (o.vd ++ o.va
    ++ o.imm ++ o.k) o.ty))))

theorem VI.bits_sat (o : VI) : o.bits.extractLsb' 8 1 = o.sat :=
  (field_peel (m := 46) (n := 4) (o.vd ++ o.va ++ o.imm ++ o.k ++ o.ty ++ o.sat ++ o.clamp ++ o.rnd) 0#4 4 1).trans
    ((field_peel (m := 43) (n := 3) (o.vd ++ o.va ++ o.imm ++ o.k ++ o.ty ++ o.sat ++ o.clamp) o.rnd 1 1).trans
    ((field_peel (m := 42) (n := 1) (o.vd ++ o.va ++ o.imm ++ o.k ++ o.ty ++ o.sat) o.clamp 0 1).trans (field_last
    (m := 41) (o.vd ++ o.va ++ o.imm ++ o.k ++ o.ty) o.sat)))

theorem VI.bits_clamp (o : VI) : o.bits.extractLsb' 7 1 = o.clamp :=
  (field_peel (m := 46) (n := 4) (o.vd ++ o.va ++ o.imm ++ o.k ++ o.ty ++ o.sat ++ o.clamp ++ o.rnd) 0#4 3 1).trans
    ((field_peel (m := 43) (n := 3) (o.vd ++ o.va ++ o.imm ++ o.k ++ o.ty ++ o.sat ++ o.clamp) o.rnd 0 1).trans
    (field_last (m := 42) (o.vd ++ o.va ++ o.imm ++ o.k ++ o.ty ++ o.sat) o.clamp))

theorem VI.bits_rnd (o : VI) : o.bits.extractLsb' 4 3 = o.rnd :=
  (field_peel (m := 46) (n := 4) (o.vd ++ o.va ++ o.imm ++ o.k ++ o.ty ++ o.sat ++ o.clamp ++ o.rnd) 0#4 0 3).trans
    (field_last (m := 43) (o.vd ++ o.va ++ o.imm ++ o.k ++ o.ty ++ o.sat ++ o.clamp) o.rnd)

theorem VI.bits_zero8 (o : VI) : o.bits.extractLsb' 0 4 = 0#4 :=
  field_last (m := 46) (o.vd ++ o.va ++ o.imm ++ o.k ++ o.ty ++ o.sat ++ o.clamp ++ o.rnd) 0#4

theorem VI.parse_bits (o : VI) : VI.parse o.bits = some o := by
  simp only [VI.parse, VI.bits_vd o, VI.bits_va o, VI.bits_imm o, VI.bits_k o, VI.bits_ty o, VI.bits_sat o,
    VI.bits_clamp o, VI.bits_rnd o, VI.bits_zero8 o, if_true]

theorem VX.bits_v (o : VX) : o.bits.extractLsb' 41 9 = o.v :=
  (field_peel (m := 34) (n := 16) (o.v ++ o.s ++ o.lane ++ o.ty ++ o.k ++ o.fn) 0#16 25 9).trans ((field_peel (m :=
    30) (n := 4) (o.v ++ o.s ++ o.lane ++ o.ty ++ o.k) o.fn 21 9).trans ((field_peel (m := 27) (n := 3) (o.v ++ o.s
    ++ o.lane ++ o.ty) o.k 18 9).trans ((field_peel (m := 23) (n := 4) (o.v ++ o.s ++ o.lane) o.ty 14 9).trans
    ((field_peel (m := 15) (n := 8) (o.v ++ o.s) o.lane 6 9).trans ((field_peel (m := 9) (n := 6) (o.v) o.s 0
    9).trans (field_all o.v))))))

theorem VX.bits_s (o : VX) : o.bits.extractLsb' 35 6 = o.s :=
  (field_peel (m := 34) (n := 16) (o.v ++ o.s ++ o.lane ++ o.ty ++ o.k ++ o.fn) 0#16 19 6).trans ((field_peel (m :=
    30) (n := 4) (o.v ++ o.s ++ o.lane ++ o.ty ++ o.k) o.fn 15 6).trans ((field_peel (m := 27) (n := 3) (o.v ++ o.s
    ++ o.lane ++ o.ty) o.k 12 6).trans ((field_peel (m := 23) (n := 4) (o.v ++ o.s ++ o.lane) o.ty 8 6).trans
    ((field_peel (m := 15) (n := 8) (o.v ++ o.s) o.lane 0 6).trans (field_last (m := 9) (o.v) o.s)))))

theorem VX.bits_lane (o : VX) : o.bits.extractLsb' 27 8 = o.lane :=
  (field_peel (m := 34) (n := 16) (o.v ++ o.s ++ o.lane ++ o.ty ++ o.k ++ o.fn) 0#16 11 8).trans ((field_peel (m :=
    30) (n := 4) (o.v ++ o.s ++ o.lane ++ o.ty ++ o.k) o.fn 7 8).trans ((field_peel (m := 27) (n := 3) (o.v ++ o.s
    ++ o.lane ++ o.ty) o.k 4 8).trans ((field_peel (m := 23) (n := 4) (o.v ++ o.s ++ o.lane) o.ty 0 8).trans
    (field_last (m := 15) (o.v ++ o.s) o.lane))))

theorem VX.bits_ty (o : VX) : o.bits.extractLsb' 23 4 = o.ty :=
  (field_peel (m := 34) (n := 16) (o.v ++ o.s ++ o.lane ++ o.ty ++ o.k ++ o.fn) 0#16 7 4).trans ((field_peel (m :=
    30) (n := 4) (o.v ++ o.s ++ o.lane ++ o.ty ++ o.k) o.fn 3 4).trans ((field_peel (m := 27) (n := 3) (o.v ++ o.s
    ++ o.lane ++ o.ty) o.k 0 4).trans (field_last (m := 23) (o.v ++ o.s ++ o.lane) o.ty)))

theorem VX.bits_k (o : VX) : o.bits.extractLsb' 20 3 = o.k :=
  (field_peel (m := 34) (n := 16) (o.v ++ o.s ++ o.lane ++ o.ty ++ o.k ++ o.fn) 0#16 4 3).trans ((field_peel (m :=
    30) (n := 4) (o.v ++ o.s ++ o.lane ++ o.ty ++ o.k) o.fn 0 3).trans (field_last (m := 27) (o.v ++ o.s ++ o.lane
    ++ o.ty) o.k))

theorem VX.bits_fn (o : VX) : o.bits.extractLsb' 16 4 = o.fn :=
  (field_peel (m := 34) (n := 16) (o.v ++ o.s ++ o.lane ++ o.ty ++ o.k ++ o.fn) 0#16 0 4).trans (field_last (m :=
    30) (o.v ++ o.s ++ o.lane ++ o.ty ++ o.k) o.fn)

theorem VX.bits_zero6 (o : VX) : o.bits.extractLsb' 0 16 = 0#16 :=
  field_last (m := 34) (o.v ++ o.s ++ o.lane ++ o.ty ++ o.k ++ o.fn) 0#16

theorem VX.parse_bits (o : VX) : VX.parse o.bits = some o := by
  simp only [VX.parse, VX.bits_v o, VX.bits_s o, VX.bits_lane o, VX.bits_ty o, VX.bits_k o, VX.bits_fn o,
    VX.bits_zero6 o, if_true]

theorem KR.bits_kd (o : KR) : o.bits.extractLsb' 47 3 = o.kd :=
  (field_peel (m := 15) (n := 35) (o.kd ++ o.ka ++ o.kb ++ o.s) 0#35 12 3).trans ((field_peel (m := 9) (n := 6)
    (o.kd ++ o.ka ++ o.kb) o.s 6 3).trans ((field_peel (m := 6) (n := 3) (o.kd ++ o.ka) o.kb 3 3).trans
    ((field_peel (m := 3) (n := 3) (o.kd) o.ka 0 3).trans (field_all o.kd))))

theorem KR.bits_ka (o : KR) : o.bits.extractLsb' 44 3 = o.ka :=
  (field_peel (m := 15) (n := 35) (o.kd ++ o.ka ++ o.kb ++ o.s) 0#35 9 3).trans ((field_peel (m := 9) (n := 6)
    (o.kd ++ o.ka ++ o.kb) o.s 3 3).trans ((field_peel (m := 6) (n := 3) (o.kd ++ o.ka) o.kb 0 3).trans (field_last
    (m := 3) (o.kd) o.ka)))

theorem KR.bits_kb (o : KR) : o.bits.extractLsb' 41 3 = o.kb :=
  (field_peel (m := 15) (n := 35) (o.kd ++ o.ka ++ o.kb ++ o.s) 0#35 6 3).trans ((field_peel (m := 9) (n := 6)
    (o.kd ++ o.ka ++ o.kb) o.s 0 3).trans (field_last (m := 6) (o.kd ++ o.ka) o.kb))

theorem KR.bits_s (o : KR) : o.bits.extractLsb' 35 6 = o.s :=
  (field_peel (m := 15) (n := 35) (o.kd ++ o.ka ++ o.kb ++ o.s) 0#35 0 6).trans (field_last (m := 9) (o.kd ++ o.ka
    ++ o.kb) o.s)

theorem KR.bits_zero4 (o : KR) : o.bits.extractLsb' 0 35 = 0#35 :=
  field_last (m := 15) (o.kd ++ o.ka ++ o.kb ++ o.s) 0#35

theorem KR.parse_bits (o : KR) : KR.parse o.bits = some o := by
  simp only [KR.parse, KR.bits_kd o, KR.bits_ka o, KR.bits_kb o, KR.bits_s o, KR.bits_zero4 o, if_true]

theorem ML.bits_latch (o : ML) : o.bits.extractLsb' 48 2 = o.latch :=
  (field_peel (m := 27) (n := 23) (o.latch ++ o.h ++ o.idx ++ o.row ++ o.gather ++ o.fmt ++ o.dec ++ o.cb) 0#23 25
    2).trans ((field_peel (m := 25) (n := 2) (o.latch ++ o.h ++ o.idx ++ o.row ++ o.gather ++ o.fmt ++ o.dec) o.cb
    23 2).trans ((field_peel (m := 24) (n := 1) (o.latch ++ o.h ++ o.idx ++ o.row ++ o.gather ++ o.fmt) o.dec 22
    2).trans ((field_peel (m := 20) (n := 4) (o.latch ++ o.h ++ o.idx ++ o.row ++ o.gather) o.fmt 18 2).trans
    ((field_peel (m := 19) (n := 1) (o.latch ++ o.h ++ o.idx ++ o.row) o.gather 17 2).trans ((field_peel (m := 10)
    (n := 9) (o.latch ++ o.h ++ o.idx) o.row 8 2).trans ((field_peel (m := 6) (n := 4) (o.latch ++ o.h) o.idx 4
    2).trans ((field_peel (m := 2) (n := 4) (o.latch) o.h 0 2).trans (field_all o.latch))))))))

theorem ML.bits_h (o : ML) : o.bits.extractLsb' 44 4 = o.h :=
  (field_peel (m := 27) (n := 23) (o.latch ++ o.h ++ o.idx ++ o.row ++ o.gather ++ o.fmt ++ o.dec ++ o.cb) 0#23 21
    4).trans ((field_peel (m := 25) (n := 2) (o.latch ++ o.h ++ o.idx ++ o.row ++ o.gather ++ o.fmt ++ o.dec) o.cb
    19 4).trans ((field_peel (m := 24) (n := 1) (o.latch ++ o.h ++ o.idx ++ o.row ++ o.gather ++ o.fmt) o.dec 18
    4).trans ((field_peel (m := 20) (n := 4) (o.latch ++ o.h ++ o.idx ++ o.row ++ o.gather) o.fmt 14 4).trans
    ((field_peel (m := 19) (n := 1) (o.latch ++ o.h ++ o.idx ++ o.row) o.gather 13 4).trans ((field_peel (m := 10)
    (n := 9) (o.latch ++ o.h ++ o.idx) o.row 4 4).trans ((field_peel (m := 6) (n := 4) (o.latch ++ o.h) o.idx 0
    4).trans (field_last (m := 2) (o.latch) o.h)))))))

theorem ML.bits_idx (o : ML) : o.bits.extractLsb' 40 4 = o.idx :=
  (field_peel (m := 27) (n := 23) (o.latch ++ o.h ++ o.idx ++ o.row ++ o.gather ++ o.fmt ++ o.dec ++ o.cb) 0#23 17
    4).trans ((field_peel (m := 25) (n := 2) (o.latch ++ o.h ++ o.idx ++ o.row ++ o.gather ++ o.fmt ++ o.dec) o.cb
    15 4).trans ((field_peel (m := 24) (n := 1) (o.latch ++ o.h ++ o.idx ++ o.row ++ o.gather ++ o.fmt) o.dec 14
    4).trans ((field_peel (m := 20) (n := 4) (o.latch ++ o.h ++ o.idx ++ o.row ++ o.gather) o.fmt 10 4).trans
    ((field_peel (m := 19) (n := 1) (o.latch ++ o.h ++ o.idx ++ o.row) o.gather 9 4).trans ((field_peel (m := 10)
    (n := 9) (o.latch ++ o.h ++ o.idx) o.row 0 4).trans (field_last (m := 6) (o.latch ++ o.h) o.idx))))))

theorem ML.bits_row (o : ML) : o.bits.extractLsb' 31 9 = o.row :=
  (field_peel (m := 27) (n := 23) (o.latch ++ o.h ++ o.idx ++ o.row ++ o.gather ++ o.fmt ++ o.dec ++ o.cb) 0#23 8
    9).trans ((field_peel (m := 25) (n := 2) (o.latch ++ o.h ++ o.idx ++ o.row ++ o.gather ++ o.fmt ++ o.dec) o.cb
    6 9).trans ((field_peel (m := 24) (n := 1) (o.latch ++ o.h ++ o.idx ++ o.row ++ o.gather ++ o.fmt) o.dec 5
    9).trans ((field_peel (m := 20) (n := 4) (o.latch ++ o.h ++ o.idx ++ o.row ++ o.gather) o.fmt 1 9).trans
    ((field_peel (m := 19) (n := 1) (o.latch ++ o.h ++ o.idx ++ o.row) o.gather 0 9).trans (field_last (m := 10)
    (o.latch ++ o.h ++ o.idx) o.row)))))

theorem ML.bits_gather (o : ML) : o.bits.extractLsb' 30 1 = o.gather :=
  (field_peel (m := 27) (n := 23) (o.latch ++ o.h ++ o.idx ++ o.row ++ o.gather ++ o.fmt ++ o.dec ++ o.cb) 0#23 7
    1).trans ((field_peel (m := 25) (n := 2) (o.latch ++ o.h ++ o.idx ++ o.row ++ o.gather ++ o.fmt ++ o.dec) o.cb
    5 1).trans ((field_peel (m := 24) (n := 1) (o.latch ++ o.h ++ o.idx ++ o.row ++ o.gather ++ o.fmt) o.dec 4
    1).trans ((field_peel (m := 20) (n := 4) (o.latch ++ o.h ++ o.idx ++ o.row ++ o.gather) o.fmt 0 1).trans
    (field_last (m := 19) (o.latch ++ o.h ++ o.idx ++ o.row) o.gather))))

theorem ML.bits_fmt (o : ML) : o.bits.extractLsb' 26 4 = o.fmt :=
  (field_peel (m := 27) (n := 23) (o.latch ++ o.h ++ o.idx ++ o.row ++ o.gather ++ o.fmt ++ o.dec ++ o.cb) 0#23 3
    4).trans ((field_peel (m := 25) (n := 2) (o.latch ++ o.h ++ o.idx ++ o.row ++ o.gather ++ o.fmt ++ o.dec) o.cb
    1 4).trans ((field_peel (m := 24) (n := 1) (o.latch ++ o.h ++ o.idx ++ o.row ++ o.gather ++ o.fmt) o.dec 0
    4).trans (field_last (m := 20) (o.latch ++ o.h ++ o.idx ++ o.row ++ o.gather) o.fmt)))

theorem ML.bits_dec (o : ML) : o.bits.extractLsb' 25 1 = o.dec :=
  (field_peel (m := 27) (n := 23) (o.latch ++ o.h ++ o.idx ++ o.row ++ o.gather ++ o.fmt ++ o.dec ++ o.cb) 0#23 2
    1).trans ((field_peel (m := 25) (n := 2) (o.latch ++ o.h ++ o.idx ++ o.row ++ o.gather ++ o.fmt ++ o.dec) o.cb
    0 1).trans (field_last (m := 24) (o.latch ++ o.h ++ o.idx ++ o.row ++ o.gather ++ o.fmt) o.dec))

theorem ML.bits_cb (o : ML) : o.bits.extractLsb' 23 2 = o.cb :=
  (field_peel (m := 27) (n := 23) (o.latch ++ o.h ++ o.idx ++ o.row ++ o.gather ++ o.fmt ++ o.dec ++ o.cb) 0#23 0
    2).trans (field_last (m := 25) (o.latch ++ o.h ++ o.idx ++ o.row ++ o.gather ++ o.fmt ++ o.dec) o.cb)

theorem ML.bits_zero8 (o : ML) : o.bits.extractLsb' 0 23 = 0#23 :=
  field_last (m := 27) (o.latch ++ o.h ++ o.idx ++ o.row ++ o.gather ++ o.fmt ++ o.dec ++ o.cb) 0#23

theorem ML.parse_bits (o : ML) : ML.parse o.bits = some o := by
  simp only [ML.parse, ML.bits_latch o, ML.bits_h o, ML.bits_idx o, ML.bits_row o, ML.bits_gather o, ML.bits_fmt o,
    ML.bits_dec o, ML.bits_cb o, ML.bits_zero8 o, if_true]

theorem MM.bits_z (o : MM) : o.bits.extractLsb' 47 3 = o.z :=
  (field_peel (m := 14) (n := 36) (o.z ++ o.la ++ o.lb ++ o.fmt ++ o.ta ++ o.neg ++ o.acc) 0#36 11 3).trans
    ((field_peel (m := 13) (n := 1) (o.z ++ o.la ++ o.lb ++ o.fmt ++ o.ta ++ o.neg) o.acc 10 3).trans ((field_peel
    (m := 12) (n := 1) (o.z ++ o.la ++ o.lb ++ o.fmt ++ o.ta) o.neg 9 3).trans ((field_peel (m := 11) (n := 1) (o.z
    ++ o.la ++ o.lb ++ o.fmt) o.ta 8 3).trans ((field_peel (m := 7) (n := 4) (o.z ++ o.la ++ o.lb) o.fmt 4 3).trans
    ((field_peel (m := 5) (n := 2) (o.z ++ o.la) o.lb 2 3).trans ((field_peel (m := 3) (n := 2) (o.z) o.la 0
    3).trans (field_all o.z)))))))

theorem MM.bits_la (o : MM) : o.bits.extractLsb' 45 2 = o.la :=
  (field_peel (m := 14) (n := 36) (o.z ++ o.la ++ o.lb ++ o.fmt ++ o.ta ++ o.neg ++ o.acc) 0#36 9 2).trans
    ((field_peel (m := 13) (n := 1) (o.z ++ o.la ++ o.lb ++ o.fmt ++ o.ta ++ o.neg) o.acc 8 2).trans ((field_peel
    (m := 12) (n := 1) (o.z ++ o.la ++ o.lb ++ o.fmt ++ o.ta) o.neg 7 2).trans ((field_peel (m := 11) (n := 1) (o.z
    ++ o.la ++ o.lb ++ o.fmt) o.ta 6 2).trans ((field_peel (m := 7) (n := 4) (o.z ++ o.la ++ o.lb) o.fmt 2 2).trans
    ((field_peel (m := 5) (n := 2) (o.z ++ o.la) o.lb 0 2).trans (field_last (m := 3) (o.z) o.la))))))

theorem MM.bits_lb (o : MM) : o.bits.extractLsb' 43 2 = o.lb :=
  (field_peel (m := 14) (n := 36) (o.z ++ o.la ++ o.lb ++ o.fmt ++ o.ta ++ o.neg ++ o.acc) 0#36 7 2).trans
    ((field_peel (m := 13) (n := 1) (o.z ++ o.la ++ o.lb ++ o.fmt ++ o.ta ++ o.neg) o.acc 6 2).trans ((field_peel
    (m := 12) (n := 1) (o.z ++ o.la ++ o.lb ++ o.fmt ++ o.ta) o.neg 5 2).trans ((field_peel (m := 11) (n := 1) (o.z
    ++ o.la ++ o.lb ++ o.fmt) o.ta 4 2).trans ((field_peel (m := 7) (n := 4) (o.z ++ o.la ++ o.lb) o.fmt 0 2).trans
    (field_last (m := 5) (o.z ++ o.la) o.lb)))))

theorem MM.bits_fmt (o : MM) : o.bits.extractLsb' 39 4 = o.fmt :=
  (field_peel (m := 14) (n := 36) (o.z ++ o.la ++ o.lb ++ o.fmt ++ o.ta ++ o.neg ++ o.acc) 0#36 3 4).trans
    ((field_peel (m := 13) (n := 1) (o.z ++ o.la ++ o.lb ++ o.fmt ++ o.ta ++ o.neg) o.acc 2 4).trans ((field_peel
    (m := 12) (n := 1) (o.z ++ o.la ++ o.lb ++ o.fmt ++ o.ta) o.neg 1 4).trans ((field_peel (m := 11) (n := 1) (o.z
    ++ o.la ++ o.lb ++ o.fmt) o.ta 0 4).trans (field_last (m := 7) (o.z ++ o.la ++ o.lb) o.fmt))))

theorem MM.bits_ta (o : MM) : o.bits.extractLsb' 38 1 = o.ta :=
  (field_peel (m := 14) (n := 36) (o.z ++ o.la ++ o.lb ++ o.fmt ++ o.ta ++ o.neg ++ o.acc) 0#36 2 1).trans
    ((field_peel (m := 13) (n := 1) (o.z ++ o.la ++ o.lb ++ o.fmt ++ o.ta ++ o.neg) o.acc 1 1).trans ((field_peel
    (m := 12) (n := 1) (o.z ++ o.la ++ o.lb ++ o.fmt ++ o.ta) o.neg 0 1).trans (field_last (m := 11) (o.z ++ o.la
    ++ o.lb ++ o.fmt) o.ta)))

theorem MM.bits_neg (o : MM) : o.bits.extractLsb' 37 1 = o.neg :=
  (field_peel (m := 14) (n := 36) (o.z ++ o.la ++ o.lb ++ o.fmt ++ o.ta ++ o.neg ++ o.acc) 0#36 1 1).trans
    ((field_peel (m := 13) (n := 1) (o.z ++ o.la ++ o.lb ++ o.fmt ++ o.ta ++ o.neg) o.acc 0 1).trans (field_last (m
    := 12) (o.z ++ o.la ++ o.lb ++ o.fmt ++ o.ta) o.neg))

theorem MM.bits_acc (o : MM) : o.bits.extractLsb' 36 1 = o.acc :=
  (field_peel (m := 14) (n := 36) (o.z ++ o.la ++ o.lb ++ o.fmt ++ o.ta ++ o.neg ++ o.acc) 0#36 0 1).trans
    (field_last (m := 13) (o.z ++ o.la ++ o.lb ++ o.fmt ++ o.ta ++ o.neg) o.acc)

theorem MM.bits_zero7 (o : MM) : o.bits.extractLsb' 0 36 = 0#36 :=
  field_last (m := 14) (o.z ++ o.la ++ o.lb ++ o.fmt ++ o.ta ++ o.neg ++ o.acc) 0#36

theorem MM.parse_bits (o : MM) : MM.parse o.bits = some o := by
  simp only [MM.parse, MM.bits_z o, MM.bits_la o, MM.bits_lb o, MM.bits_fmt o, MM.bits_ta o, MM.bits_neg o,
    MM.bits_acc o, MM.bits_zero7 o, if_true]

theorem MC.bits_n (o : MC) : o.bits.extractLsb' 42 8 = o.n :=
  (field_peel (m := 8) (n := 42) (o.n) 0#42 0 8).trans (field_all o.n)

theorem MC.bits_zero1 (o : MC) : o.bits.extractLsb' 0 42 = 0#42 :=
  field_last (m := 8) (o.n) 0#42

theorem MC.parse_bits (o : MC) : MC.parse o.bits = some o := by
  simp only [MC.parse, MC.bits_n o, MC.bits_zero1 o, if_true]

theorem MQ.bits_q (o : MQ) : o.bits.extractLsb' 47 3 = o.q :=
  (field_peel (m := 9) (n := 41) (o.q ++ o.s) 0#41 6 3).trans ((field_peel (m := 3) (n := 6) (o.q) o.s 0 3).trans
    (field_all o.q))

theorem MQ.bits_s (o : MQ) : o.bits.extractLsb' 41 6 = o.s :=
  (field_peel (m := 9) (n := 41) (o.q ++ o.s) 0#41 0 6).trans (field_last (m := 3) (o.q) o.s)

theorem MQ.bits_zero2 (o : MQ) : o.bits.extractLsb' 0 41 = 0#41 :=
  field_last (m := 9) (o.q ++ o.s) 0#41

theorem MQ.parse_bits (o : MQ) : MQ.parse o.bits = some o := by
  simp only [MQ.parse, MQ.bits_q o, MQ.bits_s o, MQ.bits_zero2 o, if_true]

theorem MF.bits_e (o : MF) : o.bits.extractLsb' 46 4 = o.e :=
  (field_peel (m := 10) (n := 40) (o.e ++ o.s) 0#40 6 4).trans ((field_peel (m := 4) (n := 6) (o.e) o.s 0 4).trans
    (field_all o.e))

theorem MF.bits_s (o : MF) : o.bits.extractLsb' 40 6 = o.s :=
  (field_peel (m := 10) (n := 40) (o.e ++ o.s) 0#40 0 6).trans (field_last (m := 4) (o.e) o.s)

theorem MF.bits_zero2 (o : MF) : o.bits.extractLsb' 0 40 = 0#40 :=
  field_last (m := 10) (o.e ++ o.s) 0#40

theorem MF.parse_bits (o : MF) : MF.parse o.bits = some o := by
  simp only [MF.parse, MF.bits_e o, MF.bits_s o, MF.bits_zero2 o, if_true]

theorem MZ.bits_z (o : MZ) : o.bits.extractLsb' 47 3 = o.z :=
  (field_peel (m := 24) (n := 26) (o.z ++ o.h ++ o.idx ++ o.ty ++ o.sat ++ o.rnd ++ o.scale) 0#26 21 3).trans
    ((field_peel (m := 19) (n := 5) (o.z ++ o.h ++ o.idx ++ o.ty ++ o.sat ++ o.rnd) o.scale 16 3).trans
    ((field_peel (m := 16) (n := 3) (o.z ++ o.h ++ o.idx ++ o.ty ++ o.sat) o.rnd 13 3).trans ((field_peel (m := 15)
    (n := 1) (o.z ++ o.h ++ o.idx ++ o.ty) o.sat 12 3).trans ((field_peel (m := 11) (n := 4) (o.z ++ o.h ++ o.idx)
    o.ty 8 3).trans ((field_peel (m := 7) (n := 4) (o.z ++ o.h) o.idx 4 3).trans ((field_peel (m := 3) (n := 4)
    (o.z) o.h 0 3).trans (field_all o.z)))))))

theorem MZ.bits_h (o : MZ) : o.bits.extractLsb' 43 4 = o.h :=
  (field_peel (m := 24) (n := 26) (o.z ++ o.h ++ o.idx ++ o.ty ++ o.sat ++ o.rnd ++ o.scale) 0#26 17 4).trans
    ((field_peel (m := 19) (n := 5) (o.z ++ o.h ++ o.idx ++ o.ty ++ o.sat ++ o.rnd) o.scale 12 4).trans
    ((field_peel (m := 16) (n := 3) (o.z ++ o.h ++ o.idx ++ o.ty ++ o.sat) o.rnd 9 4).trans ((field_peel (m := 15)
    (n := 1) (o.z ++ o.h ++ o.idx ++ o.ty) o.sat 8 4).trans ((field_peel (m := 11) (n := 4) (o.z ++ o.h ++ o.idx)
    o.ty 4 4).trans ((field_peel (m := 7) (n := 4) (o.z ++ o.h) o.idx 0 4).trans (field_last (m := 3) (o.z) o.h))))))

theorem MZ.bits_idx (o : MZ) : o.bits.extractLsb' 39 4 = o.idx :=
  (field_peel (m := 24) (n := 26) (o.z ++ o.h ++ o.idx ++ o.ty ++ o.sat ++ o.rnd ++ o.scale) 0#26 13 4).trans
    ((field_peel (m := 19) (n := 5) (o.z ++ o.h ++ o.idx ++ o.ty ++ o.sat ++ o.rnd) o.scale 8 4).trans ((field_peel
    (m := 16) (n := 3) (o.z ++ o.h ++ o.idx ++ o.ty ++ o.sat) o.rnd 5 4).trans ((field_peel (m := 15) (n := 1) (o.z
    ++ o.h ++ o.idx ++ o.ty) o.sat 4 4).trans ((field_peel (m := 11) (n := 4) (o.z ++ o.h ++ o.idx) o.ty 0 4).trans
    (field_last (m := 7) (o.z ++ o.h) o.idx)))))

theorem MZ.bits_ty (o : MZ) : o.bits.extractLsb' 35 4 = o.ty :=
  (field_peel (m := 24) (n := 26) (o.z ++ o.h ++ o.idx ++ o.ty ++ o.sat ++ o.rnd ++ o.scale) 0#26 9 4).trans
    ((field_peel (m := 19) (n := 5) (o.z ++ o.h ++ o.idx ++ o.ty ++ o.sat ++ o.rnd) o.scale 4 4).trans ((field_peel
    (m := 16) (n := 3) (o.z ++ o.h ++ o.idx ++ o.ty ++ o.sat) o.rnd 1 4).trans ((field_peel (m := 15) (n := 1) (o.z
    ++ o.h ++ o.idx ++ o.ty) o.sat 0 4).trans (field_last (m := 11) (o.z ++ o.h ++ o.idx) o.ty))))

theorem MZ.bits_sat (o : MZ) : o.bits.extractLsb' 34 1 = o.sat :=
  (field_peel (m := 24) (n := 26) (o.z ++ o.h ++ o.idx ++ o.ty ++ o.sat ++ o.rnd ++ o.scale) 0#26 8 1).trans
    ((field_peel (m := 19) (n := 5) (o.z ++ o.h ++ o.idx ++ o.ty ++ o.sat ++ o.rnd) o.scale 3 1).trans ((field_peel
    (m := 16) (n := 3) (o.z ++ o.h ++ o.idx ++ o.ty ++ o.sat) o.rnd 0 1).trans (field_last (m := 15) (o.z ++ o.h ++
    o.idx ++ o.ty) o.sat)))

theorem MZ.bits_rnd (o : MZ) : o.bits.extractLsb' 31 3 = o.rnd :=
  (field_peel (m := 24) (n := 26) (o.z ++ o.h ++ o.idx ++ o.ty ++ o.sat ++ o.rnd ++ o.scale) 0#26 5 3).trans
    ((field_peel (m := 19) (n := 5) (o.z ++ o.h ++ o.idx ++ o.ty ++ o.sat ++ o.rnd) o.scale 0 3).trans (field_last
    (m := 16) (o.z ++ o.h ++ o.idx ++ o.ty ++ o.sat) o.rnd))

theorem MZ.bits_scale (o : MZ) : o.bits.extractLsb' 26 5 = o.scale :=
  (field_peel (m := 24) (n := 26) (o.z ++ o.h ++ o.idx ++ o.ty ++ o.sat ++ o.rnd ++ o.scale) 0#26 0 5).trans
    (field_last (m := 19) (o.z ++ o.h ++ o.idx ++ o.ty ++ o.sat ++ o.rnd) o.scale)

theorem MZ.bits_zero7 (o : MZ) : o.bits.extractLsb' 0 26 = 0#26 :=
  field_last (m := 24) (o.z ++ o.h ++ o.idx ++ o.ty ++ o.sat ++ o.rnd ++ o.scale) 0#26

theorem MZ.parse_bits (o : MZ) : MZ.parse o.bits = some o := by
  simp only [MZ.parse, MZ.bits_z o, MZ.bits_h o, MZ.bits_idx o, MZ.bits_ty o, MZ.bits_sat o, MZ.bits_rnd o,
    MZ.bits_scale o, MZ.bits_zero7 o, if_true]

theorem MS.bits_addr (o : MS) : o.bits.extractLsb' 38 12 = o.addr :=
  (field_peel (m := 28) (n := 22) (o.addr ++ o.h ++ o.count) 0#22 16 12).trans ((field_peel (m := 16) (n := 12)
    (o.addr ++ o.h) o.count 4 12).trans ((field_peel (m := 12) (n := 4) (o.addr) o.h 0 12).trans (field_all o.addr)))

theorem MS.bits_h (o : MS) : o.bits.extractLsb' 34 4 = o.h :=
  (field_peel (m := 28) (n := 22) (o.addr ++ o.h ++ o.count) 0#22 12 4).trans ((field_peel (m := 16) (n := 12)
    (o.addr ++ o.h) o.count 0 4).trans (field_last (m := 12) (o.addr) o.h))

theorem MS.bits_count (o : MS) : o.bits.extractLsb' 22 12 = o.count :=
  (field_peel (m := 28) (n := 22) (o.addr ++ o.h ++ o.count) 0#22 0 12).trans (field_last (m := 16) (o.addr ++ o.h)
    o.count)

theorem MS.bits_zero3 (o : MS) : o.bits.extractLsb' 0 22 = 0#22 :=
  field_last (m := 28) (o.addr ++ o.h ++ o.count) 0#22

theorem MS.parse_bits (o : MS) : MS.parse o.bits = some o := by
  simp only [MS.parse, MS.bits_addr o, MS.bits_h o, MS.bits_count o, MS.bits_zero3 o, if_true]

theorem EC.bits_ha (o : EC) : o.bits.extractLsb' 46 4 = o.ha :=
  (field_peel (m := 32) (n := 18) (o.ha ++ o.hb ++ o.sa ++ o.sb ++ o.imm ++ o.fn) o.low 28 4).trans ((field_peel (m
    := 28) (n := 4) (o.ha ++ o.hb ++ o.sa ++ o.sb ++ o.imm) o.fn 24 4).trans ((field_peel (m := 20) (n := 8) (o.ha
    ++ o.hb ++ o.sa ++ o.sb) o.imm 16 4).trans ((field_peel (m := 14) (n := 6) (o.ha ++ o.hb ++ o.sa) o.sb 10
    4).trans ((field_peel (m := 8) (n := 6) (o.ha ++ o.hb) o.sa 4 4).trans ((field_peel (m := 4) (n := 4) (o.ha)
    o.hb 0 4).trans (field_all o.ha))))))

theorem EC.bits_hb (o : EC) : o.bits.extractLsb' 42 4 = o.hb :=
  (field_peel (m := 32) (n := 18) (o.ha ++ o.hb ++ o.sa ++ o.sb ++ o.imm ++ o.fn) o.low 24 4).trans ((field_peel (m
    := 28) (n := 4) (o.ha ++ o.hb ++ o.sa ++ o.sb ++ o.imm) o.fn 20 4).trans ((field_peel (m := 20) (n := 8) (o.ha
    ++ o.hb ++ o.sa ++ o.sb) o.imm 12 4).trans ((field_peel (m := 14) (n := 6) (o.ha ++ o.hb ++ o.sa) o.sb 6
    4).trans ((field_peel (m := 8) (n := 6) (o.ha ++ o.hb) o.sa 0 4).trans (field_last (m := 4) (o.ha) o.hb)))))

theorem EC.bits_sa (o : EC) : o.bits.extractLsb' 36 6 = o.sa :=
  (field_peel (m := 32) (n := 18) (o.ha ++ o.hb ++ o.sa ++ o.sb ++ o.imm ++ o.fn) o.low 18 6).trans ((field_peel (m
    := 28) (n := 4) (o.ha ++ o.hb ++ o.sa ++ o.sb ++ o.imm) o.fn 14 6).trans ((field_peel (m := 20) (n := 8) (o.ha
    ++ o.hb ++ o.sa ++ o.sb) o.imm 6 6).trans ((field_peel (m := 14) (n := 6) (o.ha ++ o.hb ++ o.sa) o.sb 0
    6).trans (field_last (m := 8) (o.ha ++ o.hb) o.sa))))

theorem EC.bits_sb (o : EC) : o.bits.extractLsb' 30 6 = o.sb :=
  (field_peel (m := 32) (n := 18) (o.ha ++ o.hb ++ o.sa ++ o.sb ++ o.imm ++ o.fn) o.low 12 6).trans ((field_peel (m
    := 28) (n := 4) (o.ha ++ o.hb ++ o.sa ++ o.sb ++ o.imm) o.fn 8 6).trans ((field_peel (m := 20) (n := 8) (o.ha
    ++ o.hb ++ o.sa ++ o.sb) o.imm 0 6).trans (field_last (m := 14) (o.ha ++ o.hb ++ o.sa) o.sb)))

theorem EC.bits_imm (o : EC) : o.bits.extractLsb' 22 8 = o.imm :=
  (field_peel (m := 32) (n := 18) (o.ha ++ o.hb ++ o.sa ++ o.sb ++ o.imm ++ o.fn) o.low 4 8).trans ((field_peel (m
    := 28) (n := 4) (o.ha ++ o.hb ++ o.sa ++ o.sb ++ o.imm) o.fn 0 8).trans (field_last (m := 20) (o.ha ++ o.hb ++
    o.sa ++ o.sb) o.imm))

theorem EC.bits_fn (o : EC) : o.bits.extractLsb' 18 4 = o.fn :=
  (field_peel (m := 32) (n := 18) (o.ha ++ o.hb ++ o.sa ++ o.sb ++ o.imm ++ o.fn) o.low 0 4).trans (field_last (m
    := 28) (o.ha ++ o.hb ++ o.sa ++ o.sb ++ o.imm) o.fn)

theorem EC.bits_low (o : EC) : o.bits.extractLsb' 0 18 = o.low :=
  field_last (m := 32) (o.ha ++ o.hb ++ o.sa ++ o.sb ++ o.imm ++ o.fn) o.low

theorem EC.parse_bits (o : EC) : EC.parse o.bits = some o := by
  simp only [EC.parse, EC.bits_ha o, EC.bits_hb o, EC.bits_sa o, EC.bits_sb o, EC.bits_imm o, EC.bits_fn o,
    EC.bits_low o]

theorem Header.word_eb (h : Header) (op : BitVec 10) (x : BitVec 50) : (h.word op x).extractLsb' 79 1 = h.eb :=
  (field_peel (m := 30) (n := 50) (h.eb ++ h.slot ++ h.pd ++ h.av ++ h.tag ++ h.cmk ++ op) x 29 1).trans
    ((field_peel (m := 20) (n := 10) (h.eb ++ h.slot ++ h.pd ++ h.av ++ h.tag ++ h.cmk) op 19 1).trans ((field_peel
    (m := 12) (n := 8) (h.eb ++ h.slot ++ h.pd ++ h.av ++ h.tag) h.cmk 11 1).trans ((field_peel (m := 9) (n := 3)
    (h.eb ++ h.slot ++ h.pd ++ h.av) h.tag 8 1).trans ((field_peel (m := 8) (n := 1) (h.eb ++ h.slot ++ h.pd) h.av
    7 1).trans ((field_peel (m := 4) (n := 4) (h.eb ++ h.slot) h.pd 3 1).trans ((field_peel (m := 1) (n := 3)
    (h.eb) h.slot 0 1).trans (field_all h.eb)))))))

theorem Header.word_slot (h : Header) (op : BitVec 10) (x : BitVec 50) : (h.word op x).extractLsb' 76 3 = h.slot :=
  (field_peel (m := 30) (n := 50) (h.eb ++ h.slot ++ h.pd ++ h.av ++ h.tag ++ h.cmk ++ op) x 26 3).trans
    ((field_peel (m := 20) (n := 10) (h.eb ++ h.slot ++ h.pd ++ h.av ++ h.tag ++ h.cmk) op 16 3).trans ((field_peel
    (m := 12) (n := 8) (h.eb ++ h.slot ++ h.pd ++ h.av ++ h.tag) h.cmk 8 3).trans ((field_peel (m := 9) (n := 3)
    (h.eb ++ h.slot ++ h.pd ++ h.av) h.tag 5 3).trans ((field_peel (m := 8) (n := 1) (h.eb ++ h.slot ++ h.pd) h.av
    4 3).trans ((field_peel (m := 4) (n := 4) (h.eb ++ h.slot) h.pd 0 3).trans (field_last (m := 1) (h.eb)
    h.slot))))))

theorem Header.word_pd (h : Header) (op : BitVec 10) (x : BitVec 50) : (h.word op x).extractLsb' 72 4 = h.pd :=
  (field_peel (m := 30) (n := 50) (h.eb ++ h.slot ++ h.pd ++ h.av ++ h.tag ++ h.cmk ++ op) x 22 4).trans
    ((field_peel (m := 20) (n := 10) (h.eb ++ h.slot ++ h.pd ++ h.av ++ h.tag ++ h.cmk) op 12 4).trans ((field_peel
    (m := 12) (n := 8) (h.eb ++ h.slot ++ h.pd ++ h.av ++ h.tag) h.cmk 4 4).trans ((field_peel (m := 9) (n := 3)
    (h.eb ++ h.slot ++ h.pd ++ h.av) h.tag 1 4).trans ((field_peel (m := 8) (n := 1) (h.eb ++ h.slot ++ h.pd) h.av
    0 4).trans (field_last (m := 4) (h.eb ++ h.slot) h.pd)))))

theorem Header.word_av (h : Header) (op : BitVec 10) (x : BitVec 50) : (h.word op x).extractLsb' 71 1 = h.av :=
  (field_peel (m := 30) (n := 50) (h.eb ++ h.slot ++ h.pd ++ h.av ++ h.tag ++ h.cmk ++ op) x 21 1).trans
    ((field_peel (m := 20) (n := 10) (h.eb ++ h.slot ++ h.pd ++ h.av ++ h.tag ++ h.cmk) op 11 1).trans ((field_peel
    (m := 12) (n := 8) (h.eb ++ h.slot ++ h.pd ++ h.av ++ h.tag) h.cmk 3 1).trans ((field_peel (m := 9) (n := 3)
    (h.eb ++ h.slot ++ h.pd ++ h.av) h.tag 0 1).trans (field_last (m := 8) (h.eb ++ h.slot ++ h.pd) h.av))))

theorem Header.word_tag (h : Header) (op : BitVec 10) (x : BitVec 50) : (h.word op x).extractLsb' 68 3 = h.tag :=
  (field_peel (m := 30) (n := 50) (h.eb ++ h.slot ++ h.pd ++ h.av ++ h.tag ++ h.cmk ++ op) x 18 3).trans
    ((field_peel (m := 20) (n := 10) (h.eb ++ h.slot ++ h.pd ++ h.av ++ h.tag ++ h.cmk) op 8 3).trans ((field_peel
    (m := 12) (n := 8) (h.eb ++ h.slot ++ h.pd ++ h.av ++ h.tag) h.cmk 0 3).trans (field_last (m := 9) (h.eb ++
    h.slot ++ h.pd ++ h.av) h.tag)))

theorem Header.word_cmk (h : Header) (op : BitVec 10) (x : BitVec 50) : (h.word op x).extractLsb' 60 8 = h.cmk :=
  (field_peel (m := 30) (n := 50) (h.eb ++ h.slot ++ h.pd ++ h.av ++ h.tag ++ h.cmk ++ op) x 10 8).trans
    ((field_peel (m := 20) (n := 10) (h.eb ++ h.slot ++ h.pd ++ h.av ++ h.tag ++ h.cmk) op 0 8).trans (field_last
    (m := 12) (h.eb ++ h.slot ++ h.pd ++ h.av ++ h.tag) h.cmk))

theorem Header.word_op (h : Header) (op : BitVec 10) (x : BitVec 50) : (h.word op x).extractLsb' 50 10 = op :=
  (field_peel (m := 30) (n := 50) (h.eb ++ h.slot ++ h.pd ++ h.av ++ h.tag ++ h.cmk ++ op) x 0 10).trans
    (field_last (m := 20) (h.eb ++ h.slot ++ h.pd ++ h.av ++ h.tag ++ h.cmk) op)

theorem Header.word_x (h : Header) (op : BitVec 10) (x : BitVec 50) : (h.word op x).extractLsb' 0 50 = x :=
  field_last (m := 30) (h.eb ++ h.slot ++ h.pd ++ h.av ++ h.tag ++ h.cmk ++ op) x

/-- The header of a word reads back (R69). -/
theorem Header.parse_word (h : Header) (op : BitVec 10) (x : BitVec 50) : Header.parse (h.word op x) = h := by
  simp only [Header.parse, Header.word_eb, Header.word_slot, Header.word_pd, Header.word_av, Header.word_tag,
    Header.word_cmk]

end Sys2Proof
end

