-- ==== Sys2Proof/Laws/PerInstr.lean ====
section
/-! SUPPORT. The family Coding: what each instruction's word is made of (R69, R94, R106 to R122). -/

namespace Sys2Proof.Laws.Coding

/-- A word of a program, where it is well formed, is a header, an opcode and operand bits from which the opcode map of its
slot gives the instruction back; a step of another agent has no word. -/
def Statement (i : Instr) : Prop :=
  (encode i).isSome = i.isWord ∧
    ∀ w, i.WellFormed → encode i = some w →
      ∃ (h : Header) (op : BitVec 10) (x : BitVec 50),
        w = h.word op x ∧ h.slot.toNat < 6 ∧ decodeSlot h op.toNat x = some (some i)

/-- The shape shared by all words: the parse of the operand bits gives the instruction. -/
theorem of_parts {i : Instr} {h : Header} {op : BitVec 10} {x : BitVec 50} (hw : i.isWord = true)
    (he : encode i = some (h.word op x)) (hs : i.WellFormed → h.slot.toNat < 6)
    (hd : i.WellFormed → decodeSlot h op.toNat x = some (some i)) : Statement i := by
  refine ⟨by rw [he, hw]; rfl, fun w c e => ⟨h, op, x, ?_, hs c, hd c⟩⟩
  rw [he] at e
  exact (Option.some.inj e).symm

theorem slot_c {h : Header} {b : Bool} (c : (slotC h && b) = true) : h.slot = 0#3 := by
  simp only [slotC, Bool.and_eq_true, decide_eq_true_eq] at c
  exact c.1

theorem slot_a {h : Header} {b : Bool} (c : (slotA h && b) = true) : h.slot = 1#3 ∨ h.slot = 2#3 := by
  simp only [slotA, Bool.and_eq_true, Bool.or_eq_true, decide_eq_true_eq] at c
  exact c.1

theorem slot_v {h : Header} {b : Bool} (c : (slotV h && b) = true) : h.slot = 3#3 := by
  simp only [slotV, Bool.and_eq_true, decide_eq_true_eq] at c
  exact c.1

theorem slot_m {h : Header} {b : Bool} (c : (slotM h && b) = true) : h.slot = 4#3 := by
  simp only [slotM, Bool.and_eq_true, decide_eq_true_eq] at c
  exact c.1

theorem slot_e {h : Header} {b : Bool} (c : (slotE h && b) = true) : h.slot = 5#3 := by
  simp only [slotE, Bool.and_eq_true, decide_eq_true_eq] at c
  exact c.1

theorem of_c {α : Type} {i : Instr} {h : Header} {op : BitVec 10} {x : BitVec 50} {p : Option α} {o : α}
    (f : α → Instr) (hi : i = f o) (hw : i.isWord = true) (he : encode i = some (h.word op x)) (hs : i.WellFormed → h.slot = 0#3)
    (hp : p = some o) (hd : decodeC h op.toNat x = some (p.map f)) : Statement i :=
  of_parts hw he (fun c => by rw [hs c]; decide) fun c => by simp only [decodeSlot, hs c]; exact hd.trans (by rw [hp, hi]; rfl)

theorem of_a {α : Type} {i : Instr} {h : Header} {op : BitVec 10} {x : BitVec 50} {p : Option α} {o : α}
    (f : α → Instr) (hi : i = f o) (hw : i.isWord = true) (he : encode i = some (h.word op x)) (hs : i.WellFormed → h.slot = 1#3 ∨ h.slot = 2#3)
    (hp : p = some o) (hd : decodeA h op.toNat x = some (p.map f)) : Statement i :=
  of_parts hw he (fun c => by rcases hs c with e | e <;> rw [e] <;> decide) fun c => by
    rcases hs c with e | e <;> simp only [decodeSlot, e] <;> exact hd.trans (by rw [hp, hi]; rfl)

theorem of_v {α : Type} {i : Instr} {h : Header} {op : BitVec 10} {x : BitVec 50} {p : Option α} {o : α}
    (f : α → Instr) (hi : i = f o) (hw : i.isWord = true) (he : encode i = some (h.word op x)) (hs : i.WellFormed → h.slot = 3#3)
    (hp : p = some o) (hd : decodeV h op.toNat x = some (p.map f)) : Statement i :=
  of_parts hw he (fun c => by rw [hs c]; decide) fun c => by simp only [decodeSlot, hs c]; exact hd.trans (by rw [hp, hi]; rfl)

theorem of_m {α : Type} {i : Instr} {h : Header} {op : BitVec 10} {x : BitVec 50} {p : Option α} {o : α}
    (f : α → Instr) (hi : i = f o) (hw : i.isWord = true) (he : encode i = some (h.word op x)) (hs : i.WellFormed → h.slot = 4#3)
    (hp : p = some o) (hd : decodeM h op.toNat x = some (p.map f)) : Statement i :=
  of_parts hw he (fun c => by rw [hs c]; decide) fun c => by simp only [decodeSlot, hs c]; exact hd.trans (by rw [hp, hi]; rfl)

theorem of_e {α : Type} {i : Instr} {h : Header} {op : BitVec 10} {x : BitVec 50} {p : Option α} {o : α}
    (f : α → Instr) (hi : i = f o) (hw : i.isWord = true) (he : encode i = some (h.word op x)) (hs : i.WellFormed → h.slot = 5#3)
    (hp : p = some o) (hd : decodeE h op.toNat x = some (p.map f)) : Statement i :=
  of_parts hw he (fun c => by rw [hs c]; decide) fun c => by simp only [decodeSlot, hs c]; exact hd.trans (by rw [hp, hi]; rfl)

theorem of_event {i : Instr} (hw : i.isWord = false) (he : encode i = none) : Statement i :=
  ⟨by rw [he, hw]; rfl, fun w _ e => by rw [he] at e; exact absurd e (by simp)⟩

theorem nop (h : Header) : Statement (.nop h) :=
  of_parts rfl rfl (fun c => Nat.lt_succ_of_le (of_decide_eq_true c)) fun c => by
    have c' : h.slot.toNat ≤ 5 := of_decide_eq_true c
    have k : h.slot.toNat = 0 ∨ h.slot.toNat = 1 ∨ h.slot.toNat = 2 ∨ h.slot.toNat = 3 ∨ h.slot.toNat = 4
      ∨ h.slot.toNat = 5 := by omega
    rcases k with e | e | e | e | e | e <;> simp only [decodeSlot, e] <;> rfl

theorem add (h : Header) (o : CR) : Statement (.add h o) :=
  of_c (.add h) rfl rfl rfl slot_c o.parse_bits rfl

theorem addImm (h : Header) (o : CI) : Statement (.addImm h o) :=
  of_c (.addImm h) rfl rfl rfl slot_c o.parse_bits rfl

theorem sub (h : Header) (o : CR) : Statement (.sub h o) :=
  of_c (.sub h) rfl rfl rfl slot_c o.parse_bits rfl

theorem subImm (h : Header) (o : CI) : Statement (.subImm h o) :=
  of_c (.subImm h) rfl rfl rfl slot_c o.parse_bits rfl

theorem mul (h : Header) (o : CR) : Statement (.mul h o) :=
  of_c (.mul h) rfl rfl rfl slot_c o.parse_bits rfl

theorem mulImm (h : Header) (o : CI) : Statement (.mulImm h o) :=
  of_c (.mulImm h) rfl rfl rfl slot_c o.parse_bits rfl

theorem mulh (h : Header) (o : CR) : Statement (.mulh h o) :=
  of_c (.mulh h) rfl rfl rfl slot_c o.parse_bits rfl

theorem mulhImm (h : Header) (o : CI) : Statement (.mulhImm h o) :=
  of_c (.mulhImm h) rfl rfl rfl slot_c o.parse_bits rfl

theorem div (h : Header) (o : CR) : Statement (.div h o) :=
  of_c (.div h) rfl rfl rfl slot_c o.parse_bits rfl

theorem divImm (h : Header) (o : CI) : Statement (.divImm h o) :=
  of_c (.divImm h) rfl rfl rfl slot_c o.parse_bits rfl

theorem rem (h : Header) (o : CR) : Statement (.rem h o) :=
  of_c (.rem h) rfl rfl rfl slot_c o.parse_bits rfl

theorem remImm (h : Header) (o : CI) : Statement (.remImm h o) :=
  of_c (.remImm h) rfl rfl rfl slot_c o.parse_bits rfl

theorem and (h : Header) (o : CR) : Statement (.and h o) :=
  of_c (.and h) rfl rfl rfl slot_c o.parse_bits rfl

theorem andImm (h : Header) (o : CI) : Statement (.andImm h o) :=
  of_c (.andImm h) rfl rfl rfl slot_c o.parse_bits rfl

theorem or (h : Header) (o : CR) : Statement (.or h o) :=
  of_c (.or h) rfl rfl rfl slot_c o.parse_bits rfl

theorem orImm (h : Header) (o : CI) : Statement (.orImm h o) :=
  of_c (.orImm h) rfl rfl rfl slot_c o.parse_bits rfl

theorem xor (h : Header) (o : CR) : Statement (.xor h o) :=
  of_c (.xor h) rfl rfl rfl slot_c o.parse_bits rfl

theorem xorImm (h : Header) (o : CI) : Statement (.xorImm h o) :=
  of_c (.xorImm h) rfl rfl rfl slot_c o.parse_bits rfl

theorem shl (h : Header) (o : CR) : Statement (.shl h o) :=
  of_c (.shl h) rfl rfl rfl slot_c o.parse_bits rfl

theorem shlImm (h : Header) (o : CI) : Statement (.shlImm h o) :=
  of_c (.shlImm h) rfl rfl rfl slot_c o.parse_bits rfl

theorem shr (h : Header) (o : CR) : Statement (.shr h o) :=
  of_c (.shr h) rfl rfl rfl slot_c o.parse_bits rfl

theorem shrImm (h : Header) (o : CI) : Statement (.shrImm h o) :=
  of_c (.shrImm h) rfl rfl rfl slot_c o.parse_bits rfl

theorem sra (h : Header) (o : CR) : Statement (.sra h o) :=
  of_c (.sra h) rfl rfl rfl slot_c o.parse_bits rfl

theorem min (h : Header) (o : CR) : Statement (.min h o) :=
  of_c (.min h) rfl rfl rfl slot_c o.parse_bits rfl

theorem max (h : Header) (o : CR) : Statement (.max h o) :=
  of_c (.max h) rfl rfl rfl slot_c o.parse_bits rfl

theorem cmp (h : Header) (o : CR) : Statement (.cmp h o) :=
  of_c (.cmp h) rfl rfl rfl slot_c o.parse_bits rfl

theorem sel (h : Header) (o : CR) : Statement (.sel h o) :=
  of_c (.sel h) rfl rfl rfl slot_c o.parse_bits rfl

theorem clz (h : Header) (o : CR) : Statement (.clz h o) :=
  of_c (.clz h) rfl rfl rfl slot_c o.parse_bits rfl

theorem popc (h : Header) (o : CR) : Statement (.popc h o) :=
  of_c (.popc h) rfl rfl rfl slot_c o.parse_bits rfl

theorem brev (h : Header) (o : CR) : Statement (.brev h o) :=
  of_c (.brev h) rfl rfl rfl slot_c o.parse_bits rfl

theorem ext (h : Header) (o : CR) : Statement (.ext h o) :=
  of_c (.ext h) rfl rfl rfl slot_c o.parse_bits rfl

theorem bfx (h : Header) (o : CR) : Statement (.bfx h o) :=
  of_c (.bfx h) rfl rfl rfl slot_c o.parse_bits rfl

theorem bfi (h : Header) (o : CR) : Statement (.bfi h o) :=
  of_c (.bfi h) rfl rfl rfl slot_c o.parse_bits rfl

theorem li (h : Header) (o : CI) : Statement (.li h o) :=
  of_c (.li h) rfl rfl rfl slot_c o.parse_bits rfl

theorem lih (h : Header) (o : CI) : Statement (.lih h o) :=
  of_c (.lih h) rfl rfl rfl slot_c o.parse_bits rfl

theorem br (h : Header) (o : CB) : Statement (.br h o) :=
  of_c (.br h) rfl rfl rfl slot_c o.parse_bits rfl

theorem brc (h : Header) (o : CB) : Statement (.brc h o) :=
  of_c (.brc h) rfl rfl rfl slot_c o.parse_bits rfl

theorem bri (h : Header) (o : CB) : Statement (.bri h o) :=
  of_c (.bri h) rfl rfl rfl slot_c o.parse_bits rfl

theorem call (h : Header) (o : CB) : Statement (.call h o) :=
  of_c (.call h) rfl rfl rfl slot_c o.parse_bits rfl

theorem calli (h : Header) (o : CB) : Statement (.calli h o) :=
  of_c (.calli h) rfl rfl rfl slot_c o.parse_bits rfl

theorem ret (h : Header) (o : CB) : Statement (.ret h o) :=
  of_c (.ret h) rfl rfl rfl slot_c o.parse_bits rfl

theorem loop (h : Header) (o : CL) : Statement (.loop h o) :=
  of_c (.loop h) rfl rfl rfl slot_c o.parse_bits rfl

theorem loopx (h : Header) (o : CL) : Statement (.loopx h o) :=
  of_c (.loopx h) rfl rfl rfl slot_c o.parse_bits rfl

theorem exit (h : Header) (o : CS) : Statement (.exit h o) :=
  of_c (.exit h) rfl rfl rfl slot_c o.parse_bits rfl

theorem spawn (h : Header) (o : CS) : Statement (.spawn h o) :=
  of_c (.spawn h) rfl rfl rfl slot_c o.parse_bits rfl

theorem spawng (h : Header) (o : CS) : Statement (.spawng h o) :=
  of_c (.spawng h) rfl rfl rfl slot_c o.parse_bits rfl

theorem bar (h : Header) (o : CS) : Statement (.bar h o) :=
  of_c (.bar h) rfl rfl rfl slot_c o.parse_bits rfl

theorem bara (h : Header) (o : CS) : Statement (.bara h o) :=
  of_c (.bara h) rfl rfl rfl slot_c o.parse_bits rfl

theorem barcfg (h : Header) (o : CS) : Statement (.barcfg h o) :=
  of_c (.barcfg h) rfl rfl rfl slot_c o.parse_bits rfl

theorem wait (h : Header) (o : CS) : Statement (.wait h o) :=
  of_c (.wait h) rfl rfl rfl slot_c o.parse_bits rfl

theorem phase (h : Header) (o : CS) : Statement (.phase h o) :=
  of_c (.phase h) rfl rfl rfl slot_c o.parse_bits rfl

theorem fence (h : Header) (o : CS) : Statement (.fence h o) :=
  of_c (.fence h) rfl rfl rfl slot_c o.parse_bits rfl

theorem xfence (h : Header) (o : CS) : Statement (.xfence h o) :=
  of_c (.xfence h) rfl rfl rfl slot_c o.parse_bits rfl

theorem carve (h : Header) (o : CS) : Statement (.carve h o) :=
  of_c (.carve h) rfl rfl rfl slot_c o.parse_bits rfl

theorem decpl (h : Header) (o : CS) : Statement (.decpl h o) :=
  of_c (.decpl h) rfl rfl rfl slot_c o.parse_bits rfl

theorem rejoin (h : Header) (o : CS) : Statement (.rejoin h o) :=
  of_c (.rejoin h) rfl rfl rfl slot_c o.parse_bits rfl

theorem crrd (h : Header) (o : CS) : Statement (.crrd h o) :=
  of_c (.crrd h) rfl rfl rfl slot_c o.parse_bits rfl

theorem crwr (h : Header) (o : CS) : Statement (.crwr h o) :=
  of_c (.crwr h) rfl rfl rfl slot_c o.parse_bits rfl

theorem crset (h : Header) (o : CS) : Statement (.crset h o) :=
  of_c (.crset h) rfl rfl rfl slot_c o.parse_bits rfl

theorem crclr (h : Header) (o : CS) : Statement (.crclr h o) :=
  of_c (.crclr h) rfl rfl rfl slot_c o.parse_bits rfl

theorem trap (h : Header) (o : CS) : Statement (.trap h o) :=
  of_c (.trap h) rfl rfl rfl slot_c o.parse_bits rfl

theorem tret (h : Header) (o : CS) : Statement (.tret h o) :=
  of_c (.tret h) rfl rfl rfl slot_c o.parse_bits rfl

theorem brk (h : Header) (o : CS) : Statement (.brk h o) :=
  of_c (.brk h) rfl rfl rfl slot_c o.parse_bits rfl

theorem tlbi (h : Header) (o : CS) : Statement (.tlbi h o) :=
  of_c (.tlbi h) rfl rfl rfl slot_c o.parse_bits rfl

theorem rdtime (h : Header) (o : CS) : Statement (.rdtime h o) :=
  of_c (.rdtime h) rfl rfl rfl slot_c o.parse_bits rfl

theorem accb (h : Header) (o : CB) : Statement (.accb h o) :=
  of_c (.accb h) rfl rfl rfl slot_c o.parse_bits rfl

theorem acce (h : Header) (o : CB) : Statement (.acce h o) :=
  of_c (.acce h) rfl rfl rfl slot_c o.parse_bits rfl

theorem accinv (h : Header) (o : CS) : Statement (.accinv h o) :=
  of_c (.accinv h) rfl rfl rfl slot_c o.parse_bits rfl

theorem ld (h : Header) (o : AM) : Statement (.ld h o) :=
  of_a (.ld h) rfl rfl rfl slot_a o.parse_bits rfl

theorem st (h : Header) (o : AM) : Statement (.st h o) :=
  of_a (.st h) rfl rfl rfl slot_a o.parse_bits rfl

theorem ldv (h : Header) (o : AM) : Statement (.ldv h o) :=
  of_a (.ldv h) rfl rfl rfl slot_a o.parse_bits rfl

theorem stv (h : Header) (o : AM) : Statement (.stv h o) :=
  of_a (.stv h) rfl rfl rfl slot_a o.parse_bits rfl

theorem amo (h : Header) (o : AT) : Statement (.amo h o) :=
  of_a (.amo h) rfl rfl rfl slot_a o.parse_bits rfl

theorem cas (h : Header) (o : AT) : Statement (.cas h o) :=
  of_a (.cas h) rfl rfl rfl slot_a o.parse_bits rfl

theorem pref (h : Header) (o : AM) : Statement (.pref h o) :=
  of_a (.pref h) rfl rfl rfl slot_a o.parse_bits rfl

theorem amov (h : Header) (o : AA) : Statement (.amov h o) :=
  of_a (.amov h) rfl rfl rfl slot_a o.parse_bits rfl

theorem aget (h : Header) (o : AA) : Statement (.aget h o) :=
  of_a (.aget h) rfl rfl rfl slot_a o.parse_bits rfl

theorem aadd (h : Header) (o : AA) : Statement (.aadd h o) :=
  of_a (.aadd h) rfl rfl rfl slot_a o.parse_bits rfl

theorem amode (h : Header) (o : AA) : Statement (.amode h o) :=
  of_a (.amode h) rfl rfl rfl slot_a o.parse_bits rfl

theorem aupd (h : Header) (o : AA) : Statement (.aupd h o) :=
  of_a (.aupd h) rfl rfl rfl slot_a o.parse_bits rfl

theorem lea (h : Header) (o : AM) : Statement (.lea h o) :=
  of_a (.lea h) rfl rfl rfl slot_a o.parse_bits rfl

theorem hld (h : Header) (o : AM) : Statement (.hld h o) :=
  of_a (.hld h) rfl rfl rfl slot_a o.parse_bits rfl

theorem hst (h : Header) (o : AM) : Statement (.hst h o) :=
  of_a (.hst h) rfl rfl rfl slot_a o.parse_bits rfl

theorem hset (h : Header) (o : AH) : Statement (.hset h o) :=
  of_a (.hset h) rfl rfl rfl slot_a o.parse_bits rfl

theorem hget (h : Header) (o : AH) : Statement (.hget h o) :=
  of_a (.hget h) rfl rfl rfl slot_a o.parse_bits rfl

theorem vadd (h : Header) (o : VR) : Statement (.vadd h o) :=
  of_v (.vadd h) rfl rfl rfl slot_v o.parse_bits rfl

theorem vaddImm (h : Header) (o : VI) : Statement (.vaddImm h o) :=
  of_v (.vaddImm h) rfl rfl rfl slot_v o.parse_bits rfl

theorem vsub (h : Header) (o : VR) : Statement (.vsub h o) :=
  of_v (.vsub h) rfl rfl rfl slot_v o.parse_bits rfl

theorem vsubImm (h : Header) (o : VI) : Statement (.vsubImm h o) :=
  of_v (.vsubImm h) rfl rfl rfl slot_v o.parse_bits rfl

theorem vmul (h : Header) (o : VR) : Statement (.vmul h o) :=
  of_v (.vmul h) rfl rfl rfl slot_v o.parse_bits rfl

theorem vmulImm (h : Header) (o : VI) : Statement (.vmulImm h o) :=
  of_v (.vmulImm h) rfl rfl rfl slot_v o.parse_bits rfl

theorem vfma (h : Header) (o : VR) : Statement (.vfma h o) :=
  of_v (.vfma h) rfl rfl rfl slot_v o.parse_bits rfl

theorem vfmaImm (h : Header) (o : VI) : Statement (.vfmaImm h o) :=
  of_v (.vfmaImm h) rfl rfl rfl slot_v o.parse_bits rfl

theorem vmin (h : Header) (o : VR) : Statement (.vmin h o) :=
  of_v (.vmin h) rfl rfl rfl slot_v o.parse_bits rfl

theorem vminImm (h : Header) (o : VI) : Statement (.vminImm h o) :=
  of_v (.vminImm h) rfl rfl rfl slot_v o.parse_bits rfl

theorem vmax (h : Header) (o : VR) : Statement (.vmax h o) :=
  of_v (.vmax h) rfl rfl rfl slot_v o.parse_bits rfl

theorem vmaxImm (h : Header) (o : VI) : Statement (.vmaxImm h o) :=
  of_v (.vmaxImm h) rfl rfl rfl slot_v o.parse_bits rfl

theorem vrcp (h : Header) (o : VR) : Statement (.vrcp h o) :=
  of_v (.vrcp h) rfl rfl rfl slot_v o.parse_bits rfl

theorem vrsq (h : Header) (o : VR) : Statement (.vrsq h o) :=
  of_v (.vrsq h) rfl rfl rfl slot_v o.parse_bits rfl

theorem vexp2 (h : Header) (o : VR) : Statement (.vexp2 h o) :=
  of_v (.vexp2 h) rfl rfl rfl slot_v o.parse_bits rfl

theorem vlog2 (h : Header) (o : VR) : Statement (.vlog2 h o) :=
  of_v (.vlog2 h) rfl rfl rfl slot_v o.parse_bits rfl

theorem vtanh (h : Header) (o : VR) : Statement (.vtanh h o) :=
  of_v (.vtanh h) rfl rfl rfl slot_v o.parse_bits rfl

theorem vcvt (h : Header) (o : VR) : Statement (.vcvt h o) :=
  of_v (.vcvt h) rfl rfl rfl slot_v o.parse_bits rfl

theorem vcmp (h : Header) (o : VR) : Statement (.vcmp h o) :=
  of_v (.vcmp h) rfl rfl rfl slot_v o.parse_bits rfl

theorem vsel (h : Header) (o : VR) : Statement (.vsel h o) :=
  of_v (.vsel h) rfl rfl rfl slot_v o.parse_bits rfl

theorem vand (h : Header) (o : VR) : Statement (.vand h o) :=
  of_v (.vand h) rfl rfl rfl slot_v o.parse_bits rfl

theorem vandImm (h : Header) (o : VI) : Statement (.vandImm h o) :=
  of_v (.vandImm h) rfl rfl rfl slot_v o.parse_bits rfl

theorem vor (h : Header) (o : VR) : Statement (.vor h o) :=
  of_v (.vor h) rfl rfl rfl slot_v o.parse_bits rfl

theorem vorImm (h : Header) (o : VI) : Statement (.vorImm h o) :=
  of_v (.vorImm h) rfl rfl rfl slot_v o.parse_bits rfl

theorem vxor (h : Header) (o : VR) : Statement (.vxor h o) :=
  of_v (.vxor h) rfl rfl rfl slot_v o.parse_bits rfl

theorem vxorImm (h : Header) (o : VI) : Statement (.vxorImm h o) :=
  of_v (.vxorImm h) rfl rfl rfl slot_v o.parse_bits rfl

theorem vshl (h : Header) (o : VR) : Statement (.vshl h o) :=
  of_v (.vshl h) rfl rfl rfl slot_v o.parse_bits rfl

theorem vshlImm (h : Header) (o : VI) : Statement (.vshlImm h o) :=
  of_v (.vshlImm h) rfl rfl rfl slot_v o.parse_bits rfl

theorem vshr (h : Header) (o : VR) : Statement (.vshr h o) :=
  of_v (.vshr h) rfl rfl rfl slot_v o.parse_bits rfl

theorem vshrImm (h : Header) (o : VI) : Statement (.vshrImm h o) :=
  of_v (.vshrImm h) rfl rfl rfl slot_v o.parse_bits rfl

theorem vmov (h : Header) (o : VR) : Statement (.vmov h o) :=
  of_v (.vmov h) rfl rfl rfl slot_v o.parse_bits rfl

theorem vbcast (h : Header) (o : VX) : Statement (.vbcast h o) :=
  of_v (.vbcast h) rfl rfl rfl slot_v o.parse_bits rfl

theorem vext (h : Header) (o : VX) : Statement (.vext h o) :=
  of_v (.vext h) rfl rfl rfl slot_v o.parse_bits rfl

theorem vins (h : Header) (o : VX) : Statement (.vins h o) :=
  of_v (.vins h) rfl rfl rfl slot_v o.parse_bits rfl

theorem vperm (h : Header) (o : VR) : Statement (.vperm h o) :=
  of_v (.vperm h) rfl rfl rfl slot_v o.parse_bits rfl

theorem viota (h : Header) (o : VX) : Statement (.viota h o) :=
  of_v (.viota h) rfl rfl rfl slot_v o.parse_bits rfl

theorem vred (h : Header) (o : VX) : Statement (.vred h o) :=
  of_v (.vred h) rfl rfl rfl slot_v o.parse_bits rfl

theorem kand (h : Header) (o : KR) : Statement (.kand h o) :=
  of_v (.kand h) rfl rfl rfl slot_v o.parse_bits rfl

theorem kor (h : Header) (o : KR) : Statement (.kor h o) :=
  of_v (.kor h) rfl rfl rfl slot_v o.parse_bits rfl

theorem kxor (h : Header) (o : KR) : Statement (.kxor h o) :=
  of_v (.kxor h) rfl rfl rfl slot_v o.parse_bits rfl

theorem kmov (h : Header) (o : KR) : Statement (.kmov h o) :=
  of_v (.kmov h) rfl rfl rfl slot_v o.parse_bits rfl

theorem kpopc (h : Header) (o : KR) : Statement (.kpopc h o) :=
  of_v (.kpopc h) rfl rfl rfl slot_v o.parse_bits rfl

theorem mla (h : Header) (o : ML) : Statement (.mla h o) :=
  of_m (.mla h) rfl rfl rfl slot_m o.parse_bits rfl

theorem mlb (h : Header) (o : ML) : Statement (.mlb h o) :=
  of_m (.mlb h) rfl rfl rfl slot_m o.parse_bits rfl

theorem mma (h : Header) (o : MM) : Statement (.mma h o) :=
  of_m (.mma h) rfl rfl rfl slot_m o.parse_bits rfl

theorem mzero (h : Header) (o : MM) : Statement (.mzero h o) :=
  of_m (.mzero h) rfl rfl rfl slot_m o.parse_bits rfl

theorem mcfg (h : Header) (o : MM) : Statement (.mcfg h o) :=
  of_m (.mcfg h) rfl rfl rfl slot_m o.parse_bits rfl

theorem mstz (h : Header) (o : MZ) : Statement (.mstz h o) :=
  of_m (.mstz h) rfl rfl rfl slot_m o.parse_bits rfl

theorem mldz (h : Header) (o : MZ) : Statement (.mldz h o) :=
  of_m (.mldz h) rfl rfl rfl slot_m o.parse_bits rfl

theorem mcall (h : Header) (o : MC) : Statement (.mcall h o) :=
  of_m (.mcall h) rfl rfl rfl slot_m o.parse_bits rfl

theorem msetq (h : Header) (o : MQ) : Statement (.msetq h o) :=
  of_m (.msetq h) rfl rfl rfl slot_m o.parse_bits rfl

theorem mfmt (h : Header) (o : MF) : Statement (.mfmt h o) :=
  of_m (.mfmt h) rfl rfl rfl slot_m o.parse_bits rfl

theorem mcode (h : Header) (o : ML) : Statement (.mcode h o) :=
  of_m (.mcode h) rfl rfl rfl slot_m o.parse_bits rfl

theorem mstore (h : Header) (o : MS) : Statement (.mstore h o) :=
  of_m (.mstore h) rfl rfl rfl slot_m o.parse_bits rfl

theorem mloop (h : Header) (o : MC) : Statement (.mloop h o) :=
  of_m (.mloop h) rfl rfl rfl slot_m o.parse_bits rfl

theorem mend (h : Header) (o : MC) : Statement (.mend h o) :=
  of_m (.mend h) rfl rfl rfl slot_m o.parse_bits rfl

theorem cpy (h : Header) (o : EC) : Statement (.cpy h o) :=
  of_e (.cpy h) rfl rfl rfl slot_e o.parse_bits rfl

theorem chsend (h : Header) (o : EC) : Statement (.chsend h o) :=
  of_e (.chsend h) rfl rfl rfl slot_e o.parse_bits rfl

theorem chrecv (h : Header) (o : EC) : Statement (.chrecv h o) :=
  of_e (.chrecv h) rfl rfl rfl slot_e o.parse_bits rfl

theorem chred (h : Header) (o : EC) : Statement (.chred h o) :=
  of_e (.chred h) rfl rfl rfl slot_e o.parse_bits rfl

theorem qprop (h : Header) (o : EC) : Statement (.qprop h o) :=
  of_e (.qprop h) rfl rfl rfl slot_e o.parse_bits rfl

theorem qver (h : Header) (o : EC) : Statement (.qver h o) :=
  of_e (.qver h) rfl rfl rfl slot_e o.parse_bits rfl

theorem qres (h : Header) (o : EC) : Statement (.qres h o) :=
  of_e (.qres h) rfl rfl rfl slot_e o.parse_bits rfl

theorem bset (h : Header) (o : EC) : Statement (.bset h o) :=
  of_e (.bset h) rfl rfl rfl slot_e o.parse_bits rfl

theorem bget (h : Header) (o : EC) : Statement (.bget h o) :=
  of_e (.bget h) rfl rfl rfl slot_e o.parse_bits rfl

theorem sieve (h : Header) (o : EC) : Statement (.sieve h o) :=
  of_e (.sieve h) rfl rfl rfl slot_e o.parse_bits rfl

theorem tokz (h : Header) (o : EC) : Statement (.tokz h o) :=
  of_e (.tokz h) rfl rfl rfl slot_e o.parse_bits rfl

theorem detok (h : Header) (o : EC) : Statement (.detok h o) :=
  of_e (.detok h) rfl rfl rfl slot_e o.parse_bits rfl

theorem gadv (h : Header) (o : EC) : Statement (.gadv h o) :=
  of_e (.gadv h) rfl rfl rfl slot_e o.parse_bits rfl

theorem gmask (h : Header) (o : EC) : Statement (.gmask h o) :=
  of_e (.gmask h) rfl rfl rfl slot_e o.parse_bits rfl

theorem sltick (h : Header) (o : EC) : Statement (.sltick h o) :=
  of_e (.sltick h) rfl rfl rfl slot_e o.parse_bits rfl

theorem slpin (h : Header) (o : EC) : Statement (.slpin h o) :=
  of_e (.slpin h) rfl rfl rfl slot_e o.parse_bits rfl

theorem slget (h : Header) (o : EC) : Statement (.slget h o) :=
  of_e (.slget h) rfl rfl rfl slot_e o.parse_bits rfl

theorem dbar (h : Header) (o : EC) : Statement (.dbar h o) :=
  of_e (.dbar h) rfl rfl rfl slot_e o.parse_bits rfl

theorem engineFault (c : BitVec 9) : Statement (.engineFault c) := of_event rfl rfl

theorem grammarOverflow (c : BitVec 9) : Statement (.grammarOverflow c) := of_event rfl rfl

theorem microFault (c : BitVec 9) : Statement (.microFault c) := of_event rfl rfl

theorem numericLimit (c : BitVec 9) : Statement (.numericLimit c) := of_event rfl rfl

theorem machineCheck (c : BitVec 9) (access : Option Nat) (pa : BitVec 64) : Statement (.machineCheck c access pa) := of_event rfl rfl

theorem stepTrap (c : BitVec 9) : Statement (.stepTrap c) := of_event rfl rfl

theorem softwareTrapTaken (c : BitVec 9) : Statement (.softwareTrapTaken c) := of_event rfl rfl

theorem variableResultLand (c : BitVec 9) (id : Nat) : Statement (.variableResultLand c id) := of_event rfl rfl

theorem engineCommandComplete (id : Nat) : Statement (.engineCommandComplete id) := of_event rfl rfl

theorem translationWalkDone (c : BitVec 9) (va : BitVec 64) : Statement (.translationWalkDone c va) := of_event rfl rfl

theorem latchTransfer (c : BitVec 9) : Statement (.latchTransfer c) := of_event rfl rfl

theorem mmaStart (c : BitVec 9) : Statement (.mmaStart c) := of_event rfl rfl

theorem mmaRetire (c : BitVec 9) : Statement (.mmaRetire c) := of_event rfl rfl

theorem tilePipeStart (c : BitVec 9) : Statement (.tilePipeStart c) := of_event rfl rfl

theorem mcallRoutineRun (c : BitVec 9) : Statement (.mcallRoutineRun c) := of_event rfl rfl

theorem dispatchDecision (scout : Bool) : Statement (.dispatchDecision scout) := of_event rfl rfl

theorem preemption (c : BitVec 9) : Statement (.preemption c) := of_event rfl rfl

theorem emergencyAreaFree (scout : Bool) : Statement (.emergencyAreaFree scout) := of_event rfl rfl

theorem taskRestore (c : BitVec 9) : Statement (.taskRestore c) := of_event rfl rfl

theorem parkRelease (uid : Nat) : Statement (.parkRelease uid) := of_event rfl rfl

theorem cellClearDone (c : BitVec 9) : Statement (.cellClearDone c) := of_event rfl rfl

theorem carveRelease (gang : Nat) : Statement (.carveRelease gang) := of_event rfl rfl

theorem spawnUnitEnqueue (c : BitVec 9) : Statement (.spawnUnitEnqueue c) := of_event rfl rfl

theorem seedEnqueue (launch : Nat) : Statement (.seedEnqueue launch) := of_event rfl rfl

theorem launchEntryRead : Statement (.launchEntryRead) := of_event rfl rfl

theorem launchAdmit : Statement (.launchAdmit) := of_event rfl rfl

theorem launchComplete (launch : Nat) : Statement (.launchComplete launch) := of_event rfl rfl

theorem lqtailWrite (q : BitVec 3) (v : BitVec 64) : Statement (.lqtailWrite q v) := of_event rfl rfl

theorem lqcfgWrite (q : BitVec 3) (v : BitVec 64) : Statement (.lqcfgWrite q v) := of_event rfl rfl

theorem fclkWrite (v : BitVec 64) : Statement (.fclkWrite v) := of_event rfl rfl

theorem clockGlideEnd (f : BitVec 2) : Statement (.clockGlideEnd f) := of_event rfl rfl

theorem registerWrite (off : BitVec 16) (v : BitVec 64) : Statement (.registerWrite off v) := of_event rfl rfl

theorem throttleWindow (f : BitVec 2) (cur : BitVec 12) (temp : Int) : Statement (.throttleWindow f cur temp) := of_event rfl rfl

theorem fimeasClrpk (f : BitVec 2) : Statement (.fimeasClrpk f) := of_event rfl rfl

theorem packageReset (firmware frame0 scout : Bool) : Statement (.packageReset firmware frame0 scout) := of_event rfl rfl

theorem frameRailOk (f : BitVec 2) : Statement (.frameRailOk f) := of_event rfl rfl

theorem frameBringupTimeout (f : BitVec 2) : Statement (.frameBringupTimeout f) := of_event rfl rfl

theorem linkPortDown (p : Nat) : Statement (.linkPortDown p) := of_event rfl rfl

theorem linkPortUp (p : Nat) : Statement (.linkPortUp p) := of_event rfl rfl

theorem hostWriteAccept (src : Origin) (pa : BitVec 56) (bytes : List Byte) : Statement (.hostWriteAccept src pa bytes) := of_event rfl rfl

theorem hostWritePerform (i : Nat) : Statement (.hostWritePerform i) := of_event rfl rfl

theorem hostRead (pa : BitVec 56) (n : Nat) : Statement (.hostRead pa n) := of_event rfl rfl

theorem reportRecord : Statement (.reportRecord) := of_event rfl rfl

theorem nxWindowStart (c : BitVec 9) : Statement (.nxWindowStart c) := of_event rfl rfl

theorem efctlResume (c : BitVec 9) : Statement (.efctlResume c) := of_event rfl rfl

theorem efctlAbandon (c : BitVec 9) : Statement (.efctlAbandon c) := of_event rfl rfl

theorem fpreqWrite (c : BitVec 9) (v : BitVec 64) : Statement (.fpreqWrite c v) := of_event rfl rfl

theorem fastPathMapDone (c : BitVec 9) : Statement (.fastPathMapDone c) := of_event rfl rfl

theorem contextCreate : Statement (.contextCreate) := of_event rfl rfl

theorem contextDestroy : Statement (.contextDestroy) := of_event rfl rfl

theorem contextInvalidate (whole : Bool) : Statement (.contextInvalidate whole) := of_event rfl rfl

theorem contextSetPool : Statement (.contextSetPool) := of_event rfl rfl

theorem contextBadCommand (code : BitVec 3) : Statement (.contextBadCommand code) := of_event rfl rfl

theorem quiesceAdvance : Statement (.quiesceAdvance) := of_event rfl rfl

theorem quarantineRelease : Statement (.quarantineRelease) := of_event rfl rfl

theorem broodSnapshot : Statement (.broodSnapshot) := of_event rfl rfl

theorem roundDraftEnqueue (slot : BitVec 12) : Statement (.roundDraftEnqueue slot) := of_event rfl rfl

theorem quorumDecision (slot : BitVec 12) : Statement (.quorumDecision slot) := of_event rfl rfl

theorem sieveList (id : Nat) : Statement (.sieveList id) := of_event rfl rfl

theorem outputDrain (slot : BitVec 12) : Statement (.outputDrain slot) := of_event rfl rfl

theorem textInstallVocabulary (idx : BitVec 12) : Statement (.textInstallVocabulary idx) := of_event rfl rfl

theorem textInstallGrammar (id : BitVec 12) : Statement (.textInstallGrammar id) := of_event rfl rfl

theorem textRemoveVocabulary (idx : BitVec 12) : Statement (.textRemoveVocabulary idx) := of_event rfl rfl

theorem textRemoveGrammar (id : BitVec 12) : Statement (.textRemoveGrammar id) := of_event rfl rfl

theorem channelInstall (first : BitVec 10) (count : BitVec 11) : Statement (.channelInstall first count) := of_event rfl rfl

theorem channelRemove (first : BitVec 10) (count : BitVec 11) : Statement (.channelRemove first count) := of_event rfl rfl

theorem channelMessageArrival (ch : BitVec 10) (m : Message) : Statement (.channelMessageArrival ch m) := of_event rfl rfl

theorem reduceResultArrival (ch : BitVec 10) (res : RoundResult 128) : Statement (.reduceResultArrival ch res) := of_event rfl rfl

theorem domainFlitReceive (hdr : BitVec 128) (ue tagOk : Bool) : Statement (.domainFlitReceive hdr ue tagOk) := of_event rfl rfl

theorem pderrWindow : Statement (.pderrWindow) := of_event rfl rfl

theorem domainForm (reports : List Measured) (secret : BitVec 384) : Statement (.domainForm reports secret) := of_event rfl rfl

theorem domainLeave : Statement (.domainLeave) := of_event rfl rfl

theorem domainRevoke : Statement (.domainRevoke) := of_event rfl rfl

theorem tamperSensor (source : BitVec 8) : Statement (.tamperSensor source) := of_event rfl rfl

theorem rekeyBarrierComplete (reports : List Measured) : Statement (.rekeyBarrierComplete reports) := of_event rfl rfl

theorem rekeyDrainTimeout (reports : List Measured) : Statement (.rekeyDrainTimeout reports) := of_event rfl rfl

theorem mediaRingTailWrite (v : BitVec 64) : Statement (.mediaRingTailWrite v) := of_event rfl rfl

theorem mediaUeMessage (ch : BitVec 10) (src : BitVec 16) (tag : UltraTag) (bytes : List Byte) : Statement (.mediaUeMessage ch src tag bytes) := of_event rfl rfl

theorem mediaRecordArrival (ring : Bool) : Statement (.mediaRecordArrival ring) := of_event rfl rfl

theorem tick (slot : BitVec 12) : Statement (.tick slot) := of_event rfl rfl

theorem timeLockLoss : Statement (.timeLockLoss) := of_event rfl rfl

theorem timeRelock (offset : Nat) (forward : Bool) : Statement (.timeRelock offset forward) := of_event rfl rfl

theorem accordDecision (engine : BitVec 2) : Statement (.accordDecision engine) := of_event rfl rfl

theorem accordSample (engine : BitVec 2) : Statement (.accordSample engine) := of_event rfl rfl

theorem accordEpoch (engine : BitVec 2) (key : RegionKey) : Statement (.accordEpoch engine key) := of_event rfl rfl

theorem accordDescriptorWrite (ctx : BitVec 16) (va : BitVec 64) : Statement (.accordDescriptorWrite ctx va) := of_event rfl rfl

theorem cellAccessPerformed (c : BitVec 9) (id : Nat) : Statement (.cellAccessPerformed c id) := of_event rfl rfl

theorem l1LineEviction (c : BitVec 9) (line : Nat) (code : Bool) : Statement (.l1LineEviction c line code) := of_event rfl rfl

theorem waitTimeout (c : BitVec 9) : Statement (.waitTimeout c) := of_event rfl rfl

theorem mdcfgWrite (v : BitVec 64) : Statement (.mdcfgWrite v) := of_event rfl rfl

theorem peerInboundAccess (at_ : PeerTarget) (op : BitVec 4) (size : BitVec 2) (v : BitVec 128) : Statement (.peerInboundAccess at_ op size v) := of_event rfl rfl

theorem rescalePhase1Result (ch : BitVec 10) (res : RoundResult 32) : Statement (.rescalePhase1Result ch res) := of_event rfl rfl

end Sys2Proof.Laws.Coding
end

