-- ==== Sys2Proof/Tests/Slice0.lean ====
section
/-! SUPPORT. Tests on fixed values, and for every statement that has hypotheses a concrete state and operands that meet them.
The words of the decode tests stand in spec/ with their assembly text; the other expected values are read off the rules
that the tests name. -/

namespace Sys2Proof.Tests

set_option maxRecDepth 20000
set_option Elab.async false

open Sys2Proof Sys2Proof.Machine

/-- The header of a word alone in its bundle, without a tag. -/
def hd (slot : BitVec 3) : Header := ⟨1, slot, 0, 0, 0, 0⟩

/-- The same with an allocated tag. -/
def tg (slot tag : BitVec 3) : Header := ⟨1, slot, 0, 1, tag, 0⟩

/-! ### Decoding -/

def reads (l : List (BitVec 80 × Instr)) : Bool := l.all fun p => decide ((decode p.1).toOption = some p.2)

theorem test_decode_arithmetic : reads
    [(0x800008044080FFFFFFF8, .addImm (hd 0) ⟨4, 2, 0, 0xFFFFFFF8⟩),
     (0x80000808B28000000001, .subImm (hd 0) ⟨11, 10, 0, 1⟩),
     (0x80000034310510000000, .min (hd 0) ⟨3, 4, 5, 1⟩),
     (0x8000006020003FF00000, .lih (hd 0) ⟨2, 0, 0, 0x3FF00000⟩),
     (0x85000000000000000000, .nop { hd 0 with pd := 5 })] = true := by decide +kernel

theorem test_decode_control : reads
    [(0x800001000000FFFFFFFC, .br (hd 0) ⟨0, 0, 0xFFFFFFFC⟩),
     (0x8000011D000000000000, .loopx (hd 0) ⟨0, 1, 0, 0, 0⟩),
     (0x8000020C000050003000, .bar (hd 0) ⟨0, 0, 0, 5, 0, 0, 3, 0⟩),
     (0x80000214014000002000, .barcfg (hd 0) ⟨0, 5, 0, 0, 0, 0, 2, 0⟩),
     (0x80000208014600022000, .spawng (hd 0) ⟨0, 5, 6, 0, 0, 0, 0x22, 0⟩),
     (0x8000021C000070000000, .phase (hd 0) ⟨0, 0, 0, 7, 0, 0, 0, 0⟩),
     (0x80000220000000001000, .fence (hd 0) ⟨0, 0, 0, 0, 0, 0, 1, 0⟩),
     (0x8000022C000000000000, .decpl (hd 0) ⟨0, 0, 0, 0, 0, 0, 0, 0⟩)] = true := by decide +kernel

theorem test_decode_system : reads
    [(0x80000318000000000000, .brk (hd 0) ⟨0, 0, 0, 0, 0, 0, 0, 0⟩),
     (0x80000321100000000000, .rdtime (hd 0) ⟨17, 0, 0, 0, 0, 0, 0, 0⟩),
     (0x8000040004000000000C, .accb (hd 0) ⟨0, 4, 12⟩),
     (0x80000404040000000000, .acce (hd 0) ⟨0, 4, 0⟩),
     (0x80000408010000000000, .accinv (hd 0) ⟨0, 4, 0, 0, 0, 0, 0, 0⟩)] = true := by decide +kernel

theorem test_decode_address : reads
    [(0x9000004C806000000000, .amode (hd 1) ⟨2, 0, 6, 0, 0⟩),
     (0xA0000048440000000100, .aadd (hd 2) ⟨1, 1, 0, 0, 256⟩)] = true := by decide +kernel

theorem test_decode_vector : reads
    [(0xB3000010280F00800000, .vfma { hd 3 with pd := 3 } ⟨20, 15, 1, 0, 0, 0, 0, 0, 0, 0, 0, 0, 0, 0⟩),
     (0xB0000081940000000000, .kand (hd 3) ⟨3, 1, 2, 0⟩)] = true := by decide +kernel

theorem test_decode_matrix : reads
    [(0xC0000014810000000000, .mcfg (hd 4) ⟨1, 0, 0, 2, 0, 0, 0⟩),
     (0xC000002C600001000000, .mcode (hd 4) ⟨0, 6, 0, 0, 0, 0, 0, 2⟩),
     (0xC000000A530022800000, .mlb (hd 4) ⟨2, 5, 3, 0, 0, 8, 1, 1⟩),
     (0xC0000019208C00000000, .mstz (hd 4) ⟨2, 4, 1, 1, 1, 0, 0⟩),
     (0xC0000030000C01800000, .mstore (hd 4) ⟨0, 3, 6⟩),
     (0xC0000028C70000000000, .mfmt (hd 4) ⟨3, 7⟩),
     (0xC0000025120000000000, .msetq (hd 4) ⟨2, 9⟩),
     (0xC0000040100000000000, .mloop (hd 4) ⟨4⟩)] = true := by decide +kernel

theorem test_decode_engine : reads
    [(0xD0A00005580000000000, .cpy (tg 5 2) ⟨5, 6, 0, 0, 0, 0, 0⟩),
     (0xD0A0000980000B010000, .chsend (tg 5 2) ⟨6, 0, 0, 0, 0x2C, 0, 0x10000⟩),
     (0xD000002C0051C2400000, .bset (hd 5) ⟨0, 0, 5, 7, 9, 0, 0⟩),
     (0xD0B00024804180040000, .qver (tg 5 3) ⟨2, 0, 4, 6, 0, 1, 0⟩),
     (0xD0800041404000000000, .sieve (tg 5 0) ⟨5, 0, 4, 0, 0, 0, 0⟩),
     (0xD0000065804000000000, .slpin (hd 5) ⟨6, 0, 4, 0, 0, 0, 0⟩),
     (0xD0000080000000000000, .dbar (hd 5) ⟨0, 0, 0, 0, 0, 0, 0⟩)] = true := by decide +kernel

/-! ### Ill-formed instructions: one for each check (R111, R112) -/

def refuses (l : List Instr) : Bool := l.all fun i => !i.check

theorem smoke_scalar : refuses
    [.add (hd 0) ⟨1, 2, 3, 1⟩, .div (hd 0) ⟨1, 2, 3, 2⟩, .clz (hd 0) ⟨1, 2, 3, 0⟩, .ext (hd 0) ⟨1, 2, 0, 3⟩,
     .ext (hd 0) ⟨1, 2, 0, 8⟩, .cmp (hd 0) ⟨1, 2, 3, 10⟩, .addImm (hd 0) ⟨1, 2, 1, 0⟩, .mulhImm (hd 0) ⟨1, 2, 2, 0⟩,
     .li (hd 0) ⟨1, 2, 0, 0⟩, .add (hd 1) ⟨1, 2, 3, 0⟩] = true := by decide +kernel

theorem smoke_branch : refuses
    [.br (hd 0) ⟨1, 0, 0⟩, .brc (hd 0) ⟨6, 1, 0⟩, .bri (hd 0) ⟨0, 1, 4⟩, .ret (hd 0) ⟨0, 1, 0⟩, .accb (hd 0) ⟨1, 1, 0⟩,
     .loop (hd 0) ⟨0, 0, 1, 1, 1⟩, .loop (hd 0) ⟨1, 0, 1, 1, 1⟩, .loopx (hd 0) ⟨0, 0, 0, 0, 1⟩] = true := by decide +kernel

theorem smoke_system : refuses
    [.exit (hd 0) ⟨1, 0, 0, 0, 0, 0, 0, 0⟩, .spawn (hd 0) ⟨0, 1, 0, 11, 0, 0, 0, 0⟩, .spawng (hd 0) ⟨0, 1, 2, 0, 0, 0, 0xC0, 0⟩,
     .bar (hd 0) ⟨0, 0, 0, 0, 0, 0, 0x10, 0⟩, .barcfg (hd 0) ⟨0, 1, 0, 1, 0, 0, 0, 0⟩, .carve (hd 0) ⟨0, 1, 1, 0, 0, 0, 0, 0⟩,
     .wait (hd 0) ⟨1, 2, 3, 0, 0, 0, 0x40, 0⟩, .phase (hd 0) ⟨0, 0, 0, 0, 0, 0, 0, 0⟩, .fence (hd 0) ⟨0, 0, 0, 0, 0, 0, 2, 0⟩,
     .xfence (hd 0) ⟨0, 0, 0, 5, 10, 0, 0, 0⟩, .crrd (hd 0) ⟨1, 1, 0, 0, 0, 0, 0, 1⟩, .crwr (hd 0) ⟨1, 1, 0, 0, 0, 0, 0, 0x50⟩,
     .trap (hd 0) ⟨0, 0, 0, 0, 0, 0, 0x3F, 0⟩, .tlbi (hd 0) ⟨1, 2, 3, 0, 0, 0, 2, 0⟩, .rdtime (hd 0) ⟨1, 1, 0, 0, 0, 0, 0, 0⟩,
     .accinv (hd 0) ⟨1, 2, 0, 0, 0, 0, 0, 0⟩] = true := by decide +kernel

theorem smoke_address : refuses
    [.ld (hd 1) ⟨64, 0, 0, 0, 2, 0, 0, 0, 0, 0, 0⟩, .ld (hd 1) ⟨1, 0, 0, 0, 2, 0, 2, 0, 0, 0, 0⟩,
     .st (hd 1) ⟨1, 0, 0, 0, 2, 1, 0, 0, 0, 0, 0⟩, .st (hd 1) ⟨1, 0, 0, 0, 2, 0, 0, 0, 0, 3, 0⟩,
     .ldv (hd 1) ⟨1, 0, 0, 0, 1, 0, 0, 0, 0, 0, 0⟩, .hld (hd 1) ⟨16, 0, 0, 0, 0, 0, 0, 0, 0, 0, 0⟩,
     .lea (hd 1) ⟨64, 0, 0, 0, 0, 0, 0, 0, 0, 0, 0⟩, .pref (hd 1) ⟨1, 0, 0, 0, 0, 0, 0, 0, 0, 0, 0⟩,
     .stv (hd 1) ⟨1, 0, 1, 0, 0, 0, 0, 0, 0, 0, 0⟩, .amo (hd 1) ⟨1, 2, 1, 0, 0, 0, 0, 0, 0, 0, 0⟩,
     .amo (hd 1) ⟨63, 2, 0, 0, 0, 0, 9, 2, 0, 0, 0⟩, .cas (hd 1) ⟨1, 2, 3, 0, 0, 0, 1, 0, 0, 0, 0⟩,
     .amov (hd 1) ⟨1, 1, 0, 0, 0⟩, .aget (hd 1) ⟨1, 1, 0, 0, 0⟩, .aadd (hd 1) ⟨1, 1, 0, 1, 0⟩, .amode (hd 1) ⟨1, 1, 0, 0, 0⟩,
     .aupd (hd 1) ⟨1, 1, 0, 0, 0⟩, .hset (hd 1) ⟨1, 1, 1, 12, 0⟩, .hget (hd 1) ⟨1, 1, 1, 0, 0⟩, .amov (hd 0) ⟨1, 0, 0, 0, 0⟩]
    = true := by decide +kernel

theorem smoke_vector : refuses
    [.vadd (hd 3) ⟨0, 1, 2, 0, 5, 0, 0, 0, 0, 0, 0, 0, 0, 0⟩, .vadd (hd 3) ⟨0, 1, 2, 0, 10, 1, 0, 0, 0, 0, 0, 0, 0, 0⟩,
     .vmin (hd 3) ⟨0, 1, 2, 0, 0, 0, 0, 0, 0, 1, 0, 0, 0, 0⟩, .vexp2 (hd 3) ⟨0, 1, 0, 0, 6, 0, 0, 0, 0, 0, 0, 0, 0, 0⟩,
     .vcvt (hd 3) ⟨0, 1, 16, 0, 0, 0, 0, 0, 0, 0, 0, 0, 0, 0⟩, .vcmp (hd 3) ⟨8, 1, 2, 0, 0, 0, 0, 0, 0, 0, 0, 0, 0, 0⟩,
     .vsel (hd 3) ⟨0, 1, 2, 0, 0, 1, 0, 0, 0, 0, 0, 0, 0, 0⟩, .vand (hd 3) ⟨0, 1, 2, 0, 13, 0, 0, 0, 0, 0, 0, 0, 0, 0⟩,
     .vshl (hd 3) ⟨0, 1, 2, 0, 0, 0, 0, 0, 0, 0, 0, 0, 0, 0⟩, .vmov (hd 3) ⟨0, 1, 2, 0, 0, 0, 0, 0, 0, 0, 0, 0, 0, 0⟩,
     .vperm (hd 3) ⟨0, 1, 2, 0, 0, 0, 0, 0, 0, 0, 0, 0, 0, 1⟩, .vaddImm (hd 3) ⟨0, 1, 0x100, 0, 3, 0, 0, 0⟩,
     .vminImm (hd 3) ⟨0, 1, 0, 0, 0, 1, 0, 0⟩, .vshlImm (hd 3) ⟨0, 1, 0, 0, 0, 0, 0, 0⟩, .vbcast (hd 3) ⟨0, 1, 1, 0, 0, 0⟩,
     .vext (hd 3) ⟨0, 1, 64, 0, 0, 0⟩, .viota (hd 3) ⟨0, 1, 0, 0, 0, 0⟩, .vred (hd 3) ⟨0, 1, 0, 0, 0, 3⟩,
     .kand (hd 3) ⟨1, 2, 3, 1⟩, .kmov (hd 3) ⟨1, 2, 1, 0⟩, .kpopc (hd 3) ⟨1, 2, 0, 1⟩] = true := by decide +kernel

theorem smoke_matrix_engine : refuses
    [.mla (hd 4) ⟨0, 0, 0, 0, 0, 10, 1, 0⟩, .mlb (hd 4) ⟨0, 0, 0, 0, 0, 1, 1, 0⟩, .mcode (hd 4) ⟨1, 0, 0, 0, 0, 0, 0, 0⟩,
     .mma (hd 4) ⟨0, 0, 0, 8, 1, 0, 0⟩, .mzero (hd 4) ⟨0, 1, 0, 0, 0, 0, 0⟩, .mcfg (hd 4) ⟨0, 0, 0, 4, 0, 0, 0⟩,
     .mend (hd 4) ⟨1⟩, .mstz (hd 4) ⟨0, 0, 0, 13, 0, 0, 0⟩, .mldz (hd 4) ⟨0, 0, 0, 3, 0, 0, 0⟩,
     .mstore (hd 4) ⟨1000, 0, 25⟩, .msetq (hd 3) ⟨0, 0⟩, .mfmt (hd 5) ⟨0, 0⟩,
     .cpy (hd 5) ⟨0, 1, 0, 0, 0, 0, 6⟩, .chsend (hd 5) ⟨0, 1, 0, 0, 0, 0, 0⟩, .chred (hd 5) ⟨0, 1, 1, 0, 0, 0, 0⟩,
     .qprop (hd 5) ⟨0, 1, 0, 0, 0, 0, 0⟩, .qver (hd 5) ⟨1, 0, 0, 0, 0, 0, 0⟩, .bget (hd 5) ⟨0, 0, 0, 0, 25, 0, 0⟩,
     .bset (hd 5) ⟨0, 0, 0, 0, 1, 0, 0⟩, .gadv (hd 5) ⟨1, 0, 0, 0, 0, 0, 0⟩, .gmask (hd 5) ⟨0, 1, 0, 0, 0, 0, 0⟩,
     .sltick (hd 5) ⟨0, 0, 0, 63, 0, 0, 0⟩, .dbar (hd 5) ⟨0, 0, 1, 0, 0, 0, 0⟩] = true := by decide +kernel

/-- The steps of other agents are no words: no encoding stands for one. -/
theorem smoke_step_has_no_word : encode .contextCreate = none ∧ Instr.isWord (.tick 3) = false := by decide +kernel

/-! ### States for the witnesses -/

/-- Everything present, READY. -/
def booted (p : Package) : Package :=
  { p with devState := 1, frames := 0xF, scout := true, crossings := 0xF, ports := 0xFFFF, uePorts := 0xF, up := true }

/-- Cell 0 runs a user task with 8 tiles, 4 granules of scratchpad and a translated page at address 0. -/
def base : State := ({ State.reset with pkg := booted State.reset.pkg }.withFetchWord 80 (13 * 2 ^ 76 + 2 ^ 79)).upd fun c =>
  { c with bound := some { launch := 0, stage := 0, ctx := 0, spr := 4, l1r := 2, tiles := 8, qsl1 := false } }

/-- The same with a scalar register set. -/
def withS (s : State) (i : BitVec 6) (v : Word) : State :=
  s.upd fun c => { c with regs := { c.regs with s := c.regs.s.wr i v } }

/-- The same in a handler. -/
def inHandler (s : State) : State := s.upd fun c => { c with tr := { c.tr with status := 1 } }

def okAnd {ε α : Type} (x : Except ε α) (p : α → Bool) : Bool :=
  match x with
  | .error _ => false
  | .ok a => p a

def failsWith {ε α : Type} (x : Except ε α) (p : ε → Bool) : Bool :=
  match x with
  | .error e => p e
  | .ok _ => false

/-- Every instruction of the list is well formed. -/
def wf (l : List Instr) : Bool := l.all Instr.check

theorem plain_hd (slot : BitVec 3) (s : State) : Plain (hd slot) s := ⟨by simp [hd], rfl, rfl⟩

theorem clear_hd (slot : BitVec 3) (s : State) : Clear (hd slot) s := .inl (plain_hd slot s)

theorem user_base : User base := by unfold User; decide +kernel

/-- Cell 0 waits for one load into s5, behind tag 1. -/
def loading : State := base.upd fun c => { c with pipe := { c.pipe with
  pend := 2, accs := [{ id := 7, tag := some 1, lands := [.s 5 9], write := false, pa := placedPage, dom := false, slot := 1 }] } }

/-- Context 0 with tables that map each address below 64 MiB to itself, read, write, execute, user. -/
def paged (s : State) : State :=
  { s with
    pkg := { s.pkg with contexts := [
      { id := 0, root := 0x20000, tvec := 0, saveb := 0, saves := 0, free := [0, 1], used := [], pool := 0, poolN := 0 }] }
    mem := ((s.mem.storeNat 0x20000 8 0x22003).storeNat 0x22000 8 0x24003).storeNat 0x24000 8 0x79 }

/-! ### Witnesses: the C slot -/

theorem witness_AddSubLogicComplete : Plain (hd 0) base ∧ wf
    [.add (hd 0) ⟨1, 2, 3, 0⟩, .addImm (hd 0) ⟨1, 2, 0, 5⟩, .sub (hd 0) ⟨1, 2, 3, 0⟩, .subImm (hd 0) ⟨1, 2, 0, 5⟩,
     .and (hd 0) ⟨1, 2, 3, 0⟩, .andImm (hd 0) ⟨1, 2, 0, 5⟩, .or (hd 0) ⟨1, 2, 3, 0⟩, .orImm (hd 0) ⟨1, 2, 0, 5⟩,
     .xor (hd 0) ⟨1, 2, 3, 0⟩, .xorImm (hd 0) ⟨1, 2, 0, 5⟩] = true := ⟨plain_hd _ _, by decide +kernel⟩

theorem witness_MultiplyDivideComplete : Plain (hd 0) base ∧ wf
    [.mul (hd 0) ⟨1, 2, 3, 0⟩, .mulImm (hd 0) ⟨1, 2, 0, 5⟩, .mulh (hd 0) ⟨1, 2, 3, 1⟩, .mulhImm (hd 0) ⟨1, 2, 1, 5⟩,
     .div (hd 0) ⟨1, 2, 3, 1⟩, .divImm (hd 0) ⟨1, 2, 0, 5⟩, .rem (hd 0) ⟨1, 2, 3, 0⟩, .remImm (hd 0) ⟨1, 2, 1, 5⟩] = true :=
  ⟨plain_hd _ _, by decide +kernel⟩

theorem witness_ShiftComplete : Plain (hd 0) base ∧ wf
    [.shl (hd 0) ⟨1, 2, 3, 0⟩, .shlImm (hd 0) ⟨1, 2, 0, 63⟩, .shr (hd 0) ⟨1, 2, 3, 1⟩, .shrImm (hd 0) ⟨1, 2, 1, 64⟩,
     .sra (hd 0) ⟨1, 2, 3, 0⟩] = true := ⟨plain_hd _ _, by decide +kernel⟩

/-- With sd = 1 and sd = 0, and a condition that holds and one that does not. -/
theorem witness_ChooseComplete : Plain (hd 0) (withS base 1 1) ∧ Plain (hd 0) base ∧ wf
    [.min (hd 0) ⟨1, 2, 3, 0⟩, .max (hd 0) ⟨1, 2, 3, 0⟩, .cmp (hd 0) ⟨1, 2, 3, 0⟩, .cmp (hd 0) ⟨1, 2, 3, 9⟩,
     .sel (hd 0) ⟨1, 2, 3, 0⟩] = true ∧ (withS base 1 1).cell.rdS 1 ≠ 0 ∧ base.cell.rdS 1 = 0 ∧ holds 0 0 0 ∧ ¬ holds 1 0 0 :=
  ⟨plain_hd _ _, plain_hd _ _, by decide +kernel, by decide +kernel, by decide +kernel, rfl, fun h => h rfl⟩

/-- Widths 64 and 65 of a bit field. -/
theorem witness_CountLoadFieldComplete : Plain (hd 0) (withS base 3 0x4000) ∧ Plain (hd 0) (withS base 3 0x4100) ∧ wf
    [.clz (hd 0) ⟨1, 2, 0, 0⟩, .popc (hd 0) ⟨1, 2, 0, 0⟩, .brev (hd 0) ⟨1, 2, 0, 0⟩, .li (hd 0) ⟨1, 0, 0, 5⟩,
     .lih (hd 0) ⟨1, 0, 0, 5⟩, .ext (hd 0) ⟨1, 2, 0, 6⟩, .bfx (hd 0) ⟨1, 2, 3, 1⟩, .bfi (hd 0) ⟨1, 2, 3, 0⟩] = true ∧
    ((withS base 3 0x4000).cell.rdS 3).toNat / 256 % 128 = 64 ∧ ((withS base 3 0x4100).cell.rdS 3).toNat / 256 % 128 = 65 :=
  ⟨plain_hd _ _, plain_hd _ _, by decide +kernel⟩

theorem witness_BranchesComplete : Plain (hd 0) base ∧ wf
    [.br (hd 0) ⟨0, 0, 0xFFFFFFFC⟩, .bri (hd 0) ⟨0, 5, 0⟩, .call (hd 0) ⟨0, 0, 4⟩, .calli (hd 0) ⟨0, 5, 0⟩,
     .ret (hd 0) ⟨0, 0, 0⟩, .brc (hd 0) ⟨0, 5, 4⟩, .brc (hd 0) ⟨5, 5, 4⟩] = true ∧
    branches 0 ((leadCell base).rdS 5).toInt ∧ ¬ branches 2 ((leadCell base).rdS 5).toInt :=
  ⟨plain_hd _ _, by decide +kernel, by show ((leadCell base).rdS 5).toInt = 0; decide +kernel,
    by show ¬ ((leadCell base).rdS 5).toInt < 0; decide +kernel⟩

/-- A loop at words 0 to 0 whose body is the bundle that follows. -/
def looping (l : BitVec 1) (e : BitVec 32) : State := base.startLoop l { b := 0, e := e, left := 3, iter := 0 }

theorem witness_LoopComplete : Plain (hd 0) base ∧ User base ∧ User (looping 1 0) ∧ User (looping 0 0) ∧ wf
    [.loop (hd 0) ⟨1, 0, 0, 2, 0⟩, .loop (hd 0) ⟨1, 0, 0, 2, 1⟩, .loop (hd 0) ⟨1, 0, 0, 0, 1⟩, .loopx (hd 0) ⟨0, 0, 0, 0, 0⟩,
     .loopx (hd 0) ⟨0, 1, 0, 0, 0⟩, .nop (hd 0), .nop (hd 5)] = true ∧
    loopBad base.cell ⟨1, 0, 0, 2, 0⟩ = true ∧ loopBad base.cell ⟨1, 0, 0, 2, 1⟩ = false ∧
    loopBad (looping 1 0).cell ⟨1, 0, 0, 2, 1⟩ = false ∧
    okAnd (nthBundle base.cur 1 base base.cell.pipe.seq) (fun r =>
      decide (r.1 = 0) && okAnd (afterBundle base.cur (2 ^ 32) r.2 r.1) fun _ => true) = true ∧
    loopCount base ⟨1, 0, 0, 2, 1⟩ ≠ 0 ∧ loopCount base ⟨1, 0, 0, 0, 1⟩ = 0 ∧
    ((looping 1 0).upd fun c => { c with pipe := { c.pipe with seq := 1 } }).cell.pipe.outer.any
      (fun l => decide (l.e.toNat < 1)) = true ∧
    base.cell.pipe.outer = none ∧ (looping 0 0).cell.pipe.inner.isSome = true :=
  ⟨plain_hd _ _, user_base, by unfold User; decide +kernel, by unfold User; decide +kernel, by decide +kernel⟩

/-! ### Witnesses: tasks and gangs -/

/-- A stage of gangs of `g`, which may spawn into itself: one field of 16 bits, a queue of two entries. -/
def stage (g : Nat) (fuse : Bool) : Stage :=
  { entry := 0, widths := [16], affl := 0, affFrame := false, qlog := 1, prio := 0, cw := 0, det := false, fuse := fuse,
    qsl1 := false, affm := 0, gang := g, down := 1, minc := 0, maxc := 0, tiles := 8, spr := 4, l1r := 2, stkg := 0, minr := 0 }

def entry (v : Word) : QEntry := { ident := v, barrier := false, scope := 0, step := none }

def launch (st : Stage) (q : List QEntry) : Launch :=
  { id := 0, packet := 0, status := 0, ctx := 0, code := 0, data := 0, comb := some 0, scout := none,
    stages := [{ hdr := st, queue := q, credit := 0, draining := none }], seedAt := 0, seedLeft := 1, seedStage := 0,
    seedBarrier := false, resident := true }

def gang (n : Nat) (fused : Bool) : Gang :=
  { id := 0, launch := 0, stage := 0, size := n, ident := 0, cells := [0, 1], exited := [], fused := fused,
    bars := Reg.fill { expect := n, arrived := [] }, rejoined := [], carving := [], step := none }

/-- Member 0 of a gang of `n` on cell 0. -/
def member (n : Nat) (fuse fused : Bool) (q : List QEntry) : State :=
  { base.upd (fun c => { c with task := { Task.idle with gsize := BitVec.ofNat 6 n, fused := fused } }) with
    tasks := { Tasks.reset with launches := [launch (stage n fuse) q], gangs := [gang n fused] } }

/-- The same after one arrival at barrier 0. -/
def arrived (n : Nat) : State := setGang (member n false false []) (withArrival (gang n false) 0 ⟨1, none, false⟩)

/-- Cell 0 has spawned a range of `count` entries, of which `next` are in the queue. -/
def spreading (next count : Nat) : State := setRange (member 1 false false []) 0
  (some { cell := 0, gang := 0, gmem := 0, launch := 0, stage := 0, field := 0, base := 3, next := next, count := count, barrier := false, scope := 0 })

theorem user_member (n : Nat) (a b : Bool) (q : List QEntry) : User (member n a b q) := user_base

theorem witness_TaskWordsComplete : Plain (hd 0) (member 1 false false []) ∧ User (member 1 false false []) ∧
    wf [.exit (hd 0) ⟨0, 0, 0, 0, 0, 0, 0, 0⟩, .spawn (hd 0) ⟨0, 5, 0, 0, 0, 0, 0, 0⟩, .spawng (hd 0) ⟨0, 5, 6, 0, 0, 0, 0, 0⟩,
      .spawn (hd 0) ⟨0, 5, 0, 0, 0, 0, 1, 0⟩] = true ∧
    (let c := (member 1 false false []).cell
     c.pipe.pend = 0 ∧ c.mx.queue = [] ∧ c.mx.run = none ∧ c.pipe.accs = [] ∧ c.rdS 6 = 0) ∧
    rangeOf (member 1 false false []) 0 = none ∧ (member 1 false false []).cur = 0 ∧
    (rangeOf (spreading 1 3) 0).isSome = true ∧ (spawnTarget (spreading 1 3) 0).isSome = true ∧
    (base.upd fun c => { c with pipe := { c.pipe with pend := 1 } }).cell.pipe.pend ≠ 0 ∧
    (spawnTarget (member 1 false false []) 0).any (fun q =>
      decide (q.queue.length < 2 ^ q.hdr.qlog) && decide (fieldOf q.hdr 0 (maskIdent q.hdr 0) + 2 ≤ 2 ^ (fieldPos q.hdr 0).2)) = true ∧
    (spawnTarget (member 1 false false [entry 1, entry 2]) 0).any (fun q => decide (2 ^ q.hdr.qlog ≤ q.queue.length)) = true ∧
    (withS (member 1 false false []) 6 2).cell.rdS 6 = 2 ∧ spawnTarget (member 1 false false []) 1 = none ∧
    (spawnTarget (member 1 false false []) 0).any (fun q =>
      decide (2 ^ (fieldPos q.hdr 0).2 < fieldOf q.hdr 0 (maskIdent q.hdr 0xFFFF) + 2)) = true :=
  ⟨plain_hd _ _, user_member _ _ _ _, by decide +kernel⟩

theorem witness_BarrierWordsComplete : Plain (hd 0) (member 2 false false []) ∧ User (member 2 false false []) ∧
    wf [.bar (hd 0) ⟨0, 0, 0, 0, 0, 0, 0, 0⟩, .bara (hd 0) ⟨0, 0, 0, 10, 0, 0, 15, 0⟩, .carve (hd 0) ⟨0, 5, 0, 0, 0, 0, 0, 0⟩,
      .barcfg (hd 0) ⟨0, 6, 0, 0, 0, 0, 0, 0⟩] = true ∧
    (let s := withS (member 2 false false []) 5 0x201
     gangOf s s.cell.task.gang = some (gang 2 false) ∧ s.cell.task.gsize ≠ 1#6 ∧ s.cell.pipe.accs = [] ∧
     (stageOf s s.cell.task.launch s.cell.task.stage).any (fun q => carveOk q (s.cell.rdS 5)) = true ∧
     (s.cell.rdS 6).toNat % 64 ≤ s.cell.task.gsize.toNat ∧ ((gang 2 false).bars.rd 0).arrived = [] ∧
     (leadCell s).task.gmem = s.cell.task.gmem ∧ s.cell.task.gsize.toNat < ((withS s 6 3).cell.rdS 6).toNat % 64) ∧
    ((arrived 2).tasks.gangs.any fun g => decide ((g.bars.rd 0).arrived ≠ [])) = true ∧
    2 ≤ (2#4).toNat ∧ loading.cell.pipe.accs ≠ [] ∧
    (let s := withS (member 1 false false []) 5 0x201
     s.cell.task.gsize = 1#6 ∧ (s.cell.rdS 6).toNat % 64 ≤ 1 ∧
     (stageOf s s.cell.task.launch s.cell.task.stage).any (fun q => carveOk q (s.cell.rdS 5)) = true) :=
  ⟨plain_hd _ _, user_member _ _ _ _, by decide +kernel⟩

/-- Every member of a gang of two has arrived at barrier 0, cell 0 by CARVE, with the carve values of the list. -/
def carved (l : List (Option (BitVec 12))) : State :=
  let s := (member 2 false false []).upd fun c => { c with wait := .carve 0 0 }
  setGang s (withBarrier (gang 2 false) 0 { expect := 2, arrived := l.map fun v => ⟨0, v, true⟩ })

/-- Cell 0 was released from a mixed phase. -/
def misused : State := base.upd fun c => { c with wait := .misuse 0 }

/-- The member of cell 0 has rejoined and the other has exited. -/
def rejoining : State :=
  let s := (member 2 true false []).upd fun c => { c with wait := .rejoin }
  setGang s { gang 2 false with rejoined := [0], exited := [1] }

/-- Phases of CARVEs alone and of CARVE and BAR; a member released into misuse; REJOIN by all that live, and by none. -/
theorem witness_GangStepsComplete_phases :
    (let s := carved [some 0x201, some 0x303]
     (gangOf s 0).any (fun g => decide ((g.bars.rd 0).expect ≤ (g.bars.rd 0).arrived.length + g.exited.length)
       && decide ((g.bars.rd 0).arrived = [⟨0, some 0x201, true⟩] ++ [⟨0, some 0x303, true⟩])) = true ∧
     runsTask (s.cellAt 0) 0 (s.cellAt 0).task.gmem = true ∧ (s.cellAt 0).wait = .carve 0 0) ∧
    ((gangOf (carved [some 0x201, none]) 0).any fun g =>
      decide (∃ a ∈ (g.bars.rd 0).arrived, a.carve = none)) = true ∧
    cellLive misused 0 = true ∧ 0 ∉ misused.tasks.saving ∧ pendingEvent misused 0 = none ∧ (misused.cellAt 0).sup = false ∧
    (misused.cellAt 0).wait = .misuse 0 ∧
    (gangOf rejoining 0).any (fun g => decide (g.rejoined ≠ [] ∧ g.size ≤ g.rejoined.length + g.exited.length)) = true ∧
    (gangOf rejoining 0).any (fun g => decide ((membersOf rejoining g).length = 1)) = true ∧
    (rejoining.cellAt 0).running = true ∧ (rejoining.cellAt 0).task.gang = 0 ∧
    (gangOf (member 2 true false []) 0).any (fun g => decide (g.rejoined = [])) = true := by decide +kernel

theorem witness_GangStepsComplete : Plain (hd 0) (member 2 true true []) ∧ User (member 2 true true []) ∧
    wf [.decpl (hd 0) ⟨0, 0, 0, 0, 0, 0, 0, 0⟩, .rejoin (hd 0) ⟨0, 0, 0, 0, 0, 0, 0, 0⟩] = true ∧
    gangOf (member 2 true true []) 0 = some (gang 2 true) ∧ (member 2 true true []).cell.task.fused = true ∧
    (member 2 true false []).cell.task.fused = false ∧
    (gangOf (member 2 true false []) (member 2 true false []).cell.task.gang).isSome = true ∧
    (stageOf (member 2 true false []) 0 0).any (fun q => q.hdr.fuse) = true ∧
    (stageOf (member 2 false false []) 0 0).any (fun q => !q.hdr.fuse) = true ∧
    (gangOf (arrived 2) 0).any (fun g => decide ((g.bars.rd 0).arrived.length + g.exited.length < (g.bars.rd 0).expect)) = true ∧
    (gangOf (arrived 1) 0).any (fun g => decide ((g.bars.rd 0).expect ≤ (g.bars.rd 0).arrived.length + g.exited.length)) = true ∧
    runsTask ((arrived 1).cellAt 0) 0 ((arrived 1).cellAt 0).task.gmem = true :=
  ⟨plain_hd _ _, user_member _ _ _ _, by decide +kernel⟩

/-! ### Witnesses: ordering, control registers, traps -/

/-- A cell whose MLA of GATH class has not yet read its lines. -/
def gathering : State := base.upd fun c => { c with mx := { c.mx with queue :=
  [.code 9 0 (.later [[{ space := .main, addr := placedPage, len := 256 }]])] } }

theorem witness_OrderingWordsComplete : Plain (hd 0) base ∧ Plain (hd 0) loading ∧ User base ∧
    wf [.wait (hd 0) ⟨1, 2, 3, 2, 0, 0, 0, 0⟩, .phase (hd 0) ⟨0, 0, 0, 10, 0, 0, 0, 0⟩, .fence (hd 0) ⟨0, 0, 0, 0, 0, 0, 0, 0⟩,
      .fence (hd 0) ⟨0, 0, 0, 0, 0, 0, 1, 0⟩, .xfence (hd 0) ⟨0, 0, 0, 1, 0, 0, 0, 0⟩, .xfence (hd 0) ⟨0, 0, 0, 0, 1, 2, 0, 0⟩,
      .xfence (hd 0) ⟨0, 0, 0, 5, 9, 2, 0, 0⟩, .xfence (hd 0) ⟨0, 0, 0, 5, 7, 0, 0, 0⟩] = true ∧
    okAnd (resolve base 0 0 0 8 0) (fun r =>
      decide (BitVec.ofNat 64 (leNat (readHome r.2.2 r.1 r.2.1 8).1) ≠ (withS base 3 1).cell.rdS 3)) = true ∧
    okAnd (resolve base 0xFFF8 0 0 8 0) (fun r =>
      decide (BitVec.ofNat 64 (leNat (readHome r.2.2 r.1 r.2.1 8).1) = base.cell.rdS 3)) = true ∧
    base.cell.pipe.polled = none ∧ base.cell.pipe.expired = false ∧ base.cell.pipe.accs = [] ∧ loading.cell.pipe.accs ≠ [] ∧
    gathPending gathering.cell = true ∧ gathPending base.cell = false :=
  ⟨plain_hd _ _, plain_hd _ _, user_base, by decide +kernel⟩

/-- 0x050 is a register of the cell, 0x060 one of the package, reserved to supervisor mode. -/
theorem witness_ControlRegistersComplete : Plain (hd 0) base ∧
    wf [.crrd (hd 0) ⟨1, 0, 0, 0, 0, 0, 0, 0x050⟩, .rdtime (hd 0) ⟨1, 0, 0, 0, 0, 0, 0, 0⟩, .crwr (hd 0) ⟨0, 2, 0, 0, 0, 0, 0, 0x050⟩,
      .crset (hd 0) ⟨1, 2, 0, 0, 0, 0, 0, 0x050⟩, .crclr (hd 0) ⟨1, 2, 0, 0, 0, 0, 0, 0x050⟩,
      .crset (hd 0) ⟨1, 2, 0, 0, 0, 0, 0, 0x060⟩, .crwr (hd 0) ⟨0, 2, 0, 0, 0, 0, 0, 0x060⟩] = true ∧
    crPrivileged 0x050 = false ∧ crLocal 0x050 = true ∧ crPrivileged 0x060 = true ∧ base.cell.sup = false ∧
    (inHandler base).cell.sup = true ∧ crLocal 0x060 = false :=
  ⟨plain_hd _ _, by decide +kernel⟩

theorem witness_TrapWordsComplete : Plain (hd 0) base ∧
    wf [.trap (hd 0) ⟨0, 0, 0, 0, 0, 0, 0x7F, 0⟩, .brk (hd 0) ⟨0, 0, 0, 0, 0, 0, 0, 0⟩, .tlbi (hd 0) ⟨1, 2, 3, 0, 0, 0, 1, 0⟩] = true ∧
    bit base.cell.tr.dbgctl 2 = false ∧
    bit (base.upd fun c => { c with tr := { c.tr with dbgctl := 4 } }).cell.tr.dbgctl 2 = true ∧
    base.cell.sup = false ∧ (inHandler base).cell.sup = true :=
  ⟨plain_hd _ _, by decide +kernel⟩

/-- Handlers without and with a result in flight, with ABORT, with PARK, and after a machine check. -/
theorem witness_ReturnFromTrap : Plain (hd 0) (inHandler base) ∧ (Instr.tret (hd 0) ⟨0, 0, 0, 0, 0, 0, 0, 0⟩).WellFormed ∧
    (inHandler base).cell.sup = true ∧ (inHandler base).cell.pipe.inflight = [] ∧
    ((inHandler base).push (inFlight (hd 0) 1 0 [.s 1 5])).cell.pipe.inflight ≠ [] ∧
    bit (inHandler base).cell.tr.status 2 = false ∧ (inHandler base).cell.tr.cause.toNat % 256 ≠ cMachineCheck.toNat ∧
    bit (inHandler base).cell.tr.status 3 = false ∧
    (let s := base.upd fun c => { c with tr := { c.tr with status := 9 } }
     s.cell.sup = true ∧ bit s.cell.tr.status 2 = false ∧ bit s.cell.tr.status 3 = true) ∧
    (let s := base.upd fun c => { c with tr := { c.tr with status := 5 } }
     s.cell.sup = true ∧ bit s.cell.tr.status 2 = true) ∧
    (let s := base.upd fun c => { c with tr := { c.tr with status := 9, cause := cEngineFault.zeroExtend 64, taddr := 0x40000 } }
     s.cell.sup = true ∧ bit s.cell.tr.status 3 = true ∧ s.cell.tr.cause.toNat % 256 = cEngineFault.toNat) ∧
    base.cell.mx.queue = [] ∧ base.cell.mx.run = none ∧ gathering.cell.mx.queue ≠ [] :=
  ⟨plain_hd _ _, by decide +kernel⟩

theorem witness_TrapsAreTaken : (base.cellAt 0).sup = false ∧ bit (base.cellAt 0).tr.dbgctl 1 = false ∧
    ((inHandler base).cellAt 0).sup = true ∧
    (let s := base.upd fun c => { c with tr := { c.tr with dbgctl := 2 } }
     (s.cellAt 0).sup = false ∧ bit (s.cellAt 0).tr.dbgctl 1 = true ∧ (trapOf cStep 0).cause = cStep) := by decide +kernel

/-- The region of address 0x100 in training, held by engine 0. -/
def region : Region :=
  { va := 0x100, ctx := 0, state := 2, why := 0, ver := 0, viol := 0, nsmp := 0, inv := 0, first := 0, last := 0, written := false }

def watching (s : State) : State := { s with accord := { regions := (Reg.fill []).wr 0 [region], msgs := Reg.fill [] } }

def opened (true_ : Bool) : OpenRegion := { va := 0x100, true_ := true_, engine := 0, ins := [], check := none }

/-- Cell 0 is in the region, or waits at its ACCB, which is decided. -/
def within (true_ : Bool) : State := base.upd fun c => { c with region := some (opened true_) }
def deciding (a : AccAnswer) : State := base.upd fun c => { c with wait := .accbDone 4 a }

/-- An accord descriptor of zeros at address 0x100 of the page (malformed, so that its body runs), and an open region. -/
theorem witness_AccordWordsComplete : Plain (hd 0) base ∧ User base ∧
    wf [.accb (hd 0) ⟨0, 5, 4⟩, .acce (hd 0) ⟨0, 5, 0⟩, .accinv (hd 0) ⟨0, 5, 0, 0, 0, 0, 0, 0⟩] = true ∧
    okAnd (descAccess base ((withS base 5 0x100).cell.rdS 5)) (fun r =>
      malformed (parseDesc (r.2.mem.bytes r.1 256)) (tilesOf base.cell)
        && decide (findRegion r.2 base.cell.task.ctx 0x100 = none)) = true ∧
    base.cell.wait = .none ∧ base.cell.region = none ∧
    (deciding (.body (opened false))).cell.wait = .accbDone 4 (.body (opened false)) ∧
    (deciding (.skip true 7 [1])).cell.wait = .accbDone 4 (.skip true 7 [1]) ∧
    (within false).cell.region.any (fun r => decide (r.va = 0x100) && !r.true_) = true ∧
    (within true).cell.region.any (fun r => decide (r.va = 0x100) && decide (r.va ≠ 0x200) && r.true_) = true ∧
    okAnd (ctxRead (paged (within true)) (within true).cell.task.ctx 0x100 256) (fun _ => true) = true ∧
    okAnd (descAccess (watching (withS base 5 0x100)) 0x100) (fun r =>
      decide (findRegion r.2 base.cell.task.ctx 0x100 = some (0, region))) = true :=
  ⟨plain_hd _ _, user_base, by decide +kernel⟩

/-! ### Witnesses: the A slots -/

def handle (at_ space d0 d1 stride ty : Nat) : BitVec 256 :=
  BitVec.ofNat 256 (at_ + space * 2 ^ 56 + d0 * 2 ^ 64 + d1 * 2 ^ 80 + 2 ^ 96 + 2 ^ 112 + stride * 2 ^ 128 + ty * 2 ^ 224)

def withH (s : State) (i : BitVec 4) (v : BitVec 256) : State :=
  s.upd fun c => { c with regs := { c.regs with h := c.regs.h.wr i v } }

/-- Mode values: linear, modulo 3, bit-reversed of length 2 and 2^23; the fourth kind is reserved. -/
theorem witness_IndexWordsAndModes : Plain (hd 1) base ∧
    wf [.amov (hd 1) ⟨1, 0, 2, 0, 5⟩, .aget (hd 2) ⟨0, 1, 2, 0, 0⟩, .aadd (hd 1) ⟨1, 2, 3, 0, 5⟩, .aupd (hd 1) ⟨1, 0, 0, 0, 0⟩,
      .amode (hd 1) ⟨1, 0, 5, 0, 0⟩, .hset (hd 1) ⟨1, 2, 3, 11, 5⟩, .hget (hd 1) ⟨0, 2, 3, 11, 0⟩,
      .lea (hd 1) ⟨5, 1, 2, 1, 0, 0, 0, 0, 1, 0, 4⟩] = true ∧
    modeOk (base.cell.rdS 5) = true ∧ modeOk ((withS base 5 3).cell.rdS 5) = false ∧
    memLegal (withH base 2 (handle 16 0 1 1 0 0)) 1 2 0 = true ∧
    fld (0x10000000000#64) 0 2 = 0 ∧ (fld (0x300000001#64) 0 2 = 1 ∧ 0 < fld (0x300000001#64) 32 24) ∧
    (fld (0x200000002#64) 0 2 = 2 ∧ fld (0x200000002#64) 32 24 = 2 ^ 1) ∧
    (fld (0x80000000000002#64) 0 2 = 2 ∧ fld (0x80000000000002#64) 32 24 = 2 ^ 23) :=
  ⟨plain_hd _ _, by decide +kernel⟩

/-- The ends of the scratchpad, of a slice, of the queue region's slices and of the virtual address space. -/
theorem witness_AddressChecks : padBytes base.cell = 131072 ∧
    (padBytes base.cell ≤ (131072#64).toNat) ∧ (131064#64).toNat < padBytes base.cell ∧ (131064#64).toNat % 8 = 0 ∧
    (131065#64).toNat % 8 ≠ 0 ∧ 2 ^ 20 ≤ (0x100000#64).toNat ∧ (0xFFFF8#64).toNat < 2 ^ 20 ∧ (0xFFFF8#64).toNat % 8 = 0 ∧
    bit base.pkg.frames (255 / 64) = true ∧ bit { base.pkg with frames := 1 }.frames (64 / 64) = false ∧
    55 % 64 < 56 ∧ 2 ^ 56 ≤ (0x100000000000000#64).toNat ∧ (0x100000000000000#64).toNat % 8 = 0 ∧
    okAnd (xlate base base.cur 0xFFF8#64 0) (fun _ => true) = true := by decide +kernel

theorem witness_LoadsComplete : Clear (hd 1) base ∧ Clear (tg 1 7) base ∧
    wf [.ld (hd 1) ⟨5, 0, 0, 0, 3, 1, 0, 0, 1, 1, 8⟩, .ld (hd 2) ⟨5, 0, 0, 0, 0, 0, 1, 3, 0, 0, 8⟩,
      .ldv (hd 1) ⟨511, 0, 0, 0, 0, 0, 0, 0, 0, 1, 256⟩, .hld (tg 1 7) ⟨15, 0, 0, 0, 0, 0, 0, 0, 0, 0, 32⟩,
      .pref (hd 1) ⟨0, 0, 0, 0, 0, 0, 0, 0, 0, 0, 8⟩] = true ∧
    amLegal base ⟨5, 0, 0, 0, 3, 1, 0, 0, 1, 1, 8⟩ = true ∧ amLegal base ⟨5, 0, 0, 0, 0, 0, 1, 3, 0, 0, 8⟩ = true ∧
    amLegal base ⟨511, 0, 0, 0, 0, 0, 0, 0, 0, 1, 256⟩ = true ∧ amLegal base ⟨15, 0, 0, 0, 0, 0, 0, 0, 0, 0, 32⟩ = true ∧
    okAnd (resolve base 8 1 0 8 0) (fun r => !padBusy base.cell r.2.1 8 false) = true ∧ okAnd (resolve base 8 0 0 1 0) (fun _ => true) = true ∧
    okAnd (resolve base 256 1 0 256 0) (fun r => !padBusy base.cell r.2.1 256 false) = true ∧
    okAnd (resolve base 32 0 0 32 0) (fun _ => true) = true ∧
    noTile base.cell 511 = none ∧ rowBusy base.cell 511 true = false :=
  ⟨clear_hd _ _, .inr ⟨by decide +kernel, rfl, by decide +kernel⟩, by decide +kernel⟩

/-- Stores into the scratchpad, into the page and, released, at its home. -/
theorem witness_StoresComplete : Clear (hd 1) base ∧
    wf [.st (hd 1) ⟨5, 0, 0, 0, 3, 0, 0, 0, 1, 1, 8⟩, .st (hd 2) ⟨5, 0, 0, 0, 0, 0, 2, 3, 0, 0, 8⟩,
      .stv (hd 1) ⟨511, 0, 0, 0, 0, 0, 0, 0, 0, 1, 256⟩, .hst (hd 1) ⟨15, 0, 0, 0, 0, 0, 0, 0, 0, 0, 32⟩] = true ∧
    amLegal base ⟨5, 0, 0, 0, 3, 0, 0, 0, 1, 1, 8⟩ = true ∧ amLegal base ⟨5, 0, 0, 0, 0, 0, 2, 3, 0, 0, 8⟩ = true ∧
    okAnd (resolve base 8 1 0 8 1) (fun r => !padBusy base.cell r.2.1 8 true) = true ∧ okAnd (resolve base 8 0 0 1 1) (fun _ => true) = true ∧
    okAnd (resolve base 256 1 0 256 1) (fun r => !padBusy base.cell r.2.1 256 true) = true ∧
    okAnd (resolve base 32 0 0 32 1) (fun _ => true) = true ∧
    noTile base.cell 511 = none ∧ rowBusy base.cell 511 false = false :=
  ⟨clear_hd _ _, by decide +kernel⟩

/-- The outcome is a next state of which `p` holds. -/
def nextAnd (x : Host.Outcome State Fault Refusal) (p : State → Bool) : Bool :=
  match x with
  | .next t => p t
  | _ => false

theorem witness_StoreFrameAndCoherence :
    nextAnd (exec (.st (hd 1) ⟨5, 0, 0, 0, 3, 0, 0, 0, 0, 0, 8⟩) base) (fun t => decide (t.cell.verdict = .issued)) = true ∧
    okAnd (resolve base (amAddr base.cell ⟨5, 0, 0, 0, 3, 0, 0, 0, 0, 0, 8⟩) 0 (amSlice base.cell 0) 8 1) (fun r =>
      decide (r.2.1 % 8 = 0)) = true ∧
    nextAnd (exec (.stv (hd 1) ⟨3, 0, 0, 0, 0, 0, 0, 0, 0, 1, 256⟩) base) (fun t => decide (t.cell.verdict = .issued)) = true ∧
    okAnd (resolve base (amAddr base.cell ⟨3, 0, 0, 0, 0, 0, 0, 0, 0, 1, 256⟩) 1 (amSlice base.cell 0) 256 1) (fun r =>
      decide (r.2.1 % 256 = 0)) = true ∧
    nextAnd (exec (.hst (hd 1) ⟨3, 0, 0, 0, 0, 0, 0, 0, 0, 0, 32⟩) base) (fun t => decide (t.cell.verdict = .issued)) = true ∧
    okAnd (resolve base (amAddr base.cell ⟨3, 0, 0, 0, 0, 0, 0, 0, 0, 0, 32⟩) 0 (amSlice base.cell 0) 32 1) (fun r =>
      decide (r.2.1 % 32 = 0)) = true ∧
    0x100F8 % 256 + [1#8, 2, 3, 4, 5, 6, 7, 8].length ≤ 256 ∧ cacheable 0 0x100F8 = true ∧ cacheable 256 (2 ^ 52) = false ∧
    sharedL1 base 0 = false ∧ sharedL1 (base.upd fun c => { c with bound := c.bound.map fun b => { b with qsl1 := true } }) 0 = true := by
  decide +kernel

theorem witness_AtomicsComplete : Clear (hd 1) base ∧ memLegal base 0 0 0 = true ∧
    wf [.amo (hd 1) ⟨1, 2, 0, 0, 0, 0, 0, 1, 3, 2, 0⟩, .amo (hd 1) ⟨2, 4, 0, 0, 0, 0, 9, 2, 0, 0, 0⟩,
      .cas (hd 1) ⟨1, 2, 3, 0, 0, 0, 0, 0, 1, 10, 0⟩] = true ∧
    okAnd (resolve base 0 0 0 8 3) (fun _ => true) = true ∧ okAnd (resolve base 0 0 0 16 3) (fun _ => true) = true ∧
    okAnd (resolve base 0 0 0 4 3) (fun r =>
      decide (leNat (readHome r.2.2 r.1 r.2.1 4).1 = (base.cell.rdS 3).toNat % 2 ^ 32)
        && decide (leNat (readHome r.2.2 r.1 r.2.1 4).1 ≠ ((withS base 3 1).cell.rdS 3).toNat % 2 ^ 32)) = true :=
  ⟨clear_hd _ _, by decide +kernel⟩

/-! ### Witnesses: the V slot -/

theorem rows_base : RowsFree base [(511, true), (0, false), (1, false)] := by unfold RowsFree; decide +kernel

theorem rows_base2 : RowsFree base [(511, true), (0, false)] := by unfold RowsFree; decide +kernel

theorem witness_VectorArithmeticComplete : Plain (hd 3) base ∧ User base ∧ RowsFree base [(511, true), (0, false), (1, false)] ∧
    RowsFree base [(511, true), (0, false)] ∧ Plain (hd 3) State.reset ∧ User State.reset ∧
    tilesOf State.reset.cell ≤ (0#9).toNat / 64 ∧
    wf [.vadd (hd 3) ⟨511, 0, 1, 7, 0, 1, 1, 1, 1, 1, 1, 31, 5, 1⟩, .vsub (hd 3) ⟨511, 0, 1, 0, 12, 0, 0, 0, 0, 1, 0, 0, 0, 0⟩,
      .vmul (hd 3) ⟨511, 0, 1, 0, 6, 0, 0, 0, 0, 0, 0, 0, 0, 0⟩, .vfma (hd 3) ⟨511, 0, 1, 0, 2, 0, 0, 0, 0, 0, 0, 0, 0, 0⟩,
      .vaddImm (hd 3) ⟨511, 0, 0xFF, 0, 4, 0, 0, 0⟩, .vsubImm (hd 3) ⟨511, 0, 1, 0, 6, 0, 0, 0⟩,
      .vmulImm (hd 3) ⟨511, 0, 1, 0, 0, 0, 0, 0⟩, .vfmaImm (hd 3) ⟨511, 0, 1, 0, 1, 0, 0, 0⟩] = true :=
  ⟨plain_hd _ _, user_base, rows_base, rows_base2, plain_hd _ _, by unfold User; decide +kernel, by decide +kernel⟩

/-- INT32 sums at the upper bound and beyond, and at the lower bound and beyond. -/
theorem witness_IntegerLanes : 6 ≤ 6 ∧ 6 ≤ 12 ∧ 12 ≤ 12 ∧
    laneInt 6 0x7FFFFFFE + laneInt 6 1 = (intBounds 6).2 ∧ (intBounds 6).2 < laneInt 6 0x7FFFFFFF + laneInt 6 1 ∧
    laneInt 6 0x80000001 + laneInt 6 0xFFFFFFFF = (intBounds 6).1 ∧ laneInt 6 0x80000000 + laneInt 6 0xFFFFFFFF < (intBounds 6).1 := by
  decide +kernel

/-- A tie in the two nearest modes, exact values, directed modes; operands with and without NaN, and zeros of both signs. -/
theorem witness_RoundingAndChoice :
    (∀ mode, mode ≤ 4 → mode ∈ [0, 1, 2, 3, 4]) ∧ 2 % 2 ^ 1 = 0 ∧ 3 % 2 ^ 1 ≠ 0 ∧
    2 * (((roundShift 0 false 3 1).1 : Int) * 2 ^ 1 - 3).natAbs = 2 ^ 1 ∧
    2 * (((roundShift 4 false 3 1).1 : Int) * 2 ^ 1 - 3).natAbs = 2 ^ 1 ∧
    (FV.nan false).isNaN = true ∧ (FV.inf true).isNaN = false ∧ (FV.fin true 0 0).isZero = true ∧ (FV.fin false 0 0).isZero = true :=
  ⟨fun m h => by interval_cases m <;> decide, by decide +kernel⟩

theorem witness_VectorChoiceAndFunctionsComplete : Plain (hd 3) base ∧ User base ∧
    RowsFree base [(511, true), (0, false), (1, false)] ∧ RowsFree base [(0, false), (1, false)] ∧
    RowsFree base [(511, true), (0, false)] ∧
    wf [.vmin (hd 3) ⟨511, 0, 1, 0, 0, 1, 0, 0, 1, 0, 0, 0, 0, 1⟩, .vmax (hd 3) ⟨511, 0, 1, 0, 10, 0, 0, 0, 0, 0, 0, 0, 0, 0⟩,
      .vcmp (hd 3) ⟨7, 0, 1, 1, 6, 0, 0, 0, 0, 0, 0, 7, 0, 0⟩, .vcvt (hd 3) ⟨511, 0, 12, 0, 5, 0, 0, 0, 0, 1, 0, 31, 5, 0⟩,
      .vrcp (hd 3) ⟨511, 0, 0, 0, 0, 1, 0, 1, 0, 0, 0, 0, 0, 0⟩, .vrsq (hd 3) ⟨511, 0, 0, 0, 1, 0, 0, 0, 0, 0, 0, 0, 0, 0⟩,
      .vexp2 (hd 3) ⟨511, 0, 0, 0, 2, 0, 0, 0, 0, 0, 0, 0, 0, 0⟩, .vlog2 (hd 3) ⟨511, 0, 0, 0, 0, 0, 0, 0, 0, 0, 0, 0, 0, 0⟩,
      .vtanh (hd 3) ⟨511, 0, 0, 0, 0, 0, 0, 0, 0, 0, 0, 0, 0, 0⟩, .vminImm (hd 3) ⟨511, 0, 1, 0, 0, 0, 0, 0⟩,
      .vmaxImm (hd 3) ⟨511, 0, 1, 0, 6, 0, 0, 0⟩] = true :=
  ⟨plain_hd _ _, user_base, rows_base, by unfold RowsFree; decide +kernel, rows_base2, by decide +kernel⟩

/-- Every function of VRED, over lanes and, under the mask k1 of zeros, over none. -/
theorem witness_ReductionComplete : Plain (hd 3) base ∧ User base ∧ RowsFree base [(511, false)] ∧
    wf ((List.range 6).map fun f => .vred (hd 3) ⟨511, 5, 0, 6, 0, BitVec.ofNat 4 f⟩) = true ∧
    wf ((List.range 3).map fun f => .vred (hd 3) ⟨511, 5, 0, 4, 1, BitVec.ofNat 4 f⟩) = true ∧
    ((List.range (lanesOf 6)).filter fun i => (base.cell.rdK 0).getLsbD i) ≠ [] ∧
    ((List.range (lanesOf 4)).filter fun i => (base.cell.rdK 1).getLsbD i) = [] ∧
    (((List.range (lanesOf 0)).filter fun i => (base.cell.rdK 0).getLsbD i).map fun i =>
      FV.ofBits 0 (lane (widthOf 0) (base.cell.rdV 511) i)) ≠ [] :=
  ⟨plain_hd _ _, user_base, by unfold RowsFree; decide +kernel, by decide +kernel⟩

theorem witness_VectorBitsAndMasksComplete : Plain (hd 3) base ∧ User base ∧
    RowsFree base [(511, true), (0, false), (1, false)] ∧ RowsFree base [(511, true), (0, false)] ∧
    wf [.vand (hd 3) ⟨511, 0, 1, 0, 5, 0, 0, 0, 0, 0, 0, 0, 0, 1⟩, .vor (hd 3) ⟨511, 0, 1, 0, 0, 0, 0, 0, 0, 0, 0, 0, 0, 0⟩,
      .vxor (hd 3) ⟨511, 0, 1, 0, 12, 0, 0, 0, 0, 0, 0, 0, 0, 0⟩, .vshl (hd 3) ⟨511, 0, 1, 0, 6, 0, 0, 0, 0, 0, 0, 0, 0, 0⟩,
      .vshr (hd 3) ⟨511, 0, 1, 0, 12, 0, 0, 0, 0, 0, 0, 0, 0, 0⟩, .vandImm (hd 3) ⟨511, 0, 1, 0, 0, 0, 0, 0⟩,
      .vorImm (hd 3) ⟨511, 0, 1, 0, 0, 0, 0, 0⟩, .vxorImm (hd 3) ⟨511, 0, 1, 0, 0, 0, 0, 0⟩, .vshlImm (hd 3) ⟨511, 0, 1, 0, 6, 0, 0, 0⟩,
      .vshrImm (hd 3) ⟨511, 0, 1, 0, 6, 0, 0, 0⟩, .kand (hd 3) ⟨1, 2, 3, 0⟩, .kor (hd 3) ⟨1, 2, 3, 0⟩, .kxor (hd 3) ⟨1, 2, 3, 0⟩,
      .kmov (hd 3) ⟨1, 2, 0, 0⟩, .kpopc (hd 3) ⟨0, 2, 0, 5⟩] = true :=
  ⟨plain_hd _ _, user_base, rows_base, rows_base2, by decide +kernel⟩

theorem witness_VectorMovesComplete : Plain (hd 3) base ∧ User base ∧
    RowsFree base [(511, true), (0, false), (1, false)] ∧ RowsFree base [(511, true), (0, false)] ∧
    RowsFree base [(511, true)] ∧ RowsFree base [(511, false)] ∧
    wf [.vsel (hd 3) ⟨511, 0, 1, 1, 0, 0, 0, 0, 0, 0, 0, 0, 0, 1⟩, .vperm (hd 3) ⟨511, 0, 1, 0, 5, 0, 0, 0, 0, 0, 0, 0, 0, 0⟩,
      .vmov (hd 3) ⟨511, 0, 0, 0, 3, 0, 0, 0, 0, 0, 0, 0, 0, 0⟩, .vbcast (hd 3) ⟨511, 5, 0, 1, 0, 0⟩, .viota (hd 3) ⟨511, 5, 0, 12, 0, 0⟩,
      .vins (hd 3) ⟨511, 5, 255, 3, 0, 0⟩, .vext (hd 3) ⟨511, 5, 63, 6, 0, 0⟩] = true :=
  ⟨plain_hd _ _, user_base, rows_base, rows_base2, by unfold RowsFree; decide +kernel, by unfold RowsFree; decide +kernel,
    by decide +kernel⟩

/-! ### Witnesses: the M slot -/

/-- h1 holds rows of 32 INT8 elements in the scratchpad, h2 rows of FP32 elements, h3 bytes for MCODE and MSTORE. -/
def matrix : State := withH (withH (withH base 1 (handle 0 1 32 2 64 8)) 2 (handle 4096 1 16 2 64 0)) 3 (handle 8192 1 1 1 0 11)

/-- The same with a routine of two words at entry 5 and eight jobs in the queue. -/
def matrixFull : State := matrix.upd fun c =>
  { c with entry := c.entry.wr 5 0x80020000, mx := { c.mx with queue := List.replicate 8 (.zero 0) } }

theorem user_matrix : User matrix := user_base

theorem witness_MatrixWordsComplete : User matrix ∧ Clear (hd 4) matrix ∧ Plain (hd 4) matrix ∧ matrix.cell.mx.queue.length < 8 ∧
    entryOk (matrixFull.cell.entry.rd 5) = true ∧ entryOk (matrix.cell.entry.rd 5) = false ∧
    8 ≤ matrixFull.cell.mx.queue.length ∧ tilesOf matrixFull.cell = 8 ∧ tilesOf State.reset.cell ≤ (0#3).toNat ∧
    wf [.mcall (hd 4) ⟨5⟩, .msetq (hd 4) ⟨7, 5⟩, .mzero (hd 4) ⟨7, 0, 0, 0, 0, 0, 0⟩, .mla (hd 4) ⟨0, 1, 0, 0, 0, 6, 0, 0⟩,
      .mlb (hd 4) ⟨0, 1, 0, 0, 0, 6, 0, 0⟩, .mcode (hd 4) ⟨0, 3, 0, 0, 0, 0, 0, 3⟩, .mstore (hd 4) ⟨1023, 3, 1⟩,
      .mma (hd 4) ⟨7, 0, 0, 0, 1, 0, 1⟩, .mcfg (hd 4) ⟨7, 0, 0, 3, 0, 0, 0⟩, .mstz (hd 4) ⟨7, 2, 0, 0, 0, 0, 0⟩,
      .mldz (hd 4) ⟨7, 2, 0, 0, 0, 0, 0⟩, .mfmt (hd 4) ⟨15, 5⟩] = true :=
  ⟨user_matrix, clear_hd _ _, plain_hd _ _, by decide +kernel⟩

/-- The handles of the loads, stores and fills, and the ranges they read or write. -/
theorem witness_MatrixWordsComplete_memory :
    (let f := resolveFmt (effFmt matrix.cell.mx (outerEntry matrix.cell)) false 6 0 0
     loadOk matrix false ⟨0, 1, 0, 0, 0, 6, 0, 0⟩ (matrix.cell.rdH 1) f = true ∧
     gatherWait matrix.cell ⟨0, 1, 0, 0, 0, 6, 0, 0⟩ = none ∧
     okAnd (planLoad matrix false ⟨0, 1, 0, 0, 0, 6, 0, 0⟩ (matrix.cell.rdH 1) 0 f) (fun _ => true) = true) ∧
    mHandle matrix (matrix.cell.rdH 3) = true ∧
    okAnd (mSegs (matrix.cell.rdH 3) 0 4 matrix (hBase (matrix.cell.rdH 3)) 2048) (fun r => !segsBusy matrix.cell [r.1]) = true ∧
    okAnd (mSegs (matrix.cell.rdH 3) 0 4 matrix (hBase (matrix.cell.rdH 3)) 10) (fun r => !segsBusy matrix.cell [r.1]) = true ∧
    cfgPending matrix.cell.mx 7 = false ∧ mmaOk ⟨7, 0, 0, 0, 1, 0, 1⟩ 0 (effType matrix.cell.mx 7) = true ∧
    storeOk matrix ⟨7, 2, 0, 0, 0, 0, 0⟩ (matrix.cell.rdH 2) = true ∧
    okAnd (planStore matrix ⟨7, 2, 0, 0, 0, 0, 0⟩ (matrix.cell.rdH 2) 0 (effType matrix.cell.mx 7)) (fun _ => true) = true ∧
    fillOk matrix ⟨7, 2, 0, 0, 0, 0, 0⟩ (matrix.cell.rdH 2) (effType matrix.cell.mx 7) false = true ∧
    okAnd (planFill matrix ⟨7, 2, 0, 0, 0, 0, 0⟩ (matrix.cell.rdH 2) 0 (effType matrix.cell.mx 7)) (fun _ => true) = true ∧
    fmtValueOk (matrix.cell.rdS 5) = true := by decide +kernel

/-- One job in the queue of cell 0. -/
def oneJob (j : MJob) : State := matrix.upd fun c => { c with mx := { c.mx with queue := [j] } }

theorem first_oneJob (j : MJob) : FirstJob (oneJob j) 0 j := ⟨rfl, ⟨[], rfl⟩, rfl, rfl, rfl, rfl⟩

/-- Routines of one word: MZERO z2 completes, MEND faults at its own index. -/
def routineState (w : BitVec 80) : State :=
  oneJob (.call 9 5 0x80010000 (List.replicate 8 0) (List.replicate 8 0) 0 none [])
    |>.upd fun c => { c with mx := { c.mx with store := [(0, w)] } }

theorem witness_MatrixUnitActs :
    (∀ j : MJob, FirstJob (oneJob j) 0 j) ∧
    (let run := fun (w : BitVec 80) =>
       let s := routineState w
       (runRoutine (routineWords (s.cellAt 0).mx.store 0x80010000) (2 ^ 42) 0 [] { unqueued s 0 with cur := 0 }
         { a := List.replicate 8 0, q := List.replicate 8 0, iter := 0, count := 0, ev := [] }).2.2
     run 0xC0000011000000000000 = none ∧ run 0xC0000044000000000000 = some 0) ∧
    (matrix.upd fun c => { c with mx := { c.mx with run := some { z := 0, rows := [], ev := 0 } } }).cell.mx.run.isSome = true ∧
    matrix.cell.mx.queue = [] ∧ matrix.cell.mx.run = none ∧ matrix.cell.pipe.inflight = [] ∧ matrix.cell.pipe.flight = [] ∧
    matrix.cell.pipe.accs = [] :=
  ⟨first_oneJob, by decide +kernel⟩

/-- MLOOP 4, MLOOP 0 and MEND as words of a routine, with no loop open, with one and with four. -/
theorem witness_RoutineLoops : base.cell.pipe.pend &&& (hd 4).cmk = 0 ∧ (hd 4).av = 0#1 ∧
    routineHeader 0xC0000040100000000000 = true ∧ routineHeader 0xC0000044000000000000 = true ∧
    (decode 0xC0000040100000000000).toOption = some (.mloop (hd 4) ⟨4⟩) ∧
    (decode 0xC0000040000000000000).toOption = some (.mloop (hd 4) ⟨0⟩) ∧
    (decode 0xC0000044000000000000).toOption = some (.mend (hd 4) ⟨0⟩) ∧
    (4#8 ≠ 0 ∧ ([] : List (Nat × Nat)).length < 4) ∧ 4 ≤ [(0, 1), (1, 1), (2, 1), (3, 2)].length ∧ 1 < 2 ∧ 0 ≤ 4096 := by
  decide +kernel

theorem witness_IntegerMatrixMultiply :
    { Cell.reset with mx := { Matrix.reset with ztype := Matrix.reset.ztype.wr 7 1 } }.mx.ztype.rd 7 = 1#2 ∧
    (6 = 6 ∨ 6 = 7) ∧ 63 < 64 := by decide +kernel

/-! ### Witnesses: the E slot -/

theorem witness_EngineWordsComplete : Clear (hd 5) base ∧ Clear (tg 5 3) base ∧ User base ∧
    ((withS base 5 4095).cell.rdS 5).toNat % 2 ^ 32 < 4096 ∧ ¬ ((withS base 5 4096).cell.rdS 5).toNat % 2 ^ 32 < 4096 ∧
    hOk (base.cell.rdH 1) = true ∧ hOk ((withH base 1 (handle 0 6 1 1 0 0)).cell.rdH 1) = false ∧ base.core = false ∧
    { base with core := true }.core = true ∧ base.pd.tags &&& 1#8 = 0 ∧ { base.pd with tags := 1 }.tags &&& 1#8 ≠ 0 ∧
    base.pd.change = false ∧ { base.pd with state := 3, change := true }.change = true ∧
    { base.pd with state := 3, change := true }.state = 3 ∧ (hd 5).tag = 0 ∧
    wf [.cpy (tg 5 3) ⟨1, 2, 3, 4, 0, 0, 13⟩, .chsend (tg 5 3) ⟨1, 0, 0, 0, 255, 0, 0x30000⟩, .chrecv (hd 5) ⟨1, 0, 0, 0, 1, 0, 0⟩,
      .chred (hd 5) ⟨1, 2, 0, 0, 1, 0, 0⟩, .qprop (hd 5) ⟨1, 0, 5, 0, 0, 0, 0⟩, .qver (hd 5) ⟨0, 0, 5, 6, 0, 0, 0⟩,
      .qver (hd 5) ⟨1, 0, 5, 6, 0, 1, 0⟩, .qres (hd 5) ⟨1, 0, 5, 0, 0, 0, 0⟩, .bset (hd 5) ⟨0, 0, 5, 6, 24, 0, 0⟩,
      .bget (hd 5) ⟨0, 0, 5, 6, 24, 0, 0⟩, .sieve (hd 5) ⟨1, 0, 5, 0, 0, 0, 0⟩, .tokz (hd 5) ⟨1, 0, 5, 0, 0, 0, 0⟩,
      .detok (hd 5) ⟨1, 0, 5, 0, 0, 0, 0⟩, .gadv (hd 5) ⟨0, 0, 5, 6, 0, 0, 0⟩, .gmask (hd 5) ⟨1, 0, 5, 6, 0, 0, 0⟩,
      .sltick (hd 5) ⟨0, 0, 5, 62, 0, 0, 0⟩, .slpin (hd 5) ⟨1, 0, 5, 0, 0, 0, 0⟩, .slget (hd 5) ⟨1, 0, 5, 0, 0, 0, 0⟩,
      .dbar (hd 5) ⟨0, 0, 0, 0, 0, 0, 0⟩] = true :=
  ⟨clear_hd _ _, .inr ⟨by decide +kernel, rfl, by decide +kernel⟩, user_base, by decide +kernel⟩

/-! ### One step of one instruction -/

/-- The last result that a word puts in flight. -/
def landed (i : Instr) (s : State) : Option Land :=
  match exec i s with
  | .next t => t.cell.pipe.inflight.getLast?.map (·.land)
  | _ => none

/-- R412: rem of −7 by 2 gives −1, and rem.u of the same bits gives 1. -/
theorem test_rem : landed (.rem (hd 0) ⟨1, 2, 3, 0⟩) (withS (withS base 2 (-7)) 3 2) = some (.s 1 (-1)) ∧
    landed (.rem (hd 0) ⟨1, 2, 3, 1⟩) (withS (withS base 2 (-7)) 3 2) = some (.s 1 1) := by decide +kernel

/-- R359: a zero divisor gives all ones, and the most negative number divided by −1 itself. -/
theorem test_div : landed (.div (hd 0) ⟨1, 2, 3, 0⟩) (withS base 2 7) = some (.s 1 0xFFFFFFFFFFFFFFFF#64) ∧
    landed (.divImm (hd 0) ⟨1, 2, 0, 0xFFFFFFFF⟩) (withS base 2 0x8000000000000000#64) = some (.s 1 0x8000000000000000#64) := by
  decide +kernel

/-- R314, R324: addition wraps; the immediate is sign-extended. -/
theorem test_add : landed (.addImm (hd 0) ⟨4, 2, 0, 0xFFFFFFF8⟩) (withS base 2 4) = some (.s 4 (-4)) ∧
    landed (.addImm (hd 0) ⟨4, 2, 0, 1⟩) (withS base 2 (-1)) = some (.s 4 0) := by decide +kernel

/-- R371: the lowest byte lies at the lowest address; R375: a byte of ones loads as −1. -/
theorem test_store_load :
    nextAnd (exec (.st (hd 1) ⟨5, 0, 0, 0, 2, 0, 0, 0, 0, 1, 8⟩) (withS base 5 0x11223344))
      (fun t => decide (t.cell.pad.bytes 8 4 = [0x44, 0x33, 0x22, 0x11])) = true ∧
    landed (.ld (hd 1) ⟨5, 0, 0, 0, 0, 1, 0, 0, 0, 1, 8⟩) (base.upd fun c => { c with pad := c.pad.wr 8 0xFF }) = some (.s 5 (-1)) := by
  decide +kernel

/-- R425, R126: 1.0 + 2^−24 in FP32 is a tie that goes to the even 1.0. -/
theorem test_vadd :
    (match landed (.vadd (hd 3) ⟨3, 1, 2, 0, 0, 0, 0, 0, 0, 0, 0, 0, 0, 0⟩) (base.upd fun c =>
        { c with regs := { c.regs with v := (c.regs.v.wr 1 0x3F800000).wr 2 0x33800000 } }) with
      | some (.row i v _) => decide (i = 3) && decide (lane 32 v 0 = 0x3F800000)
      | _ => false) = true := by decide +kernel

/-- R197: a word of slot 6 traps ILLEGAL_SLOT; EPC names its bundle and fetch goes to the handler's word 0. -/
theorem test_illegal_slot : nextAnd (step (State.reset.withFetchWord 80 0xE0000000000000000000)) (fun t =>
    t.cell.sup && decide (t.cell.tr.cause = cIllegalSlot.zeroExtend 64) && decide (t.cell.tr.epc = 0) && decide (t.cell.pipe.pc = 0))
    = true := by decide +kernel

/-- R75, R111: in user mode TRET takes PRIVILEGE. -/
theorem test_tret_user : nextAnd (step (State.reset.withFetchWord 80 0x80000314000000000000)) (fun t =>
    t.cell.sup && decide (t.cell.tr.cause = cPrivilege.zeroExtend 64)) = true := by decide +kernel

/-- The memory of the part after reset is in canonical form. -/
theorem test_reset_memory : State.reset.mem.wf = true ∧ State.reset.staging.wf = true := by decide +kernel

/-! ### Witnesses: events of a cell, commands -/


def cmd (op : EOp) : Cmd :=
  { id := 3, op := op, cell := 0, gang := 0, gmem := 0, ctx := 0, det := false, tag := some 1, pc := 0, ha := 0,
    hb := 0, sa := 0, sb := 0, sx := 0, dst := 5, imm := 5, fn := 0, low := 0, progress := 0, num := 0, round := 0,
    started := false, begun := false, held := none, ev := 0 }

def withCmd (s : State) (x : Cmd) : State := { s with cmds := [x] }

def withEvents (s : State) (e : Events) : State := s.upd fun c => { c with events := e }

/-- A saved task that cell 1 is to restore. -/
def savedTask (c : Cell) : Saved :=
  { gang := 0, gmem := 0, image := c, at_ := 0, landed := [], padLen := padBytes c, parked := false, split := none, cell := some 1 }

def savedOn (c : Cell) : State := { State.reset with tasks := { Tasks.reset with saved := [savedTask c] } }

/-- Each event pending alone on a running cell in user mode, and a cell that does not run. -/
theorem witness_BoundaryEventsComplete :
    (let ok := fun (s : State) => let x := s.cellAt 0
       x.running && decide (x.wait = .none) && !x.sup && x.events.check.isNone
     let held := withCmd (withEvents base { Events.none with engine := [3] }) { cmd .cpy with held := some (0x10, 0) }
     ok held = true ∧ heldFault held (held.cellAt 0) = some { cmd .cpy with held := some (0x10, 0) } ∧
     (let s := withEvents base { Events.none with grammar := [4095, 5] }
      ok s = true ∧ heldFault s (s.cellAt 0) = none ∧ (s.cellAt 0).events.grammar = [4095, 5]) ∧
     (let s := withEvents base { Events.none with micro := [7] }
      ok s = true ∧ (s.cellAt 0).events.grammar = [] ∧ (s.cellAt 0).events.micro = [7]) ∧
     (let s := withEvents base { Events.none with numeric := 0x80 }
      ok s = true ∧ (s.cellAt 0).events.micro = [] ∧ (s.cellAt 0).events.numeric ≠ 0) ∧
     (let s := withEvents base { Events.none with trap := [0x40, 0x41] }
      ok s = true ∧ (s.cellAt 0).events.numeric = 0 ∧ (s.cellAt 0).events.trap = [0x40, 0x41]) ∧
     (let s := withEvents base { Events.none with step := some 9 }
      ok s = true ∧ (s.cellAt 0).events.trap = [] ∧ (s.cellAt 0).events.step = some 9)) ∧
    (holdsLoad 7 (loading.cellAt 0) = true ∧ (loading.cellAt 0).running = true ∧
      (loading.cellAt 0).pipe.accs.all (fun a => decide (a.tag = some 1)) = true) ∧
    (holdsLoad 7 ((savedOn loading.cell).cellAt 0) = false ∧
      ((savedOn loading.cell).tasks.saved.find? fun z => holdsLoad 7 z.image).isSome = true) ∧
    (State.reset.cellAt 0).running = false ∧ State.reset.tasks.saved = [] ∧ 0 ∉ base.tasks.saving ∧
    (let s := withCmd base (cmd .cpy)
     readsFor s 3 (s.cellAt 0).task.gang (s.cellAt 0).task.gmem = some (cmd .cpy) ∧ (s.cellAt 0).running = true) := by
  decide +kernel

/-- A handler that was given the fault of command 3. -/
def handling : State := withCmd (inHandler (withEvents base { Events.none with faulted := some 3 }))
  { cmd .cpy with held := some (0x10, 0) }

/-- Package 1 is a member of the domain, and one flit of `kind` of its passed the checks. -/
def flitFrom1 (kind : Nat) : State :=
  { base with pd := { base.pd with state := 2, members := [0, 1], flits := [BitVec.ofNat 128 (1 + kind * 2 ^ 36)] } }

/-- Cell 0 awaits a load of the domain page of package 1. -/
def loadingPeer (s : State) : State := s.upd fun c => { c with pipe := { c.pipe with accs :=
  [{ id := 7, tag := none, lands := [.s 5 9], write := false, pa := 3 * 2 ^ 52 + 2 ^ 44, dom := true, slot := 1 }] } }

/-- A load of a domain page, with and without its response. -/
theorem witness_CellEventsComplete_response :
    (((loadingPeer (flitFrom1 3)).cellAt 0).pipe.accs.all fun a => (takeResponse (loadingPeer (flitFrom1 3)) a).isSome) = true ∧
    (((loadingPeer base).cellAt 0).pipe.accs.all fun a => (takeResponse (loadingPeer base) a).isNone && a.dom
      && decide (paTarget a.pa = 3)) = true ∧
    (((loading).cellAt 0).pipe.accs.all fun a => !a.dom) = true ∧ (loading.cellAt 0).pipe.late = [] := by decide +kernel

theorem witness_CellEventsComplete :
    (loading.cellAt 0).pipe.accs.all (fun a => decide (a.lands ≠ [] ∧ a.tag = some 1 ∧ a.id = 7)) = true ∧
    (loading.cellAt 0).pipe.accs.length = 1 ∧
    (let s := base.upd fun c => { c with pipe := { c.pipe with accs := [{ id := 7, tag := none, lands := [], write := true, pa := 0, dom := false, slot := 1 }] } }
     (s.cellAt 0).pipe.accs.any (fun a => decide (a.lands = [])) = true) ∧
    (base.cellAt 0).running = true ∧ okAnd (xlate base 0 0 0) (fun _ => true) = true ∧
    (failsWith (xlate base 0 0x10000 0) (fun _ => true) && failsWith (xlate base 0 0x10000 1) (fun _ => true)
      && failsWith (xlate base 0 0x10000 2) (fun _ => true)) = true ∧
    (let s := base.upd fun c => { c with nx := { c.nx with win := 1 } }
     (s.cellAt 0).running = true ∧ (s.cellAt 0).nx.win ≠ 0) ∧ (base.cellAt 0).nx.win = 0 ∧
    (handling.cellAt 0).sup = true ∧ (handling.cellAt 0).running = true ∧
    heldOf handling 0 = some { cmd .cpy with held := some (0x10, 0) } ∧ (base.cellAt 0).sup = false ∧
    0 ∉ base.pkg.fastPath ∧ 0 ∈ { base.pkg with fastPath := [0] }.fastPath ∧
    (let s := base.upd fun c => { c with pipe := { c.pipe with polled := some 0 } }
     (s.cellAt 0).pipe.polled.isSome = true) ∧
    (let s := { paged base with mem := (paged base).mem.storeNat 0x24000 8 0x26003 }
     leafSlot s 0 3 0 0x20000 = some 0x26000 ∧ bit (s.mem.word 0x26000) 0 = false ∧
     bit ((s.mem.storeNat 0x26000 8 (0x59 + 2 ^ 62)).word 0x26000) 62 = true) := by
  decide +kernel

/-- Two commands of one task on one slot; a CPY of 33 elements whose destination is not mapped. -/
theorem witness_EngineCommandsComplete :
    (let x := { cmd .cpy with ha := handle 0 0 33 1 1 0, hb := handle 0 0 33 1 1 0 }
     let s := withCmd base x
     cmdOf s x.id = some x ∧ x.held = none ∧ mustWait s x = false ∧ padWaits s x = false ∧ cpyStart x = true ∧
     x.progress < cpyBlocks x ∧ failsWith (cpyBlock s { x with begun := true } x.progress) (fun _ => true) = true ∧
     mustWait { base with cmds := [{ x with id := 2 }, x] } x = true ∧
     padWaits { oneJob (.store 9 0 0 false 0 0 1 [[{ space := .pad, addr := 0, len := 4 }]]) with
       tasks := (member 1 false false []).tasks } { x with ha := handle 0 1 33 1 1 0 } = true ∧
     (let y := { x with progress := 2 }
      cmdOf (withCmd base y) y.id = some y ∧ cpyBlocks y ≤ y.progress)) ∧
    cpyStart { cmd .cpy with ha := handle 0 0 33 1 1 0 } = false ∧
    cmdOf (withCmd base { cmd .cpy with held := some (1, 2) }) 3 = some { cmd .cpy with held := some (1, 2) } ∧
    (let x := cmd .bget
     cmdOf (withCmd base x) x.id = some x ∧ olderSlot (withCmd base x) x = false ∧ genOk (withCmd base x) x = true ∧
     mustWait (withCmd base x) x = false ∧ padWaits (withCmd base x) x = false ∧
     olderSlot { base with cmds := [{ cmd .bset with id := 2 }, x] } x = true) ∧
    (let x := { cmd .bset with sa := 0x900000000#64 }
     cmdOf (withCmd base x) x.id = some x ∧ olderSlot (withCmd base x) x = false ∧ genOk (withCmd base x) x = false) ∧
    genOk (withCmd base (cmd .bset)) (cmd .bset) = true ∧ (cmd .bset).imm ≠ 0 ∧ (cmd .bset).imm ≠ 9 ∧
    (∀ y ∈ (withCmd base (cmd .bset)).cmds, y.id ≠ 4) := by decide +kernel

/-! ### Witnesses: saved tasks, dispatch, launches -/

def preempted : State := { base with tasks := { base.tasks with preempt := [0] } }


/-- Cell 0 waits for the end of a CARVE of its gang, with a split of 3 granules. -/
def carving : State :=
  { (member 2 false false []).upd (fun c => { c with wait := .carveDone 0 0 }) with
    tasks := { (member 2 false false []).tasks with
      gangs := [{ gang 2 false with carving := [(0, 0x303)] }], saved := [savedTask base.cell] } }

/-- Cell 0 waits for the decision on its ACCB while a numeric limit is pending. -/
def undecided : State := { (withEvents preempted { Events.none with numeric := 1 }).upd fun c => { c with wait := .accb 4 } with
  accord := { regions := Reg.fill [], msgs := (Reg.fill []).wr 0 [.enter 0 0 0 0 0x100 [] true false 8 0 0] } }

theorem witness_SavedTasksAndServices :
    (let x := preempted.cellAt 0
     x.running = true ∧ 0 ∈ preempted.tasks.preempt ∧ x.mx.run = none ∧ x.sup = false ∧ x.wait = .none ∧ x.pipe.inflight = [] ∧
       x.pipe.untag = 0 ∧ pendingEvent preempted 0 = none ∧ preempted.pkg.emergBusy.rd 0 = false) ∧
    (State.reset.cellAt 0).running = false ∧ answered (deciding (.skip true 7 [1])).cell = true ∧
    (let x := undecided.cellAt 0
     x.running = true ∧ 0 ∈ undecided.tasks.preempt ∧ x.mx.run = none ∧ x.wait = .accb 4 ∧
       (pendingEvent (withdraw undecided 0) 0).isSome = true) ∧
    ((savedOn base.cell).tasks.saved.find? (fun z => decide (z.cell = some 1))).any (fun y =>
      y.image.pipe.accs.all fun a => decide (a.lands = [])) = true ∧
    ((savedOn loading.cell).tasks.saved.find? (fun z => decide (z.cell = some 1))).any (fun y =>
      y.image.pipe.accs.any fun a => decide (a.lands ≠ [])) = true ∧
    (let s := State.reset.upd fun c => { c with bound := base.cell.bound }
     cellIdle s 0 = true ∧ (s.cellAt 0).bound ≠ none) ∧ (base.cellAt 0).running = true ∧
    gangOf carving 0 = some { gang 2 false with carving := [(0, 0x303)] } ∧ 0 ∈ (gang 2 false).cells ∧
    (gang 2 false).cells.Nodup ∧ (carving.cellAt 0).wait = .carveDone 0 0 ∧ (carving.cellAt 0).bound = base.cell.bound ∧
    (carving.tasks.saved.any fun y => decide (y.gang = 0)) = true ∧
    gangOf (member 2 false false []) 0 = some (gang 2 false) ∧ (gang 2 false).carving = [] := by decide +kernel

/-- A cell whose save waits for the emergency area; a task parked by TRET and a decided ACCB, each with a numeric limit pending;
a decided ACCB of a fused gang with a saved member. -/
theorem witness_SavedTasksAndServices_order :
    (let s := awaitArea preempted 0
     0 ∈ s.tasks.saving ∧ (s.cellAt 0).running = true) ∧
    (let s := (withEvents base { Events.none with numeric := 1 }).upd fun c => { c with wait := .park }
     (s.cellAt 0).wait = .park ∧ (pendingEvent s 0).isSome = true) ∧
    (let s := withEvents { member 2 true true [] with tasks :=
         { (member 2 true true []).tasks with preempt := [0], saved := [savedTask base.cell] } } { Events.none with numeric := 1 }
     let t := s.upd fun c => { c with wait := .accbDone 4 (.skip true 7 [1]) }
     answerHolds t 0 = false ∧ answered (t.cellAt 0) = true ∧ (t.cellAt 0).running = true ∧ 0 ∈ t.tasks.preempt ∧
       (t.cellAt 0).mx.run = none ∧ (pendingEvent (withdraw t 0) 0).isSome = true) ∧
    answerHolds (deciding (.skip true 7 [1])) 0 = true ∧ (copyBack (savedOn base.cell) 0).isSome = true := by decide +kernel

/-- The save area of a saved task can be read. -/
theorem witness_SavedTasksAndServices_restore :
    (areaContext { savedOn base.cell with pkg := (paged base).pkg, mem := (paged base).mem } (savedTask base.cell)).isSome = true := by
  decide +kernel

/-- Cell 1 is to restore a saved task whose save area cannot be translated; a part in die 0's emergency area that cannot be
copied back. -/
theorem witness_SavedTasksAndServices_area :
    areaContext (savedOn base.cell) (savedTask base.cell) = none ∧
    (let s := { savedOn base.cell with tasks := { Tasks.reset with saved := [{ savedTask base.cell with split := some 0 }] } }
     copyBack s 0 = none ∧ ∀ y ∈ s.tasks.saved, y.split ≠ some 1) := by decide +kernel

/-- Launch queue 0 of 16 entries with one entry at host address 0x1000, whose packet is at 0x2000: one stage of single
tasks in frame 0. -/
def launching : State :=
  let s := paged base
  { s with
    pkg := { s.pkg with lq := s.pkg.lq.wr 0 { base := 0x1000, cfg := 0x14, tail := 1, head := 0, stopped := false } }
    mem := ((s.mem.storeNat (hostAddr 0x1000) 8 0x2000).storeNat (hostAddr 0x2000) 8 0xA9).storeNat (hostAddr (0x2000 + 80)) 8
      (4 + 2 ^ 24 + 2 ^ 32) }


/-- Launch 3 waits for one of the slots of the main dies, of which `held` are taken. -/
def waiting (held : Nat) : State :=
  let l := { launch (stage 1 false) [] with id := 3, resident := false, comb := none }
  let before := (List.range held).map fun i => { l with id := i + 4, resident := true, comb := some (BitVec.ofNat 5 i) }
  { base with tasks := { Tasks.reset with launches := before ++ [l] } }

def finished : State :=
  { member 1 false false [] with tasks := { Tasks.reset with launches := [{ launch (stage 1 false) [] with seedLeft := 0 }] } }

theorem witness_LaunchStepsComplete :
    (let q : LaunchQueue := launching.pkg.lq.rd 0
     q.on = true ∧ 2 ^ (q.cfg.toNat % 16) < ((17 : Word) - q.head).toNat ∧ ((16 : Word) - q.head).toNat ≤ 2 ^ (q.cfg.toNat % 16) ∧
     q.entry 64 = some 0x1000 ∧ launching.pkg.lqTurn = 0) ∧
    cfgOn ((0x1C : Word) &&& 0x1F#64) = true ∧ cfgOn ((0x1D : Word) &&& 0x1F#64) = false ∧ cfgOn (base.pkg.lq.rd 0).cfg = false ∧
    ((List.range 8).all fun q => ((base.pkg.lq.rd (BitVec.ofNat 3 q)).entry 64).isNone) = true ∧
    okAnd (checkPacket launching (packetWord launching 0x1000 0).toNat) (fun hs => decide (hs.length = 1)) = true ∧
    failsWith (checkPacket base (packetWord base 0x1000 0).toNat) (fun st => decide (st = stForm)) = true ∧
    (finished.tasks.launches.all fun l => l.resident) = true ∧ (launchOf finished 0).any (launchDone finished) = true ∧
    (launchOf (member 1 false false []) 0).any (fun l => !launchDone (member 1 false false []) l && l.resident
      && decide (l.seedLeft ≠ 0)) = true ∧
    okAnd (ctxRead (paged (member 1 false false [])) 0 0 8) (fun _ => true) = true ∧
    (stageOf (paged (member 1 false false [])) 0 0).any (fun q => decide (q.queue.length < 2 ^ q.hdr.qlog)) = true ∧
    (rangeOf (spreading 1 3) 0).isSome = true ∧
    (stageOf (spreading 1 3) 0 0).any (fun q => decide (q.queue.length < 2 ^ q.hdr.qlog)) = true ∧
    (stageOf (member 1 false false [entry 1, entry 2]) 0 0).any (fun q => decide (2 ^ q.hdr.qlog ≤ q.queue.length)) = true ∧
    (let next := fun (s : State) => s.tasks.launches.find? fun l => !l.resident
     (next (waiting 0)).any (fun l => queuesFit (waiting 0) false l && queuesFit (waiting 0) true l) = true ∧
     freeSlot (waiting 0) false ≠ none ∧ (next (waiting 32)).isSome = true ∧ freeSlot (waiting 32) false = none) :=
  by decide +kernel

/-! ### Witnesses: the host, power, contexts -/

/-- Two writes of the host and one of a peer to stack 0, and one of the host to stack 1. -/
def inbound : State :=
  let w := fun (src : Origin) (pa : Nat) => ({ src := src, pa := pa, bytes := [1, 2] } : Inbound)
  { base with inbound := [w .host 0x30000, w (.peer 1 false) 0x30000, w .host (2 ^ 36), w .host 0x40000] }

theorem witness_InboundComplete :
    hbmRange base (0xBFFFFFFFF#56).toNat 1 = true ∧ hbmRange base (0xBFFFFFFFF#56).toNat 2 = false ∧
    (takeFlits (flitFrom1 1) 1 1 1).isSome = true ∧ takeFlits (flitFrom1 1) 2 1 1 = none ∧
    (takeFlits (flitFrom1 0) 1 0 1).isSome = true ∧ (Origin.peer 1 false ≠ .peer 1 true) ∧
    takeFlits (flitFrom1 1) 1 1 ((257 + 255) / 256) = none ∧ (takeFlits (flitFrom1 2) 1 2 1).isSome = true ∧
    inbound.inbound[2]?.any (fun w => (inbound.inbound.take 2).all fun x => decide (x.src = w.src → x.pa / 2 ^ 36 ≠ w.pa / 2 ^ 36)) = true ∧
    inbound.inbound[3]?.any (fun w => (inbound.inbound.take 3).any fun x => decide (x.src = w.src ∧ x.pa / 2 ^ 36 = w.pa / 2 ^ 36)) = true ∧
    inbound.inbound.length ≤ 4 ∧ base.pkg.devState ≠ 3 ∧ reserved 0x30000 = false ∧ reserved Config.broodBase = true ∧
    base.text.changed = 0 ∧
    hbmRange base (0x30000#56).toNat 16 = true ∧ (0x30000#56).toNat % 16 = 0 ∧ (9#4).toNat ≤ 9 ∧ 14 ≤ (14#4).toNat ∧
    base.mem.nat 0x30000 4 = fld (0#128) 64 64 % 2 ^ 32 := by decide +kernel

def reporting (head tail : Word) : State :=
  { base with pkg := { base.pkg with
      rpCfg := 0x14, rpHead := head, rpTail := tail,
      reports := [{ kind := 2, cause := 3, cell := 0, ctx := 0, epc := 1, tval := 2, data := 3 }] } }

theorem witness_PowerAndReportsComplete :
    bit base.pkg.frames (3#2).toNat = true ∧ bit { base.pkg with frames := 7 }.frames (3#2).toNat = false ∧
    (let x := base.pkg.throttle.rd 0
     let limit := max 400 (min 2560 x.limit.toNat)
     x.calm ≠ 3 ∧ { x with calm := 3 }.calm = 3 ∧ limit < (2561#12).toNat ∧ (2560#12).toNat ≤ limit ∧ limit * 15 < (2401#12).toNat * 16 ∧
     (2400#12).toNat * 16 ≤ limit * 15) ∧
    base.pkg.reports = [] ∧ cfgOn (reporting 0 0).pkg.rpCfg = true ∧ (reporting 0 0).pkg.reports ≠ [] ∧
    (((reporting 0 16).pkg.rpTail - (reporting 0 16).pkg.rpHead).toNat = 2 ^ ((reporting 0 16).pkg.rpCfg.toNat % 16)) ∧
    (((reporting 1 16).pkg.rpTail - (reporting 1 16).pkg.rpHead).toNat ≠ 2 ^ ((reporting 1 16).pkg.rpCfg.toNat % 16)) := by
  decide +kernel

theorem witness_HostRegistersAndBringUp :
    base.pkg.txStat.toNat % 4 ≠ 1 ∧ { base.pkg with txStat := 1 }.txStat.toNat % 4 = 1 ∧ base.pkg.chStat.toNat % 4 ≠ 1 ∧
    { base.pkg with chStat := 1 }.chStat.toNat % 4 = 1 ∧ base.pkg.cxStat.toNat % 4 ≠ 1 ∧
    { base.pkg with cxStat := 1 }.cxStat.toNat % 4 = 1 ∧ { base.pkg with bringup := some 1 }.bringup = some 1 ∧
    { base.pkg with bringup := some 3 }.bringup = some 3 ∧ base.pkg.bringup ≠ some 1 ∧ base.pkg.devState = 1 ∧ { base.pkg with devState := 0 }.devState ≠ 1 ∧
    { base.pkg with devState := 0 }.devState ≠ 3 := by decide +kernel

/-- A descriptor of context `id` in host memory at 0: root 0x22000, 1 save area, a pool at 0x3000; command `v` is written. -/
def described (s : State) (id : Nat) (v : Word) : State :=
  let w := fun (m : Mem) (i v : Nat) => m.storeNat (hostAddr (8 * i)) 8 v
  { s with mem := w (w (w (w s.mem 0 id) 1 0x22000) 4 (2 ^ 32)) 5 0x3000, pkg := { s.pkg with cxStat := 1, cxCmd := v } }

/-- An invalidation of the page at 0x10000 of context 0, which nothing mapped any more. -/
def unmapped : Tlbi := { n := 1, ctx := 0, va := some 0x10000, still := [] }

/-- A freed page of context 0 at 0x10000, and an invalidation of it, number 1, up to `quiesce`. -/
def quarantining (quiesce : Nat) : Package :=
  { base.pkg with
    quarantine := [{ ctx := 0, va := 0x10000, since := 1, pa := 0x30000, len := 65536 }]
    tlbis := [unmapped]
    quiesce := quiesce }

theorem older_reset (c : BitVec 9) : olderAccess 9 (State.reset.cellAt c) = false := by
  simp [State.cellAt, State.reset, Reg.rd, Reg.fill, olderAccess, Cell.reset, Pipe.reset, Matrix.reset]

theorem witness_ContextsComplete :
    (let s := described (paged base) 1 0
     cxReady s 0 = true ∧ createReason s = 0 ∧ fld (cxWord s 0) 16 48 = 0 ∧ fld (cxWord s 5) 56 8 = 0 ∧
     fld (cxWord s 6) 32 32 = 0 ∧ cxWord s 7 = 0 ∧ (cxWord s 5).toNat % 8 = 0 ∧ hbmAddr s (cxWord s 5).toNat 8 = true ∧
     contextAt s 1 = none ∧ cxReady s 1 = false) ∧
    (cxReady (described (paged base) 1 1) 1 = true ∧ contextAt (described (paged base) 1 1) 1 = none ∧
      cxReady (described (paged base) 0 3) 3 = true ∧ cxReady (described (paged base) 0 4) 4 = true) ∧
    (let s := described (paged base) 0 0
     createReason s = 4 ∧ contextAt s 0 ≠ none) ∧
    (cxReady (described (paged base) 0 1) 1 = true ∧ contextAt (described (paged base) 0 1) 0 ≠ none ∧
      contextUsed (described (paged base) 0 1) 0 = false ∧ contextUsed (described (paged (member 1 false false [])) 0 1) 0 = true) ∧
    (let s := described (paged base) 0 10
     cxReady s 2 = true ∧ bit s.pkg.cxCmd 3 = true ∧ fld (cxWord s 7) 56 8 = 0 ∧ bit (described base 0 2).pkg.cxCmd 3 = false) ∧
    (cxReady base 0 = false ∧ cxReady base 1 = false ∧ cxReady base 2 = false ∧ cxReady base 3 = false ∧ cxReady base 4 = false) ∧
    base.pkg.shoots = [] ∧ base.pkg.quarantine = [] ∧ (∀ c, olderAccess 9 (State.reset.cellAt c) = false) ∧
    olderAccess 9 (loading.cellAt 0) = true ∧ State.reset.tasks.saved = [] ∧
    (let q : Freed := { ctx := 0, va := 0x10000, since := 1, pa := 0x30000, len := 65536 }
     (quarantining 1).quarantine = [] ++ q :: [] ∧ (quarantining 1).tlbis = [] ++ unmapped :: [] ∧ q.since ≤ unmapped.n ∧ unmapped.n ≤ (quarantining 1).quiesce ∧
       unmapped.ctx = q.ctx ∧ 0x10000 / 65536 = q.va / 65536 ∧ ¬ unmapped.n ≤ (quarantining 0).quiesce ∧
       (let l : Leaf := { va := 0x10000, pa := 0x30000, size := 65536 }
        l.va ≤ q.va ∧ q.va < l.va + l.size ∧ l.pa + (q.va - l.va) = q.pa)) :=
  by refine ⟨?_, ?_, ?_, ?_, ?_, ?_, ?_, ?_, older_reset, ?_⟩ <;> decide +kernel

/-! ### Witnesses: slots, rounds, text -/

def withSlot (s : State) (sl : Slot) : State := { s with brood := { s.brood with slots := [(5, sl)] } }

/-- Slot 5 committed with the shadow state `goal`, in live state `st`. -/
def committed (st goal : Nat) : Slot :=
  { (Slot.reset.putNat 0 st) with commit := true, shadow := Slot.reset.shadow.wr 0 (BitVec.ofNat 64 goal) }

/-- QNEXT names stage 0 of launch slot 0 twice; slot 5 has a round with its draft entry to queue. -/
def drafting (q : List QEntry) : State :=
  let s := withSlot (member 1 false false q) { Slot.reset.putNat 0 2 with round := { Round.none with active := true, enqueue := true } }
  { s with brood := { s.brood with qnext := 0x80000000#64 } }

/-- Slots 5 and 9 are both committed: one is admitted, the other retires. -/
def committing : State :=
  { base with brood := { base.brood with slots := [(5, committed 0 1), (9, committed 2 0)] } }

theorem witness_SlotStepsComplete_two : (committing.brood.slots.map (·.1)).Nodup ∧ (5, committed 0 1) ∈ committing.brood.slots ∧
    (9, committed 2 0) ∈ committing.brood.slots ∧ (committed 2 0).gen < 2 ^ 32 ∧
    7 ∉ (committing.brood.slots.filter fun e => e.2.commit).map (·.1) := by decide +kernel

theorem witness_SlotStepsComplete :
    (committed 0 1).commit = true ∧ (committed 0 1).gen < 2 ^ 32 ∧ (committed 0 1).state = 0 ∧
    ((committed 0 1).shadow.rd 0).toNat % 256 = 1 ∧ (committed 2 0).state ≠ 0 ∧ ((committed 2 0).shadow.rd 0).toNat % 256 = 0 ∧
    (committed 4 1).state = 4 ∧ (committed 2 1).state = 2 ∧ hostField 2 = true ∧
    hostField 3 = true ∧
    (base.slot 5).round.active = false ∧ qnextStages base = none ∧
    ((drafting []).slot 5).round.active = true ∧ ((drafting []).slot 5).round.enqueue = true ∧
    (qnextStages (drafting [])).any (fun d => decide (d.1.2.2.queue.length < 2 ^ d.1.2.2.hdr.qlog)) = true ∧
    (qnextStages (drafting [entry 1, entry 2])).any (fun d => decide (2 ^ d.1.2.2.hdr.qlog ≤ d.1.2.2.queue.length)) = true := by
  decide +kernel

def qver (gen : Nat) : Cmd := { cmd .qver with sa := BitVec.ofNat 64 (5 + gen * 2 ^ 32), started := true }

/-- Slot 5 is ACTIVE with a QVER bound to its round. -/
def verifying (cancelled : Bool) (gen : Nat) : State :=
  withCmd (withSlot base { Slot.reset.putNat 0 2 with
    round := { Round.none with active := true, qver := some 3, cancelled := cancelled } }) (qver gen)

/-- A SIEVE of the first round, and one that came too late. -/
def sieving (round : Nat) : State :=
  let s := verifying false 1
  { s with
    brood := { s.brood with slots := [(5, { (s.slot 5).putNat 3 0xFFF with
      round := { (s.slot 5).round with copy := (s.slot 5).round.copy.wr 3 0xFFF } })] }
    cmds := [{ cmd .sieve with sa := 5, started := true, round := round, ha := handle 0 0 0 1 0 1 }] }

theorem witness_QuorumStepsComplete :
    arrivedQvers base 5 = [] ∧ (base.slot 5).round.qver = none ∧
    arrivedQvers (verifying false 9) 5 = [qver 9] ∧ ((verifying false 9).slot 5).round.qver = some (qver 9).id ∧
    cmdOf (verifying false 9) (qver 9).id = some (qver 9) ∧ genOk (verifying false 9) (qver 9) = false ∧
    arrivedQvers (verifying true 1) 5 = [qver 1] ∧ genOk (verifying true 1) (qver 1) = true ∧
    ((verifying true 1).slot 5).round.cancelled = true ∧ roundHeld ((verifying true 1).slot 5) = false ∧
    roundHeld { (verifying true 1).slot 5 with text := { TextSt.reset with out := List.replicate 4096 65 } } = true ∧
    (cmdOf (sieving 0) 3).any (fun x => decide (x.op = .sieve) && x.started && x.held.isNone &&
      (let y := (sieving 0).slot (slotNo x)
       genOk (sieving 0) x && y.round.active && decide (y.round.num = x.round) && !y.round.cancelled
         && decide (x.num ≤ y.round.ring.length) && decide (y.round.ring.length < x.num + 1)
         && okAnd (sieveRow (sieving 0) x) fun _ => true)) = true ∧
    (cmdOf (sieving 1) 3).any (fun x => decide (((sieving 1).slot (slotNo x)).round.num ≠ x.round)) = true ∧
    genOk (sieving 0) { cmd .sieve with sa := 0x900000005#64 } = false ∧
    (cmdOf (verifying false 9) 3).any (fun x => decide (x.op ≠ .sieve)) = true := by decide +kernel

/-- The image of a grammar of one state whose mask allows nothing, over a vocabulary of one token. -/
def grammar : State :=
  { base with
    mem := ((base.mem.storeNat (hostAddr 0) 8 0xA9B1).storeNat (hostAddr 0x10) 8 1).storeNat (hostAddr 0x18) 8 1
    text := { vocabs := [(0, { eot := 0, toks := [[65]] })], grams := [], changed := 0 } }

/-- A text command is written. -/
def texting (kind remove : Bool) (n : BitVec 12) : Package := { base.pkg with txStat := 1, txCmd := txValue kind remove n }

/-- Slot 5 has output, and a stream descriptor at 0x30000 for a ring of 256 bytes at 0x40000; or none. -/
def streaming (z : Nat) : State :=
  let s := paged base
  { withSlot s ({ Slot.reset.putNat 0 2 with text := { TextSt.reset with out := [65, 66] } }.putNat 15 0x30000) with
    mem := s.mem.storeNat 0x30000 8 (0x40000 + z * 2 ^ 56) }

theorem witness_TextStepsComplete :
    (let p := texting false false 15
     cmdReady p.txStat p.txCmd (txValue false false 15) = true) ∧
    (let p := texting true false 4094
     cmdReady p.txStat p.txCmd (txValue true false 4094) = true) ∧
    (let p := texting false true 15
     cmdReady p.txStat p.txCmd (txValue false true 15) = true) ∧
    (let p := texting true true 4094
     cmdReady p.txStat p.txCmd (txValue true true 4094) = true) ∧
    vocabReason base (15#12).toNat = 0 ∧ vocabReason base (16#12).toNat ≠ 0 ∧ gramReason base (4094#12).toNat = 0 ∧
    gramReason base (4095#12).toNat ≠ 0 ∧ failsWith (vocabImage base) (fun _ => true) = true ∧
    okAnd (gramImage grammar) (fun g => gramRoom grammar 4094 g) = true ∧
    (base.slot 5).text.out = [] ∧ (base.slot 5).text.finish = none ∧
    (let sl := (streaming 8).slot 5
     sl.left = [] ∧ sl.text.out ≠ [] ∧ streamVa (streaming 8) sl 15 ≠ 0 ∧ (drainTo (streaming 8) (pendingOut (streaming 8) sl)).isSome = true ∧
     { sl with left := [pendingOut (streaming 8) sl] }.left = pendingOut (streaming 8) sl :: [] ∧
     okAnd (readStream (streaming 8) 0 0x30000) (fun d => d.any fun d =>
       okAnd (drainBytes (streaming 8) (pendingOut (streaming 8) sl) d) fun _ => true) = true) ∧
    (let sl := (streaming 7).slot 5
     sl.left = [] ∧ sl.text.out ≠ [] ∧ streamVa (streaming 7) sl 15 ≠ 0 ∧ sl.state = 2 ∧
     (drainTo (streaming 7) (pendingOut (streaming 7) sl)).isNone = true ∧
     okAnd (readStream (streaming 7) 0 0x30000) (fun d => d.isNone) = true) ∧
    failsWith (readStream base 0 0x30000) (fun _ => true) = true ∧
    (let l : Leftover := { va := 0, ctx := 0, out := [65], finish := none }
     failsWith (drainBytes base l { ring := 0, z := 8, prod := 0, cons := 0, fin_ := 0 }) (fun _ => true) = true) ∧
    (let s := withSlot base { Slot.reset with text := { TextSt.reset with out := [65] } }
     (s.slot 5).text.out ≠ [] ∧ streamVa s (s.slot 5) 15 = 0) ∧
    base.text.vocabs.find (15#12).toNat = none ∧ base.text.grams.find (4094#12).toNat = none ∧
    grammar.text.vocabs.find (0#12).toNat ≠ none ∧
    okAnd (readStream (ctxFlits (hostAcquire (streaming 8)) 0 0x30000 32) 0 0x30000) (fun d => d.isSome) = true := by decide +kernel

/-- A resident grammar of `n` pairs: 2^28 of them leave no room for another. -/
def crowded (n : Nat) : State :=
  { grammar with text := { grammar.text with
      grams := [(1, { vocab := 0, start := 0, pairs := List.replicate n 0, masks := [], trans := [] })] } }

theorem crowded_room (n : Nat) (h : 2 ^ 28 ≤ n) (g : Gram) : gramRoom (crowded n) 0 g = false := by
  simp [gramRoom, crowded, gramSize, SMap.del, Config.textBytes]
  omega

theorem witness_TextStepsComplete_room : gramReason (crowded (2 ^ 28)) (0#12).toNat = 0 ∧
    okAnd (gramImage (crowded (2 ^ 28))) (fun _ => true) = true ∧ ∀ g, gramRoom (crowded (2 ^ 28)) 0 g = false :=
  ⟨by decide +kernel, by decide +kernel, crowded_room _ (Nat.le_refl _)⟩

/-! ### Witnesses: channels, the domain, media, accord engines -/

/-- Channel 1023 of context 0: a remote channel of depth 1 for one FP32 element, with its buffer at 0x30000. -/
def channel : Chan :=
  { words := (((Reg.fill (n := 3) (0 : Word)).wr 0 (1 + 2 + 0x100000 + 2 ^ 48)).wr 1 0x1000100010001).wr 4 0x30000
    msgs := [], next := 0, started := 0, rounds := [] }

/-- With every port up there is a plane, whatever the hash. -/
theorem planeOf_up (h : Nat) : (planeOf 0xFFFF h).isSome = true := by
  have up : ∀ n < 16, bit (0xFFFF : BitVec 16) n = true := by decide
  have first := up ((h + 0) % 16) (Nat.mod_lt _ (by decide))
  rw [planeOf, Option.isSome_map, List.find?_isSome]
  exact ⟨0, by decide, first⟩

def withChan (s : State) (c : Chan) : State := { s with chans := { s.chans with table := [(1023, c)] } }

theorem witness_ChannelStepsComplete :
    (let v := fun (remove : Nat) => BitVec.ofNat 64 (remove * 2 ^ 21 + (1#11).toNat * 1024 + (1023#10).toNat)
     cmdReady 1 (v 0) (v 0) = true ∧ cmdReady 1 (v 1) (v 1) = true ∧ cmdReady base.pkg.chStat base.pkg.chCmd (v 0) = false) ∧
    1 ≤ (1#11).toNat ∧ (1023#10).toNat + (1#11).toNat ≤ 1024 ∧ 1024 < (1023#10).toNat + (2#11).toNat ∧
    chanBusy base 1023 1 = false ∧ (∀ i < 1, entryReason (imageEntry base i) = 0) ∧
    chanOf base 1023 = none ∧ chanOf (withChan base channel) 1023 = some channel ∧ channel.valid = true ∧ channel.kind = 1 ∧
    entryReason channel = 0 ∧ channel.msgs.length < channel.depth ∧ channel.bytes = 4 ∧
    channel.depth ≤ { channel with msgs := [0] }.msgs.length ∧
    okAnd (putMessage (paged (withChan base channel)) 1023 channel [1, 2, 3, 4]) (fun _ => true) = true ∧
    (let r : RedRound := { k := 0, cmd := 3, sent := [], maxima := none, result := none }
     let c := { channel with rounds := [{ r with k := 7, result := some [] }, r] }
     let d := { c with words := c.words.wr 0 (1 + 6 + 0x300 + 0x100000) }
     c.rounds.find? (fun x => decide (x.k = 0) && x.result.isNone) = some r ∧ (0#16).toNat = c.switch ∧ (9#16).toNat ≠ c.switch ∧
     (∀ x ∈ c.rounds, x.k = 7 → x.result ≠ none) ∧ c.oper ≠ 3 ∧ cmdOf base r.cmd = none ∧
     cmdOf (withCmd base (cmd .chred)) r.cmd = some (cmd .chred) ∧ d.oper = 3 ∧ r.maxima = none ∧ c.dom = false ∧
     ([4, 7].all fun kind => (takeChannel base (some c) 0 kind 4).isSome) = true) ∧
    (let d := { channel with words := channel.words.wr 0 (1 + 2 + 8 + 0x100000 + 2 ^ 48) }
     d.dom = true ∧ (takeChannel base (some d) 1 4 4).isNone = true ∧ (takeChannel (flitFrom1 4) (some d) 1 4 4).isSome = true) ∧
    (let d := { channel with words := channel.words.wr 0 (1 + 4 + 8 + 0x100000 + 2 ^ 48) }
     d.dom = true ∧ d.kind = 2 ∧ (1#16).toNat ≠ d.switch) := by
  decide +kernel

/-- The channel of that RESCALE round may send. -/
theorem witness_ChannelStepsComplete_path : canSend base { channel with words := channel.words.wr 0 (1 + 6 + 0x300 + 0x100000) } = true := by
  have kind : ({ channel with words := channel.words.wr 0 (1 + 6 + 0x300 + 0x100000) } : Chan).ultra = false := by decide +kernel
  have ports : base.pkg.ports = 0xFFFF := by decide +kernel
  unfold canSend flitPath planePath
  rw [kind, ports]
  simp only [Bool.false_eq_true, if_false, Option.isSome_map, planeOf_up]

/-- A member record without digests. -/
def record (id : BitVec 16) : MemberRec := { id := id, slot := 0, firmware := 0, code := 0 }

/-- A manifest of this package, 0, and package 1; the host has written the command `code`. -/
def manifested (st code : Nat) : State :=
  { base with
    pkg := { base.pkg with pdCmd := some (BitVec.ofNat 64 code) }
    pd := { base.pd with
      state := BitVec.ofNat 3 st, self := 0, members := [0, 1], change := st = 3, arrived := st = 3, next := [record 0, record 1] }
    mem := ((base.mem.storeNat (hostAddr 0) 8 0x10001A9D0).storeNat (hostAddr 8) 8 2).storeNat (hostAddr (16 + 112)) 8 1 }

/-- Package 1 measures as its record says. -/
def report1 : Measured := { id := 1, chains := 1, firmware := 0, code := 0 }

theorem witness_DomainStepsComplete :
    pdReady (manifested 0 0) 0 = true ∧ pdReady (manifested 2 1) 1 = true ∧ pdReady (manifested 0 2) 2 = true ∧
    (manifest (manifested 0 0)).ok = true ∧ (manifest base).ok = false ∧ (manifested 5 0).pd.state = 5 ∧ (manifested 2 0).pd.state = 2 ∧
    (manifested 3 0).pd.state = 3 ∧ (manifested 4 0).pd.state = 4 ∧ (manifested 0 0).pd.state = 0 ∧ (manifested 1 0).pd.state = 1 ∧
    3 ≤ (3#8).toNat ∧ (6#8).toNat ≤ 6 ∧
    (let s := manifested 1 0
     let kept := vouched s [] [report1] s.pd.next
     kept = [0, 1] ∧ admitted s s.pd.next kept = true ∧ admitted s s.pd.next [] = false ∧
     (vouched s [] [] s.pd.next).length < s.pd.next.length ∧ leaderOf s.pd.next = some 0) ∧
    (manifested 3 0).pd.change = true ∧ (manifested 3 0).pd.arrived = true ∧ openRounds (manifested 3 0) = false ∧
    flitsOut { (manifested 3 0) with pd := { (manifested 3 0).pd with flits := [0] } } = true ∧
    (let s := manifested 3 0
     s.pd.self ∈ vouched s s.pd.members [] s.pd.next ∧ s.pd.self ∉ vouched s s.pd.members [] [record 1]) ∧
    (manifested 0 0).pd.arrived = false ∧
    (let s := manifested 2 0
     let hdr : BitVec 128 := 0x80000000#128 <<< 4
     hdr.getLsbD 35 = true ∧ hdr.extractLsb' 0 16 ∈ s.pd.members ∧ hdr.extractLsb' 16 16 = s.pd.self ∧ fld hdr 36 4 < 8 ∧
     fld hdr 40 24 = s.pd.gen.toNat % 2 ^ 24 ∧ fld hdr 64 64 = s.pd.seqs.get 0 (fld hdr 0 16 * 8 + fld hdr 32 2 * 2) ∧
     fld (1#128 <<< 64) 64 64 ≠ s.pd.seqs.get 0 0 ∧ s.pd.authErr.toNat < 2 ^ 32 - 1 ∧ s.pd.seqErr.toNat < 2 ^ 32 - 1 ∧
     s.pd.authErr.toNat + 1 ≤ fld s.pd.thr 0 16 ∧ fld s.pd.thr 0 16 < { s.pd with authErr := 16 }.authErr.toNat + 1) := by
  decide +kernel

/-- A manifest before the end of bring-up and after it; flits of an Ultra Ethernet port, one of them old and one seen; a response
that a load awaits and one that none does. -/
theorem witness_DomainStepsComplete_flits :
    broughtUp (manifested 0 0) = true ∧ broughtUp { (manifested 0 0) with pkg := { (manifested 0 0).pkg with up := false } } = false ∧
    (let s := manifested 2 0
     let again := fun (q : Nat) (p : Propolis) => decide (q + 256 < p.seqs.get 0 1 ∨ q ∈ p.seen.get [] 1)
     again 0 s.pd = false ∧ again 0 { s.pd with seqs := s.pd.seqs.put 1 300 } = true ∧
       again 7 { s.pd with seqs := s.pd.seqs.put 1 9, seen := s.pd.seen.put 1 [7] } = true ∧
       again 7 { s.pd with seqs := s.pd.seqs.put 1 9, seen := s.pd.seen.put 1 [8] } = false) ∧
    awaiting (loadingPeer State.reset) 1 = 1 ∧ awaiting State.reset 1 = 0 := by decide +kernel

/-- No flit is outstanding in a domain without channels, commands and pending accesses. -/
theorem witness_DomainStepsComplete_quiet : flitsOut { State.reset with pd := (manifested 3 0).pd } = false := by decide +kernel

/-- Slot 5 is ACTIVE with a period of 20 microseconds, due at 0, and SLSTEP names stage 0 of launch slot 0. -/
def ticking (stepping : Bool) : State :=
  let s := withSlot (member 1 false false []) { (Slot.reset.putNat 0 2).putNat 17 20000 with stepping := stepping }
  { s with brood := { s.brood with slstep := 0x80000000#64 } }

/-- Slot 5 is ACTIVE with a window that starts at 7 and holds `n` of its 128 entries; a record with stamp 7 waits. -/
def recording (n : Nat) : State :=
  let w : Window :=
    { pages := [0x40000, 0x50000], ctx := 0, va := 0, since := 0, sinks := 0, high := Reg.fill 0, dropOld := 0, dropFull := 0,
      arrivals := n, entries := (List.range n).map fun i => { at_ := i, stamp := 7, stream := 0, arrival := i } }
  let s := withSlot base { Slot.reset.putNat 0 2 with window := some w, start := 7 }
  { s with pkg := { s.pkg with mdRecs := [toBytes 8 7 ++ toBytes 8 5 ++ List.replicate 496 0] } }

theorem witness_MediaStepsComplete_records :
    (let s := recording 127
     let r := parseRec (s.pkg.mdRecs.getD 0 [])
     r.bad = false ∧ r.gen = 0 ∧ r.slot = 5 ∧ (s.slot 5).state = sActive ∧ (s.slot 5).start ≤ r.stamp ∧ r.stamp < 8 ∧
     (s.slot 5).window.any (fun w => decide (w.freeEntry = some 127)) = true) ∧
    ((recording 128).slot 5).window.any (fun w => w.freeEntry.isNone) = true ∧
    ((ticking false).brood.slots.map (·.1) = [5] ∧ 10 ^ 9 < 2000000000 ∧ ((ticking false).slot 5).state = sActive) := by
  decide +kernel

theorem witness_MediaStepsComplete :
    (let q : LaunchQueue := { base := 0x1000, cfg := 0x14, tail := 1, head := 0, stopped := false }
     q.on = true ∧ 2 ^ (q.cfg.toNat % 16) < ((17 : Word) - q.head).toNat ∧ ((16 : Word) - q.head).toNat ≤ 2 ^ (q.cfg.toNat % 16) ∧
     q.entry 512 = some 0x1000) ∧ base.pkg.md.entry 512 = none ∧ base.pkg.mdRecs = [] ∧
    mdBound base.pkg ⟨0, 0, 0⟩ = false ∧
    mdBound { base.pkg with mdue := base.pkg.mdue.wr 0 0x10000000000001#64 } ⟨0, 0, 0⟩ = true ∧
    mdBound { base.pkg with mdue := base.pkg.mdue.wr 7 0x1FFF00000A0008#64 } ⟨3, 10, 0xFFF⟩ = true ∧ [1#8].length % 512 ≠ 0 ∧
    (parseRec (base.mem.bytes (hostAddr 0x1000) 512)).bad = false ∧ (base.slot 0).state ≠ sActive ∧
    (parseRec ((base.mem.storeNat (hostAddr 0x1008) 8 0x8000).bytes (hostAddr 0x1000) 512)).bad = true ∧
    (let sl := (ticking false).slot (5#12).toNat
     sl.state = sActive ∧ period ((sl.f 17).toNat % 2 ^ 32) ≠ 0 ∧ bit (ticking false).brood.slstep 31 = true ∧
     (sl.f 18).toNat ≤ (ticking false).pkg.time ∧ sl.stepping = false ∧ sl.window = none ∧
     (slstepStage (ticking false)).any (fun q => decide (q.2.2.queue.length < 2 ^ q.2.2.hdr.qlog)) = true) ∧
    ((ticking true).slot 5).stepping = true ∧ timeSource base.pkg = false ∧ timeSource { base.pkg with tsrc := 1 } = true ∧
    base.pkg.time < 2 ^ 64 := by
  decide +kernel

/-- The state in which a command's turn has begun. -/
def begun (s : State) (x : Cmd) : State := setCmd (withCmd s x) { x with begun := true }

/-- The command may take its turn. -/
def ready (s : State) (x : Cmd) : Bool :=
  let t := withCmd s x
  decide (cmdOf t x.id = some x) && x.held.isNone && !mustWait t x && !padWaits t x && genOk t x
    && !olderSlot (begun s x) { x with begun := true }

/-- A command for slot 5. -/
def to5 (op : EOp) (ha : BitVec 256) : Cmd := { cmd op with sa := 5, ha := ha }

/-- Slot 5 holds `sl`, beside a vocabulary of the 256 bytes and "AB", and a stream at 0x30000 that holds "AB". -/
def served (sl : Slot) : State :=
  let s := paged base
  { s with
    brood := { s.brood with slots := [(5, sl)] }
    text := { vocabs := [(0, { eot := 0, toks := (List.range 256).map (fun b => [BitVec.ofNat 8 b]) ++ [[65, 66]] })]
              grams := [(0, { vocab := 0, start := 0, pairs := [2 ^ 48], masks := [[2]], trans := [(0x100000001, 5)] })]
              changed := 0 }
    mem := ((s.mem.storeNat 0x30000 8 (0x40000 + 8 * 2 ^ 56)).storeNat 0x30008 8 2).storeNat 0x40000 8 0x4241 }

/-- A slot in state `st` with grammar `g`, its streams at 0x30000. -/
def textSlot (st g : Nat) : Slot := (((Slot.reset.putNat 0 st).putNat 3 g).putNat 24 0x30000).putNat 15 0x30000

/-- The commands of the text engine: a stream of two bytes that are one token, a list of one token and one that names none, a
token that the grammar takes and one that it does not, masks with and without a grammar. -/
theorem witness_EngineCommandsComplete_text :
    (let s := served (textSlot 2 0xFFF)
     let sl := s.slot 5
     vocabOf s sl ≠ none ∧ resident s sl = true ∧ gramOf s sl = none ∧
     (let x := to5 .tokz (handle 0x50000 0 4 1 0 10)
      let w := ctxFlits (hostAcquire (begun s x)) sl.ctx 0x30000 32
      ready s x = true ∧ textBusy (begun s x) x 5 = false ∧ handle1 x.ha 10 2 65535 = true ∧ hEmpty x.ha = false ∧
        streamVa s sl 24 = 0x30000 ∧
        okAnd (readStream w sl.ctx 0x30000) (fun d => d.any fun d => decide (d.prod - d.cons = 2) &&
          okAnd (ringRead w sl.ctx d (2 / 2 ^ d.z + 2) d.cons 2) fun bs => decide (bs = [65, 66]) &&
          okAnd (writeHa w x [1, 0, 0, 0, 0, 1, 0, 0]) fun z => okAnd (ctxWrite z sl.ctx 0x30010 (toBytes 8 2)) fun _ => true)
          = true) ∧
     (let x := fun (at_ : Nat) => to5 .detok (handle at_ 0 1 1 0 10)
      let tokens := fun at_ => (readHa (begun s (x at_)) (x at_) 4).toOption.map words32
      ready s (x 0x40000) = true ∧ handle1 (x 0x40000).ha 10 1 4096 = true ∧ hEmpty (x 0x40000).ha = false ∧
        tokens 0x40000 = some [0x4241] ∧ tokens 0x40008 = some [0] ∧ outFull sl = false ∧
        outFits (trimOut s (sl.detok { eot := 0, toks := [[65]] } 0 0xFFFFFFFF)) = true) ∧
     (let x := to5 .gmask (handle 0x50000 0 33 1 0 12)
      ready s x = true ∧ hType x.ha = 12#4 ∧ (257 + 7) / 8 ≤ hDim x.ha 0 ∧
        okAnd (writeHa (begun s x) x (toBytes 33 (2 ^ 257 - 1))) (fun _ => true) = true)) ∧
    (let s := served (textSlot 2 0)
     let sl := s.slot 5
     ready s (to5 .gadv 0) = true ∧ (gramOf s sl).any (fun g =>
       decide (advance g sl.text.dlim sl.gstate 1 = .ok (5, [])) && decide (advance g sl.text.dlim sl.gstate 2 = .dead)) = true) ∧
    outFull { textSlot 2 0xFFF with text := { TextSt.reset with out := List.replicate 4096 65 } } = true ∧
    ((List.range 256).all fun b => decide (((List.range 256).map fun b => [BitVec.ofNat 8 b]).getD b [] = [BitVec.ofNat 8 b]))
      = true := by decide +kernel

/-- The commands on a slot: LEN with a snapshot, STATE to ACTIVE, to DONE and to what R229 does not allow, two proposals, the
record, a period, a window, a status block. -/
theorem witness_EngineCommandsComplete_slots :
    (let sl := { textSlot 2 0 with
       round := { Round.none with active := true }
       text := { TextSt.reset with snaps := [{ pos := 4, state := 9, stack := [1] }] } }
     ready (served sl) { to5 .bset 0 with imm := 9, sb := 4 } = true ∧ (sl.put 9 4).snapAt 4 = some (9, [1]) ∧
       ({ sl with round := { sl.round with copy := sl.live } } : Slot).free = false ∧ sl.round.active = true) ∧
    (let x := { to5 .bset 0 with imm := 0, sb := 2 }
     let s := served (textSlot 1 0xFFF)
     let t := activateText ((begun s x).setSlot 5 ((s.slot 5).put 0 2)) 5
     ready s x = true ∧ bsetHeld (s.slot 5) 2 (begun s x) = false ∧ (s.slot 5).state = sAdmit ∧
       (t.slot 5).state = sActive ∧ (t.slot 5).round.active = false ∧ outFull (t.slot 5) = false) ∧
    (textSlot 2 0xFFF).state = sActive ∧ (textSlot 3 0xFFF).state ≠ 2 ∧ (textSlot 3 0xFFF).state ≠ sAdmit ∧
    (let sl := { textSlot 2 0xFFF with round := { Round.none with active := true, copy := (textSlot 2 0xFFF).live } }
     let x := fun (at_ : Nat) => to5 .qprop (handle at_ 0 4 1 0 10)
     let pos := fun at_ => (readHa (begun (served sl) (x at_)) (x at_) 16).toOption.map fun bs => leNat bs % 2 ^ 32
     ready (served sl) (x 0x50000) = true ∧ handle1 (x 0x50000).ha 10 4 64 = true ∧ hEmpty (x 0x50000).ha = false ∧
       (sl.used 9).toNat + sl.round.ring.length = 0 ∧ pos 0x50000 = some 0 ∧ pos 0x40000 = some 0x4241 ∧
       32 < { sl.round with ring := List.replicate 32 0 }.ring.length + 1) ∧
    (let x := to5 .qres (handle 0x50000 0 14 1 0 10)
     ready (served (textSlot 2 0xFFF)) x = true ∧ hSpace x.ha ≠ 1 ∧ 448 ≤ hDim x.ha 0 * widthOf (hType x.ha).toNat ∧
       x.started = false ∧ okAnd (writeHa (begun (served Slot.reset) x) x (List.replicate 56 0)) (fun _ => true) = true) ∧
    ready base { to5 .sltick 0 with sb := 20000, sx := 5 } = true ∧ period 20000 ≠ 0 ∧ period 0 = 0 ∧
    (let x := to5 .slpin (handle 0x40000 0 2 1 0 0)
     let s := { served (textSlot 2 0xFFF) with mem := (served Slot.reset).mem.storeNat 0x24000 8 (0x79 + 2 ^ 62) }
     let page := fun i => (windowPage (begun s x) x (0x40000 + 65536 * i)).toOption
     ready s x = true ∧ hBase x.ha % 65536 = 0 ∧ hSpace x.ha = 0 ∧ fld ((s.slot 5).used 20) 0 16 + 2 ≤ hDim x.ha 0 ∧
       hDim x.ha 0 ≤ fld ((s.slot 5).used 20) 0 16 + 128 ∧ page 0 = some 0x40000 ∧ page 1 = some 0x50000) ∧
    (let x := to5 .slget (handle 0x50000 0 64 1 0 11)
     ready (recording 0) x = true ∧ hSpace x.ha ∉ [1, 4, 5] ∧ 512 ≤ hDim x.ha 0 * widthOf (hType x.ha).toNat ∧
       ((recording 0).slot 5).window.isSome = true ∧
       okAnd (writeHa (begun (served Slot.reset) x) x (List.replicate 64 0)) (fun _ => true) = true) := by
  decide +kernel

/-- Channel 1023 as local message channel, as remote one, as reduce channel, and a CPY of one block between two types. -/
theorem witness_EngineCommandsComplete_channels :
    (let x := fun (op : EOp) => { cmd op with imm := 255, low := 0x30000, ha := handle 0x50000 0 1 1 0 0, hb := handle 0x40000 0 1 1 0 0 }
     let c := fun (w : Nat) => { channel with words := channel.words.wr 0 (BitVec.ofNat 64 (1 + w + 0x100000 + 2 ^ 48)) }
     let at_ := fun (c : Chan) => withChan (paged base) c
     let starts := fun (op : EOp) (c : Chan) => ready (at_ c) (x op) && (chanStart (begun (at_ c) (x op)) (x op) (some c)).isNone
       && decide (c.elems ≠ 0) && !olderChan (begun (at_ c) (x op)) (x op)
     let got := { c 0 with msgs := [0] }
     chanNo (x .chsend) = 1023 ∧ starts .chsend (c 0) = true ∧ (c 0).kind = 0 ∧ (c 0).msgs.length < (c 0).depth ∧
     okAnd (readTensor (begun (at_ (c 0)) (x .chsend)) (x .chsend) (x .chsend).ha) (fun xs =>
       okAnd (putMessage (tensorFlits (begun (at_ (c 0)) (x .chsend)) (x .chsend) (x .chsend).ha) 1023 (c 0)
         (toBytes 4 (ofLanes 32 xs))) fun _ => true) = true ∧
     starts .chsend (c 2) = true ∧ (c 2).kind ≠ 0 ∧
     starts .chrecv got = true ∧ okAnd (ctxRead (paged base) got.ctx (got.buf + 0 * got.size) got.bytes) (fun bs =>
       okAnd (writeTensor (begun (at_ got) (x .chrecv)) (x .chrecv) (x .chrecv).ha [leNat bs]) fun z =>
         okAnd (setFlag z got fun f => f + 1) fun _ => true) = true ∧
     starts .chred (c 6) = true ∧ (c 6).started ≤ (c 6).oldest + (c 6).depth ∧
     okAnd (readTensor (begun (at_ (c 6)) (x .chred)) (x .chred) (x .chred).hb) (fun _ => true) = true ∧
     (let r : RedRound := { k := 0, cmd := 3, sent := [5], maxima := none, result := some [5] }
      let d := { c 6 with started := 1, rounds := [r] }
      d.rounds.find? (fun r => decide (r.cmd = 3)) = some r ∧
      okAnd (writeTensor (begun (at_ d) (x .chred)) (x .chred) (x .chred).ha ((redResult d r [5]).map (·.1)))
        (fun z => okAnd (setFlag z d fun _ => 1) fun _ => true) = true) ∧
     (let y := x .cpy
      ready (paged base) y = true ∧ cpyStart y = true ∧ y.progress + 1 = cpyBlocks y ∧ hType y.ha = hType y.hb ∧ hBsm y.ha = 0 ∧
      hBsm y.hb = 0 ∧ okAnd (cpyBlock (begun (paged base) y) y 0) (fun _ => true) = true ∧
      okAnd (cmdSegs (begun (paged base) y) y y.hb 0 0x40000 4) (fun gs => okAnd (cmdSegs (begun (paged base) y) y y.ha 1 0x50000 4)
        fun _ => decide ((engBytes (begun (paged base) y) y gs).length = 4)) = true ∧
      cpyPlace y.hb (cpyRow y.hb y.sb 0) 0 1 = (0x40000, 4, 0x40004) ∧
      hType { y with hb := handle 0x40000 0 1 1 0 1 }.hb ≠ hType y.ha)) := by
  decide +kernel

/-- Slot 5 has a QVER over `d` drafts, by the largest probability, and a list of one token for each position. -/
def deciding_ (d : Nat) : State :=
  let f := ((textSlot 2 0xFFF).putNat 8 1).putNat 10 4
  withCmd (served { f with round := { Round.none with
      active := true, qver := some 3, copy := f.live, ring := if d = 1 then [65 * 2 ^ 32] else []
      lists := [(0, { toks := [(65, 1)], tail := 0 }), (1, { toks := [(66, 1)], tail := 0 })] } })
    { qver 1 with sb := BitVec.ofNat 64 d }

/-- What the QVER of `d` drafts comes to. -/
def decision (d : Nat) : Decided :=
  let s := deciding_ d
  decideFrom s (s.slot 5) 5 ([[(65, 1)], [(66, 1)]].take (d + 1)) ((s.slot 5).round.ring.take d) 0 []

/-- Decisions over one draft, which is accepted, and over none; a forced token; a row without weight; a list that is missing. -/
theorem witness_QuorumStepsComplete_decision :
    ([0, 1].all fun d =>
      let s := deciding_ d
      let x := { qver 1 with sb := BitVec.ofNat 64 d }
      decide (arrivedQvers s 5 = [x]) && decide (cmdOf s x.id = some x) && genOk s x && (s.slot 5).round.active
        && !(s.slot 5).round.cancelled && !qverBad x (s.slot 5) d
        && okAnd (qverRows s x (s.slot 5) d) (fun r => decide (r = some ([[(65, 1)], [(66, 1)]].take (d + 1))))
        && decideReady s (decideWrites s x 5 d (decision d)) x 5) = true ∧
    (decision 0).tok = some 65 ∧ (decision 1).a = 1 ∧ (decision 1).tok = some 66 ∧
    okAnd (qverRows base { qver 1 with sb := 0 } (base.slot 5) 0) (fun r => r.isNone) = true ∧
    okAnd (qverRows (deciding_ 0) { qver 1 with sb := 1 } ((deciding_ 0).slot 5) 1) (fun r => r.isNone) = true ∧
    forcedToken (some (2 ^ 65)) = some 65 ∧ forcedToken none = none ∧ probSum [] = 0 ∧ probSum [(65, 1)] ≠ 0 ∧
    ([(65, 1), (66, 1)].map (·.1)).Pairwise (· < ·) ∧ fld ((deciding_ 0).slot 5 |>.used 8) 0 2 = 1 ∧
    fld ((verifying false 1).slot 5 |>.used 8) 0 2 ≠ 1 := by decide +kernel

/-- Engine `e` holds the region in state `st`, and has the arrivals `l`. -/
def atEngine (s : State) (e : BitVec 2) (st : BitVec 3) (l : List AccMsg) : State :=
  { s with accord := { regions := (Reg.fill []).wr e [{ region with state := st }], msgs := (Reg.fill []).wr 0 l } }

/-- An ACCB of the task of cell 0, which waits for it; its descriptor takes one scalar from s1 and gives one in s2, with EN. -/
def entering (e : BitVec 2) (st : BitVec 3) (off : Bool) (word : Nat) : State :=
  let s := paged ((member 1 false false []).upd fun c => { c with wait := .accb 4 })
  atEngine { s with mem := (s.mem.storeNat 0x100 8 word).storeNat 0x118 8 256 } e st [.enter 0 0 0 0 0x100 [0] off false 8 0 0]

/-- The first word of a well-formed descriptor: EN, the input in s1, the output in s2, one hidden unit. -/
def descWord : Nat := 7 + 2 ^ 8 + 2 ^ 16 + 2 ^ 21 + 2 ^ 31 + 2 ^ 42

theorem witness_AccordStepsComplete :
    base.accord.msgs.rd 0 = [] ∧
    (let s := entering 0 3 false descWord
     s.accord.msgs.rd 0 = [.enter 0 0 0 0 0x100 [0] false false 8 0 0] ∧ cellOfTask s 0 0 = some 0 ∧ (s.cellAt 0).wait = .accb 4 ∧
     okAnd (ctxRead s 0 0x100 256) (fun bs => !malformed (parseDesc bs) 8 && (parseDesc bs).en) = true ∧
     (findRegion s 0 0x100).any (fun x => decide (x.1 = 0 ∧ x.2.state = 3)) = true ∧
     (∀ d, ∀ r ∈ s.accord.regions.rd d, r.state ≠ 0 → r.written = false)) ∧
    (let s := entering 0 1 true 0
     okAnd (ctxRead s 0 0x100 256) (fun bs => malformed (parseDesc bs) 8) = true ∧
     (findRegion s 0 0x100).any (fun x => decide (x.2.state = 1)) = true) ∧
    ((findRegion (entering 2 1 false 0) 0 0x100).any fun x => decide (x.1 = 2)) = true ∧
    ((findRegion (entering 0 0 false 0) 0 0x100).any fun x => decide (x.1 = 0 ∧ x.2.state = 0)) = true ∧
    engineFull (entering 0 0 false 0) 0 = false ∧
    failsWith (ctxRead base 0 0x100 256) (fun _ => true) = true ∧
    (let m : AccMsg := .inval 0 0 0 0 0x100
     (atEngine base 0 2 [m]).accord.msgs.rd 0 = [m]) ∧
    (let m : AccMsg := .sample 0 0 0 0 0x200 [] [] none
     (atEngine base 0 2 [m]).accord.msgs.rd 0 = [m] ∧ findRegion (atEngine base 0 2 [m]) 0 0x200 = none) ∧
    (∀ r ∈ base.accord.regions.rd 0, r.va = (0x100#64).toNat → r.state ≠ 2 ∧ r.state ≠ 4) ∧
    (let r := { region with written := true }
     (∀ d, ∀ x ∈ (watching base).accord.regions.rd d, x.written = false) ∧
       okAnd (engXlate { watching (paged base) with mem := (paged base).mem.store 0x17F [0] } r.ctx r.va 0) (fun pa =>
         decide (pa = 0x100)) = true ∧ 0x17F < 0x100 + 128 ∧ 0x100 < 0x17F + [0#8].length ∧
       ((watching (paged base)).store 0x17F [0]).accord.regions.rd 0 = [r] ∧
       okAnd (ctxWrite (watching (paged base)) 0 0x100 [1]) (fun t => decide (t.accord.regions.rd 0 = [r])) = true ∧
       (ctxTry (watching (paged base)) 0 0 0x100 [1]).accord.regions.rd 0 = [region] ∧
       (ctxTry (watching (paged base)) 1 0 0x100 [1]).accord.regions.rd 0 = [r]) ∧
    (atEngine base 0 2 []).accord.regions.rd 0 = [] ++ region :: [] ∧ region.va = (0x100#64).toNat ∧ region.state = 2 := by
  decide +kernel

/-! ### Witnesses: ordered accesses, domain pages, and what else holds a word -/

/-- An access of an earlier bundle of cell 0 is under way: an ordered load, or a store. -/
def underWay (store : Bool) (s : State) : State := s.upd fun c => { c with pipe := { c.pipe with
  accs := [{ id := 7, tag := none, lands := [], write := store, pa := placedPage, dom := false, slot := 1, age := 1, ord := !store }] } }

/-- Page 1 of context 0 lies in package 1, which is a member of the domain; `dom` makes it a domain page. -/
def onPeer (dom : Bool) (flits : List (BitVec 128)) : State :=
  let s := base.upd fun c => { c with tlb :=
    { ctx := 0, level := 3, va := 1, pte := BitVec.ofNat 64 ((if dom then 2 ^ 63 else 0) + 3 * 2 ^ 52 + 2 ^ 44 + 0x79) } :: c.tlb }
  { s with pd := { s.pd with state := 2, members := [0, 1], flits := flits } }

/-- The cell of that state has asked for bytes of the page. -/
def askedPeer (flits : List (BitVec 128)) : State :=
  let s := (onPeer true flits).upd fun c => { c with pipe := { c.pipe with asked := some (.poll 3) } }
  { s with pd := { s.pd with asks := [{ by_ := .poll 3, owed := [1], got := [] }] } }

/-- A response of package 1. -/
def response1 : BitVec 128 := BitVec.ofNat 128 (1 + 3 * 2 ^ 36)

/-- What a load before its bundle comes to: 0 ready, 1 sent, 2 waits. -/
def loadIs : HomeLoad → Nat
  | .ready _ => 0
  | .sent _ => 1
  | .waits => 2

/-- What the load of WAIT and of ACCB comes to at the first address of that page. -/
def polls (s : State) (k : Nat) : Bool :=
  okAnd (resolve s 0x10000 0 0 8 0) (fun r => decide (loadIs (homeLoad r.2.2 0 (domainPage r.2.2 0 0x10000) r.2.1) = k))
    && okAnd (descAccess s 0x10000) fun r => decide (loadIs (homeLoad r.2 0 (domainPage r.2 0 0x10000) r.1) = k)

/-- Polls of this package, of a peer, and of a domain page before its flit, before its response and with it; a fused member that
holds the value of its poll, and one whose time is over. -/
theorem witness_OrderingWordsComplete_polls :
    polls base 0 = false ∧ polls (onPeer false []) 0 = true ∧ polls (onPeer true []) 1 = true ∧ polls (askedPeer []) 2 = true ∧
    polls (askedPeer [response1]) 0 = true ∧ orderWaits (underWay false base).cell = true ∧ orderWaits base.cell = false ∧
    orderWaits (underWay true base).cell = false ∧
    (base.upd fun c => { c with pipe := { c.pipe with got := some 5 } }).cell.pipe.got = some 5 ∧
    (let s := (member 2 true true []).upd fun c => { c with pipe := { c.pipe with expired := true } }
     s.cell.pipe.expired = true ∧ s.cell.task.fused = true ∧ s.cell.pipe.got = none) := by decide +kernel

/-- The release of a store waits at QUAD and wider for an earlier store, and for nothing at CELL. -/
theorem witness_StoresComplete_release :
    Unordered base ∧ (releaseWaits (underWay true base).cell 2 = true ∧ releaseWaits (underWay true base).cell 1 = false) ∧
    releaseWaits (underWay false base).cell 10 = false ∧ Unordered (underWay true base) ∧
    nextAnd (exec (.st (hd 1) ⟨5, 0, 0, 0, 3, 0, 2, 2, 0, 0, 8⟩) (underWay true base)) (fun t =>
      decide (t.cell.verdict = .frozen)) = true ∧
    nextAnd (exec (.st (hd 1) ⟨5, 0, 0, 0, 3, 0, 2, 1, 0, 0, 8⟩) (underWay true base)) (fun t =>
      decide (t.cell.verdict = .issued)) = true := by
  unfold Unordered
  decide +kernel

/-- A load of 32 bits issues behind a store and not behind an ordered access; a handle from the scratchpad. -/
theorem witness_LoadsComplete_order :
    nextAnd (exec (.ld (hd 1) ⟨5, 0, 0, 0, 2, 0, 0, 0, 0, 0, 8⟩) (underWay true base)) (fun t => decide (t.cell.verdict = .issued)) = true ∧
    nextAnd (exec (.ld (hd 1) ⟨5, 0, 0, 0, 2, 0, 0, 0, 0, 0, 8⟩) (underWay false base)) (fun t => decide (t.cell.verdict = .frozen)) = true ∧
    okAnd (resolve base 32 1 0 32 0) (fun r => decide (r.1 = .pad) && !padBusy base.cell r.2.1 32 false) = true ∧
    nextAnd (exec (.hld (hd 1) ⟨3, 0, 0, 0, 0, 0, 0, 0, 0, 1, 32⟩) base) (fun t =>
      decide (t.cell.pipe.accs.length = 1) && (Cell.ticks 5 t.cell).pipe.accs.length == 1 && (Cell.ticks 6 t.cell).pipe.accs.isEmpty) = true := by
  decide +kernel

/-- An atomic release behind a store, and an acquire beside it; an engine command behind an ordered access. -/
theorem witness_AtomicsComplete_release :
    (2 ≤ (2#2).toNat ∧ releaseWaits (underWay true base).cell 10 = true) ∧ ¬ 2 ≤ (1#2).toNat ∧
    nextAnd (exec (.amo (hd 1) ⟨1, 2, 0, 0, 0, 0, 0, 1, 2, 2, 0⟩) (underWay true base)) (fun t =>
      decide (t.cell.verdict = .frozen)) = true ∧
    nextAnd (exec (.cas (hd 1) ⟨1, 2, 3, 0, 0, 0, 0, 0, 1, 2, 0⟩) (underWay true base)) (fun t =>
      decide (t.cell.verdict = .issued)) = true ∧
    nextAnd (exec (.bget (tg 5 3) ⟨0, 0, 5, 6, 24, 0, 0⟩) (underWay false base)) (fun t => decide (t.cell.verdict = .frozen)) = true ∧
    nextAnd (exec (.mcall (hd 4) ⟨5⟩) (underWay false matrixFull)) (fun t => decide (t.cell.verdict = .frozen)) = true := by
  decide +kernel

/-- An answered ACCB on a live cell, for both answers; a descriptor behind an ordered access. -/
theorem witness_AccordWordsComplete_answer :
    ([AccAnswer.body (opened true), .skip true 7 [1]].all fun a =>
      let s := deciding a
      let x := s.cellAt 0
      cellLive s 0 && decide (0 ∉ s.tasks.saving) && decide (x.wait = .accbDone 4 a) && !x.sup && !x.task.fused
        && x.pipe.inflight.isEmpty && x.pipe.late.isEmpty && x.pipe.accs.isEmpty && x.pipe.redirect.isNone && x.pipe.inner.isNone
        && x.pipe.outer.isNone) = true ∧
    okAnd (descAccess (underWay false (withS base 5 0x100)) 0x100) (fun _ => true) = true ∧
    okAnd (descAccess (withS base 5 0x100) 0x100) (fun r =>
      decide (findRegion r.2 base.cell.task.ctx 0x100 = none)) = true := by decide +kernel

/-- A cell that has stopped issuing for a pre-emption; jobs of this package, which send no flit. -/
theorem witness_MatrixUnitActs_stops :
    mStopped preempted 0 = true ∧ mStopped base 0 = false ∧ preempted.pd.asks = [] ∧
    (let s := oneJob (.code 9 1 (.now [List.replicate 256 3]))
     let t := unqueued s 0
     OffDomain s (drainM ((lateFlits t (.now [])).updAt 0 fun c => doCode c 1 [3]) 0)) ∧
    (let s := oneJob (.store 9 0 0 false 0 0 1 [[{ space := .pad, addr := 0, len := 4 }]])
     OffDomain s (doStore (unqueued s 0) 0 0 0 false 0 0 1 [[{ space := .pad, addr := 0, len := 4 }]]).1) := by
  unfold OffDomain
  decide +kernel

/-- A machine check pending on a live cell, in user mode and in a handler; bad data of a queued routine and of a table. -/
theorem witness_BoundaryEventsComplete_check :
    ([base, inHandler base].all fun b =>
      let s := withEvents b { Events.none with check := some 0x30008, engine := [3] }
      cellLive s 0 && decide (0 ∉ s.tasks.saving) && decide ((s.cellAt 0).wait = .none)
        && decide ((s.cellAt 0).events.check = some 0x30008)) = true ∧
    (base.cellAt 0).sup = false ∧ ((inHandler base).cellAt 0).sup = true ∧
    (let s := routineState 0xC0000044000000000000
     holdsLoad 9 (s.cellAt 0) = true ∧ (s.cellAt 0).running = true ∧
       .call 9 5 0x80010000 (List.replicate 8 0) (List.replicate 8 0) 0 none [] ∈ (s.cellAt 0).mx.queue) ∧
    (let s := oneJob (.code 9 1 (.now []))
     holdsLoad 9 (s.cellAt 0) = true ∧ ∀ j ∈ (s.cellAt 0).mx.queue, jobId j = some 9) := by decide +kernel

/-- A task whose M unit waits for the responses of a store that has begun. -/
theorem witness_SavedTasksAndServices_storing :
    (let s := oneJob (.store 9 0 0 false 0 0 1 [])
     ({ s with pd := { s.pd with asks := [{ by_ := .job 9, owed := [1], got := [] }] } }.cellAt 0).mx.queue.any
       (Machine.begun { s with pd := { s.pd with asks := [{ by_ := .job 9, owed := [1], got := [] }] } }) = true) ∧
    (preempted.cellAt 0).mx.queue.any (Machine.begun preempted) = false ∧ (preempted.cellAt 0).pipe.accs = [] ∧
    (undecided.cellAt 0).mx.queue.any (Machine.begun undecided) = false := by decide +kernel

/-- Stage 0 of a launch of single tasks in frame 0 holds one entry, and no cell runs a task. -/
def startableNow : State :=
  let s := paged { State.reset with pkg := booted State.reset.pkg }
  { s with tasks := { Tasks.reset with launches := [launch { stage 1 false with affm := 1 } [entry 1]] } }

theorem witness_DispatchStartsGangs :
    (startableNow.tasks.launches.map (·.id)).Nodup ∧ (startableNow.tasks.launches.all fun l => decide (l.stages.length ≤ 16)) = true ∧
    startableNow.tasks.saved = [] ∧ ((stagesOf startableNow false).all fun x => x.q.draining.isNone && startable startableNow x
      && !(options startableNow false x).isEmpty && decide (1 ≤ x.h.gang)) = true ∧ (stagesOf startableNow false).length = 1 ∧
    nextAnd (exec (.dispatchDecision false) startableNow) (fun t => decide (t.tasks.gangs.length = 1)) = true := by decide +kernel

/-- A seed of this package; the ranges of two members of a fused gang, of which the second waits. -/
theorem witness_LaunchStepsComplete_order :
    (let s := paged (member 1 false false [])
     OffDomain s (nextSeed 0 s)) ∧
    (let r : Range := { cell := 0, gang := 4, gmem := 1, launch := 0, stage := 0, field := 0, base := 3, next := 0, count := 3,
                        barrier := false, scope := 0 }
     let s := setRange (setRange (member 1 false false []) 0 (some r)) 1 (some { r with cell := 1, gmem := 0 })
     (rangeOf s 0).any (fun x => decide (x.gang ≠ 0 ∧ ∃ y ∈ s.tasks.ranges, y.gang = x.gang ∧ y.gmem.toNat < x.gmem.toNat)) = true ∧
     (rangeOf s 1).any (fun x => decide (¬ ∃ y ∈ s.tasks.ranges, y.gang = x.gang ∧ y.gmem.toNat < x.gmem.toNat)) = true) := by
  unfold OffDomain
  decide +kernel

/-- Commands, decisions and accord engines that send no flit to a domain page. -/
theorem witness_off_domain :
    (let x := cmd .bget
     OffDomain (setCmd (withCmd base x) { x with begun := true })
       (cmdDone (setCmd (withCmd base x) { x with begun := true }) { x with begun := true } 0 [.s 5 0])) ∧
    OffDomain (deciding_ 1) (decideWrites (deciding_ 1) { qver 1 with sb := 1 } 5 1 (decision 1)) ∧
    OffDomain (entering 0 3 false descWord) (decideHead 0 (entering 0 3 false descWord)) ∧
    (let s := atEngine base 0 2 [.sample 0 0 0 0 0x200 [] [] none]
     OffDomain s (sampleHead 0 s)) ∧
    OffDomain (atEngine base 0 2 []) (epochOf 0 { ctx := 0, va := 0x100 } (atEngine base 0 2 [])) := by
  unfold OffDomain
  decide +kernel

/-- Work that sends a flit to package 1, by an asker that has none out, and one that still waits. -/
theorem witness_DomainStepsComplete_asks :
    (let s := onPeer true []
     sentDomain s (memoryFlit s true 0 1 0 []) ≠ [] ∧ ∀ a ∈ s.pd.asks, a.by_ ≠ .cmd 3) ∧
    ((askOf (askedPeer []) (.poll 3)).owed ≠ [] ∧ (takeResponses (askOf (askedPeer []) (.poll 3)).owed (askedPeer [])).isNone = true) ∧
    (let s := onPeer true []
     let u := settleAsks { s with pd := { s.pd with asks := [{ by_ := .text 0, owed := [1], got := [] }] } }
     (u.pd.asks.any fun a => a.owed.any fun p => domainOk u p.toNat) = true) := by decide +kernel

/-- The words that a handler may not issue. -/
theorem witness_RestrictionsOfMode_words :
    ([Instr.exit (hd 0) ⟨0, 0, 0, 0, 0, 0, 0, 0⟩, .spawn (hd 0) ⟨0, 5, 0, 0, 0, 0, 0, 0⟩, .spawng (hd 0) ⟨0, 5, 6, 0, 0, 0, 0, 0⟩,
      .bar (hd 0) ⟨0, 0, 0, 0, 0, 0, 0, 0⟩, .bara (hd 0) ⟨0, 0, 0, 2, 0, 0, 1, 0⟩, .barcfg (hd 0) ⟨0, 6, 0, 0, 0, 0, 0, 0⟩,
      .carve (hd 0) ⟨0, 5, 0, 0, 0, 0, 0, 0⟩, .decpl (hd 0) ⟨0, 0, 0, 0, 0, 0, 0, 0⟩, .rejoin (hd 0) ⟨0, 0, 0, 0, 0, 0, 0, 0⟩,
      .wait (hd 0) ⟨1, 2, 3, 2, 0, 0, 0, 0⟩, .loop (hd 0) ⟨1, 0, 0, 2, 1⟩, .loopx (hd 0) ⟨0, 0, 0, 0, 0⟩, .accb (hd 0) ⟨0, 5, 4⟩,
      .acce (hd 0) ⟨0, 5, 0⟩, .accinv (hd 0) ⟨0, 5, 0, 0, 0, 0, 0, 0⟩].all fun i =>
        notInHandler i && i.check && (encode i).isSome && nextAnd (exec i (inHandler base)) fun t =>
          t.pkg.reports.any fun r => decide (r.cause = cIllegalOp)) = true ∧
    notInHandler (.add (hd 0) ⟨1, 2, 3, 0⟩) = false := by decide +kernel

/-! ### Witnesses: registers and time, restrictions, encoding, steps -/

theorem witness_RegisterFileRules : Plain (hd 0) base ∧ (inHandler base).cell.sup = true ∧ 48 ≤ (48#6).toNat ∧
    wf [.call (hd 0) ⟨0, 0, 4⟩, .calli (hd 0) ⟨0, 5, 0⟩] = true := ⟨plain_hd _ _, by decide +kernel⟩

theorem witness_ResultsLandInTime :
    (let x : InFlight := { land := .s 5 9, n := 3, slot := 0, ev := 0 }
     let c := { Cell.reset with pipe := { Pipe.reset with inflight := [x] } }
     c.pipe.inflight = [] ++ x :: [] ∧ x.land = .s 5 9 ∧ 1 ≤ x.n ∧ c.pipe.inflight = [x] ∧ x.ev = 0 ∧ c.pipe.untag = 0 ∧ (5#6 ≠ 0) ∧
       (∀ y ∈ [] ++ [] ++ c.pipe.late, scalarOf y.land ≠ some 5) ∧ c.pipe.late = []) ∧
    (let x : InFlight := { land := .s 5 9, n := 1, slot := 0, ev := 0 }
     let y := { x with land := .s 5 7, slot := 1 }
     let c := { Cell.reset with
       regs := { Regs.reset with s := Regs.reset.s.wr 5 7 }, pipe := { Pipe.reset with inflight := [x], late := [y] } }
     x.n = 1 ∧ c.pipe.late = [y] ∧ y.land = .s 5 7 ∧ c.regs.s.rd 5 = 7 ∧ x.slot.toNat < y.slot.toNat ∧
       { y with slot := 0 }.slot.toNat < { x with slot := 5 }.slot.toNat) := by
  decide +kernel

/-- A word that waits for tag 1, a vector word in a handler, and TRET in user mode. -/
theorem witness_RestrictionsOfMode :
    (let i : Instr := .add { hd 0 with cmk := 2 } ⟨1, 2, 3, 0⟩
     i.check = true ∧ (encode i).any (fun w => decide (loading.cell.pipe.pend &&& (Header.parse w).cmk ≠ 0)) = true) ∧
    (let i : Instr := .vadd (hd 3) ⟨0, 1, 2, 0, 0, 0, 0, 0, 0, 0, 0, 0, 0, 0⟩
     i.check = true ∧ (encode i).any (fun w => decide ((inHandler base).cell.pipe.pend &&& (Header.parse w).cmk = 0)
       && decide (3 ≤ (Header.parse w).slot.toNat)) = true) ∧
    (inHandler base).cell.sup = true ∧ (inHandler base).core = false ∧
    (let i : Instr := .tret (hd 0) ⟨0, 0, 0, 0, 0, 0, 0, 0⟩
     i.check = true ∧ (encode i).isSome = true) ∧ base.cell.sup = false := by decide +kernel

theorem witness_EncodingRoundTrip : (Instr.mla (hd 4) ⟨3, 15, 15, 511, 1, 15, 0, 0⟩).WellFormed ∧
    (encode (.mla (hd 4) ⟨3, 15, 15, 511, 1, 15, 0, 0⟩)).isSome = true := by decide +kernel

theorem witness_DecodingIsExact : (decode 0x80000014310510000000).toOption = some (.div (hd 0) ⟨3, 4, 5, 1⟩) := by decide +kernel

theorem witness_StepsKeepMemoryCanonical : base.Canonical ∧ nextAnd (step base) (fun t => t.mem.wf && t.staging.wf) = true :=
  ⟨by unfold State.Canonical; decide +kernel, by decide +kernel⟩

/-- The cell of a state fetches a bundle in which `w` is still to issue, and `p` holds of the machine in which it issues as `i` and
of the one that it leaves. -/
def runs (s : State) (w : BitVec 80) (i : Instr) (p : State → State → Bool) : Bool :=
  let c := s.cur
  let s1 := { drainM (issueCycle (clockStep s) c) c with cur := c }
  let pc := (s1.cellAt c).pipe.pc
  (pendingEvent s1 c).isNone && okAnd (bundleWords c (2 ^ 32) s1 pc) fun r =>
    let s3 := spendPd r.2 c (Header.parse w).pd.toNat
    let held := updPipe s3 c fun p => { p with seq := pc + BitVec.ofNat 32 r.1.length }
    decide (w ∈ r.1) && (bundleForm r.1 pc).isNone && decide (toIssue (r.2.cellAt c) (r.1.map formWord) = [formWord w])
      && (pendingEvent s3 c).isNone && !bundleWaits (s3.cellAt c) [formWord w] && nextAnd (exec i held) (p held)

theorem runs_spec {s : State} {w : BitVec 80} {i : Instr} {p : State → State → Bool} (h : runs s w i p = true) : ∃ held t,
    Fetched (clockStep s) s.cur w held ∧ exec i held = .next t ∧ p held t = true := by
  simp only [runs, Bool.and_eq_true, Option.isNone_iff_eq_none] at h
  obtain ⟨quiet, h⟩ := h
  revert h
  generalize fetched : bundleWords s.cur (2 ^ 32) _ _ = r
  cases r with
  | error _ => intro h; cases h
  | ok r =>
    intro h
    simp only [okAnd, Bool.and_eq_true, decide_eq_true_eq, Option.isNone_iff_eq_none, Bool.not_eq_true'] at h
    obtain ⟨⟨⟨⟨⟨mine, form⟩, due⟩, still⟩, free⟩, ran⟩ := h
    revert ran
    generalize its : updPipe _ s.cur _ = held
    cases done : exec i held with
    | next t => exact fun ran => ⟨held, t, ⟨r.1, r.2, quiet, fetched, mine, form, due, still, free, its.symm⟩, done, ran⟩
    | _ => intro ran; cases ran

/-- The word ends with verdict `v`, its cell still running. -/
def endsIn (v : Verdict) (_ t : State) : Bool :=
  decide (t.cell.verdict = v) && t.cell.running && decide (t.cur = 0) && decide (t.cell.pipe.inflight.length ≤ Config.flightMax)

/-- A word placed as the cell's next bundle. -/
def placed (w : Nat) : State := base.withFetchWord 80 w

/-- ADD issues, TRET in user mode traps, and a FENCE that waits for a load does not issue. -/
theorem witness_StepRunsTheDecodedWord :
    (let s := placed 0x800008044080FFFFFFF8
     s.agenda = [] ∧ Alone (clockStep s) s.cur ∧
     runs s 0x800008044080FFFFFFF8 (.addImm (hd 0) ⟨4, 2, 0, 0xFFFFFFF8⟩) (endsIn .issued) = true ∧
     (decode 0x800008044080FFFFFFF8).toOption = some (.addImm (hd 0) ⟨4, 2, 0, 0xFFFFFFF8⟩)) ∧
    (let s := placed 0x80000314000000000000
     s.agenda = [] ∧ Alone (clockStep s) s.cur ∧
     runs s 0x80000314000000000000 (.tret (hd 0) ⟨0, 0, 0, 0, 0, 0, 0, 0⟩) (endsIn .trapped) = true ∧
     (decode 0x80000314000000000000).toOption = some (.tret (hd 0) ⟨0, 0, 0, 0, 0, 0, 0, 0⟩)) ∧
    (let s := (placed 0x80000220000000000000).upd fun c => { c with pipe := { c.pipe with accs := loading.cell.pipe.accs } }
     s.agenda = [] ∧ Alone (clockStep s) s.cur ∧
     runs s 0x80000220000000000000 (.fence (hd 0) ⟨0, 0, 0, 0, 0, 0, 0, 0⟩) (endsIn .frozen) = true ∧
     (decode 0x80000220000000000000).toOption = some (.fence (hd 0) ⟨0, 0, 0, 0, 0, 0, 0, 0⟩)) := by
  unfold Alone
  decide +kernel

/-- Words placed as the cell's next bundle. -/
def bundle (s : State) (ws : List (BitVec 80)) : State :=
  let t := s.withFetchWord 80 0
  { t with mem := t.mem.store placedPage (ws.flatMap fun w => toBytes 10 w.toNat) }

/-- The cell of a state fetches the bundle, and the machine in which its words are tried meets `p`. -/
def bundled (s : State) (ws : List (BitVec 80)) (p : State → Bool) : Bool :=
  let c := s.cur
  let s1 := { drainM (issueCycle (clockStep s) c) c with cur := c }
  let pc := (s1.cellAt c).pipe.pc
  (pendingEvent s1 c).isNone && okAnd (bundleWords c (2 ^ 32) s1 pc) fun r =>
    let spent := spendPd r.2 c (bundlePd (ws.map formWord))
    decide (r.1 = ws) && decide (toIssue (r.2.cellAt c) (ws.map formWord) = ws.map formWord) && (pendingEvent spent c).isNone && !bundleWaits (spent.cellAt c) (ws.map formWord)
      && decide (spent.cur = c) && decide ((spent.cellAt c).pipe.pc = pc)
      && p (updPipe spent c fun q => { q with seq := pc + BitVec.ofNat 32 ws.length })

theorem bundled_spec {s : State} {ws : List (BitVec 80)} {p : State → Bool} (h : bundled s ws p = true) : ∃ pc spent,
    FetchedBundle (clockStep s) s.cur ws pc spent ∧ spent.cur = s.cur ∧ (spent.cellAt s.cur).pipe.pc = pc ∧
      p (updPipe spent s.cur fun q => { q with seq := pc + BitVec.ofNat 32 ws.length }) = true := by
  simp only [bundled, Bool.and_eq_true, Option.isNone_iff_eq_none] at h
  obtain ⟨none_, h⟩ := h
  revert h
  generalize fetched : bundleWords s.cur (2 ^ 32) _ _ = r
  cases r with
  | error _ => intro h; cases h
  | ok r =>
    intro h
    simp only [okAnd, Bool.and_eq_true, decide_eq_true_eq, Option.isNone_iff_eq_none, Bool.not_eq_true'] at h
    obtain ⟨⟨⟨⟨⟨⟨rfl, due⟩, quiet⟩, free⟩, cur⟩, at_⟩, tried⟩ := h
    exact ⟨_, _, ⟨r.2, none_, rfl, fetched, due, rfl, quiet, free⟩, cur, at_, tried⟩

/-- A word's attempt ends with the verdict. -/
def tries (v : Verdict) (held : State) (w : BitVec 80) : Bool :=
  match decode w with
  | .ok i => nextAnd (exec i held) fun t => decide (t.cell.verdict = v)
  | .error _ => false

/-- The words issue in order and leave this machine. -/
def inOrder (pend : BitVec 8) : List (BitVec 80) → BitVec 8 → State → Option State
  | [], alloc, s => some (updPipe s s.cur fun p => { p with pend := pend ||| alloc })
  | w :: r, alloc, s =>
    match decode w with
    | .error _ => none
    | .ok i =>
      match exec i (updPipe s s.cur fun p => { p with pend := pend }) with
      | .next u => if u.cell.verdict = .issued then inOrder pend r (alloc ||| (u.cell.pipe.pend &&& ~~~pend)) u else none
      | _ => none

theorem inOrder_spec {pend alloc : BitVec 8} {ws : List (BitVec 80)} {s t : State} (h : inOrder pend ws alloc s = some t) :
    ∃ is, ws.map decode = is.map .ok ∧ InOrder pend is alloc s t := by
  induction ws generalizing alloc s with
  | nil => exact ⟨[], rfl, (Option.some.inj h).symm⟩
  | cons w r ih =>
    unfold inOrder at h
    split at h
    · cases h
    · rename_i i decoded
      split at h
      · rename_i u ran
        split at h
        · rename_i issued_
          obtain ⟨is, same, rest⟩ := ih h
          exact ⟨i :: is, by rw [List.map_cons, List.map_cons, decoded, same], u, ran, issued_, rest⟩
        · cases h
      · cases h

/-- ADD without EB, and NOP of the last slot with it. -/
def addOpen : BitVec 80 := 0x000008044080FFFFFFF8
def nopLast : BitVec 80 := BitVec.ofNat 80 (13 * 2 ^ 76)

/-- The word of an instruction without EB. -/
def openWord (i : Instr) : BitVec 80 := (encode i).getD 0 &&& ~~~((1 : BitVec 80) <<< 79)

/-- A bundle of a word and NOP: the word's attempt ends with `v`, NOP could issue. -/
def pairs (s : State) (v : Verdict) (w : BitVec 80) : Bool :=
  bundled s [w, nopLast] fun held => tries v held w && tries .issued held nopLast

/-- Bundles of two words: both issue; one traps, waits, polls, needs an idle cycle. -/
theorem witness_StepRunsTheDecodedWord_bundle :
    bundled (bundle base [addOpen, nopLast]) [addOpen, nopLast] (fun held => tries .issued held addOpen
      && tries .issued held nopLast && (inOrder held.cell.pipe.pend [addOpen, nopLast] 0 held).any fun t =>
        t.cell.running && decide (t.cur = 0) && decide (t.cell.pipe.inflight.length ≤ Config.flightMax)) = true ∧
    (let w := openWord (.tret (hd 0) ⟨0, 0, 0, 0, 0, 0, 0, 0⟩)
     let handler := (bundle base [w, nopLast]).upd fun c =>
       { c with tr := { c.tr with status := 1 }, pipe := { c.pipe with inflight := inFlight (hd 0) 9 0 [.s 1 5] } }
     pairs (bundle base [w, nopLast]) .trapped w = true ∧ pairs handler .idle w = true) ∧
    (let w := openWord (.fence (hd 0) ⟨0, 0, 0, 0, 0, 0, 0, 0⟩)
     pairs ((bundle base [w, nopLast]).upd fun c => { c with pipe := { c.pipe with accs := loading.cell.pipe.accs } }) .frozen w
       = true) ∧
    (let w := openWord (.wait (hd 0) ⟨1, 5, 3, 2, 0, 0, 0, 0⟩)
     pairs (withS (bundle base [w, nopLast]) 5 0xFFF8) .polled w = true) ∧
    (tagsOf [addOpen, nopLast]).Nodup ∧ ([addOpen, nopLast].map fun w => (Header.parse w).slot.toNat) = [0, 5] := by
  decide +kernel

/-- An EXIT alone and beside NOP, and the ACCB of a bundle whose NOP has issued. -/
theorem witness_StepRunsTheDecodedWord_ends :
    (let w := (encode (.exit (hd 0) ⟨0, 0, 0, 0, 0, 0, 0, 0⟩)).getD 0
     let s := (member 1 false false []).withFetchWord 80 w.toNat
     s.agenda = [] ∧ Alone (clockStep s) s.cur ∧ runs s w (.exit (hd 0) ⟨0, 0, 0, 0, 0, 0, 0, 0⟩) (fun held t =>
       decide (t.cell.verdict = .issued) && !(exited held 0).cell.running) = true) ∧
    (let w := openWord (.exit (hd 0) ⟨0, 0, 0, 0, 0, 0, 0, 0⟩)
     bundled (bundle (member 1 false false []) [w, nopLast]) [w, nopLast] (fun held => tries .issued held w
       && tries .issued held nopLast && (inOrder held.cell.pipe.pend [nopLast] 0 held).any fun u =>
         decide (u.cur = 0) && !(exited u 0).cell.running) = true) ∧
    (let w := openWord (.accb (hd 0) ⟨0, 5, 4⟩)
     let s := withS (bundle base [w, nopLast]) 5 0x1000 |>.upd fun c => { c with pipe := { c.pipe with rest := some 0 } }
     runs s w (.accb { hd 0 with eb := 0 } ⟨0, 5, 4⟩) (endsIn .issued) = true) := by
  unfold Alone
  decide +kernel

/-- Bundles that break a rule: slots 0 and 0, slots 0 and 6, one tag allocated twice, a word of an opcode that there is not. -/
theorem witness_StepRunsTheDecodedWord_form :
    bundled (bundle base [addOpen, addOpen ||| (1 : BitVec 80) <<< 79]) [addOpen, addOpen ||| (1 : BitVec 80) <<< 79] (fun _ => true) = true ∧
    ([addOpen, addOpen ||| (1 : BitVec 80) <<< 79].map fun w => (Header.parse w).slot.toNat) = [0, 0] ∧
    bundled (bundle base [addOpen, 14 * 2 ^ 76]) [addOpen, 14 * 2 ^ 76] (fun _ => true) = true ∧
    ([addOpen, 14 * 2 ^ 76].map fun w => (Header.parse w).slot.toNat) = [0, 6] ∧
    (let o : AM := ⟨5, 0, 0, 0, 3, 1, 0, 0, 0, 0, 8⟩
     let l := openWord (.ld (tg 1 1) o)
     let w := (encode (.ld (tg 2 1) o)).getD 0
     bundled (bundle base [l, w]) [l, w] (fun held => tries .issued held l && tries .issued held w) = true ∧
     (tagsOf [l]).Nodup ∧ ¬ (tagsOf [l, w]).Nodup ∧ ([l, w].map fun w => (Header.parse w).slot.toNat) = [1, 2]) ∧
    (let w : BitVec 80 := 0xFFF000000000
     bundled (bundle base [w, nopLast]) [w, nopLast] (fun _ => true) = true ∧ (decode w).toOption = none) := by
  decide +kernel

end Sys2Proof.Tests
end

section
/-! PROOF of O60, part 1: what it means that a result keeps both memories canonical, and the updates that touch neither
memory. -/

namespace Sys2Proof.Machine

/-! ### Results that keep the form -/

/-- A branch is canonical where both of its sides are. -/
theorem State.Canonical.ite {p : Prop} [Decidable p] {a b : State} (ha : a.Canonical) (hb : b.Canonical) :
    (if p then a else b).Canonical := by
  split
  · exact ha
  · exact hb

/-- The next state of an outcome, where it has one, is canonical. -/
def Keeps : Host.Outcome State Fault Refusal → Prop
  | .next t => t.Canonical
  | _ => True

theorem Keeps.next {o : Host.Outcome State Fault Refusal} {t : State} (k : Keeps o) (e : o = .next t) : t.Canonical := by
  subst e
  exact k

theorem Keeps.ite {p : Prop} [Decidable p] {a b : Host.Outcome State Fault Refusal} (ha : Keeps a) (hb : Keeps b) :
    Keeps (if p then a else b) := by
  split
  · exact ha
  · exact hb

/-- The machine that the issue of a word leaves, where it leaves one, is canonical. -/
def Issue.Keeps : Issue → Prop
  | .go s => s.Canonical
  | .poll s => s.Canonical
  | _ => True

theorem Issue.Keeps.leaves {r : Issue} (k : r.Keeps) (u : State) (e : r.leaves = some u) : u.Canonical := by
  cases r with
  | go s => cases e; exact k
  | poll s => cases e; exact k
  | _ => cases e

theorem Issue.Keeps.ite {p : Prop} [Decidable p] {a b : Issue} (ha : a.Keeps) (hb : b.Keeps) :
    (if p then a else b).Keeps := by
  split
  · exact ha
  · exact hb

/-- The wait for an ordered access leaves no machine of its own. -/
theorem orderedIssue_keeps {r : Issue} (k : r.Keeps) {c : Cell} : (orderedIssue c r).Keeps := by
  cases r with
  | go s => exact .ite trivial k
  | _ => exact k

theorem issueWord_keeps {s : State} (hs : s.Canonical) {body : Cell → Issue} (hb : (body s.cell).Keeps) {h : Header}
    {legal handler priv tags : Bool} : Keeps (issueWord h legal handler priv tags s body) := by
  obtain ⟨t, e⟩ := issueWord_next h legal handler priv tags s body
  rw [e]
  exact issueWord_canonical hs hb.leaves e

theorem issueResults_keeps {s : State} (hs : s.Canonical) {h : Header} {legal handler : Bool} {lands : Cell → List Land}
    {n : Nat} {ev : BitVec 8} : Keeps (issueResults h legal handler s lands n ev) :=
  issueWord_keeps hs (by exact hs.push _)

/-- What an attempt to issue a bundle leaves is canonical. -/
def Attempt.Keeps : Attempt → Prop
  | .ready s _ => s.Canonical
  | .event s => s.Canonical
  | .trapped s => s.Canonical
  | .frozen s => s.Canonical
  | .idle s => s.Canonical
  | .stop o => Machine.Keeps o

/-! ### Updates that touch neither memory -/

section
variable {s : State} (h : s.Canonical)
include h

theorem State.Canonical.with_cur {c : BitVec 9} : State.Canonical { s with cur := c } := h

theorem State.Canonical.with_pkg {p : Package} : State.Canonical { s with pkg := p } := h

theorem State.Canonical.with_response {r : List Byte} : State.Canonical { s with response := r } := h

theorem State.Canonical.with_tasks {k : Tasks} : State.Canonical { s with tasks := k } := h

theorem setCell_canonical {c : BitVec 9} {x : Cell} : (s.setCell c x).Canonical := h

theorem setGang_canonical {g : Gang} : (setGang s g).Canonical := h

theorem dropHeld_canonical {gang : Nat} {gmem : BitVec 6} : (dropHeld s gang gmem).Canonical := h

theorem State.Canonical.mark {c : BitVec 9} {v : Verdict} : (s.mark c v).Canonical := h

theorem State.Canonical.jump {t : BitVec 32} : (s.jump t).Canonical := h

theorem State.Canonical.startLoop {level : BitVec 1} {l : LoopSt} : (s.startLoop level l).Canonical := h

theorem State.Canonical.updSlot {i : Nat} {f : Slot → Slot} : (s.updSlot i f).Canonical := h

theorem dropAsk_canonical {k : Asker} : (dropAsk s k).Canonical := h

theorem padLoad_canonical {x : Header} {land : Land} {n : Nat} : (padLoad s x land n).Canonical := h

theorem setLaunch_canonical {l : Launch} : (setLaunch s l).Canonical := h

theorem setRange_canonical {c : BitVec 9} {r : Option Range} : (setRange s c r).Canonical := h

theorem setCmd_canonical {x : Cmd} : (setCmd s x).Canonical := h

theorem dropCmd_canonical {id : Nat} : (dropCmd s id).Canonical := h

theorem launchCmd_canonical {x : Cmd} : (launchCmd s x).Canonical := h

theorem setChan_canonical {ch : Nat} {x : Chan} : (setChan s ch x).Canonical := h

theorem dropBad_canonical : (dropBad s).Canonical := h

theorem dropUnmatched_canonical : (dropUnmatched s).Canonical := h

theorem countStale_canonical : (countStale s).Canonical := h

theorem sendAccord_canonical {e : BitVec 2} {m : AccMsg} : (sendAccord s e m).Canonical := h

theorem dropMsg_canonical {e : BitVec 2} : (dropMsg s e).Canonical := h

theorem writeFpreq_canonical {ci : BitVec 9} {v : Word} : (writeFpreq s ci v).Canonical := h

theorem writeFclk_canonical {v : Word} : (writeFclk s v).Canonical := h

theorem setQueue_canonical {q : BitVec 3} {f : LaunchQueue → LaunchQueue} : (setQueue s q f).Canonical := h

theorem cxDone_canonical {reason : Nat} : (cxDone s reason).Canonical := h

theorem textDone_canonical {reason : Nat} : (textDone s reason).Canonical := h

theorem pdTaken_canonical : (pdTaken s).Canonical := h

theorem raiseAlarm_canonical {level source : Nat} : (raiseAlarm s level source).Canonical := h

theorem quarantine_canonical {pages : List Freed} : (quarantine s pages).Canonical := h

theorem dropSaved_canonical {y : Saved} : (dropSaved s y).Canonical := h

theorem awaitArea_canonical {c : BitVec 9} : (awaitArea s c).Canonical := h

theorem carveSaved_canonical {gang : Nat} {n : BitVec 4} {v : BitVec 12} : (carveSaved s gang n v).Canonical := h

theorem markVictim_canonical {c : BitVec 9} : (markVictim s c).Canonical := h

theorem bindQver_canonical {slot id : Nat} : (bindQver s slot id).Canonical := h

theorem startRound_canonical {slot : Nat} : (startRound s slot).Canonical := h

theorem streamFault_canonical {slot : Nat} : (streamFault s slot).Canonical := h

theorem updEvents_canonical {c : BitVec 9} {f : Events → Events} : (updEvents s c f).Canonical := h

theorem updPipe_canonical {c : BitVec 9} {f : Pipe → Pipe} : (updPipe s c f).Canonical := h

theorem clockStep_canonical : (clockStep s).Canonical := h

end

end Sys2Proof.Machine
end

section
/-! PROOF of O60, part 2: the operations that cells share: time, loads from their homes, fetch, tasks, control registers. -/

namespace Sys2Proof.Machine

variable {s : State} (h : s.Canonical)

/-! ### Time and the end of a task -/

section
include h

theorem drainFlight_canonical {n : Nat} {c : BitVec 9} : (drainFlight n s c).Canonical := by
  induction n generalizing s with
  | zero => exact h
  | succ n ih => exact .ite h (ih (h.tickAt c))

theorem ticks_canonical {n : Nat} {c : BitVec 9} : (ticks n s c).Canonical := by
  induction n generalizing s with
  | zero => exact h
  | succ n ih => exact ih (h.tickAt c)

theorem spendPd_canonical {c : BitVec 9} {n : Nat} : (spendPd s c n).Canonical := updPipe_canonical (ticks_canonical h)

theorem issueCycle_canonical {c : BitVec 9} : (issueCycle s c).Canonical := .ite (h.updAt _ _) (h.tickAt c)

theorem exitTask_canonical {ci : BitVec 9} : (exitTask s ci).Canonical :=
  endTask_canonical ((drainFlight_canonical h).updAt _ _) ci

theorem putCounted_canonical {ci : BitVec 9} {r : Cell × Bool} : (putCounted s ci r).Canonical :=
  .ite (State.Canonical.numericReport (setCell_canonical h) ci) (setCell_canonical h)

theorem drainM_canonical {ci : BitVec 9} : (drainM s ci).Canonical := .ite h (putCounted_canonical h)

/-! ### Loads from their homes -/

theorem asking_canonical {k : Asker} {s0 : State} : (asking k s0 s).Canonical := .ite h (setAsk_canonical h _)

theorem askLoad_canonical {c : BitVec 9} {k : Asker} {pa : Nat} : (askLoad s c k pa).Canonical :=
  have sent := memoryFlit_canonical h true 0 (peerOf pa) pa []
  setAsk_canonical sent { by_ := k, owed := [BitVec.ofNat 16 (peerOf pa)], got := [] }

theorem askLine_canonical {c : BitVec 9} {t : Trap} : (askLine s c t).Canonical := .ite (askLoad_canonical h) h

theorem takeResponse_canonical {a : Access} {t : State} (e : takeResponse s a = some t) : t.Canonical := by
  unfold takeResponse at e
  split at e
  · exact takeFlits_canonical h e
  · cases e
    exact h

theorem takeAsked_canonical {c : BitVec 9} {wanted : Asker → Bool} {t : State} (e : takeAsked s c wanted = some t) :
    t.Canonical := by
  unfold takeAsked at e
  split at e
  · cases e
  · dsimp only at e
    split at e
    · cases e
    · obtain ⟨u, hu, rfl⟩ := Option.map_eq_some_iff.1 e
      exact (dropAsk_canonical (takeResponses_canonical h hu)).updAt _ _

/-- A translation keeps both memories. -/
theorem xlate_canonical {ci : BitVec 9} {va : Word} {kind pa : Nat} {t : State} (e : xlate s ci va kind = .ok (pa, t)) :
    t.Canonical := h.of_eq (xlate_memory e).1 (xlate_memory e).2

theorem resolve_canonical {ea : Word} {space slice size kind : Nat} {sp : Space} {a : Nat} {t : State}
    (e : resolve s ea space slice size kind = .ok (sp, a, t)) : t.Canonical := by
  unfold resolve at e
  dsimp only at e
  split_ifs at e
  · cases e
    exact h
  · cases e
    exact h
  · split at e
    · cases e
    · next x => cases e; exact xlate_canonical h x

theorem descAccess_canonical {va : Word} {pa : Nat} {t : State} (e : descAccess s va = .ok (pa, t)) : t.Canonical := by
  unfold descAccess at e
  split at e
  · cases e
  · split at e
    · cases e
    · next x =>
      split at e
      · cases e
      · next y => cases e; exact xlate_canonical (xlate_canonical h x) y

/-! ### Fetch -/

theorem codeLine_canonical {ci : BitVec 9} {pa : Nat} {dom : Bool} {l : Line} {t : State}
    (e : codeLine s ci pa dom = .ok (l, t)) : t.Canonical := by
  unfold codeLine at e
  dsimp only at e
  split at e
  · cases e
    exact h
  · split at e
    · split at e
      · split at e
        · cases e
        · next a => cases e; exact (takeAsked_canonical h a).updAt _ _
      · cases e
        exact (memoryFlit_canonical h _ _ _ _ _).updAt _ _
    · cases e
      exact h.updAt _ _

theorem fetchPiece_canonical {ci : BitVec 9} {va n : Nat} {bs : List Byte} {t : State}
    (e : fetchPiece s ci va n = .ok (bs, t)) : t.Canonical := by
  unfold fetchPiece at e
  split at e
  · cases e
  · next x =>
    split at e
    · cases e
    · next y => cases e; exact codeLine_canonical (xlate_canonical h x) y

theorem fetchBytes_canonical {ci : BitVec 9} {i : BitVec 32} {bs : List Byte} {t : State}
    (e : fetchBytes s ci i = .ok (bs, t)) : t.Canonical := by
  unfold fetchBytes at e
  dsimp only at e
  split at e
  · exact fetchPiece_canonical h e
  · split at e
    · cases e
    · next x =>
      split at e
      · cases e
      · next y => cases e; exact fetchPiece_canonical (fetchPiece_canonical h x) y

theorem fetchWord_canonical {ci : BitVec 9} {i : BitVec 32} {w : BitVec 80} {t : State}
    (e : fetchWord s ci i = .ok (w, t)) : t.Canonical := by
  unfold fetchWord at e
  split at e
  · cases e
  · next x => cases e; exact fetchBytes_canonical h x

theorem bundleWords_canonical {ci : BitVec 9} {n : Nat} {i : BitVec 32} {ws : List (BitVec 80)} {t : State}
    (e : bundleWords ci n s i = .ok (ws, t)) : t.Canonical := by
  induction n generalizing s i ws with
  | zero => cases e; exact h
  | succ n ih =>
    unfold bundleWords at e
    split at e
    · cases e
    · next x =>
      have h1 := fetchWord_canonical h x
      split at e
      · cases e
        exact h1
      · split at e
        · cases e
        · next y => cases e; exact ih h1 y

theorem afterBundle_canonical {ci : BitVec 9} {n : Nat} {i j : BitVec 32} {t : State}
    (e : afterBundle ci n s i = .ok (j, t)) : t.Canonical := by
  induction n generalizing s i with
  | zero => cases e; exact h
  | succ n ih =>
    unfold afterBundle at e
    split at e
    · cases e
    · next x =>
      have h1 := fetchWord_canonical h x
      split at e
      · cases e
        exact h1
      · exact ih h1 e

theorem nthBundle_canonical {ci : BitVec 9} {n : Nat} {i j : BitVec 32} {t : State}
    (e : nthBundle ci n s i = .ok (j, t)) : t.Canonical := by
  induction n generalizing s i with
  | zero => cases e; exact h
  | succ n ih =>
    unfold nthBundle at e
    split at e
    · cases e
      exact h
    · split at e
      · cases e
      · next x => exact ih (afterBundle_canonical h x) e

theorem fetchFails_keeps {t : Trap} : (fetchFails s t).Keeps := .ite (askLine_canonical h) trivial

/-! ### Tasks and gangs -/

theorem setStage_canonical {launch : Nat} {stage : BitVec 4} {x : StageSt} : (setStage s launch stage x).Canonical := by
  unfold setStage
  split
  · exact h
  · exact setLaunch_canonical h

theorem enqueue_canonical {launch : Nat} {stage : BitVec 4} {e : QEntry} : (enqueue s launch stage e).Canonical := by
  unfold enqueue
  split
  · exact h
  · exact setStage_canonical h

theorem arrive_canonical {n : BitVec 4} {a : Arrival} : (arrive s n a).Canonical := by
  unfold arrive
  split
  · exact h
  · exact setGang_canonical h

/-! ### Control registers -/

theorem resumeHeld_canonical {ci : BitVec 9} : (resumeHeld s ci).Canonical := by
  unfold resumeHeld
  split
  · exact h
  · exact setCmd_canonical h

theorem abandonHeld_canonical {ci : BitVec 9} : (abandonHeld s ci).Canonical := by
  unfold abandonHeld
  split
  · exact h
  · exact (dropCmd_canonical h).updAt _ _

theorem writeEfctl_canonical {ci : BitVec 9} {v : Word} : (writeEfctl s ci v).Canonical :=
  .ite (abandonHeld_canonical h) (.ite (resumeHeld_canonical h) h)

theorem setThrottle_canonical {f : BitVec 2} {g : Throttle → Throttle} : (setThrottle s f g).Canonical := .ite h h

theorem clearPeak_canonical {f : BitVec 2} : (clearPeak s f).Canonical := setThrottle_canonical h

/-- The registers of the package that a word writes at issue stand in neither memory. -/
theorem crWritePkg_canonical {ci : BitVec 9} {n : Nat} {v : Word} : (crWritePkg s ci n v).Canonical := by
  refine .ite (writeEfctl_canonical h) (.ite (writeFpreq_canonical h) (.ite (setThrottle_canonical h)
    (.ite (.ite (clearPeak_canonical h) h) ?_)))
  iterate 9 refine .ite h ?_
  exact h

/-! ### Media records -/

theorem placeRec_canonical {i : Nat} {w : Window} {r : MediaRec} {bs : List Byte} : (placeRec s i w r bs).Canonical := by
  unfold placeRec
  dsimp only
  split
  · exact h.updSlot
  · split
    · exact h.updSlot
    · exact (h.store _ _).updSlot

theorem acceptRec_canonical {bs : List Byte} : (acceptRec s bs).Canonical := by
  unfold acceptRec
  dsimp only
  split
  · exact dropBad_canonical h
  · split
    · exact dropUnmatched_canonical h
    · split
      · exact dropUnmatched_canonical h
      · exact placeRec_canonical h

theorem mediaMessage_canonical {bytes : List Byte} : (mediaMessage s bytes).Canonical := .ite h (dropBad_canonical h)

theorem drainMedia_canonical : (drainMedia s).Canonical :=
  State.Canonical.each (fun _ _ hb => acceptRec_canonical hb) (by exact h) _

theorem coverClass_canonical {ci : BitVec 9} {a : Nat} : (coverClass s ci a).Canonical := by
  unfold coverClass
  split
  · exact l1Clean_canonical h ci
  · exact drainMedia_canonical h
  · exact drainInbound_canonical h _
  · exact h

/-! ### Boundary events -/

theorem eventTrap_canonical {c : BitVec 9} {b : Boundary} : (eventTrap s c b).2.Canonical := by
  cases b with
  | engine =>
    unfold eventTrap
    dsimp only
    split
    · exact h
    · exact h.updAt _ _
  | _ => exact updEvents_canonical h

theorem takeNow_canonical {c : BitVec 9} {b : Boundary} : (takeNow s c b).Canonical :=
  takeTrap_canonical (eventTrap_canonical h) _ _ _ _

theorem takeEvent_canonical {c : BitVec 9} {b : Boundary} : (takeEvent s c b).Canonical :=
  takeNow_canonical (issueCycle_canonical h)

end

end Sys2Proof.Machine
end

section
/-! PROOF of O60, part 3: the matrix unit (R137 to R164). -/

namespace Sys2Proof.Machine

variable {s : State} (h : s.Canonical)

/-- Turns that answer something beside their machine keep it canonical one after another. -/
theorem each_first {α β : Type} {turn : State × β → α → State × β}
    (keep : ∀ p x, p.1.Canonical → (turn p x).1.Canonical) {p : State × β} (hp : p.1.Canonical) (xs : List α) :
    (xs.foldl turn p).1.Canonical :=
  xs.foldlRecOn (motive := fun p : State × β => p.1.Canonical) turn hp fun p hp x _ => keep p x hp

section
include h

/-! ### What a word of the unit reads and plans -/

theorem mSegs_canonical {hv : BitVec 256} {kind f ea n : Nat} {g : List Seg} {t : State}
    (e : mSegs hv kind f s ea n = .ok (g, t)) : t.Canonical := by
  induction f generalizing s ea n g with
  | zero => cases e; exact h
  | succ f ih =>
    unfold mSegs at e
    dsimp only at e
    split at e
    · cases e
      exact h
    · split at e
      · split at e
        · cases e
        · cases e
          exact h
      · split at e
        · split at e
          · cases e
          · split at e
            · cases e
            · split at e
              · cases e
              · cases e
                exact h
        · split at e
          · cases e
          · next x =>
            split at e
            · cases e
            · next y => cases e; exact ih (xlate_canonical h x) y

theorem mRanges_canonical {hv : BitVec 256} {kind : Nat} {l : List (Option (Nat × Nat))} {gs : List (List Seg)} {t : State}
    (e : mRanges hv kind l s = .ok (gs, t)) : t.Canonical := by
  induction l generalizing s gs with
  | nil => cases e; exact h
  | cons a r ih =>
    cases a with
    | none =>
      unfold mRanges at e
      split at e
      · cases e
      · next x => cases e; exact ih h x
    | some p =>
      unfold mRanges at e
      split at e
      · cases e
      · next x =>
        split at e
        · cases e
        · next y => cases e; exact ih (mSegs_canonical h x) y

theorem srcFlits_canonical {id : Nat} {rows : List (List Seg)} : (srcFlits s id rows).Canonical :=
  .ite h (asking_canonical (loadFlits_canonical h _))

theorem lateFlits_canonical {src : MSrc} : (lateFlits s src).Canonical := by
  cases src with
  | now _ => exact h
  | later _ => exact loadFlits_canonical h _

theorem loadRuns_canonical {o : ML} {hv : BitVec 256} {a : Word} {f : Nat × Option (BitVec 2)} {gs : List (List Seg)}
    {t : State} (e : loadRuns s o hv a f = .ok (gs, t)) : t.Canonical := mRanges_canonical h e

theorem planLoad_canonical {isB : Bool} {o : ML} {hv : BitVec 256} {a : Word} {f : Nat × Option (BitVec 2)} {j : MJob}
    {t : State} (e : planLoad s isB o hv a f = .ok (j, t)) : t.Canonical := by
  unfold planLoad at e
  dsimp only at e
  split at e
  · cases e
  · next x => cases e; exact srcFlits_canonical (loadRuns_canonical h x)

theorem planStore_canonical {o : MZ} {hv : BitVec 256} {a : Word} {ty : BitVec 2} {j : MJob} {t : State}
    (e : planStore s o hv a ty = .ok (j, t)) : t.Canonical := by
  unfold planStore at e
  dsimp only at e
  split at e
  · cases e
  · next x => cases e; exact mRanges_canonical h x

theorem planFill_canonical {o : MZ} {hv : BitVec 256} {a : Word} {ty : BitVec 2} {j : MJob} {t : State}
    (e : planFill s o hv a ty = .ok (j, t)) : t.Canonical := by
  unfold planFill at e
  split at e
  · cases e
  · next x => cases e; exact mRanges_canonical h x

theorem enqueueM_keeps {j : MJob} : (enqueueM s j).Keeps := .ite trivial (drainM_canonical (h.upd _))

theorem enqueueLoad_keeps {j : MJob} : (enqueueLoad s j).Keeps := orderedIssue_keeps (enqueueM_keeps (by exact h))

/-! ### What the unit performs -/

/-- The rows of a tile go where their segments lie. -/
theorem doStore_canonical {ci : BitVec 9} {z : BitVec 3} {ty : BitVec 4} {sat : Bool} {rnd : BitVec 3} {scale : BitVec 5}
    {cols : Nat} {rows : List (List Seg)} : (doStore s ci z ty sat rnd scale cols rows).1.Canonical :=
  each_first (fun _ _ hp => writeSegs_canonical _ _ _ hp) h _

theorem startJob_canonical {p : MJob → Bool} {ci : BitVec 9} {j : MJob} {t : State}
    (e : startJob p s ci = some (j, t)) : t.Canonical := by
  obtain ⟨r, -, k⟩ := Option.map_eq_some_iff.1 e
  cases k
  exact putCounted_canonical h

theorem startAsked_canonical {p : MJob → Bool} {run : State → State} {ci : BitVec 9}
    (keep : ∀ t : State, t.Canonical → (run t).Canonical) : (startAsked p run ci s).Canonical := by
  unfold startAsked
  split
  · exact keep _ h
  · have h1 := collect_canonical h
    exact .ite (h1 _) (settleAsks_canonical (awaitDomain_canonical (h1 _) keep))

theorem jobFlits_canonical {j : MJob} : (jobFlits s j).Canonical := by
  unfold jobFlits
  split
  case h_5 => exact h
  all_goals exact lateFlits_canonical h

theorem latchRun_canonical {ci : BitVec 9} : (latchRun ci s).Canonical := by
  unfold latchRun
  split
  · exact h
  · next e => exact drainM_canonical ((jobFlits_canonical (startJob_canonical h e)).updAt _ _)

theorem retireMma_canonical {ci : BitVec 9} : (retireMma s ci).Canonical := by
  unfold retireMma
  split
  · exact h
  · exact drainM_canonical ((h.updAt _ _).countAt _ _)

theorem pipeRun_canonical {ci : BitVec 9} : (pipeRun ci s).Canonical := by
  unfold pipeRun
  split
  · next e => exact drainM_canonical ((doStore_canonical (startJob_canonical h e)).countAt _ _)
  · next e => exact drainM_canonical ((lateFlits_canonical (startJob_canonical h e)).updAt _ _)
  · exact h

/-! ### Routines -/

theorem routineLoad_canonical {r r1 : Routine} {isB : Bool} {o : ML} {t : State}
    (e : routineLoad s r isB o = some (t, r1)) : t.Canonical := by
  unfold routineLoad at e
  dsimp only at e
  split at e
  · cases e
  · split at e
    · next x =>
      cases e
      have h1 := planLoad_canonical h x
      exact .ite h1 (h1.upd _)
    · cases e

/-- A word of a routine writes no memory but what an MSTZ of it stores. -/
theorem routineWord_canonical {r r1 : Routine} {i : Instr} {t : State} (e : routineWord s r i = some (t, r1)) :
    t.Canonical := by
  unfold routineWord at e
  split at e
  case h_1 => cases e; exact h
  case h_2 => exact routineLoad_canonical h e
  case h_3 => exact routineLoad_canonical h e
  case h_4 =>
    dsimp only at e
    split at e
    · cases e
    · cases e
      exact h.upd _
  case h_5 =>
    split at e
    · cases e
    · cases e
      exact h.upd _
  case h_6 =>
    split at e
    · cases e
    · cases e
      exact h.upd _
  case h_7 =>
    dsimp only at e
    split at e
    · cases e
    · split at e
      · next x => cases e; exact doStore_canonical (planStore_canonical h x)
      · cases e
  case h_8 =>
    dsimp only at e
    split at e
    · cases e
    · split at e
      · next x =>
        cases e
        have h1 := planFill_canonical h x
        exact .ite h1 (h1.upd _)
      · cases e
  case h_9 => cases e

theorem runWords_canonical {word : State → Routine → Instr → Option (State × Routine)}
    (keep : ∀ {s : State} {r r1 : Routine} {i : Instr} {t : State}, s.Canonical → word s r i = some (t, r1) → t.Canonical)
    {ws : List (BitVec 80)} {f i : Nat} {loops : List (Nat × Nat)} {r : Routine} :
    (runWords word ws f i loops s r).1.Canonical := by
  induction f generalizing i loops s r with
  | zero => exact h
  | succ f ih =>
    unfold runWords
    split
    · exact h
    · split
      · exact h
      · split
        · exact h
        · split
          · exact h
          · split
            · exact h
            · split
              · split
                · exact h
                · exact ih h
              · split
                · exact h
                · split
                  · exact ih h
                  · exact ih h
              · split
                · exact h
                · next e => exact ih (keep h e)

theorem runRoutine_canonical {ws : List (BitVec 80)} {f i : Nat} {loops : List (Nat × Nat)} {r : Routine} :
    (runRoutine ws f i loops s r).1.Canonical := runWords_canonical h fun hs e => routineWord_canonical hs e

theorem startRoutine_canonical {ci : BitVec 9} : (startRoutine s ci).Canonical := by
  unfold startRoutine
  dsimp only
  split
  · split
    · exact h
    · have ran : ∀ {x ws f i loops r},
          (runRoutine ws f i loops { putCounted s ci x with cur := ci } r).1.Canonical :=
        runRoutine_canonical (putCounted_canonical h).with_cur
      have counted : ∀ {t : State} {l : List (BitVec 8)}, t.Canonical → (l.foldl (fun s e => s.countAt ci e) t).Canonical :=
        fun ht => State.Canonical.each (fun _ _ hb => hb.countAt _ _) ht _
      refine drainM_canonical ?_
      split
      · exact counted (State.Canonical.updAt ran.with_cur _ _)
      · exact (counted (State.Canonical.updAt ran.with_cur _ _)).updAt _ _
  · exact h

end

end Sys2Proof.Machine
end

section
/-! PROOF of O60, part 4: what the engines do with a command: channels, copies, text, the quorum, the sieve, media. -/

namespace Sys2Proof.Machine

variable {s : State} (h : s.Canonical)

section
include h

/-! ### Loads and stores of engines -/

theorem ctxFlits_canonical {ctx : BitVec 16} {va n : Nat} : (ctxFlits s ctx va n).Canonical := by
  unfold ctxFlits
  split
  · exact h
  · exact loadFlits_canonical h _

theorem ctxLoad_canonical {ctx : BitVec 16} {va n : Nat} {bs : List Byte} {t : State}
    (e : ctxLoad s ctx va n = .ok (bs, t)) : t.Canonical := by
  unfold ctxLoad at e
  split at e
  · cases e
  · cases e
    exact ctxFlits_canonical h

theorem haFlits_canonical {x : Cmd} {n : Nat} : (haFlits s x n).Canonical := by
  unfold haFlits
  split
  · exact h
  · exact loadFlits_canonical h _

theorem writeHa_canonical {x : Cmd} {bs : List Byte} {t : State} (e : writeHa s x bs = .ok t) : t.Canonical := by
  unfold writeHa at e
  split at e
  · cases e
    exact h
  · split at e
    · cases e
    · cases e
      exact engStore_canonical _ _ _ h

theorem cmdIllegal_canonical {x : Cmd} : (cmdIllegal s x).Canonical := cmdFault_canonical h _ _

/-! ### Channels (R277 to R286) -/

theorem writeTensorRows_canonical {x : Cmd} {hv : BitVec 256} {rows xs : List Nat} {t : State}
    (e : writeTensorRows x hv rows xs s = .ok t) : t.Canonical := by
  induction rows generalizing s xs with
  | nil => cases e; exact h
  | cons r rest ih =>
    unfold writeTensorRows at e
    dsimp only at e
    split at e
    · cases e
    · exact ih (engStore_canonical _ _ _ h) e

theorem writeTensor_canonical {x : Cmd} {hv : BitVec 256} {xs : List Nat} {t : State}
    (e : writeTensor s x hv xs = .ok t) : t.Canonical := writeTensorRows_canonical h e

theorem tensorFlits_canonical {x : Cmd} {hv : BitVec 256} : (tensorFlits s x hv).Canonical := by
  refine State.Canonical.each (fun t r ht => ?_) h _
  split
  · exact ht
  · exact loadFlits_canonical ht _

theorem putMessage_canonical {ch : Nat} {c : Chan} {bs : List Byte} {t : State} (e : putMessage s ch c bs = .ok t) :
    t.Canonical := by
  unfold putMessage at e
  dsimp only at e
  split at e
  · cases e
  · split at e
    · cases e
    · cases e
      exact setChan_canonical (mainStore_canonical _ _ h)

theorem setFlag_canonical {c : Chan} {f : Nat → Nat} {t : State} (e : setFlag s c f = .ok t) : t.Canonical := by
  unfold setFlag at e
  split at e
  · cases e
    exact h
  · split at e
    · cases e
    · exact ctxWrite_canonical (ctxFlits_canonical h) e

theorem sendOut_canonical {ch : Nat} {c : Chan} {kind : Nat} {bs : List Byte} : (sendOut s ch c kind bs).Canonical :=
  State.Canonical.each (fun _ _ ht => emitFlit_canonical ht _ _ _ _) h _

theorem takeChannel_canonical {c : Option Chan} {src : BitVec 16} {kind n : Nat} {t : State}
    (e : takeChannel s c src kind n = some t) : t.Canonical := by
  unfold takeChannel at e
  split at e
  · exact takeFlits_canonical h e
  · cases e
    exact h

theorem takeResult_canonical {ch : Nat} {src : BitVec 16} {k : Nat} {bytes : Chan → Nat} {r : Option (Chan × RedRound)}
    {t : State} (e : takeResult s ch src k bytes = some (t, r)) : t.Canonical := by
  obtain ⟨u, hu, x⟩ := Option.map_eq_some_iff.1 e
  cases x
  exact takeChannel_canonical h hu

theorem runSend_canonical {x : Cmd} {ch : Nat} {c : Chan} : (runSend s x ch c).Canonical := by
  refine .ite (cmdDone_canonical h _ _ _) (.ite h ?_)
  split
  · exact cmdFault_canonical h _ _
  · have read := tensorFlits_canonical h (x := x) (hv := x.ha)
    refine State.Canonical.ite ?_ (setCmd_canonical (sendOut_canonical read))
    split
    · exact cmdFault_canonical h _ _
    · next e => exact cmdDone_canonical (putMessage_canonical read e) _ _ _

theorem runRecv_canonical {x : Cmd} {ch : Nat} {c : Chan} : (runRecv s x ch c).Canonical := by
  unfold runRecv
  dsimp only
  split
  · exact h
  · split
    · exact cmdFault_canonical h _ _
    · split
      · exact cmdFault_canonical h _ _
      · next e =>
        have written := writeTensor_canonical h e
        split
        · exact cmdFault_canonical h _ _
        · next f => exact cmdDone_canonical (setChan_canonical (setFlag_canonical written f)) _ _ _

theorem startRed_canonical {x : Cmd} {ch : Nat} {c : Chan} : (startRed s x ch c).Canonical := by
  refine .ite h ?_
  split
  · exact cmdFault_canonical h _ _
  · have begun : ∀ {y z}, (setCmd (setChan (tensorFlits s x x.hb) ch y) z).Canonical :=
      setCmd_canonical (setChan_canonical (tensorFlits_canonical h))
    exact .ite (sendOut_canonical begun) (.ite (sendOut_canonical begun) (sendOut_canonical begun))

theorem finishRed_canonical {x : Cmd} {ch : Nat} {c : Chan} {r : RedRound} {vals : List (BitVec 128)} :
    (finishRed s x ch c r vals).Canonical := by
  unfold finishRed
  dsimp only
  split
  · exact cmdFault_canonical h _ _
  · next e =>
    have written := writeTensor_canonical h e
    split
    · exact cmdFault_canonical h _ _
    · next f => exact cmdDone_canonical (setChan_canonical (setFlag_canonical written f)) _ _ _

theorem runRed_canonical {x : Cmd} {ch : Nat} {c : Chan} : (runRed s x ch c).Canonical := by
  refine .ite (startRed_canonical h) ?_
  split
  · exact h
  · split
    · exact h
    · exact finishRed_canonical h

theorem workChan_canonical {x : Cmd} {c : Chan} : (workChan s x c).Canonical := by
  unfold workChan
  split
  · exact runSend_canonical h
  · exact runRecv_canonical h
  · exact runRed_canonical h

theorem runChan_canonical {x : Cmd} : (runChan s x).Canonical := by
  unfold runChan
  split
  · exact .ite h (cmdFault_canonical h _ _)
  · refine .ite (workChan_canonical h) (.ite h ?_)
    split
    · exact cmdFault_canonical h _ _
    · exact .ite (cmdDone_canonical h _ _ _) (workChan_canonical h)

/-! ### Copies (R352 to R354) -/

theorem cpyBlock_canonical {x : Cmd} {k : Nat} {ev : BitVec 8} {t : State} (e : cpyBlock s x k = .ok (t, ev)) :
    t.Canonical := by
  unfold cpyBlock at e
  dsimp only at e
  split at e
  case h_5 =>
    cases e
    exact engStore_canonical _ _ _ (engStore_canonical _ _ _ (loadFlits_canonical h _))
  all_goals cases e

theorem cpyRun_canonical {n : Nat} {x : Cmd} : (cpyRun n s x).Canonical := by
  induction n generalizing s x with
  | zero => exact cmdDone_canonical h _ _ _
  | succ n ih =>
    unfold cpyRun
    split
    · exact cmdFault_canonical h _ _
    · next e => exact ih (cpyBlock_canonical h e)

theorem runCpy_canonical {x : Cmd} : (runCpy s x).Canonical := .ite (cmdFault_canonical h _ _) (cpyRun_canonical h)

/-! ### Text (R255 to R267) -/

theorem raiseOverflow_canonical {x : Cmd} {slot : Nat} : (raiseOverflow s x slot).Canonical := by
  unfold raiseOverflow
  split
  · exact h.onTask _ _ _
  · exact h.report _

theorem advanceSlot_canonical {x : Cmd} {slot tok : Nat} : (advanceSlot s x slot tok).2.Canonical := by
  unfold advanceSlot
  dsimp only
  split
  · exact h.updSlot
  · split
    · exact h.updSlot
    · split
      · exact h.updSlot
      · exact raiseOverflow_canonical h.updSlot
      · exact h.updSlot

theorem stopsFlits_canonical {sl : Slot} : (stopsFlits s sl).Canonical := by
  refine .ite h ?_
  split
  · exact h
  · next e => exact ctxFlits_canonical (ctxLoad_canonical h e)

theorem activateText_canonical {slot : Nat} : (activateText s slot).Canonical := by
  refine .ite (h.setSlot _ _) ?_
  split
  · exact h.setSlot _ _
  · exact (stopsFlits_canonical h).setSlot _ _

theorem hostAcquire_canonical : (hostAcquire s).Canonical := drainInbound_canonical h _

theorem ringFlits_canonical {ctx : BitVec 16} {d : StreamDesc} {k n : Nat} : (ringFlits s ctx d k n).Canonical :=
  ctxFlits_canonical (ctxFlits_canonical h)

theorem ringWrite_canonical {ctx : BitVec 16} {d : StreamDesc} {k : Nat} {bs : List Byte} {t : State}
    (e : ringWrite s ctx d k bs = .ok t) : t.Canonical := by
  unfold ringWrite at e
  dsimp only at e
  split at e
  · cases e
  · next x => exact ctxWrite_canonical (ctxWrite_canonical h x) e

theorem drainBytes_canonical {l l1 : Leftover} {d : StreamDesc} {t : State} (e : drainBytes s l d = .ok (t, l1)) :
    t.Canonical := by
  unfold drainBytes at e
  dsimp only at e
  split at e
  · cases e
  · next x =>
    split at e
    · cases e
    · next y =>
      have h2 := ctxWrite_canonical (ringWrite_canonical h x) y
      split at e
      · cases e
        exact h2
      · split at e
        · cases e
          exact h2
        · split at e
          · cases e
          · next z => cases e; exact ctxWrite_canonical h2 z

theorem drainTo_canonical {l l1 : Leftover} {t : State} (e : drainTo s l = some (t, l1)) : t.Canonical := by
  have h1 := ctxFlits_canonical (hostAcquire_canonical h) (ctx := l.ctx) (va := l.va) (n := 32)
  unfold drainTo at e
  dsimp only at e
  split at e
  · split at e
    · cases e
      exact h1
    · cases e
  · cases e
  · split at e
    · split at e
      · cases e
        exact h1
      · cases e
    · next x => cases e; exact drainBytes_canonical h1 x

theorem drainLeft_canonical {i : Nat} {l : Leftover} {r : List Leftover} : (drainLeft s i l r).Canonical := by
  unfold drainLeft
  split
  · exact h.updSlot
  · next e => exact (drainTo_canonical h e).updSlot

theorem resumeRound_canonical {slot : Nat} : (resumeRound s slot).Canonical := .ite (startRound_canonical h) h

theorem drainSlot_canonical {i : Nat} : (drainSlot i s).Canonical := by
  unfold drainSlot
  dsimp only
  split
  · exact resumeRound_canonical (drainLeft_canonical h)
  · refine .ite h (.ite (resumeRound_canonical (h.setSlot _ _)) ?_)
    split
    · exact streamFault_canonical h
    · next e => exact resumeRound_canonical (drainTo_canonical h e).updSlot

theorem runTokzStream_canonical {x : Cmd} {v : Vocab} {sl : Slot} {va : Nat} :
    (runTokzStream s x v sl va).Canonical := by
  unfold runTokzStream
  -- by any name `read` for it, the kernel does not compute with what `ringRead` reads
  obtain ⟨read, name⟩ : ∃ read, read = ringRead := ⟨_, rfl⟩
  rw [← name]
  dsimp only
  split
  · exact cmdFault_canonical h _ _
  · exact cmdIllegal_canonical h
  · split
    · exact cmdFault_canonical h _ _
    · split
      · exact cmdFault_canonical h _ _
      · next e =>
        have written := writeHa_canonical (ringFlits_canonical h) e
        split
        · exact cmdFault_canonical h _ _
        · next f => exact cmdDone_canonical (ctxWrite_canonical written f) _ _ _

theorem runTokz_canonical {x : Cmd} : (runTokz s x).Canonical := by
  have zero : ∀ {t : State}, t.Canonical → State.Canonical (match writeHa t x (toBytes 4 0) with
      | .error f => cmdFault t x f
      | .ok s1 => cmdDone s1 x 0 []) := by
    intro t ht
    split
    · exact cmdFault_canonical ht _ _
    · next e => exact cmdDone_canonical (writeHa_canonical ht e) _ _ _
  unfold runTokz
  dsimp only
  split
  · exact cmdIllegal_canonical h
  · exact .ite (cmdIllegal_canonical h) (.ite (zero (countStale_canonical h)) (.ite (zero h)
      (.ite (cmdDone_canonical h _ _ _) (runTokzStream_canonical (ctxFlits_canonical (hostAcquire_canonical h))))))

theorem detokRun_canonical {v : Vocab} {slot : Nat} {l : List Nat} {x : Cmd} : (detokRun v slot l s x).Canonical := by
  induction l generalizing s x with
  | nil => exact cmdDone_canonical h _ _ _
  | cons t r ih => exact .ite (ih (h.setSlot _ _)) (setCmd_canonical h)

theorem runDetok_canonical {x : Cmd} : (runDetok s x).Canonical := by
  have done := cmdDone_canonical h x 0 []
  have stale := cmdDone_canonical (countStale_canonical h) x 0 []
  refine .ite h ?_
  split
  · exact cmdIllegal_canonical h
  · refine .ite (cmdIllegal_canonical h) (.ite (.ite done stale) ?_)
    split
    · exact cmdFault_canonical h _ _
    · exact .ite (cmdIllegal_canonical h) (.ite stale (.ite done (detokRun_canonical (.ite h (haFlits_canonical h)))))

theorem runGadv_canonical {x : Cmd} : (runGadv s x).Canonical := by
  refine .ite h ?_
  split
  · exact cmdIllegal_canonical h
  · exact .ite (cmdIllegal_canonical h) (.ite (cmdDone_canonical (countStale_canonical h) _ _ _)
      (.ite (cmdDone_canonical h _ _ _) (cmdDone_canonical (advanceSlot_canonical h) _ _ _)))

theorem runGmask_canonical {x : Cmd} : (runGmask s x).Canonical := by
  refine .ite h ?_
  split
  · exact cmdIllegal_canonical h
  · refine .ite (cmdIllegal_canonical h) (.ite (cmdDone_canonical (countStale_canonical h) _ _ _) ?_)
    dsimp only
    split
    · exact cmdFault_canonical h _ _
    · next e => exact cmdDone_canonical (writeHa_canonical h e) _ _ _

theorem runText_canonical {x : Cmd} : (runText s x).Canonical := by
  refine .ite h ?_
  split
  · exact .ite h (runTokz_canonical h)
  · exact runDetok_canonical h
  · exact runGadv_canonical h
  · exact runGmask_canonical h

/-! ### The quorum and the sieve (R228 to R246) -/

theorem rebind_canonical {slot : Nat} : (rebind s slot).Canonical :=
  State.Canonical.each (fun _ _ ht => .ite ht (.ite (cmdDone_canonical (countStale_canonical ht) _ _ _)
    (bindQver_canonical ht))) h _

theorem qverFault_canonical {slot : Nat} {x : Cmd} {f : BitVec 8 × Nat} : (qverFault s slot x f).Canonical :=
  rebind_canonical (cmdFault_canonical h.updSlot _ _)

theorem advanceTokens_canonical {x : Cmd} {slot : Nat} {l : List Nat} {pos : Nat} :
    (advanceTokens x slot l pos s).Canonical := by
  induction l generalizing pos s with
  | nil => exact h
  | cons t r ih =>
    have advanced := advanceSlot_canonical h (x := x) (slot := slot) (tok := t)
    unfold advanceTokens
    split
    · next e => rw [e] at advanced; exact advanced
    · next e =>
      rw [e] at advanced
      split
      · exact advanced
      · exact ih advanced.updSlot

theorem decideText_canonical {x : Cmd} {slot n : Nat} {toks : List Nat} : (decideText s x slot n toks).Canonical := by
  refine .ite (h.setSlot _ _) (.ite (advanceTokens_canonical (h.setSlot _ _)) ?_)
  split
  · exact h.setSlot _ _
  · exact advanceTokens_canonical (h.setSlot _ _)

theorem decideWrites_canonical {x : Cmd} {slot d : Nat} {r : Decided} : (decideWrites s x slot d r).Canonical := by
  unfold decideWrites
  dsimp only
  split
  · exact h.setSlot _ _
  · exact decideText_canonical (h.setSlot _ _)

theorem decideEnd_canonical {x : Cmd} {slot d : Nat} {old : Slot} {r : Option Decided} :
    (decideEnd s x slot d old r).Canonical := by
  have recorded : ∀ {f y b}, State.Canonical { (s.updSlot slot f).setSlot slot y with brood := b } := h
  exact rebind_canonical (cmdDone_canonical (.ite (startRound_canonical recorded) recorded) _ _ _)

theorem decideBound_canonical {slot : Nat} {x : Cmd} : (decideBound s slot x).Canonical := by
  refine .ite (rebind_canonical (cmdDone_canonical (countStale_canonical (h.setSlot _ _)) _ _ _))
    (.ite h (.ite (.ite h (decideEnd_canonical h)) (.ite (qverFault_canonical h) ?_)))
  split
  · exact qverFault_canonical h
  · exact h
  · have read : ∀ {p : Prop} [Decidable p], (if p then tensorFlits s x x.ha else s).Canonical :=
      .ite (tensorFlits_canonical h) h
    exact .ite (decideEnd_canonical (decideWrites_canonical read)) h

theorem runQver_canonical {x : Cmd} : (runQver s x).Canonical := by
  have begun : ∀ {y n}, State.Canonical { setCmd s y with nextId := n } := h
  exact .ite h (.ite (cmdIllegal_canonical h) (.ite (cmdDone_canonical (countStale_canonical h) _ _ _)
    (.ite begun (bindQver_canonical begun))))

theorem runQprop_canonical {x : Cmd} : (runQprop s x).Canonical := by
  have done := cmdDone_canonical h x 0 []
  refine .ite (cmdIllegal_canonical h) (.ite (cmdDone_canonical (countStale_canonical h) _ _ _)
    (.ite done (.ite done (.ite h ?_))))
  split
  · exact cmdFault_canonical h _ _
  · exact .ite (cmdIllegal_canonical h) (cmdDone_canonical ((haFlits_canonical h).setSlot _ _) _ _ _)

theorem copyRecord_canonical {x : Cmd} : (copyRecord s x).Canonical := by
  refine .ite (cmdDone_canonical (countStale_canonical h) _ _ _) ?_
  split
  · exact cmdFault_canonical h _ _
  · next e => exact cmdDone_canonical (writeHa_canonical h e) _ _ _

theorem runQres_canonical {x : Cmd} : (runQres s x).Canonical :=
  .ite (cmdIllegal_canonical h) (.ite (setCmd_canonical h) (copyRecord_canonical h))

theorem runBget_canonical {x : Cmd} : (runBget s x).Canonical :=
  .ite (cmdDone_canonical h _ _ _) (cmdDone_canonical (countStale_canonical h) _ _ _)

theorem bsetState_canonical {slot : Nat} {v : Word} {t : State} (e : bsetState s slot v = some t) : t.Canonical := by
  unfold bsetState at e
  dsimp only at e
  split at e
  · cases e
    exact h.setSlot _ _
  · split at e
    · cases e
      exact h.setSlot _ _
    · split at e
      · cases e
        exact resumeRound_canonical (activateText_canonical (h.setSlot _ _))
      · cases e

theorem runBset_canonical {x : Cmd} : (runBset s x).Canonical := by
  refine .ite (cmdDone_canonical (countStale_canonical h) _ _ _) (.ite h (.ite ?_
    (.ite (cmdDone_canonical h.updSlot _ _ _) (cmdDone_canonical h.updSlot _ _ _))))
  split
  · exact cmdIllegal_canonical h
  · next e => exact cmdDone_canonical (bsetState_canonical h e) _ _ _

theorem runQuorum_canonical {x : Cmd} : (runQuorum s x).Canonical := by
  refine .ite (runQres_canonical h) (.ite h ?_)
  split
  · exact runQprop_canonical h
  · exact runQver_canonical h
  · exact runBset_canonical h
  · exact runBget_canonical h

theorem runSieve_canonical {x : Cmd} : (runSieve s x).Canonical := by
  refine .ite h (.ite (cmdIllegal_canonical h) (.ite (cmdDone_canonical (countStale_canonical h) _ _ _)
    (.ite (cmdDone_canonical h _ _ _) (.ite (cmdIllegal_canonical h) ?_))))
  split
  · exact cmdFault_canonical h _ _
  · exact setCmd_canonical (h.setSlot _ _)

theorem formList_canonical {x : Cmd} : (formList s x).Canonical := by
  refine .ite (cmdDone_canonical (countStale_canonical h) _ _ _) (.ite (cmdDone_canonical h _ _ _) (.ite h ?_))
  split
  · exact cmdFault_canonical h _ _
  · exact cmdDone_canonical (h.setSlot _ _) _ _ _

/-! ### Media (R270 to R277) -/

theorem runSltick_canonical {x : Cmd} : (runSltick s x).Canonical :=
  .ite (cmdDone_canonical (countStale_canonical h) _ _ _) (cmdDone_canonical h.updSlot _ _ _)

theorem runSlpin_canonical {x : Cmd} : (runSlpin s x).Canonical := by
  refine .ite (cmdDone_canonical (countStale_canonical h) _ _ _) (.ite (cmdDone_canonical h _ _ _)
    (.ite (cmdIllegal_canonical h) ?_))
  split
  · exact cmdFault_canonical h _ _
  · exact cmdDone_canonical ((quarantine_canonical h).setSlot _ _) _ _ _

theorem runSlget_canonical {x : Cmd} : (runSlget s x).Canonical := by
  refine .ite (cmdIllegal_canonical h) (.ite (cmdDone_canonical (countStale_canonical h) _ _ _) ?_)
  split
  · exact cmdFault_canonical h _ _
  · next e => exact cmdDone_canonical (writeHa_canonical h e) _ _ _

theorem runMedia_canonical {x : Cmd} : (runMedia s x).Canonical := by
  refine .ite h ?_
  split
  · exact runSltick_canonical h
  · exact runSlpin_canonical h
  · exact runSlget_canonical h

/-! ### Any command -/

theorem runCmd_canonical {x : Cmd} : (runCmd s x).Canonical := by
  unfold runCmd
  split
  · exact runCpy_canonical h
  · exact runChan_canonical h
  · exact runChan_canonical h
  · exact runChan_canonical h
  · exact runQuorum_canonical h
  · exact runQuorum_canonical h
  · exact runQuorum_canonical h
  · exact runQuorum_canonical h
  · exact runQuorum_canonical h
  · exact runSieve_canonical h
  · exact runText_canonical h
  · exact runText_canonical h
  · exact runText_canonical h
  · exact runText_canonical h
  · exact runMedia_canonical h
  · exact runMedia_canonical h
  · exact runMedia_canonical h
  · exact h

end

end Sys2Proof.Machine
end

section
/-! PROOF of O60, part 5: the steps of the agents beside the cells: regions, accesses from outside, the domain, launches,
dispatch, preemption, snapshots. -/

namespace Sys2Proof.Machine

variable {s : State} (h : s.Canonical)

section
include h

/-! ### Regions (R299 to R309) and invalidation (R223) -/

theorem ctxTry_canonical {e : BitVec 2} {ctx : BitVec 16} {va : Nat} {bs : List Byte} : (ctxTry s e ctx va bs).Canonical := by
  unfold ctxTry
  split
  · exact h
  · next x => exact (ctxWrite_canonical h x).of_eq rfl rfl

theorem putRegion_canonical {e : BitVec 2} {r : Region} : (putRegion s e r).Canonical := ctxTry_canonical (by exact h)

theorem invalidate_canonical {p : Region → Bool} : (invalidate s p).Canonical :=
  State.Canonical.each (fun _ _ ht => State.Canonical.each (fun _ _ hu => .ite (putRegion_canonical hu) hu) ht _) h _

theorem settleRegions_canonical : (settleRegions s).Canonical := invalidate_canonical h

theorem numberTlbi_canonical {ctx : BitVec 16} {va : Option Nat} : (numberTlbi s ctx va).Canonical := by
  unfold numberTlbi
  have kept := invalidate_canonical h (p := tlbiRegions s ctx va)
  dsimp only
  generalize invalidate s (tlbiRegions s ctx va) = t at kept ⊢
  exact kept

theorem takeTlbi_canonical {ci : BitVec 9} {ctx : BitVec 16} {va : Option Nat} : (takeTlbi s ci ctx va).Canonical :=
  numberTlbi_canonical (h.updAt _ _)

theorem dropEverywhere_canonical {id : BitVec 16} {va : Option Nat} : (dropEverywhere s id va).Canonical :=
  numberTlbi_canonical (by exact h)

theorem answerAccb_canonical {gang : Nat} {gmem : BitVec 6} {a : AccAnswer} : (answerAccb s gang gmem a).Canonical := by
  unfold answerAccb
  split
  · exact h
  · exact h.updAt _ _

theorem stayOff_canonical {e : BitVec 2} {r : Region} {why : BitVec 8} : (stayOff s e r why).Canonical := by
  unfold stayOff
  split
  · exact putRegion_canonical h
  · exact ctxTry_canonical h

theorem leaveOff_canonical {e : BitVec 2} {r : Region} {first last : Nat} {d : AccDesc} :
    (leaveOff s e r first last d).Canonical := .ite h (.ite (stayOff_canonical h) (putRegion_canonical h))

theorem decideEnter_canonical {e : BitVec 2} {gang : Nat} {gmem : BitVec 6} {ctx : BitVec 16} {va : Nat}
    {ins : List (BitVec 32)} {off withdrawn : Bool} {tiles first last : Nat} :
    (decideEnter s e gang gmem ctx va ins off withdrawn tiles first last).Canonical := by
  have say : ∀ {t : State} {a : AccAnswer}, t.Canonical → (if withdrawn then t else answerAccb t gang gmem a).Canonical :=
    fun ht => .ite ht (answerAccb_canonical ht)
  refine .ite (say h) ?_
  split
  · exact say h
  · next x =>
    have read := ctxLoad_canonical h x
    have inferred : ∀ {r va n}, (ctxFlits (putRegion _ e r) ctx va n).Canonical :=
      ctxFlits_canonical (putRegion_canonical read)
    exact .ite (say (stayOff_canonical read)) (.ite (say (leaveOff_canonical read))
      (.ite (.ite (say inferred) (say inferred)) (say (putRegion_canonical read))))

theorem decideHead_canonical {e : BitVec 2} : (decideHead e s).Canonical := by
  unfold decideHead
  split
  · have settled := settleRegions_canonical (dropMsg_canonical h (e := e))
    dsimp only
    split
    · exact .ite (decideEnter_canonical settled) (sendAccord_canonical settled)
    · exact decideEnter_canonical settled
  · exact (invalidate_canonical (dropMsg_canonical h)).onTask _ _ _
  · exact h

theorem takeSample_canonical {e : BitVec 2} {gang : Nat} {gmem : BitVec 6} {ctx : BitVec 16} {va : Nat}
    {ins outs : List (BitVec 32)} {check : Option (List (BitVec 32))} :
    (takeSample s e gang gmem ctx va ins outs check).Canonical := by
  unfold takeSample
  split
  · next x =>
    have read := ctxLoad_canonical h x
    have kept : ∀ {p : Prop} [Decidable p] {va1 bs1 va2 bs2},
        (if p then ctxTry (ctxTry _ e ctx va1 bs1) e ctx va2 bs2 else ctxTry _ e ctx va1 bs1).Canonical :=
      .ite (ctxTry_canonical (ctxTry_canonical read)) (ctxTry_canonical read)
    refine .ite read ?_
    cases check with
    | none => exact putRegion_canonical kept
    | some mine => exact .ite (countTask_canonical (putRegion_canonical kept) _ _ _) (putRegion_canonical kept)
  · exact h

theorem sampleHead_canonical {e : BitVec 2} : (sampleHead e s).Canonical := by
  unfold sampleHead
  split
  · exact takeSample_canonical (settleRegions_canonical (dropMsg_canonical h))
  · exact h

theorem trainEpoch_canonical {e : BitVec 2} {r : Region} {d : AccDesc} : (trainEpoch s e r d).Canonical := by
  unfold trainEpoch
  dsimp only
  split
  · exact h
  · next x =>
    have read : ∀ {js : List Nat}, State.Canonical (js.foldl (fun s j => ctxFlits s r.ctx (sampleAt d j) 512) _) :=
      State.Canonical.each (fun _ _ ht => ctxFlits_canonical ht) (ctxLoad_canonical h x) _
    exact .ite (putRegion_canonical (ctxTry_canonical (ctxTry_canonical (ctxTry_canonical read))))
      (ctxTry_canonical (ctxTry_canonical read))

theorem epochOf_canonical {e : BitVec 2} {key : RegionKey} : (epochOf e key s).Canonical := by
  unfold epochOf
  dsimp only
  split
  · exact h
  · split
    · exact h
    · next x => exact trainEpoch_canonical (ctxLoad_canonical (settleRegions_canonical h) x)

/-! ### Messages of channels and the channel table (R277 to R286) -/

theorem channelMessage_canonical {ch : BitVec 10} {m : Message} : (channelMessage s ch m).Canonical := by
  unfold channelMessage
  dsimp only
  split
  · exact h
  · next x _ => exact takeChannel_canonical h x
  · next x _ =>
    have taken := takeChannel_canonical h x
    refine .ite taken (.ite h ?_)
    split
    · exact taken
    · next y => exact putMessage_canonical taken y

theorem takeMessage_canonical {ch : BitVec 10} {m : Message} : (takeMessage ch m s).Canonical :=
  .ite (mediaMessage_canonical h) (channelMessage_canonical h)

theorem chanCommand_canonical {remove : Bool} {first : BitVec 10} {count : BitVec 11} :
    (chanCommand remove first count s).Canonical := by
  refine .ite h (.ite h (State.Canonical.each (fun t i ht => ?_) (by exact h) _))
  refine State.Canonical.ite ?_ (setChan_canonical ht)
  split
  · exact ht
  · exact setChan_canonical ht

/-! ### Text images (R255 to R259) -/

theorem setVocabs_canonical {v : SMap Vocab} : (setVocabs s v).Canonical := .ite h h

theorem setGrams_canonical {g : SMap Gram} : (setGrams s g).Canonical := .ite h h

/-! ### Registers and accesses from outside (R15, R16, R192 to R194) -/

theorem bar0Write_canonical {off : Nat} {v : Word} : (bar0Write s off v).Canonical := by
  refine .ite (writeFclk_canonical h) (State.Canonical.ite ?_ (.ite h ?_))
  · dsimp only
    split
    · exact setQueue_canonical h
    · exact setQueue_canonical h
    · exact setQueue_canonical h
    · exact h
  · split
    case h_5 => exact .ite h h
    case h_10 => exact .ite h h
    case h_14 => exact .ite h h
    all_goals exact h

theorem admitOrigin_canonical {src : Origin} {kind n : Nat} {t : State} (e : admitOrigin s src kind n = some t) :
    t.Canonical := by
  unfold admitOrigin at e
  split at e
  · exact takeFlits_canonical h e
  · cases e
    exact h

theorem respond_canonical {src : Origin} {a : Nat} {bs : List Byte} : (respond s src a bs).Canonical := by
  cases src with
  | host => exact h
  | peer p dom => exact memoryFlit_canonical h _ _ _ _ _

theorem ownId_canonical : (ownId s).Canonical := .ite h h

/-! ### The domain (R287 to R298) -/

/-- What is erased reads 0 again, in the form. -/
theorem erase_canonical {source : Nat} : (erase s source).Canonical := ⟨Mem.wf_filter h.1 _, rfl⟩

theorem logLeftOut_canonical {recs : List MemberRec} {kept : List (BitVec 16)} : (logLeftOut s recs kept).Canonical :=
  .ite (raiseAlarm_canonical h) h

theorem endForming_canonical {reports : List Measured} {secret : BitVec 384} : (endForming s reports secret).Canonical :=
  logLeftOut_canonical h (recs := s.pd.next) (kept := vouched s [] reports s.pd.next)

theorem rekey_canonical {reports : List Measured} : (rekey s reports).Canonical :=
  logLeftOut_canonical h (recs := s.pd.next) (kept := vouched s s.pd.members reports s.pd.next)

theorem endRounds_canonical {ch : Nat} {c : Chan} : (endRounds s ch c).Canonical := by
  refine setChan_canonical (State.Canonical.each (fun t r ht => ?_) h _)
  split
  · exact ht
  · exact cmdFault_canonical ht _ _

theorem checkErrors_canonical {source n : Nat} : (checkErrors s source n).Canonical := .ite h h

theorem countSeq_canonical : (countSeq s).Canonical := checkErrors_canonical (by exact h)

theorem countAuth_canonical : (countAuth s).Canonical := checkErrors_canonical (by exact h)

theorem admitFlit_canonical {hdr : BitVec 128} : (admitFlit s hdr).Canonical := .ite h (settleAsks_canonical (by exact h))

/-! ### Launches (R37 to R48) -/

theorem writeAccepted_canonical {l : Launch} : (writeAccepted s l).Canonical := by
  refine entryWrite_canonical (entryWrite_canonical (State.Canonical.each (fun t k ht => ?_) h _) _ _ _) _ _ _
  split
  · exact ht
  · exact entryWrite_canonical ht _ _ _

theorem admitNext_canonical : (admitNext s).Canonical := by
  unfold admitNext
  split
  · exact h
  · exact .ite h (writeAccepted_canonical (setLaunch_canonical h))

theorem nextSeed_canonical {launch : Nat} : (nextSeed launch s).Canonical := by
  unfold nextSeed
  split
  · exact h
  · split
    · next x => exact .ite h (enqueue_canonical (setLaunch_canonical (ctxLoad_canonical h x)))
    · exact h

/-! ### Dispatch (R49 to R65) -/

theorem setCredit_canonical {l : Nat} {i : BitVec 4} {d : Nat} : (setCredit s l i d).Canonical := by
  unfold setCredit
  split
  · exact h
  · exact setStage_canonical h

theorem selectFrom_canonical {cs : List Cand} {f k : Nat} : (selectFrom cs f k s).2.Canonical := by
  induction f generalizing k s with
  | zero => exact h
  | succ f ih =>
    unfold selectFrom
    split
    · exact h
    · dsimp only
      split
      · exact setCredit_canonical h
      · exact ih (setCredit_canonical h)

theorem selectStage_canonical {scout : Bool} {cs : List Cand} : (selectStage s scout cs).2.Canonical := by
  unfold selectStage
  split
  · exact h
  · dsimp only
    split
    · next e => exact (congrArg (·.2.Canonical) e).mp (selectFrom_canonical h)
    · next e => exact (congrArg (·.2.Canonical) e).mp (selectFrom_canonical h)

theorem noteAffinity_canonical {scout : Bool} {x : Cand} {ident : Word} {c : BitVec 9} :
    (noteAffinity s scout x ident c).Canonical := .ite h h

theorem l1Empty_canonical {c : BitVec 9} : (l1Empty s c).Canonical :=
  State.Canonical.flush (((l1Clean_canonical h c).updAt _ _).updAt _ _) _

theorem leaveL1_canonical {c : BitVec 9} {shared : Bool} : (leaveL1 s c shared).Canonical := by
  unfold leaveL1
  split
  · exact h
  · exact .ite h (l1Empty_canonical h)

theorem takeArea_canonical {ctx : BitVec 16} {key a : Nat} {c : Context} {t : State} (e : takeArea s ctx key = some (c, a, t)) :
    t.Canonical := by
  unfold takeArea at e
  split at e
  · cases e
  · split at e
    · cases e
    · cases e
      exact h

theorem startMembers_canonical {x : Cand} {g : Nat} {e : QEntry} {cs : List (BitVec 9)} {j : Nat} :
    (startMembers x g e cs j s).Canonical := by
  induction cs generalizing j s with
  | nil => exact h
  | cons c r ih =>
    unfold startMembers
    split
    · exact h
    · next a => exact ih ((leaveL1_canonical (takeArea_canonical h a)).updAt _ _)

theorem startGang_canonical {scout : Bool} {x : Cand} {b : List (BitVec 9)} : (startGang s scout x b).Canonical := by
  unfold startGang
  split
  · exact h
  · split
    · exact h
    · exact startMembers_canonical (by exact noteAffinity_canonical (setStage_canonical h))

theorem resumeGang_canonical {g : Gang} {b : List (BitVec 9)} : (resumeGang s g b).Canonical := h

theorem placeStage_canonical {scout : Bool} {x : Cand} {b : List (BitVec 9)} : (placeStage s scout x b).Canonical := by
  unfold placeStage
  split
  · split
    · exact h
    · exact resumeGang_canonical (setStage_canonical h)
  · exact startGang_canonical h

theorem markDraining_canonical {x : Cand} {b : List (BitVec 9)} : (markDraining s x b).Canonical := by
  unfold markDraining
  split
  · exact h
  · exact setStage_canonical h

theorem clearBlock_canonical {scout : Bool} {b : List (BitVec 9)} : (clearBlock s scout b).Canonical :=
  State.Canonical.each (fun _ _ ht => markVictim_canonical ht) h _

omit h in
theorem victims_canonical {scout : Bool} {p : State × List (BitVec 9)} {x : Cand} (hp : p.1.Canonical) :
    (victims scout p x).1.Canonical := by
  unfold victims
  dsimp only
  split
  · exact hp
  · split
    · exact clearBlock_canonical hp
    · split
      · split
        · exact hp
        · exact clearBlock_canonical (markDraining_canonical hp)
      · split
        · exact hp
        · split
          · exact hp
          · exact markVictim_canonical hp

theorem resetCredits_canonical {scout : Bool} : (resetCredits s scout).Canonical :=
  State.Canonical.each (fun _ _ ht => .ite ht (setCredit_canonical ht)) h _

theorem decideDispatch_canonical {scout : Bool} : (decideDispatch s scout).Canonical := by
  have reset := resetCredits_canonical h (scout := scout)
  unfold decideDispatch
  dsimp only
  split
  · exact placeStage_canonical reset
  · split
    · next e => exact (congrArg (·.2.Canonical) e).mp (selectStage_canonical reset)
    · next e =>
      have selected := (congrArg (·.2.Canonical) e).mp (selectStage_canonical reset)
      split
      · exact placeStage_canonical selected
      · split
        · exact selected
        · exact markDraining_canonical selected

/-! ### Preemption, saves and restores (R208 to R213) -/

theorem withdraw_canonical {c : BitVec 9} : (withdraw s c).Canonical := by
  unfold withdraw
  split
  · exact h.updAt _ _
  · exact h
  · exact h

theorem settleFlight_canonical {c : BitVec 9} : (settleFlight s c).Canonical :=
  .ite (drainFlight_canonical h) ((issueCycle_canonical h).updAt _ _)

theorem savedOn_canonical {c : BitVec 9} {parked : Bool} {cur : Word} {split : Option (BitVec 1)} :
    (savedOn s c parked cur split).Canonical := by
  unfold savedOn
  dsimp only
  split
  · exact h
  · exact h

/-- A save that spills stores the rest in the emergency area. -/
theorem spilledOn_canonical {a : Nat} {bs : List Byte} {p : Package} {c : BitVec 9} {parked : Bool} {cur : Word}
    {split : Option (BitVec 1)} : (savedOn { s.store a bs with pkg := p } c parked cur split).Canonical := by
  have stored := h.store a bs
  generalize s.store a bs = t at stored ⊢
  exact savedOn_canonical (by exact stored)

/-- The bytes of a saved task lie in its area and in the emergency area. -/
theorem saveCell_canonical {s0 : State} (h0 : s0.Canonical) {c : BitVec 9} {parked : Bool} :
    (saveCell s0 s c parked).Canonical := by
  unfold saveCell
  dsimp only
  split
  · next e => exact savedOn_canonical ((congrArg (·.1.Canonical) e).mp (saveRun_canonical _ _ _ _ _ _ h))
  · next e =>
    have run := (congrArg (·.1.Canonical) e).mp (saveRun_canonical _ _ _ _ _ _ h)
    exact .ite (awaitArea_canonical h0) (.ite ((spilledOn_canonical run).report _) (spilledOn_canonical run))

theorem joinDie_canonical {scout : Bool} : (joinDie scout s).Canonical := State.Canonical.each (fun _ _ ht => ht.updAt _ _) h _

theorem copyBack_canonical {die : BitVec 1} {t : State} (e : copyBack s die = some t) : t.Canonical := by
  unfold copyBack at e
  split at e
  · cases e
    exact h
  · dsimp only at e
    split at e
    · next x => cases e; exact (congrArg (·.1.Canonical) x).mp (saveRun_canonical _ _ _ _ _ _ h)
    · cases e

theorem carveMember_canonical {n : BitVec 4} {v : BitVec 12} {gang : Nat} {c : BitVec 9} :
    (carveMember n v gang s c).Canonical := by
  have carved := (l1Empty_canonical h (c := c)).updAt c (carveCell v)
  refine State.Canonical.ite ?_ h
  split
  · exact .ite (openPhase_canonical (carved.updAt _ _) _ _) carved
  · exact carved

/-! ### Snapshots and ticks (R226 to R232, R268 to R276) -/

theorem snapshotSlot_canonical {i : Nat} : (snapshotSlot s i).Canonical := by
  have moved : ∀ sl pages, (rebind (quarantine (s.setSlot i sl) pages) i).Canonical := fun sl _ =>
    rebind_canonical (quarantine_canonical (h.setSlot i sl))
  unfold snapshotSlot
  refine .ite (h.setSlot _ _) (.ite ?_ (.ite ?_ (h.setSlot _ _)))
  · exact moved _ _
  · exact moved _ _

theorem snapshotWindow_canonical {i : Nat} {sl : Slot} {t : Nat} {e b : Int} {isPartial : Bool} :
    (snapshotWindow s i sl t e b isPartial).Canonical := by
  unfold snapshotWindow
  dsimp only
  split
  · exact h.setSlot _ _
  · exact State.Canonical.store (h.setSlot _ _) _ _

theorem jumpTicks_canonical {i : Nat} : (jumpTicks s i).Canonical := .ite h (h.setSlot _ _)

/-! ### Accesses that end, readers that go -/

theorem dropReader_canonical {x : Option Cmd} : (dropReader s x).Canonical := by
  cases x with
  | none => exact h
  | some x => exact dropCmd_canonical h

theorem completeAccess_canonical {lands : Bool} {c : BitVec 9} {id : Nat} : (completeAccess lands c id s).Canonical := by
  unfold completeAccess
  split
  · exact h
  · next e =>
    obtain ⟨a, -, taken⟩ := Option.bind_eq_some_iff.1 e
    have h1 := takeResponse_canonical h taken
    split
    · exact h1.updAt _ _
    · exact h1

end

end Sys2Proof.Machine
end

section
/-! PROOF of O60, part 6: the words of the cells that compute, branch, synchronise and access memory. -/

namespace Sys2Proof.Machine

variable {s : State} (h : s.Canonical) {x : Header}

section
include h

/-! ### Scalar and vector results -/

theorem Issue.Keeps.go : (Issue.go s).Keeps := h

theorem orderedGo_keeps {c : Cell} : (orderedIssue c (.go s)).Keeps := orderedIssue_keeps (Issue.Keeps.go h)

theorem aluReg_keeps {legal : Bool} {n : Nat} {f : Word → Word → Word → Word} {o : CR} : Keeps (aluReg legal n f x o s) :=
  issueResults_keeps h

theorem aluImm_keeps {legal : Bool} {n : Nat} {f : Word → Word → Word → Word} {o : CI} : Keeps (aluImm legal n f x o s) :=
  issueResults_keeps h

theorem vecWord_keeps {legal : Bool} {rows : List (BitVec 9 × Bool)} {n : Nat} {body : Cell → List Land × BitVec 8} :
    Keeps (vecWord x legal rows n s body) := by
  refine issueWord_keeps h ?_
  dsimp only
  split
  · trivial
  · exact .ite trivial (h.push _)

theorem vecArith_keeps {op : LaneOp} {n : Nat} {o : VR} : Keeps (vecArith op n x o s) := by
  unfold vecArith
  exact vecWord_keeps h

theorem vecArithImm_keeps {op : LaneOp} {n : Nat} {o : VI} : Keeps (vecArithImm op n x o s) := by
  unfold vecArithImm
  exact vecWord_keeps h

theorem vecPick_keeps {isMax : Bool} {o : VR} : Keeps (vecPick isMax x o s) := by
  unfold vecPick
  exact vecWord_keeps h

theorem vecPickImm_keeps {isMax : Bool} {o : VI} : Keeps (vecPickImm isMax x o s) := by
  unfold vecPickImm
  exact vecWord_keeps h

theorem vecDev_keeps {f : FV → FV × BitVec 8} {o : VR} : Keeps (vecDev f x o s) := by
  unfold vecDev
  exact vecWord_keeps h

theorem vecBits_keeps {legal : Bool} {f : Nat → Nat → Nat → Nat} {o : VR} : Keeps (vecBits legal f x o s) := by
  unfold vecBits
  exact vecWord_keeps h

theorem vecBitsImm_keeps {legal : Bool} {f : Nat → Nat → Nat → Nat} {o : VI} : Keeps (vecBitsImm legal f x o s) := by
  unfold vecBitsImm
  exact vecWord_keeps h

theorem maskWord_keeps {legal : Bool} {f : BitVec 256 → BitVec 256 → BitVec 256} {o : KR} :
    Keeps (maskWord legal f x o s) := by
  unfold maskWord
  exact issueResults_keeps h

/-! ### Loads, stores and atomics (R174 to R182) -/

theorem execLea_keeps {o : AM} : Keeps (execLea x o s) := issueWord_keeps h (by exact h.push _)

/-- A load reads its home or what the cell caches. -/
theorem loaded_canonical {home : Bool} {sp : Space} {a n : Nat} :
    (if home then readHome s sp a n else readPlain s sp a n).2.Canonical := by
  split
  · exact readHome_canonical h sp a n
  · exact readPlain_canonical h sp a n

theorem sendAccess_canonical {lands : List Land} {kind : Nat} {sp : Space} {ea : Word} {a : Nat} {bs : List Byte} {ord : Bool} :
    (sendAccess s x lands kind sp ea a bs ord).Canonical :=
  addAccess_canonical (.ite (peerFlits_canonical h _ _ _ _) h) _ _ _ _ _ _

theorem execLd_keeps {o : AM} : Keeps (execLd x o s) := by
  refine issueWord_keeps h ?_
  dsimp only
  split
  · trivial
  · next sp a t e =>
    have read := loaded_canonical (resolve_canonical h e) (home := o.ord = 1#2) (sp := sp) (a := a) (n := 2 ^ o.size.toNat)
    have opened := State.Canonical.ite (p := decide (o.ord = 1#2)) (openAcquire_canonical read s.cur o.scope.toNat) read
    refine .ite trivial (orderedGo_keeps ?_)
    exact State.Canonical.push (.ite (padLoad_canonical opened) (sendAccess_canonical opened)) _

theorem execLdv_keeps {o : AM} : Keeps (execLdv x o s) := by
  refine issueWord_keeps h ?_
  dsimp only
  split
  · trivial
  · split
    · trivial
    · next sp a t e =>
      have read := readPlain_canonical (resolve_canonical h e) sp a 256
      exact .ite trivial (orderedGo_keeps
        (State.Canonical.push (.ite (padLoad_canonical read) (sendAccess_canonical read)) _))

theorem execHld_keeps {o : AM} : Keeps (execHld x o s) := by
  refine issueWord_keeps h ?_
  dsimp only
  split
  · trivial
  · next sp a t e =>
    have sent : ∀ {lands ea bs ord}, (sendAccess (readPlain t sp a 32).2 x lands 0 sp ea a bs ord).Canonical :=
      sendAccess_canonical (readPlain_canonical (resolve_canonical h e) sp a 32)
    exact .ite trivial (orderedGo_keeps (State.Canonical.push (.ite (sent.upd _) sent) _))

theorem execSt_keeps {o : AM} : Keeps (execSt x o s) := by
  refine issueWord_keeps h ?_
  dsimp only
  split
  · trivial
  · next sp a t e =>
    have found := resolve_canonical h e
    refine .ite trivial (orderedGo_keeps ?_)
    have written : ∀ {bs}, (if decide (o.ord = 2#2) then writeHome (closePhase t s.cur o.scope.toNat) sp a bs
        else writePlain t sp a bs).Canonical :=
      .ite (writeHome_canonical (closePhase_canonical found _ _) _ _ _) (writePlain_canonical found _ _ _)
    exact State.Canonical.push (.ite written (sendAccess_canonical written)) _

theorem execStv_keeps {o : AM} : Keeps (execStv x o s) := by
  refine issueWord_keeps h ?_
  dsimp only
  split
  · trivial
  · split
    · trivial
    · next e =>
      have written := writePlain_canonical (resolve_canonical h e)
      exact .ite trivial (orderedGo_keeps
        (State.Canonical.push (.ite (written _ _ _) (sendAccess_canonical (written _ _ _))) _))

theorem execHst_keeps {o : AM} : Keeps (execHst x o s) := by
  refine issueWord_keeps h ?_
  dsimp only
  split
  · trivial
  · next e =>
    exact .ite trivial (orderedGo_keeps
      (State.Canonical.push (sendAccess_canonical (writePlain_canonical (resolve_canonical h e) _ _ _)) _))

theorem prefLine_canonical {o : AM} {t : State} (e : prefLine s o = some t) : t.Canonical := by
  unfold prefLine at e
  split at e
  · split at e
    · cases e
    · next w =>
      split at e
      · cases e
        exact l1Load_canonical (xlate_canonical h w) _ _ _
      · cases e
  · cases e

theorem execPref_keeps {o : AM} : Keeps (execPref x o s) := by
  refine issueWord_keeps h ?_
  refine orderedGo_keeps (State.Canonical.push ?_ _)
  split
  · next e => exact addAccess_canonical (prefLine_canonical h e) _ _ _ _ _ _
  · exact h.upd _

theorem atomic_canonical {sp : Space} {a n ord scope : Nat} {f : Nat → Option Nat} :
    (atomic s sp a n ord scope f).2.Canonical := by
  have read := readHome_canonical (State.Canonical.ite (p := 2 ≤ ord) (closePhase_canonical h s.cur scope) h) sp a n
  unfold atomic
  dsimp only
  generalize readHome (if 2 ≤ ord then closePhase s s.cur scope else s) sp a n = r at read ⊢
  cases f (leNat r.1) with
  | none => exact .ite (openAcquire_canonical read _ _) read
  | some v =>
    have written := writeHome_canonical read sp a (toBytes n v)
    exact .ite (openAcquire_canonical written _ _) written

theorem execAmo_keeps {o : AT} : Keeps (execAmo x o s) := by
  refine issueWord_keeps h ?_
  dsimp only
  split
  · trivial
  · next e =>
    exact .ite trivial (orderedGo_keeps (sendAccess_canonical (atomic_canonical (resolve_canonical h e))))

theorem execCas_keeps {o : AT} : Keeps (execCas x o s) := by
  refine issueWord_keeps h ?_
  dsimp only
  split
  · trivial
  · next e =>
    exact .ite trivial (orderedGo_keeps (sendAccess_canonical (atomic_canonical (resolve_canonical h e))))

/-! ### Branches and loops (R338 to R344, R379 to R382) -/

theorem execBr_keeps {o : CB} : Keeps (execBr x o s) := issueWord_keeps h (by exact h.jump)

theorem execBrc_keeps {o : CB} : Keeps (execBrc x o s) := issueWord_keeps h (by exact Issue.Keeps.go (.ite h.jump h))

theorem execBri_keeps {o : CB} : Keeps (execBri x o s) := issueWord_keeps h (by exact h.jump)

theorem execCall_keeps {o : CB} : Keeps (execCall x o s) := issueWord_keeps h (by exact (h.push _).jump)

theorem execCalli_keeps {o : CB} : Keeps (execCalli x o s) := issueWord_keeps h (by exact (h.push _).jump)

theorem execRet_keeps {o : CB} : Keeps (execRet x o s) := issueWord_keeps h (by exact h.jump)

theorem execLoop_keeps {o : CL} : Keeps (execLoop x o s) := by
  refine issueWord_keeps h ?_
  refine .ite trivial ?_
  split
  · exact fetchFails_keeps h
  · next e =>
    have found := nthBundle_canonical h e
    refine .ite trivial (.ite ?_ found.startLoop)
    split
    · exact fetchFails_keeps h
    · next e2 => exact (afterBundle_canonical found e2).jump

theorem execLoopx_keeps {o : CL} : Keeps (execLoopx x o s) := by
  refine issueWord_keeps h ?_
  split
  · trivial
  · exact h.startLoop

theorem execNop_keeps : Keeps (execNop x s) := issueWord_keeps h (by exact h)

/-! ### Tasks, gangs and barriers (R46 to R56) -/

theorem execExit_keeps {o : CS} : Keeps (execExit x o s) := issueWord_keeps h (by exact .ite (exitTask_canonical h) trivial)

theorem execSpawn_keeps {o : CS} : Keeps (execSpawn x o s) := by
  unfold execSpawn
  refine issueWord_keeps h ?_
  split
  · trivial
  · exact .ite trivial (enqueue_canonical (closePhase_canonical h _ _))

theorem execSpawng_keeps {o : CS} : Keeps (execSpawng x o s) := by
  have closed := closePhase_canonical h
  unfold execSpawng
  refine issueWord_keeps h ?_
  exact .ite trivial (.ite (closed _ _) (setRange_canonical (closed _ _)))

theorem barrierWord_keeps {legal : Bool} {n scope : BitVec 4} {f : Cell → State → State}
    (keep : ∀ t, t.Canonical → (f s.cell t).Canonical) : Keeps (barrierWord x legal n scope s f) :=
  issueWord_keeps h (by exact .ite trivial (.ite trivial (keep _ (closePhase_canonical h _ _))))

theorem execBar_keeps {o : CS} : Keeps (execBar x o s) := by
  unfold execBar
  exact barrierWord_keeps h fun _ ht => (arrive_canonical ht).upd _

theorem execBara_keeps {o : CS} : Keeps (execBara x o s) := by
  unfold execBara
  exact barrierWord_keeps h fun _ ht => arrive_canonical ht

theorem execCarve_keeps {o : CS} : Keeps (execCarve x o s) := by
  unfold execCarve
  exact barrierWord_keeps h fun _ ht => (arrive_canonical ht).upd _

theorem execBarcfg_keeps {o : CS} : Keeps (execBarcfg x o s) := by
  unfold execBarcfg
  refine issueWord_keeps h ?_
  refine .ite trivial ?_
  split
  · exact h
  · exact .ite (setGang_canonical h) h

theorem execDecpl_keeps {o : CS} : Keeps (execDecpl x o s) := by
  refine issueWord_keeps h ?_
  refine .ite ?_ trivial
  dsimp only
  split
  · exact h.upd _
  · exact setGang_canonical (h.upd _)

theorem execRejoin_keeps {o : CS} : Keeps (execRejoin x o s) := by
  refine issueWord_keeps h ?_
  refine .ite trivial ?_
  dsimp only
  split
  · exact h.upd _
  · exact setGang_canonical (h.upd _)

/-! ### Waits and fences (R179 to R181, R334) -/

theorem waitEnds_keeps {o : CS} {c : Cell} {v : Word} : (waitEnds x o c v s).Keeps := .ite (h.upd _) (h.push _)

theorem execWait_keeps {o : CS} : Keeps (execWait x o s) := by
  refine issueWord_keeps h ?_
  dsimp only
  split
  · exact waitEnds_keeps h
  · split
    · trivial
    · next sp a t e =>
      have found := resolve_canonical h e
      refine .ite trivial ?_
      split
      · trivial
      · next l => exact (homeLoad_canonical found (congrArg HomeLoad.leaves l)).upd _
      · next l =>
        have ready := homeLoad_canonical found (congrArg HomeLoad.leaves l)
        have opened := openAcquire_canonical (readHome_canonical ready sp a 8) s.cur o.scope.toNat
        exact .ite (waitEnds_keeps opened) (opened.upd _)

theorem execPhase_keeps {o : CS} : Keeps (execPhase x o s) :=
  issueWord_keeps h (by exact .ite trivial (openPhase_canonical (closePhase_canonical h _ _) _ _))

theorem execFence_keeps {o : CS} : Keeps (execFence x o s) :=
  issueWord_keeps h (by exact .ite trivial (.ite ((l1Clean_canonical h _).upd _) h))

theorem execXfence_keeps {o : CS} : Keeps (execXfence x o s) := by
  have covered := coverClass_canonical h (ci := s.cur) (a := o.clsA.toNat)
  refine issueWord_keeps h ?_
  refine .ite trivial (Issue.Keeps.go ?_)
  exact .ite (l1Open_canonical (openPhase_canonical covered _ _) _) covered

/-! ### Control registers, traps and the TLB (R111, R202, R223) -/

theorem execCrwr_keeps {o : CS} : Keeps (execCrwr x o s) := by
  unfold execCrwr
  refine issueWord_keeps h ?_
  exact .ite (h.push _) (crWritePkg_canonical h)

theorem crUpdate_keeps {set : Bool} {o : CS} : Keeps (crUpdate set x o s) := by
  unfold crUpdate
  refine issueWord_keeps h ?_
  exact .ite (h.push _) ((crWritePkg_canonical h).push _)

theorem execTrap_keeps {o : CS} : Keeps (execTrap x o s) := issueWord_keeps h (by exact h.upd _)

theorem execBrk_keeps {o : CS} : Keeps (execBrk x o s) := issueWord_keeps h (by exact .ite (h.upd _) trivial)

theorem execTret_keeps {o : CS} : Keeps (execTret x o s) := by
  have left := (resumeHeld_canonical h (ci := s.cur)).upd leaveHandler
  exact issueWord_keeps h (by exact .ite trivial (.ite (abortTask_canonical h _) (.ite ((left.report _).upd _) left)))

theorem execTlbi_keeps {o : CS} : Keeps (execTlbi x o s) := issueWord_keeps h (by exact (takeTlbi_canonical h).push _)

/-! ### Region words (R299 to R304) -/

theorem execAccb_keeps {o : CB} : Keeps (execAccb x o s) := by
  refine issueWord_keeps h ?_
  dsimp only
  split
  · trivial
  · next e =>
    have found := descAccess_canonical h e
    refine .ite trivial ?_
    split
    · trivial
    · next l => exact homeLoad_canonical found (congrArg HomeLoad.leaves l)
    · next l =>
      exact .ite trivial ((sendAccord_canonical (homeLoad_canonical found (congrArg HomeLoad.leaves l))).upd _)

theorem execAcce_keeps {o : CB} : Keeps (execAcce x o s) := by
  refine issueWord_keeps h ?_
  dsimp only
  split
  · exact h
  · refine .ite h ?_
    split
    · exact h.upd _
    · exact .ite (sendAccord_canonical (h.upd _)) (h.upd _)

theorem execAccinv_keeps {o : CS} : Keeps (execAccinv x o s) := by
  refine issueWord_keeps h ?_
  dsimp only
  split
  · trivial
  · next e =>
    have found := (descAccess_canonical h e).upd
    refine orderedIssue_keeps ?_
    split
    · exact found _
    · exact (sendAccord_canonical (found _)).upd _

end

end Sys2Proof.Machine
end

section
/-! PROOF of O60, part 7: the words of the matrix unit and of the engines, and the events that the agents raise. -/

namespace Sys2Proof.Machine

variable {s : State} (h : s.Canonical) {x : Header}

theorem gatherWait_keeps {c : Cell} {o : ML} {r : Issue} (e : gatherWait c o = some r) : r.Keeps := by
  unfold gatherWait at e
  split at e
  · cases e
  · split at e
    · cases e
      trivial
    · dsimp only at e
      split_ifs at e
      · cases e
        trivial
      · cases e
        trivial

section
include h

/-! ### Matrix words (R140 to R159) -/

theorem loadWord_keeps {isB legal : Bool} {o : ML} : Keeps (loadWord isB legal x o s) := by
  unfold loadWord
  refine issueWord_keeps h ?_
  split
  · next e => exact gatherWait_keeps e
  · split
    · trivial
    · next e => exact enqueueLoad_keeps (planLoad_canonical h e)

theorem execMcode_keeps {o : ML} : Keeps (execMcode x o s) := by
  unfold execMcode
  refine issueWord_keeps h ?_
  split
  · trivial
  · next e => exact enqueueLoad_keeps (srcFlits_canonical (mSegs_canonical h e))

theorem execMstore_keeps {o : MS} : Keeps (execMstore x o s) := by
  unfold execMstore
  refine issueWord_keeps h ?_
  split
  · trivial
  · next e => exact enqueueLoad_keeps (srcFlits_canonical (mSegs_canonical h e))

theorem execMma_keeps {o : MM} : Keeps (execMma x o s) := by
  unfold execMma
  refine issueWord_keeps h ?_
  split
  · trivial
  · exact .ite trivial (enqueueM_keeps h)

theorem execMzero_keeps {o : MM} : Keeps (execMzero x o s) := by
  refine issueWord_keeps h ?_
  split
  · trivial
  · exact enqueueM_keeps h

theorem execMcfg_keeps {o : MM} : Keeps (execMcfg x o s) := by
  refine issueWord_keeps h ?_
  split
  · trivial
  · exact enqueueM_keeps h

theorem execMstz_keeps {o : MZ} : Keeps (execMstz x o s) := by
  unfold execMstz
  refine issueWord_keeps h ?_
  split
  · trivial
  · refine .ite trivial ?_
    split
    · trivial
    · next e => exact enqueueLoad_keeps (planStore_canonical h e)

theorem execMldz_keeps {o : MZ} : Keeps (execMldz x o s) := by
  unfold execMldz
  refine issueWord_keeps h ?_
  split
  · trivial
  · refine .ite trivial ?_
    split
    · trivial
    · next e => exact enqueueLoad_keeps (planFill_canonical h e)

theorem execMcall_keeps {o : MC} : Keeps (execMcall x o s) := issueWord_keeps h (by exact .ite trivial (enqueueLoad_keeps h))

theorem execMfmt_keeps {o : MF} : Keeps (execMfmt x o s) := issueWord_keeps h (by exact enqueueM_keeps h)

theorem execMloop_keeps {o : MC} : Keeps (execMloop x o s) := issueWord_keeps h (by exact h)

theorem execMend_keeps {o : MC} : Keeps (execMend x o s) := issueWord_keeps h (by exact h)

/-! ### Engine words (R232, R296) -/

/-- An engine word launches one command. -/
theorem engineWord_keeps {op : EOp} {o : EC} {legal : Bool} {f : Cell → Cmd → Cmd} :
    Keeps (engineWord op x o legal s fun c y => .go (launchCmd s (f c y))) :=
  issueWord_keeps h (orderedGo_keeps (launchCmd_canonical h))

theorem coreDbar_canonical {o : EC} : (coreDbar x o s).Canonical := .ite h (.ite h h)

theorem execDbar_keeps {o : EC} : Keeps (execDbar x o s) := .ite (coreDbar_canonical h) (issueWord_keeps h (by exact h))

/-! ### Events of the cells -/

theorem boundaryEvent_keeps {c : BitVec 9} {b : Boundary} : Keeps (boundaryEvent c b s) :=
  State.Canonical.ite (takeEvent_canonical h) h

theorem execMachineCheck_keeps {c : BitVec 9} {access : Option Nat} {pa : BitVec 64} :
    Keeps (execMachineCheck c access pa s) := by
  refine .ite ((dropReader_canonical (h.report _)).updAt _ _) ?_
  split
  · exact h
  · exact dropReader_canonical (h.report _)

theorem execTranslationWalkDone_keeps {c : BitVec 9} {va : BitVec 64} : Keeps (execTranslationWalkDone c va s) := by
  refine .ite h ?_
  split
  · next e => exact xlate_canonical h e
  · next e _ => exact xlate_canonical h e
  · next e _ _ => exact xlate_canonical h e
  · exact h

theorem execL1LineEviction_keeps {c : BitVec 9} {line : Nat} {code : Bool} : Keeps (execL1LineEviction c line code s) :=
  .ite (h.updAt _ _) (State.Canonical.flush (h.updAt _ _) _)

theorem execFastPathMapDone_keeps {c : BitVec 9} : Keeps (execFastPathMapDone c s) := by
  refine .ite h ?_
  dsimp only
  split
  · exact h
  · split
    · exact h
    · exact .ite h (.ite h ((h.with_pkg.store _ _).with_pkg.updAt _ _))

theorem execLatchTransfer_keeps {c : BitVec 9} : Keeps (execLatchTransfer c s) :=
  startAsked_canonical h fun _ ht => latchRun_canonical ht

theorem execMmaStart_keeps {c : BitVec 9} : Keeps (execMmaStart c s) := by
  refine .ite h ?_
  split
  · next e => exact drainM_canonical ((startJob_canonical h e).updAt _ _)
  · exact h

theorem execTilePipeStart_keeps {c : BitVec 9} : Keeps (execTilePipeStart c s) :=
  startAsked_canonical h fun _ ht => pipeRun_canonical ht

theorem execEngineCommandComplete_keeps {id : Nat} : Keeps (execEngineCommandComplete id s) := by
  unfold execEngineCommandComplete
  split
  · exact h
  · exact .ite h (settleAsks_canonical (awaitDomain_canonical (setCmd_canonical h) fun _ ht => runCmd_canonical ht))

/-! ### Dispatch, preemption and launches (R37 to R56, R207 to R217) -/

theorem execDispatchDecision_keeps {scout : Bool} : Keeps (execDispatchDecision scout s) := by
  have chosen := each_first (turn := victims scout) (fun _ _ hp => victims_canonical hp) (p := (s, [])) h (stagesOf s scout)
  exact State.Canonical.ite (resetCredits_canonical (decideDispatch_canonical chosen)) chosen

theorem execPreemption_keeps {c : BitVec 9} : Keeps (execPreemption c s) := by
  have left := withdraw_canonical h (c := c)
  exact .ite h (.ite left
    (saveCell_canonical (settleFlight_canonical (l1Empty_canonical (markVictim_canonical left))) left))

theorem execTaskRestore_keeps {c : BitVec 9} : Keeps (execTaskRestore c s) := by
  unfold execTaskRestore
  split
  · exact h
  · refine .ite h ?_
    split
    · exact h
    · have taken := fun f y => l1Empty_canonical (dropSaved_canonical (h.updAt c f) (y := y)) (c := c)
      refine resetCredits_canonical (.ite ?_ (taken _ _))
      exact (taken _ _).with_pkg

theorem execEmergencyAreaFree_keeps {scout : Bool} : Keeps (execEmergencyAreaFree scout s) := by
  unfold execEmergencyAreaFree
  dsimp only
  split
  · exact h
  · next e =>
    have copied := copyBack_canonical h e
    exact joinDie_canonical (by exact copied)

theorem execCellClearDone_keeps {c : BitVec 9} : Keeps (execCellClearDone c s) := .ite ((l1Empty_canonical h).updAt _ _) h

theorem execCarveRelease_keeps {gang : Nat} : Keeps (execCarveRelease gang s) := by
  unfold execCarveRelease
  split
  · exact h
  · split
    · exact h
    · exact State.Canonical.each (fun _ _ ht => carveMember_canonical ht) (carveSaved_canonical (setGang_canonical h)) _

theorem execSpawnUnitEnqueue_keeps {c : BitVec 9} : Keeps (execSpawnUnitEnqueue c s) := by
  unfold execSpawnUnitEnqueue
  split
  · exact h
  · split
    · exact h
    · exact .ite h (enqueue_canonical (setRange_canonical h))

theorem execSeedEnqueue_keeps {launch : Nat} : Keeps (execSeedEnqueue launch s) :=
  awaitDomain_canonical h fun _ ht => nextSeed_canonical ht

theorem execLaunchEntryRead_keeps : Keeps (execLaunchEntryRead s) := by
  unfold execLaunchEntryRead
  dsimp only
  split
  · exact h
  · split
    · exact entryWrite_canonical h.with_pkg _ _ _
    · exact admitNext_canonical (by exact h)

theorem execLaunchComplete_keeps {launch : Nat} : Keeps (execLaunchComplete launch s) := by
  unfold execLaunchComplete
  split
  · exact h
  · exact .ite (entryWrite_canonical h _ _ _).with_tasks h

/-! ### The package, the host and peers (R15 to R24, R192 to R207) -/

theorem execHostWriteAccept_keeps {src : Origin} {pa : BitVec 56} {bytes : List Byte} :
    Keeps (execHostWriteAccept src pa bytes s) := by
  refine .ite ?_ h
  split
  · exact h
  · next e =>
    have taken := admitOrigin_canonical h e
    exact respond_canonical (by exact taken)

theorem execHostWritePerform_keeps {i : Nat} : Keeps (execHostWritePerform i s) := by
  unfold execHostWritePerform
  split
  · exact h
  · exact .ite h (performInbound_canonical (by exact h) _)

theorem execHostRead_keeps {pa : BitVec 56} {n : Nat} : Keeps (execHostRead pa n s) := .ite h h

theorem execPeerInboundAccess_keeps {t : PeerTarget} {op : BitVec 4} {size : BitVec 2} {v : BitVec 128} :
    Keeps (execPeerInboundAccess t op size v s) := by
  refine .ite h ?_
  split
  · exact h
  · next e =>
    have taken := admitOrigin_canonical h e
    have answered := fun r src a bs => respond_canonical (taken.with_response (r := r)) (src := src) (a := a) (bs := bs)
    exact .ite (answered _ _ _ _)
      (.ite (.ite ((answered _ _ _ _).store _ _) (answered _ _ _ _)) ((answered _ _ _ _).store _ _))

theorem execReportRecord_keeps : Keeps (execReportRecord s) := by
  unfold execReportRecord
  dsimp only
  split
  · exact h
  · exact .ite h (.ite h (h.store _ _).with_pkg)

omit h in
/-- A package reset empties both memories. -/
theorem execPackageReset_keeps {firmware frame0 scout : Bool} : Keeps (execPackageReset firmware frame0 scout s) :=
  ⟨rfl, rfl⟩

theorem execContextCreate_keeps : Keeps (execContextCreate s) := .ite h (.ite h h)

theorem execContextDestroy_keeps : Keeps (execContextDestroy s) :=
  .ite h (.ite h (.ite h (.ite h (cxDone_canonical (dropEverywhere_canonical h).with_pkg))))

theorem execContextInvalidate_keeps {whole : Bool} : Keeps (execContextInvalidate whole s) :=
  .ite h (.ite h (.ite h (cxDone_canonical (dropEverywhere_canonical h)).with_pkg))

theorem execContextSetPool_keeps : Keeps (execContextSetPool s) := .ite h (.ite h (.ite h (.ite h h)))

theorem execQuiesceAdvance_keeps : Keeps (execQuiesceAdvance s) := by
  unfold execQuiesceAdvance
  split
  · exact h
  · exact .ite h h

theorem execQuarantineRelease_keeps : Keeps (execQuarantineRelease s) := by
  unfold execQuarantineRelease
  split
  · exact h
  · exact h

/-! ### Text, rounds, slots and ticks (R226 to R276) -/

theorem execTextInstallVocabulary_keeps {i : BitVec 12} : Keeps (execTextInstallVocabulary i s) := by
  refine .ite h (.ite h ?_)
  split
  · exact textDone_canonical h
  · exact textDone_canonical (setVocabs_canonical h)

/-- Whether the grammar fits is left open: `gramRoom` compares with a large numeral. -/
theorem execTextInstallGrammar_keeps {i : BitVec 12} : Keeps (execTextInstallGrammar i s) := by
  unfold execTextInstallGrammar
  dsimp only
  generalize gramRoom s i.toNat = room
  refine .ite h (.ite (textDone_canonical h) ?_)
  split
  · exact textDone_canonical h
  · exact .ite (textDone_canonical (setGrams_canonical h)) (textDone_canonical h)

theorem execTextRemoveVocabulary_keeps {i : BitVec 12} : Keeps (execTextRemoveVocabulary i s) :=
  .ite h (.ite h (.ite h (textDone_canonical (setVocabs_canonical h))))

theorem execTextRemoveGrammar_keeps {i : BitVec 12} : Keeps (execTextRemoveGrammar i s) :=
  .ite h (.ite h (.ite h (textDone_canonical (setGrams_canonical h))))

theorem execOutputDrain_keeps {slot : BitVec 12} : Keeps (execOutputDrain slot s) :=
  awaitDomain_canonical h fun _ ht => drainSlot_canonical ht

theorem execRoundDraftEnqueue_keeps {slot : BitVec 12} : Keeps (execRoundDraftEnqueue slot s) := by
  refine .ite h ?_
  split
  · exact h
  · exact .ite h (enqueue_canonical (h.setSlot _ _))

theorem execQuorumDecision_keeps {slot : BitVec 12} : Keeps (execQuorumDecision slot s) := by
  have bound := rebind_canonical h (slot := slot.toNat)
  unfold execQuorumDecision
  dsimp only
  split
  · exact bound
  · split
    · exact bound.updSlot
    · exact awaitDomain_canonical bound fun _ ht => decideBound_canonical ht

theorem execSieveList_keeps {id : Nat} : Keeps (execSieveList id s) := by
  unfold execSieveList
  split
  · exact h
  · exact .ite (formList_canonical h) h

theorem execBroodSnapshot_keeps : Keeps (execBroodSnapshot s) :=
  State.Canonical.each (fun _ _ ht => snapshotSlot_canonical ht) h _

theorem execMediaRecordArrival_keeps {ring : Bool} : Keeps (execMediaRecordArrival ring s) := by
  refine .ite ?_ ?_
  · split
    · exact h
    · exact acceptRec_canonical (by exact h)
  · split
    · exact h
    · exact acceptRec_canonical (by exact h)

theorem execTick_keeps {slot : BitVec 12} : Keeps (execTick slot s) := by
  refine .ite h (.ite (h.setSlot _ _) ?_)
  split
  · exact h.setSlot _ _
  · exact .ite (h.setSlot _ _) (enqueue_canonical (snapshotWindow_canonical h))

theorem execTimeLockLoss_keeps : Keeps (execTimeLockLoss s) := .ite h h

theorem execTimeRelock_keeps {offset : Nat} {forward : Bool} : Keeps (execTimeRelock offset forward s) :=
  .ite h (.ite h (State.Canonical.each (fun _ _ ht => jumpTicks_canonical ht) (by exact h) _))

/-! ### Channels, the domain and regions (R277 to R309) -/

theorem execReduceResultArrival_keeps {ch : BitVec 10} {res : RoundResult 128} : Keeps (execReduceResultArrival ch res s) := by
  unfold execReduceResultArrival
  split
  · exact h
  · next e => exact takeResult_canonical h e
  · next e =>
    have taken := takeResult_canonical h e
    refine .ite taken ?_
    dsimp only
    split
    · exact taken
    · exact awaitDomain_canonical (setChan_canonical taken) fun _ ht => finishRed_canonical ht

theorem execRescalePhase1Result_keeps {ch : BitVec 10} {res : RoundResult 32} : Keeps (execRescalePhase1Result ch res s) := by
  unfold execRescalePhase1Result
  split
  · exact h
  · next e => exact takeResult_canonical h e
  · next e =>
    have taken := takeResult_canonical h e
    refine .ite taken (.ite h (sendOut_canonical ?_))
    split
    · exact taken
    · exact setCmd_canonical (setChan_canonical taken)

theorem execDomainRevoke_keeps : Keeps (execDomainRevoke s) := State.Canonical.ite (erase_canonical (pdTaken_canonical h)) h

theorem execTamperSensor_keeps {source : BitVec 8} : Keeps (execTamperSensor source s) :=
  State.Canonical.ite (erase_canonical h) h

theorem execDomainForm_keeps {reports : List Measured} {secret : BitVec 384} : Keeps (execDomainForm reports secret s) := by
  have taken := pdTaken_canonical h
  unfold execDomainForm
  refine .ite (endForming_canonical h) (.ite h ?_)
  dsimp only
  generalize pdTaken s = t at taken ⊢
  generalize manifest s = m
  exact .ite taken (.ite (raiseAlarm_canonical taken) (.ite taken taken))

theorem execDomainLeave_keeps : Keeps (execDomainLeave s) := .ite h (.ite h h)

theorem execRekeyBarrierComplete_keeps {reports : List Measured} : Keeps (execRekeyBarrierComplete reports s) :=
  State.Canonical.ite (rekey_canonical (settleAsks_canonical h)) (settleAsks_canonical h)

theorem execRekeyDrainTimeout_keeps {reports : List Measured} : Keeps (execRekeyDrainTimeout reports s) :=
  .ite (rekey_canonical (State.Canonical.each (fun _ _ ht => .ite (endRounds_canonical ht) ht) h _)) h

theorem execDomainFlitReceive_keeps {hdr : BitVec 128} {ue tagOk : Bool} : Keeps (execDomainFlitReceive hdr ue tagOk s) :=
  .ite h (.ite (countAuth_canonical h) (.ite (.ite (admitFlit_canonical (by exact h)) (countSeq_canonical h))
    (.ite (countSeq_canonical h) (admitFlit_canonical (by exact h)))))

theorem execAccordDecision_keeps {e : BitVec 2} : Keeps (execAccordDecision e s) :=
  awaitDomain_canonical h fun _ ht => decideHead_canonical ht

theorem execAccordSample_keeps {e : BitVec 2} : Keeps (execAccordSample e s) :=
  awaitDomain_canonical h fun _ ht => sampleHead_canonical ht

theorem execAccordEpoch_keeps {e : BitVec 2} {key : RegionKey} : Keeps (execAccordEpoch e key s) :=
  awaitDomain_canonical h fun _ ht => epochOf_canonical ht

end

end Sys2Proof.Machine
end

section
/-! PROOF of O60, part 8: every instruction and every event keeps both memories canonical. -/

namespace Sys2Proof.Machine

theorem exec_keeps {s : State} (h : s.Canonical) (i : Instr) : Keeps (exec i s) := by
  unfold exec
  cases i with
  | add | sub | mul | mulh | div | rem | and | or | xor | shl | shr | sra | min | max | cmp | sel | clz | popc | brev
  | ext | bfx | bfi =>
    exact aluReg_keeps h
  | addImm | subImm | mulImm | mulhImm | divImm | remImm | andImm | orImm | xorImm | shlImm | shrImm | li | lih =>
    exact aluImm_keeps h
  | br => exact execBr_keeps h
  | brc => exact execBrc_keeps h
  | bri => exact execBri_keeps h
  | call => exact execCall_keeps h
  | calli => exact execCalli_keeps h
  | ret => exact execRet_keeps h
  | loop => exact execLoop_keeps h
  | loopx => exact execLoopx_keeps h
  | exit => exact execExit_keeps h
  | spawn => exact execSpawn_keeps h
  | spawng => exact execSpawng_keeps h
  | bar => exact execBar_keeps h
  | bara => exact execBara_keeps h
  | barcfg => exact execBarcfg_keeps h
  | wait => exact execWait_keeps h
  | phase => exact execPhase_keeps h
  | fence => exact execFence_keeps h
  | xfence => exact execXfence_keeps h
  | carve => exact execCarve_keeps h
  | decpl => exact execDecpl_keeps h
  | rejoin => exact execRejoin_keeps h
  | crrd | rdtime | amov | aget | aadd | amode | aupd | hset | hget | kpopc | msetq => exact issueResults_keeps h
  | crwr => exact execCrwr_keeps h
  | crset | crclr => exact crUpdate_keeps h
  | trap => exact execTrap_keeps h
  | tret => exact execTret_keeps h
  | brk => exact execBrk_keeps h
  | tlbi => exact execTlbi_keeps h
  | accb => exact execAccb_keeps h
  | acce => exact execAcce_keeps h
  | accinv => exact execAccinv_keeps h
  | nop => exact execNop_keeps h
  | ld => exact execLd_keeps h
  | st => exact execSt_keeps h
  | ldv => exact execLdv_keeps h
  | stv => exact execStv_keeps h
  | amo => exact execAmo_keeps h
  | cas => exact execCas_keeps h
  | pref => exact execPref_keeps h
  | lea => exact execLea_keeps h
  | hld => exact execHld_keeps h
  | hst => exact execHst_keeps h
  | vadd | vsub | vmul | vfma => exact vecArith_keeps h
  | vaddImm | vsubImm | vmulImm | vfmaImm => exact vecArithImm_keeps h
  | vmin | vmax => exact vecPick_keeps h
  | vminImm | vmaxImm => exact vecPickImm_keeps h
  | vrcp | vrsq | vexp2 | vlog2 | vtanh => exact vecDev_keeps h
  | vcvt | vcmp | vsel | vmov | vbcast | vext | vins | vperm | viota | vred => exact vecWord_keeps h
  | vand | vor | vxor | vshl | vshr => exact vecBits_keeps h
  | vandImm | vorImm | vxorImm | vshlImm | vshrImm => exact vecBitsImm_keeps h
  | kand | kor | kxor | kmov => exact maskWord_keeps h
  | mla | mlb => exact loadWord_keeps h
  | mma => exact execMma_keeps h
  | mzero => exact execMzero_keeps h
  | mcfg => exact execMcfg_keeps h
  | mstz => exact execMstz_keeps h
  | mldz => exact execMldz_keeps h
  | mcall => exact execMcall_keeps h
  | mfmt => exact execMfmt_keeps h
  | mcode => exact execMcode_keeps h
  | mstore => exact execMstore_keeps h
  | mloop => exact execMloop_keeps h
  | mend => exact execMend_keeps h
  | cpy | chsend | chrecv | chred | qprop | qver | qres | bset | bget | sieve | tokz | detok | gadv | gmask | sltick
  | slpin | slget =>
    exact engineWord_keeps h
  | dbar => exact execDbar_keeps h
  | engineFault | grammarOverflow | microFault | numericLimit | stepTrap | softwareTrapTaken => exact boundaryEvent_keeps h
  | machineCheck => exact execMachineCheck_keeps h
  | variableResultLand | cellAccessPerformed => exact completeAccess_canonical h
  | mmaRetire => exact retireMma_canonical h
  | mcallRoutineRun => exact startRoutine_canonical h
  | parkRelease => exact h.with_tasks
  | launchAdmit => exact admitNext_canonical h
  | lqtailWrite | lqcfgWrite | clockGlideEnd | linkPortDown | mediaRingTailWrite | mdcfgWrite => exact h.with_pkg
  | fclkWrite => exact writeFclk_canonical h
  | registerWrite => exact bar0Write_canonical h
  | throttleWindow => exact setThrottle_canonical h
  | fimeasClrpk => exact clearPeak_canonical h
  | frameRailOk | frameBringupTimeout => exact ownId_canonical h.with_pkg
  | linkPortUp => exact State.Canonical.ite h.with_pkg h
  | nxWindowStart | waitTimeout => exact h.updAt _ _
  | efctlResume => exact State.Canonical.ite (resumeHeld_canonical h) h
  | efctlAbandon => exact State.Canonical.ite (abandonHeld_canonical h) h
  | fpreqWrite => exact State.Canonical.ite (writeFpreq_canonical h) h
  | contextBadCommand => exact State.Canonical.ite (cxDone_canonical h) h
  | channelInstall | channelRemove => exact chanCommand_canonical h
  | channelMessageArrival | mediaUeMessage => exact takeMessage_canonical h
  | pderrWindow => exact h
  | accordDescriptorWrite => exact invalidate_canonical h
  | engineCommandComplete => exact execEngineCommandComplete_keeps h
  | translationWalkDone => exact execTranslationWalkDone_keeps h
  | latchTransfer => exact execLatchTransfer_keeps h
  | mmaStart => exact execMmaStart_keeps h
  | tilePipeStart => exact execTilePipeStart_keeps h
  | dispatchDecision => exact execDispatchDecision_keeps h
  | preemption => exact execPreemption_keeps h
  | emergencyAreaFree => exact execEmergencyAreaFree_keeps h
  | taskRestore => exact execTaskRestore_keeps h
  | cellClearDone => exact execCellClearDone_keeps h
  | carveRelease => exact execCarveRelease_keeps h
  | spawnUnitEnqueue => exact execSpawnUnitEnqueue_keeps h
  | seedEnqueue => exact execSeedEnqueue_keeps h
  | launchEntryRead => exact execLaunchEntryRead_keeps h
  | launchComplete => exact execLaunchComplete_keeps h
  | packageReset => exact execPackageReset_keeps
  | hostWriteAccept => exact execHostWriteAccept_keeps h
  | hostWritePerform => exact execHostWritePerform_keeps h
  | hostRead => exact execHostRead_keeps h
  | reportRecord => exact execReportRecord_keeps h
  | fastPathMapDone => exact execFastPathMapDone_keeps h
  | contextCreate => exact execContextCreate_keeps h
  | contextDestroy => exact execContextDestroy_keeps h
  | contextInvalidate => exact execContextInvalidate_keeps h
  | contextSetPool => exact execContextSetPool_keeps h
  | quiesceAdvance => exact execQuiesceAdvance_keeps h
  | quarantineRelease => exact execQuarantineRelease_keeps h
  | broodSnapshot => exact execBroodSnapshot_keeps h
  | roundDraftEnqueue => exact execRoundDraftEnqueue_keeps h
  | quorumDecision => exact execQuorumDecision_keeps h
  | sieveList => exact execSieveList_keeps h
  | outputDrain => exact execOutputDrain_keeps h
  | textInstallVocabulary => exact execTextInstallVocabulary_keeps h
  | textInstallGrammar => exact execTextInstallGrammar_keeps h
  | textRemoveVocabulary => exact execTextRemoveVocabulary_keeps h
  | textRemoveGrammar => exact execTextRemoveGrammar_keeps h
  | reduceResultArrival => exact execReduceResultArrival_keeps h
  | domainFlitReceive => exact execDomainFlitReceive_keeps h
  | domainForm => exact execDomainForm_keeps h
  | domainLeave => exact execDomainLeave_keeps h
  | domainRevoke => exact execDomainRevoke_keeps h
  | tamperSensor => exact execTamperSensor_keeps h
  | rekeyBarrierComplete => exact execRekeyBarrierComplete_keeps h
  | rekeyDrainTimeout => exact execRekeyDrainTimeout_keeps h
  | mediaRecordArrival => exact execMediaRecordArrival_keeps h
  | tick => exact execTick_keeps h
  | timeLockLoss => exact execTimeLockLoss_keeps h
  | timeRelock => exact execTimeRelock_keeps h
  | accordDecision => exact execAccordDecision_keeps h
  | accordSample => exact execAccordSample_keeps h
  | accordEpoch => exact execAccordEpoch_keeps h
  | l1LineEviction => exact execL1LineEviction_keeps h
  | peerInboundAccess => exact execPeerInboundAccess_keeps h
  | rescalePhase1Result => exact execRescalePhase1Result_keeps h

end Sys2Proof.Machine
end

section
/-! PROOF of O60, part 9: bundles, the turns of cells and the step. -/

namespace Sys2Proof.Machine

variable {s : State} (h : s.Canonical)

theorem Checked.settle_keeps {k : Checked} (kept : ∀ u, k.polled = some u → u.Canonical) {held : State}
    (hh : held.Canonical) {all : List Formed} : (k.settle held all).Keeps := by
  unfold Checked.settle
  split
  · exact hh
  · split
    · exact hh
    · split
      · next e => exact kept _ e
      · exact hh

/-- Each word is tried on the machine before the bundle. -/
theorem checkWords_keeps {held : State} (hh : held.Canonical) {all before fs : List Formed} {k : Checked}
    (kept : ∀ u, k.polled = some u → u.Canonical) : (checkWords held all before fs k).Keeps := by
  induction fs generalizing before k with
  | nil => exact Checked.settle_keeps kept hh
  | cons f r ih =>
    have trap : ∀ {x}, (takeTrap held held.cur x held.cell.pipe.pc true).Canonical := takeTrap_canonical hh _ _ _ _
    unfold checkWords
    dsimp only
    split
    · exact trap
    · split
      · next e =>
        have run := (exec_keeps hh _).next e
        split
        · exact trap
        · split
          · exact run
          · exact ih kept
          · exact ih kept
          · exact ih fun u e => by cases e; exact run
          · exact ih kept
      · exact exec_keeps hh _

section
include h

theorem attempt_keeps {c : BitVec 9} : (attempt s c).Keeps := by
  have ready : State.Canonical { drainM (issueCycle s c) c with cur := c } :=
    (drainM_canonical (issueCycle_canonical h)).with_cur
  unfold attempt
  dsimp only
  generalize ({ drainM (issueCycle s c) c with cur := c } : State) = s1 at ready ⊢
  split
  · exact takeNow_canonical ready
  · split
    · split
      · exact askLine_canonical ready
      · exact takeTrap_canonical ready _ _ _ _
    · next e =>
      have fetched := bundleWords_canonical ready e
      have spent := fun n => spendPd_canonical fetched (c := c) (n := n)
      split
      · exact takeNow_canonical (spent _)
      · split
        · exact spent _
        · split
          · exact takeTrap_canonical (spent _) _ _ _ _
          · exact checkWords_keeps (updPipe_canonical (spent _)) fun _ e => by cases e

/-! ### Issuing a bundle (R71 to R79) -/

theorem issueWords_canonical {fs : List Formed} {pend alloc : BitVec 8} {t : State} (e : issueWords s fs pend alloc = some t) :
    t.Canonical := by
  induction fs generalizing s alloc with
  | nil =>
    cases e
    exact updPipe_canonical h
  | cons f r ih =>
    unfold issueWords at e
    split at e
    · cases e
    · split at e
      · next x =>
        split at e
        · exact ih ((exec_keeps (updPipe_canonical h) _).next x) e
        · cases e
      · cases e

theorem issueReturn_canonical {fs : List Formed} {t : State} (e : issueReturn s fs = some t) : t.Canonical := by
  unfold issueReturn at e
  split at e
  · cases e
  · next x =>
    have others := (issueWords_canonical h x).tickAt
    dsimp only at e
    split at e
    · cases e
    · next y =>
      cases e
      exact updPipe_canonical (issueWords_canonical (updPipe_canonical (others _)) y)

theorem issueExit_canonical {fs : List Formed} {t : State} (e : issueExit s fs = some t) : t.Canonical := by
  obtain ⟨u, issued, rfl⟩ := Option.map_eq_some_iff.1 e
  exact (exitTask_canonical (issueWords_canonical h issued)).mark

theorem issueBundle_canonical {fs : List Formed} {t : State} (e : issueBundle s fs = some t) : t.Canonical := by
  obtain ⟨u, issued, rfl⟩ := Option.map_eq_some_iff.1 e
  have done : u.Canonical := by
    split_ifs at issued
    · exact issueReturn_canonical h issued
    · exact issueExit_canonical h issued
    · exact issueWords_canonical h issued
  exact .ite done (updPipe_canonical done)

/-! ### After a bundle (R76, R316, R380) -/

theorem nextBundle_canonical {c : BitVec 9} {user : Bool} {w : BitVec 32} : (nextBundle s c user w).Canonical := by
  unfold nextBundle
  split
  · exact ticks_canonical (updPipe_canonical h)
  · exact updPipe_canonical h

theorem finishBundle_canonical {before : State} {c : BitVec 9} : (finishBundle before s c).Canonical := by
  have booked := h.updAt c
  exact .ite (booked _) (.ite (updPipe_canonical (booked _)) (.ite
    (.ite (nextBundle_canonical (booked _)) (updPipe_canonical (booked _)))
    (.ite (updEvents_canonical (nextBundle_canonical (booked _))) (nextBundle_canonical (booked _)))))

theorem completeAccb_canonical {c : BitVec 9} : (completeAccb s c).Canonical := by
  unfold completeAccb
  split
  · have on := fun f g w =>
      nextBundle_canonical (updPipe_canonical (h.updAt c f) (c := c) (f := g)) (c := c) (user := true) (w := w)
    exact .ite (updEvents_canonical (on _ _ _)) (on _ _ _)
  · exact h

theorem holdBundle_canonical {c : BitVec 9} : (holdBundle s c).Canonical := (updPipe_canonical h).mark

theorem idleBundle_canonical {c : BitVec 9} : (idleBundle s c).Canonical := (updPipe_canonical (h.tickAt _)).mark

/-! ### Turns -/

theorem issueAll_canonical {cs : List (BitVec 9)} {t : State} (e : issueAll cs s = some t) : t.Canonical := by
  induction cs generalizing s with
  | nil => cases e; exact h
  | cons c r ih =>
    have tried := attempt_keeps h (c := c)
    unfold issueAll at e
    split at e
    · next x =>
      rw [x] at tried
      split at e
      · cases e
      · next y =>
        split at e
        · cases e
        · exact ih (issueBundle_canonical tried y) e
    · cases e

theorem heldOver_canonical {c : BitVec 9} {idle : Bool} : (heldOver s c idle).Canonical := by
  have tried := attempt_keeps h (c := c)
  have waits : ∀ t : State, t.Canonical → ((if idle then idleBundle else holdBundle) t c).Canonical := by
    intro t ht
    split
    · exact idleBundle_canonical ht
    · exact holdBundle_canonical ht
  unfold heldOver
  split
  · next x => rw [x] at tried; exact waits _ tried
  · next x => rw [x] at tried; exact waits _ tried
  · next x => rw [x] at tried; exact idleBundle_canonical tried
  · exact h

theorem isTrapped_attempt_canonical {c : BitVec 9} {t : State} (e : isTrapped (attempt s c) = some t) : t.Canonical := by
  have tried := attempt_keeps h (c := c)
  unfold isTrapped at e
  split at e
  · next x => cases e; rw [x] at tried; exact tried
  · cases e

theorem bundleTurn_keeps {cs : List (BitVec 9)} : Keeps (bundleTurn s cs) := by
  unfold bundleTurn
  dsimp only
  split
  · next e =>
    obtain ⟨p, hp, found⟩ := List.exists_of_findSome?_eq_some e
    obtain ⟨c, -, rfl⟩ := List.mem_map.1 hp
    have tried : (c, attempt s c).2.Keeps := attempt_keeps h
    split at found
    · next x => cases found; rw [x] at tried; exact tried
    · next x => cases found; rw [x] at tried; exact tried
    · cases found
  · split
    · refine State.Canonical.each (fun t c ht => ?_) h _
      cases x : isTrapped (attempt t c) with
      | none => exact ht
      | some u => exact (isTrapped_attempt_canonical ht x).mark
    · split
      · exact State.Canonical.each (fun _ _ ht => heldOver_canonical ht) h _
      · next e =>
        split at e
        · cases e
        · exact settleGang_canonical
            (State.Canonical.each (fun _ _ ht => finishBundle_canonical ht) (issueAll_canonical h e) _) _

theorem decisionTurn_canonical {c : BitVec 9} : (decisionTurn s c).Canonical :=
  .ite (State.Canonical.each (fun _ _ ht => completeAccb_canonical ht) h _) h

theorem openFirst_canonical {c : BitVec 9} : (openFirst s c).Canonical := .ite h (openPhase_canonical (h.updAt _ _) _ _)

theorem takeMisuse_canonical {c : BitVec 9} {n : BitVec 4} : (takeMisuse s c n).Canonical :=
  (takeTrap_canonical ((issueCycle_canonical h).updAt _ _) _ _ _ _).mark

theorem endingTurn_canonical {c : BitVec 9} : (endingTurn s c).Canonical := .ite (endTask_canonical (dropHeld_canonical h) _) h

theorem cellTurn_keeps {c : BitVec 9} : Keeps (cellTurn s c) := by
  have at_ : State.Canonical { s with cur := c } := h
  unfold cellTurn
  dsimp only
  generalize ({ s with cur := c } : State) = s0 at at_ ⊢
  refine .ite at_ (.ite (endingTurn_canonical at_) (.ite (decisionTurn_canonical at_) ?_))
  split
  · exact takeEvent_canonical at_
  · split
    · exact takeMisuse_canonical at_
    · exact .ite (bundleTurn_keeps (State.Canonical.each (fun _ _ ht => openFirst_canonical ht) at_ _)) at_

theorem takeTurn_canonical : (takeTurn s).2.Canonical := by
  unfold takeTurn
  split
  · exact h
  · exact h

theorem firmwareTurn_keeps {i : Instr} : Keeps (firmwareTurn s i) := by
  unfold firmwareTurn
  split
  · next x o =>
    have run := exec_keeps (s := { s with core := true }) h (.dbar x o)
    split
    · next e =>
      have left := run.next e
      exact left
    · exact run
  · exact h

theorem debugWrite_canonical {c : BitVec 9} {n : BitVec 12} {v : Word} : (debugWrite s c n v).Canonical := .ite (h.updAt _ _) h

theorem runTurn_keeps {t : Turn} : Keeps (runTurn s t) := by
  cases t with
  | cell c => exact cellTurn_keeps h
  | debug c n v => exact debugWrite_canonical h
  | event i => exact .ite trivial (exec_keeps h i)
  | firmware i => exact firmwareTurn_keeps h

theorem step_keeps : Keeps (step s) := runTurn_keeps (takeTurn_canonical (clockStep_canonical h))

end

/-- Settles O60: memory changes only by stores, by the writes of dirty lines, by an erasure and by a reset, each of which leaves
it in canonical form; every function between a step and these is shown to keep the form once. -/
theorem stepsKeepMemoryCanonical : Obligations.StepsKeepMemoryCanonical := by
  unfold Obligations.StepsKeepMemoryCanonical
  intro s t h e
  exact (step_keeps h).next e

end Sys2Proof.Machine
end

section
/-! SUPPORT of O40, O42 and O49: masks and fields bit by bit, and numbers read back from the bytes of a store. -/

namespace Sys2Proof.Machine

/-! ### Bits and fields -/

/-- A field that starts at bit 0 is the remainder. -/
theorem fld_zero {n : Nat} (x : BitVec n) (w : Nat) : fld x 0 w = x.toNat % 2 ^ w := by
  simp [fld, BitVec.extractLsb'_toNat]

/-- A word with one bit set, as the masks of frames and ports have it. -/
theorem bit_ofNat_two_pow {w i : Nat} (j : Nat) (h : i < w) : bit (BitVec.ofNat w (2 ^ j)) i = decide (i = j) := by
  rw [bit, BitVec.getLsbD_ofNat, Nat.testBit_two_pow]
  simp [h, eq_comm]

theorem bit_or {w : Nat} (x y : BitVec w) (i : Nat) : bit (x ||| y) i = (bit x i || bit y i) := BitVec.getLsbD_or

/-- Clearing one bit of a mask. -/
theorem bit_clear {w i : Nat} (x : BitVec w) (j : Nat) (h : i < w) :
    bit (x &&& ~~~BitVec.ofNat w (2 ^ j)) i = (bit x i && decide (i ≠ j)) := by
  have e : (BitVec.ofNat w (2 ^ j)).getLsbD i = decide (i = j) := bit_ofNat_two_pow j h
  rw [bit, BitVec.getLsbD_and, BitVec.getLsbD_not, e]
  simp [bit, h]

/-- Setting the bits of a list that a test picks. -/
theorem bit_setWhere {w : Nat} (p : Nat → Bool) (l : List Nat) (x : BitVec w) {i : Nat} (h : i < w) :
    bit (l.foldl (fun n f => if p f then n ||| BitVec.ofNat w (2 ^ f) else n) x) i =
      (bit x i || decide (i ∈ l) && p i) := by
  induction l generalizing x with
  | nil => simp
  | cons f r ih =>
    have set : bit (if p f then x ||| BitVec.ofNat w (2 ^ f) else x) i = (bit x i || decide (i = f) && p f) := by
      cases p f
      · simp
      · rw [if_pos rfl, bit_or, bit_ofNat_two_pow f h, Bool.and_true]
    rw [List.foldl_cons, ih, set]
    by_cases e : i = f
    · subst e
      cases p i <;> simp
    · simp [e]

/-! ### Numbers within stored bytes -/

/-- The bytes within a number. -/
theorem take_drop_toBytes {k i n : Nat} (h : i + n ≤ k) (v : Nat) :
    ((toBytes k v).drop i).take n = toBytes n (v / 256 ^ i) := by
  apply List.ext_getElem
  · simp only [List.length_take, List.length_drop, length_toBytes]
    omega
  · intro j h1 h2
    rw [length_toBytes] at h2
    have whole := getD_toBytes k v (i + j) (by omega)
    have part := getD_toBytes n (v / 256 ^ i) j h2
    rw [Nat.div_div_eq_div_mul, ← Nat.pow_add] at part
    rw [← part] at whole
    simpa [List.getD_eq_getElem?_getD, length_toBytes, h2, show i + j < k by omega] using whole

/-- Word `j` of the bytes of a list of words. -/
theorem take_drop_words (ws : List Nat) {j : Nat} (h : j < ws.length) :
    ((ws.flatMap (toBytes 8)).drop (8 * j)).take 8 = toBytes 8 (ws.getD j 0) := by
  induction ws generalizing j with
  | nil => cases h
  | cons w r ih =>
    have long := length_toBytes 8 w
    cases j with
    | zero => simp [long]
    | succ j =>
      have next := ih (j := j) (by simpa using h)
      rw [List.flatMap_cons, List.drop_append, List.drop_eq_nil_of_le (by omega), long]
      simpa [Nat.mul_succ] using next

/-- A number that lies within the bytes just stored. -/
theorem Mem.nat_store_within (m : Mem) (a : Nat) (bs : List Byte) {i n : Nat} (h : i + n ≤ bs.length) :
    (m.store a bs).nat (a + i) n = leNat ((bs.drop i).take n) := by
  have e : (m.store a bs).bytes (a + i) n = (bs.drop i).take n := by
    apply List.ext_getElem
    · rw [Mem.length_bytes, List.length_take, List.length_drop]
      omega
    · intro j h1 h2
      rw [Mem.length_bytes] at h1
      have e := Mem.getD_bytes (m.store a bs) (a + i) n j h1
      rw [Mem.rd_store, if_pos (by omega), show a + i + j - a = i + j by omega] at e
      simpa [List.getD_eq_getElem?_getD, Mem.length_bytes, h1, show i + j < bs.length by omega] using e
  rw [Mem.nat, e]

/-- A field of `n` bytes in word `j` of the words just stored. -/
theorem Mem.nat_store_words (m : Mem) (a : Nat) (ws : List Nat) {j i n : Nat} (h : j < ws.length) (within : i + n ≤ 8) :
    (m.store a (ws.flatMap (toBytes 8))).nat (a + (8 * j + i)) n = ws.getD j 0 / 256 ^ i % 256 ^ n := by
  have long : (ws.flatMap (toBytes 8)).length = 8 * ws.length := by simp [length_toBytes, Nat.mul_comm]
  have field := congrArg (fun l => (l.drop i).take n) (take_drop_words ws h)
  simp only [List.drop_take, List.take_take, List.drop_drop, take_drop_toBytes within] at field
  rw [Nat.min_eq_left (by omega)] at field
  rw [Mem.nat_store_within m a _ (by omega), field, leNat_toBytes]

@[simp] theorem State.store_mem (s : State) (a : Nat) (bs : List Byte) : (s.store a bs).mem = s.mem.store a bs :=
  State.poke_mem _ _

/-- What each step of a fold keeps, the fold keeps. -/
theorem foldl_keeps {α β γ : Type} (f : β → γ) {turn : β → α → β} (keep : ∀ b x, f (turn b x) = f b) (l : List α) (b : β) :
    f (l.foldl turn b) = f b :=
  l.foldlRecOn (motive := fun t => f t = f b) turn rfl fun t e x _ => (keep t x).trans e

end Sys2Proof.Machine
end

section
/-! PROOF of O40: launch queues, packets, admission, seeds and ranges (R19, R20, R39 to R43, R48, R418). -/

namespace Sys2Proof.Machine

/-! ### The launches and their stages -/

theorem launchOf_id {s : State} {id : Nat} {l : Launch} (h : launchOf s id = some l) : l.id = id := by
  simpa using List.find?_some h

/-- Replacing a launch leaves the ids, in their order. -/
theorem setLaunch_ids (s : State) (l : Launch) :
    (setLaunch s l).tasks.launches.map (·.id) = s.tasks.launches.map (·.id) := by
  simp only [setLaunch, List.map_map]
  refine List.map_congr_left fun x _ => ?_
  simp only [Function.comp_apply]
  split
  · next e => exact e.symm
  · rfl

/-- A launch that is there reads what replaced it. -/
theorem launchOf_setLaunch {s : State} {l x : Launch} (h : launchOf s l.id = some x) :
    launchOf (setLaunch s l) l.id = some l := by
  simp only [launchOf, setLaunch] at h ⊢
  generalize s.tasks.launches = ls at h ⊢
  induction ls with
  | nil => cases h
  | cons y r ih =>
    by_cases e : y.id = l.id
    · simp [e]
    · rw [List.find?_cons_of_neg (by simpa using e)] at h
      simpa [e] using ih h

theorem stageOf_eq_some {s : State} {id : Nat} {k : BitVec 4} {q : StageSt} (h : stageOf s id k = some q) :
    ∃ l, launchOf s id = some l ∧ l.stages[k.toNat]? = some q := by
  unfold stageOf at h
  split at h
  · cases h
  · next l e => exact ⟨l, e, h⟩

theorem stageOf_launch {s : State} {id : Nat} {l : Launch} (h : launchOf s id = some l) (k : BitVec 4) :
    stageOf s id k = l.stages[k.toNat]? := by
  rw [stageOf, h]

/-- A stage that is there reads what replaced it. -/
theorem stageOf_setStage {s : State} {id : Nat} {k : BitVec 4} {q : StageSt} (h : stageOf s id k = some q) (x : StageSt) :
    stageOf (setStage s id k x) id k = some x := by
  obtain ⟨l, found, at_⟩ := stageOf_eq_some h
  obtain rfl := launchOf_id found
  have replaced := launchOf_setLaunch (l := { l with stages := l.stages.set k.toNat x }) found
  rw [setStage, found, stageOf_launch replaced, List.getElem?_set_self (List.getElem?_eq_some_iff.1 at_).1]

/-- An entry goes to the end of its stage's queue, with the bits above the fields cleared (R34, R43). -/
theorem stageOf_enqueue {s : State} {id : Nat} {k : BitVec 4} {q : StageSt} (h : stageOf s id k = some q) (e : QEntry) :
    stageOf (enqueue s id k e) id k =
      some { q with queue := q.queue ++ [{ e with ident := maskIdent q.hdr e.ident }] } := by
  rw [enqueue, h]
  exact stageOf_setStage h _

theorem enqueue_ranges (s : State) (id : Nat) (k : BitVec 4) (e : QEntry) :
    (enqueue s id k e).tasks.ranges = s.tasks.ranges := by
  unfold enqueue setStage
  split
  · rfl
  · split <;> rfl

/-! ### Launch queues (R19) -/

/-- A tail that leaves more entries than the ring holds stops it, and any other is taken. -/
theorem writeTail_beyond {q : LaunchQueue} {v : Word} (h : 2 ^ q.log < (v - q.head).toNat) :
    q.writeTail v = { q with stopped := q.stopped || q.on } := if_pos h

theorem writeTail_within {q : LaunchQueue} {v : Word} (h : (v - q.head).toNat ≤ 2 ^ q.log) :
    q.writeTail v = { q with tail := v } := if_neg (by omega)

theorem writeTail_kept (q : LaunchQueue) (v : Word) :
    (q.writeTail v).head = q.head ∧ (q.writeTail v).base = q.base ∧ (q.writeTail v).cfg = q.cfg := by
  unfold LaunchQueue.writeTail
  split <;> exact ⟨rfl, rfl, rfl⟩

theorem log_eq (q : LaunchQueue) : q.log = q.cfg.toNat % 16 := fld_zero q.cfg 4

theorem writeCfg_enables {q : LaunchQueue} {v : Word} (on : cfgOn (v &&& 0x1F#64) = true) (off : cfgOn q.cfg = false) :
    q.writeCfg v = { q with cfg := v &&& 0x1F#64, tail := 0, head := 0, stopped := false } := by
  simp only [LaunchQueue.writeCfg, on, off, Bool.not_false, Bool.and_self, if_true]

theorem writeCfg_keeps {q : LaunchQueue} {v : Word} (h : cfgOn (v &&& 0x1F#64) = false ∨ cfgOn q.cfg = true) :
    q.writeCfg v = { q with cfg := v &&& 0x1F#64 } := by
  have e : (cfgOn (v &&& 0x1F#64) && !cfgOn q.cfg) = false := by
    rcases h with h | h <;> simp [h]
  simp only [LaunchQueue.writeCfg, e, Bool.false_eq_true, if_false]

theorem writeCfg_kept (q : LaunchQueue) (v : Word) :
    (q.writeCfg v).cfg = v &&& 0x1F#64 ∧ (q.writeCfg v).base = q.base := by
  unfold LaunchQueue.writeCfg
  dsimp only
  split <;> exact ⟨rfl, rfl⟩

/-! ### Admission (R40) -/

/-- What stores keep, the words that tell the host of an admission keep. -/
theorem writeAccepted_keeps {γ : Type} (f : State → γ) (keep : ∀ s a bs, f (State.store s a bs) = f s) (s : State)
    (l : Launch) : f (writeAccepted s l) = f s := by
  have entry : ∀ s e i v, f (entryWrite s e i v) = f s := fun _ _ _ _ => keep _ _ _
  unfold writeAccepted
  dsimp only
  rw [entry, entry]
  refine foldl_keeps f (fun t k => ?_) _ _
  split
  · rfl
  · exact entry _ _ _ _

/-- The status of an admitted launch is 1 (R20). -/
theorem writeAccepted_status (s : State) (l : Launch) : (writeAccepted s l).mem.nat (hostAddr (l.status + 8)) 8 = 1 := by
  unfold writeAccepted entryWrite
  dsimp only
  rw [State.store_mem]
  exact Mem.nat_storeNat _ _ 8 1

/-- The launch has a stage on a die. -/
def Launch.needs (l : Launch) (d : Bool) : Bool := l.stages.any fun q => decide (onScout q.hdr = d)

/-- The launch as it is admitted: with the lowest free slot of each die on which it has a stage. -/
def admittedAs (s : State) (l : Launch) : Launch :=
  { l with
    comb := if l.needs false then freeSlot s false else none
    scout := if l.needs true then freeSlot s true else none
    resident := true }

/-- Slots and queues of both dies have room for the launch. -/
def Fits (s : State) (l : Launch) : Prop := ∀ d, queuesFit s d l = true ∧ (l.needs d = true → freeSlot s d ≠ none)

/-- The first waiting launch is admitted if it fits, and otherwise nothing happens. -/
theorem admitNext_first {s : State} {l : Launch} (h : s.tasks.launches.find? (fun l => !l.resident) = some l)
    [Decidable (Fits s l)] :
    admitNext s = if Fits s l then writeAccepted (setLaunch s (admittedAs s l)) (admittedAs s l) else s := by
  unfold admitNext
  rw [h]
  dsimp only
  change (if _ then s else writeAccepted (setLaunch s (admittedAs s l)) (admittedAs s l)) = _
  refine (ite_congr (propext ?_) (fun _ => rfl) fun _ => rfl).trans (ite_not _ _ _)
  change ((((l.needs false && (if l.needs false then freeSlot s false else none).isNone) ||
    (l.needs true && (if l.needs true then freeSlot s true else none).isNone)) || !queuesFit s false l) ||
      !queuesFit s true l) = true ↔ _
  rw [iff_not_comm]
  simp only [Fits, Bool.forall_bool, Bool.or_eq_true, Bool.and_eq_true, not_or, not_and, Bool.not_eq_true', Bool.not_eq_false]
  cases l.needs false <;> cases l.needs true <;> simp <;> tauto

theorem admitNext_none {s : State} (h : s.tasks.launches.find? (fun l => !l.resident) = none) : admitNext s = s := by
  rw [admitNext, h]

/-- What an admission leaves: the launch as it is admitted, in its place among the others. -/
theorem admitted_launches {s : State} {l : Launch} (h : l ∈ s.tasks.launches) :
    let t := writeAccepted (setLaunch s (admittedAs s l)) (admittedAs s l)
    launchOf t l.id = some (admittedAs s l) ∧ t.tasks.launches.map (·.id) = s.tasks.launches.map (·.id) := by
  intro t
  have tasks : t.tasks = (setLaunch s (admittedAs s l)).tasks := writeAccepted_keeps (·.tasks) State.store_tasks _ _
  have there : launchOf s (admittedAs s l).id ≠ none := by simpa [launchOf] using ⟨l, h, rfl⟩
  obtain ⟨x, there⟩ := Option.ne_none_iff_exists'.1 there
  rw [launchOf, tasks]
  exact ⟨launchOf_setLaunch there, setLaunch_ids _ _⟩

/-- An admission replaces at most one launch and then stores. -/
theorem admitNext_keeps {γ : Type} (f : State → γ) (keep : ∀ s a bs, f (State.store s a bs) = f s)
    (keepLaunch : ∀ s l, f (setLaunch s l) = f s) (s : State) : f (admitNext s) = f s := by
  classical
  cases h : s.tasks.launches.find? (fun l => !l.resident) with
  | none => rw [admitNext_none h]
  | some l =>
    rw [admitNext_first h]
    split
    · rw [writeAccepted_keeps f keep, keepLaunch]
    · rfl

/-! ### Entries of the launch queues (R19, R39) -/

/-- The state once the entry of the queue in turn has been read. -/
def entryTaken (s : State) : State :=
  { s with pkg := { s.pkg with
    lq := s.pkg.lq.wr s.pkg.lqTurn { s.pkg.lq.rd s.pkg.lqTurn with head := (s.pkg.lq.rd s.pkg.lqTurn).head + 1 }
    lqTurn := s.pkg.lqTurn + 1 } }

/-- A packet read from an entry ends its launch with a status or waits for its admission. -/
def packetRead (s : State) (p e : Nat) : State :=
  match checkPacket s p with
  | .error st => entryWrite s e 1 st
  | .ok hs =>
    admitNext { s with tasks := { s.tasks with launches := s.tasks.launches ++ [newLaunch s p e hs] }, nextId := s.nextId + 1 }

theorem execLaunchEntryRead_some {s : State} {e : Nat} (h : (s.pkg.lq.rd s.pkg.lqTurn).entry 64 = some e) :
    execLaunchEntryRead s = .next (packetRead (entryTaken s) (packetWord s e 0).toNat e) := by
  have at_ : BitVec.ofNat 3 (s.pkg.lqTurn.toNat + 0) = s.pkg.lqTurn := by simp
  unfold execLaunchEntryRead
  dsimp only
  rw [show List.range 8 = 0 :: [1, 2, 3, 4, 5, 6, 7] from rfl, List.find?_cons_of_pos (by rw [at_, h]; rfl)]
  dsimp only
  rw [at_, h]
  unfold packetRead entryTaken
  dsimp only [Option.getD_some]
  generalize checkPacket _ _ = checked
  cases checked <;> rfl

theorem execLaunchEntryRead_none {s : State} (h : ∀ q, (s.pkg.lq.rd q).entry 64 = none) :
    execLaunchEntryRead s = .next s := by
  unfold execLaunchEntryRead
  dsimp only
  rw [List.find?_eq_none.2 (by simp [h])]

theorem entryWrite_fields (s : State) (e i v : Nat) :
    (entryWrite s e i v).tasks = s.tasks ∧ (entryWrite s e i v).pkg = s.pkg ∧
      (entryWrite s e i v).mem = s.mem.storeNat (hostAddr (e + 8 * i)) 8 v :=
  ⟨State.store_tasks _ _ _, State.store_pkg _ _ _, State.store_mem _ _ _⟩

/-- Reading a packet changes no register of the package. -/
theorem packetRead_pkg (s : State) (p e : Nat) : (packetRead s p e).pkg = s.pkg := by
  unfold packetRead
  split
  · exact (entryWrite_fields _ _ _ _).2.1
  · exact admitNext_keeps (·.pkg) State.store_pkg setLaunch_pkg _

theorem packetRead_error {s : State} {p e st : Nat} (h : checkPacket s p = .error st) :
    packetRead s p e = entryWrite s e 1 st := by
  rw [packetRead, h]

theorem packetRead_ids {s : State} {p e : Nat} {hs : List Stage} (h : checkPacket s p = .ok hs) :
    (packetRead s p e).tasks.launches.map (·.id) = s.tasks.launches.map (·.id) ++ [s.nextId] ∧
      (packetRead s p e).nextId = s.nextId + 1 := by
  rw [packetRead, h]
  refine ⟨?_, admitNext_keeps (·.nextId) State.store_nextId setLaunch_nextId _⟩
  refine (admitNext_keeps (·.tasks.launches.map (·.id)) (fun s a bs => ?_) setLaunch_ids _).trans ?_
  · rw [State.store_tasks]
  · rw [List.map_append]
    rfl

/-! ### Seeds (R42, R43) -/

/-- What keeps every flit that leaves, keeps the load flits of a read. -/
theorem loadFlits_tasks (s : State) (segs : List Seg) : (loadFlits s segs).tasks = s.tasks := by
  have flit : ∀ (s : State) dom kind dest a bs, (memoryFlit s dom kind dest a bs).tasks = s.tasks := by
    intro s dom kind dest a bs
    unfold memoryFlit
    split
    · rfl
    · exact emitFlit_tasks _ _ _ _ _
  refine foldl_keeps (fun u : State => u.tasks) (fun t g => ?_) segs s
  split
  · exact foldl_keeps (fun u : State => u.tasks) (fun u i => flit u _ _ _ _ _) _ _
  · rfl

theorem ctxFlits_tasks (s : State) (ctx : BitVec 16) (va n : Nat) : (ctxFlits s ctx va n).tasks = s.tasks := by
  unfold ctxFlits
  split
  · rfl
  · exact loadFlits_tasks _ _

section
variable {s : State} {id : Nat} {l : Launch} {q : StageSt} (found : launchOf s id = some l)
  (stage : stageOf s id l.seedStage = some q)
include found stage

/-- A stage without room, or a launch without seeds, takes none. -/
theorem nextSeed_none (h : queueFull q = true ∨ l.seedLeft = 0) : nextSeed id s = s := by
  unfold nextSeed
  rw [found]
  dsimp only
  rw [stage]
  split
  · next e _ =>
    obtain rfl := Option.some.inj e
    exact if_pos (h.elim (fun h => .inr (.inr h)) fun h => .inr (.inl h))
  · rfl

/-- A seed that can be read enters its stage. -/
theorem nextSeed_enters {bs : List Byte} (read : ctxRead s l.ctx l.seedAt 8 = .ok bs) (resident : l.resident = true)
    (left : l.seedLeft ≠ 0) (room : queueFull q = false) :
    nextSeed id s = enqueue
      (setLaunch (ctxFlits s l.ctx l.seedAt 8) { l with seedAt := l.seedAt + 8, seedLeft := l.seedLeft - 1 }) id l.seedStage
      { ident := BitVec.ofNat 64 (leNat bs), barrier := l.seedBarrier, scope := 0, step := none } := by
  have load : ctxLoad s l.ctx l.seedAt 8 = .ok (bs, ctxFlits s l.ctx l.seedAt 8) := by rw [ctxLoad, read]
  unfold nextSeed
  rw [found]
  dsimp only
  rw [stage, load]
  dsimp only
  rw [if_neg]
  simp [resident, left, room]

/-- The stage's queue once a seed has entered it. -/
theorem stageOf_nextSeed {bs : List Byte} (read : ctxRead s l.ctx l.seedAt 8 = .ok bs) (resident : l.resident = true)
    (left : l.seedLeft ≠ 0) (room : queueFull q = false) :
    stageOf (nextSeed id s) id l.seedStage = some { q with queue := q.queue ++
      [{ ident := maskIdent q.hdr (BitVec.ofNat 64 (leNat bs)), barrier := l.seedBarrier, scope := 0, step := none }] } := by
  have sent : launchOf (ctxFlits s l.ctx l.seedAt 8) id = some l := by
    rw [launchOf, ctxFlits_tasks]
    exact found
  rw [nextSeed_enters found stage read resident left room]
  obtain rfl := launchOf_id found
  have advanced := launchOf_setLaunch (l := { l with seedAt := l.seedAt + 8, seedLeft := l.seedLeft - 1 }) sent
  have same : stageOf (setLaunch (ctxFlits s l.ctx l.seedAt 8) { l with seedAt := l.seedAt + 8, seedLeft := l.seedLeft - 1 })
      l.id l.seedStage = some q := (stageOf_launch advanced _).trans ((stageOf_launch found _).symm.trans stage)
  exact stageOf_enqueue same _

end

theorem sentDomain_self (s : State) : sentDomain s s = [] := by simp [sentDomain]

/-! ### Ranges (R48, R418) -/

section
variable {s : State} {c : BitVec 9} {r : Range} {q : StageSt} (held : rangeOf s c = some r)
  (stage : stageOf s r.launch r.stage = some q)
include held stage

theorem execSpawnUnitEnqueue_waits (h : queueFull q = true ∨ behindMember s r = true) :
    execSpawnUnitEnqueue c s = .next s := by
  have w : (queueFull q || behindMember s r) = true := by simpa using h
  simp only [execSpawnUnitEnqueue, held, stage, w, if_true]

theorem execSpawnUnitEnqueue_enters (room : queueFull q = false) (first : behindMember s r = false) :
    execSpawnUnitEnqueue c s = .next (enqueue
      (setRange s c (if r.next + 1 < r.count then some { r with next := r.next + 1 } else none)) r.launch r.stage
      { ident := rangeIdent q.hdr r, barrier := r.barrier, scope := r.scope, step := none }) := by
  simp only [execSpawnUnitEnqueue, held, stage, room, first, Bool.or_self, Bool.false_eq_true, if_false]

end

theorem behindMember_iff (s : State) (r : Range) :
    behindMember s r = true ↔ r.gang ≠ 0 ∧ ∃ x ∈ s.tasks.ranges, x.gang = r.gang ∧ x.gmem.toNat < r.gmem.toNat := by
  simp [behindMember]

theorem rangeOf_cell {s : State} {c : BitVec 9} {r : Range} (h : rangeOf s c = some r) : r.cell = c := by
  simpa using List.find?_some h

theorem queueFull_iff (q : StageSt) : queueFull q = true ↔ 2 ^ q.hdr.qlog ≤ q.queue.length := by simp [queueFull]

/-! ### The statement -/

/-- Settles O40: each row of the launch unit is brought to one equation per case, and the stage's queue is read through
`stageOf_enqueue`. -/
theorem launchStepsComplete : Obligations.LaunchStepsComplete := by
  unfold Obligations.LaunchStepsComplete
  intro s
  refine ⟨?tail, ?config, fun h => (exec_launchEntryRead s).trans (execLaunchEntryRead_none h), ?entry, ?resident, ?admission,
    fun id l found => ⟨?finished, ?unfinished, ?seed, ?noSeed⟩, fun c r q held stage => ⟨?full, ?behind, ?next⟩⟩
  case tail =>
    intro q v
    refine ⟨_, exec_lqtailWrite q v s, ?_⟩
    simp only [Reg.rd_wr_same, ← log_eq, and_true]
    obtain ⟨head, base, cfg⟩ := writeTail_kept (s.pkg.lq.rd q) v
    refine ⟨head, base, cfg, fun beyond => ?_, fun within => ?_, fun r other => Reg.rd_wr_other _ _ other⟩
    · rw [writeTail_beyond beyond]
      exact ⟨rfl, rfl⟩
    · rw [writeTail_within within]
      exact ⟨rfl, rfl⟩
  case config =>
    intro q v
    refine ⟨_, exec_lqcfgWrite q v s, ?_⟩
    simp only [Reg.rd_wr_same]
    obtain ⟨cfg, base⟩ := writeCfg_kept (s.pkg.lq.rd q) v
    refine ⟨cfg, base, fun on off => ?_, fun keeps => ?_⟩
    · rw [writeCfg_enables on off]
      exact ⟨rfl, rfl, rfl⟩
    · rw [writeCfg_keeps keeps]
      exact ⟨rfl, rfl, rfl⟩
  case entry =>
    intro e h
    refine ⟨_, (exec_launchEntryRead s).trans (execLaunchEntryRead_some h), ?_⟩
    rw [packetRead_pkg]
    refine ⟨?_, rfl, fun st bad => ?_, fun hs good => packetRead_ids good⟩
    · exact congrArg LaunchQueue.head (Reg.rd_wr_same _ _ _)
    · obtain ⟨tasks, -, mem⟩ := entryWrite_fields (entryTaken s) e 1 st
      have bad : checkPacket (entryTaken s) (packetWord s e 0).toNat = .error st := bad
      rw [packetRead_error bad]
      exact ⟨tasks, mem⟩
  case resident =>
    intro h
    exact (exec_launchAdmit s).trans (congrArg _ (admitNext_none (List.find?_eq_none.2 (by simpa using h))))
  case admission =>
    classical
    intro l first
    have run : exec .launchAdmit s = .next (admitNext s) := exec_launchAdmit s
    rw [admitNext_first first] at run
    refine ⟨fun full => run.trans (congrArg _ (if_neg full)), fun (fits : Fits s l) => ?_⟩
    rw [if_pos fits] at run
    obtain ⟨there, ids⟩ := admitted_launches (List.mem_of_find?_eq_some first)
    exact ⟨_, admittedAs s l, run, writeAccepted_keeps (·.cells) State.store_cells _ _, there, rfl, fun n => if_pos n,
      fun n => if_pos n, writeAccepted_status _ (admittedAs s l), ids⟩
  case finished =>
    intro done
    have run := exec_launchComplete id s
    simp only [execLaunchComplete, found, done, if_true] at run
    exact ⟨_, run, List.find?_eq_none.2 (by simp), (entryWrite_fields _ _ _ _).2.2⟩
  case unfinished =>
    intro going
    have run := exec_launchComplete id s
    simp only [execLaunchComplete, found, going, Bool.false_eq_true, if_false] at run
    exact run
  case seed =>
    rintro q bs stage read resident left room ⟨quiet, -, unsent⟩
    have free : queueFull q = false := by simpa [queueFull] using room
    have run := (exec_seedEnqueue id s).trans (congrArg Host.Outcome.next (awaitDomain_off quiet unsent))
    exact ⟨_, _, run, stageOf_nextSeed found stage read resident left free, by simp⟩
  case noSeed =>
    intro q stage h quiet
    have same : nextSeed id s = s := nextSeed_none found stage (h.imp_left (queueFull_iff q).2)
    have run := awaitDomain_off (k := .seed id) (run := nextSeed id) quiet (by rw [same, sentDomain_self])
    exact (exec_seedEnqueue id s).trans (congrArg Host.Outcome.next (run.trans same))
  case full =>
    intro full
    rw [exec_spawnUnitEnqueue, execSpawnUnitEnqueue_waits held stage (.inl ((queueFull_iff q).2 full))]
  case behind =>
    intro gang behind
    rw [exec_spawnUnitEnqueue, execSpawnUnitEnqueue_waits held stage (.inr ((behindMember_iff s r).2 ⟨gang, behind⟩))]
  case next =>
    intro first room
    have free : queueFull q = false := by simpa [queueFull] using room
    have leads : behindMember s r = false := by
      rw [← Bool.not_eq_true, behindMember_iff]
      exact fun ⟨gang, behind⟩ => first.elim gang fun none_ => none_ behind
    have run := (exec_spawnUnitEnqueue c s).trans (execSpawnUnitEnqueue_enters held stage free leads)
    refine ⟨_, _, run, stageOf_enqueue (by exact stage) _, rfl, ?_⟩
    rw [rangeOf, enqueue_ranges, ← rangeOf]
    obtain rfl := rangeOf_cell held
    split
    · exact rangeOf_setRange s { r with next := r.next + 1 }
    · exact rangeOf_setRange_none s r.cell

end Sys2Proof.Machine
end

section
/-! REFUTATION of O41: while what is done with responses is kept quiet, the response to a domain access is not sent. -/

namespace Sys2Proof.Machine

/-- The package after reset, with the model's own mark set that what runs sends no flit a second time (log 32). -/
def quietPackage : State := { State.reset with pd := { Propolis.reset with quiet := true } }

/-- Where flits of domain traffic are kept quiet, the response to a peer's access is not sent. -/
theorem respond_quiet {s : State} (quiet : s.pd.quiet = true) (p : BitVec 16) (a : Nat) (bs : List Byte) :
    respond s (.peer p true) a bs = s := by
  rw [respond, memoryFlit, quiet]
  rfl

/-- Refutes O41, in its clause that each access of a peer is answered by a flit: where the mark `quiet` is set, the response to
domain traffic leaves the package as it is. Only `awaitDomain` sets the mark, and it puts it back before its turn ends; but the
statement speaks of every state and has no hypothesis that leaves this one out. -/
theorem not_inboundComplete : ¬ Obligations.InboundComplete := by
  unfold Obligations.InboundComplete
  intro h
  obtain ⟨-, -, -, answered, -⟩ := h quietPackage
  obtain ⟨t, m, responds, sent, -⟩ := answered 0 true 0 []
  rw [respond_quiet rfl] at responds
  rw [← responds] at sent
  have sameOut : quietPackage.chans.out = quietPackage.chans.out ++ [m] := congrArg (·.chans.out) sent
  simp at sameOut

end Sys2Proof.Machine
end

section
/-! PROOF of O42: clocks, throttle levels and report records (R18, R25, R26, R206, R207). -/

namespace Sys2Proof.Machine

/-! ### Clocks (R18) -/

theorem writeFclk_glide (s : State) (v : Word) {f : Nat} (h : f < 4) :
    bit (writeFclk s v).pkg.glide f = (bit s.pkg.glide f ||
      (bit s.pkg.frames f && decide (min 8 (fld s.pkg.fclk (4 * f) 4) ≠ min 8 (fld v (4 * f) 4)))) := by
  have e := bit_setWhere (fun f => decide (stepOf s.pkg.fclk f ≠ stepOf v f) && bit s.pkg.frames f) (List.range 4)
    s.pkg.glide h
  rw [decide_eq_true (List.mem_range.2 h), Bool.true_and, Bool.and_comm (decide _)] at e
  exact e

/-! ### Current and throttle (R25, R26) -/

theorem setThrottle_present {s : State} {f : BitVec 2} (h : bit s.pkg.frames f.toNat = true) (g : Throttle → Throttle) :
    setThrottle s f g = { s with pkg := { s.pkg with throttle := s.pkg.throttle.wr f (g (s.pkg.throttle.rd f)) } } :=
  if_pos h

theorem setThrottle_absent {s : State} {f : BitVec 2} (h : bit s.pkg.frames f.toNat = false) (g : Throttle → Throttle) :
    setThrottle s f g = s := by
  simp [setThrottle, h]

section
variable (cur : BitVec 12) (temp : Int) (x : Throttle)

/-- The limit that a window compares with (R25). -/
def Throttle.bound (x : Throttle) : Nat := max 400 (min 2560 x.limit.toNat)

/-- The calm windows in a row, with the one that ends (R26). -/
def Throttle.calmRun (x : Throttle) (cur : BitVec 12) : Nat :=
  if decide (cur.toNat * 16 ≤ x.bound * 15) && !decide (x.bound < cur.toNat) then x.calm + 1 else 0

/-- The level that the end of a window asks for, without heat and FLOOR (R26). -/
def Throttle.asked (x : Throttle) (cur : BitVec 12) : Nat :=
  if decide (x.bound < cur.toNat) then min 15 (x.level.toNat + 1)
  else if x.calmRun cur = 4 then max x.floor.toNat (x.level.toNat - 1) else x.level.toNat

theorem throttleStep_therm :
    (throttleStep cur temp x).therm = true ↔ 105 ≤ temp ∨ (x.therm = true ∧ 95 < temp) := by
  simp [throttleStep]

theorem throttleStep_peak : (throttleStep cur temp x).peak.toNat = max x.peak.toNat cur.toNat := by
  simp only [throttleStep]
  split <;> omega

/-- A hot frame is throttled in full. -/
theorem throttleStep_hot (h : (throttleStep cur temp x).therm = true) : (throttleStep cur temp x).level = 15 := by
  have hot : (decide (105 ≤ temp) || (x.therm && decide (95 < temp))) = true := h
  simp only [throttleStep, hot, if_true]
  rfl

theorem throttleStep_calm : (throttleStep cur temp x).calm = if x.calmRun cur = 4 then 0 else x.calmRun cur := rfl

theorem asked_lt : x.asked cur < 16 := by
  have := x.level.isLt
  have := x.floor.isLt
  unfold Throttle.asked
  split_ifs <;> omega

/-- A frame that is not hot takes the level asked for, but not less than FLOOR. -/
theorem throttleStep_level (h : (throttleStep cur temp x).therm = false) :
    (throttleStep cur temp x).level.toNat = max x.floor.toNat (x.asked cur) := by
  have cool : (decide (105 ≤ temp) || (x.therm && decide (95 < temp))) = false := h
  have e : (throttleStep cur temp x).level = BitVec.ofNat 4 (max (x.asked cur) x.floor.toNat) := by
    simp only [throttleStep, cool, Bool.false_eq_true, if_false]
    rfl
  have := asked_lt cur x
  have := x.floor.isLt
  rw [e, BitVec.toNat_ofNat, Nat.mod_eq_of_lt (by omega), max_comm]

variable {cur x}

theorem asked_above (h : x.bound < cur.toNat) : x.asked cur = min 15 (x.level.toNat + 1) := by
  simp [Throttle.asked, h]

/-- Only the fourth calm window in a row lowers the level. -/
theorem asked_within (h : cur.toNat ≤ x.bound) (n : x.calmRun cur ≠ 4) : x.asked cur = x.level.toNat := by
  simp [Throttle.asked, n, Nat.not_lt.2 h]

theorem asked_fourth (h : cur.toNat ≤ x.bound) (n : x.calmRun cur = 4) :
    x.asked cur = max x.floor.toNat (x.level.toNat - 1) := by
  simp [Throttle.asked, n, Nat.not_lt.2 h]

theorem calmRun_near (h : x.bound * 15 < cur.toNat * 16) : x.calmRun cur = 0 := by
  simp [Throttle.calmRun, Nat.not_le.2 h]

theorem calmRun_calm (h : cur.toNat * 16 ≤ x.bound * 15) : x.calmRun cur = x.calm + 1 := by
  have within : cur.toNat ≤ x.bound := by omega
  simp [Throttle.calmRun, h, within]

end

/-! ### Report records (R206, R207) -/

/-- Without a report, or while the ring is off, nothing is written. -/
theorem execReportRecord_idle {s : State} (h : s.pkg.reports = [] ∨ cfgOn s.pkg.rpCfg = false) :
    execReportRecord s = .next s := by
  unfold execReportRecord
  dsimp only
  rcases h with none_ | off
  · rw [none_]
  · split
    · rfl
    · rw [off]
      rfl

/-- The record goes into the ring, where there is room. -/
theorem execReportRecord_room {s : State} {r : Report} {rest : List Report} (queued : s.pkg.reports = r :: rest)
    (on : cfgOn s.pkg.rpCfg = true) (room : (s.pkg.rpTail - s.pkg.rpHead).toNat ≠ 2 ^ fld s.pkg.rpCfg 0 4) :
    execReportRecord s = .next
      { s.store (hostAddr (s.pkg.rpBase.toNat + 64 * (s.pkg.rpTail.toNat % 2 ^ fld s.pkg.rpCfg 0 4)))
          ((reportWords s r).flatMap (toBytes 8)) with
        pkg := { s.pkg with
          reports := rest, rpTail := s.pkg.rpTail + 1
          msix := if bit s.pkg.rpCfg 5 then s.pkg.msix ++ [0] else s.pkg.msix } } := by
  simp only [execReportRecord, queued, on, room, Bool.not_true, Bool.false_eq_true, if_false]

/-- A full ring drops the record and counts it. -/
theorem execReportRecord_full {s : State} {r : Report} {rest : List Report} (queued : s.pkg.reports = r :: rest)
    (on : cfgOn s.pkg.rpCfg = true) (full : (s.pkg.rpTail - s.pkg.rpHead).toNat = 2 ^ fld s.pkg.rpCfg 0 4) :
    execReportRecord s = .next { s with pkg := { s.pkg with
      reports := rest, drops := if s.pkg.drops = BitVec.allOnes 16 then s.pkg.drops else s.pkg.drops + 1 } } := by
  simp only [execReportRecord, queued, on, full, Bool.not_true, Bool.false_eq_true, if_false, if_true]

/-- DROPS stops at all ones. -/
theorem toNat_saturated (d : BitVec 16) :
    (if d = BitVec.allOnes 16 then d else d + 1).toNat = min 65535 (d.toNat + 1) := by
  split
  · next e => subst e; rfl
  · next e =>
    have : d.toNat ≠ 65535 := fun c => e (BitVec.eq_of_toNat_eq c)
    bv_omega

/-- The fields of a record in memory (R207). -/
theorem nat_reportWords (m : Mem) (a : Nat) (s : State) (r : Report) :
    let t := m.store a ((reportWords s r).flatMap (toBytes 8))
    t.nat a 1 = r.kind.toNat ∧ t.nat (a + 1) 1 = r.cause.toNat ∧ t.nat (a + 4) 2 = r.ctx.toNat ∧
      t.nat (a + 8) 8 = r.epc.toNat ∧ t.nat (a + 16) 8 = r.tval.toNat ∧ t.nat (a + 32) 8 = r.data.toNat := by
  intro t
  have field : ∀ j i n, j < 8 → i + n ≤ 8 → t.nat (a + (8 * j + i)) n = (reportWords s r).getD j 0 / 256 ^ i % 256 ^ n :=
    fun j i n h => Mem.nat_store_words m a (reportWords s r) h
  have word : ∀ j, j < 8 → ∀ x : Word, (reportWords s r).getD j 0 = x.toNat → t.nat (a + (8 * j)) 8 = x.toNat := by
    intro j h x e
    have at_ := field j 0 8 h (by omega)
    rw [e, Nat.pow_zero, Nat.div_one] at at_
    exact at_.trans (Nat.mod_eq_of_lt x.isLt)
  obtain ⟨low, e, room⟩ : ∃ low, (reportWords s r).getD 0 0 =
      r.kind.toNat + r.cause.toNat * 2 ^ 8 + low * 2 ^ 16 + r.ctx.toNat * 2 ^ 32 ∧ low < 2 ^ 16 := by
    have number : cellNo r.cell < 256 := Nat.mod_lt _ (by omega)
    refine ⟨cellNo r.cell + if isScout r.cell then 2 ^ 9 else 0, ?_, ?_⟩
    · simp only [reportWords, List.getD_cons_zero]
      split <;> omega
    · split <;> omega
  have kind := r.kind.isLt
  have cause := r.cause.isLt
  have ctx := r.ctx.isLt
  have head : ∀ i n, i + n ≤ 8 → t.nat (a + (8 * 0 + i)) n =
      (r.kind.toNat + r.cause.toNat * 2 ^ 8 + low * 2 ^ 16 + r.ctx.toNat * 2 ^ 32) / 256 ^ i % 256 ^ n := by
    intro i n h
    rw [field 0 i n (by omega) h, e]
  refine ⟨(head 0 1 (by omega)).trans ?_, (head 1 1 (by omega)).trans ?_, (head 4 2 (by omega)).trans ?_,
    word 1 (by omega) r.epc rfl, word 2 (by omega) r.tval rfl, word 4 (by omega) r.data rfl⟩ <;> omega

/-- A ring's size, as the statements write it. -/
theorem ringLog (cfg : Word) : fld cfg 0 4 = cfg.toNat % 16 := fld_zero cfg 4

/-- The end of a window in a present frame (R25, R26). -/
theorem exec_throttleWindow_present {s : State} {f : BitVec 2} (h : bit s.pkg.frames f.toNat = true) (cur : BitVec 12)
    (temp : Int) : exec (.throttleWindow f cur temp) s = .next { s with pkg := { s.pkg with
      throttle := s.pkg.throttle.wr f (throttleStep cur temp (s.pkg.throttle.rd f)) } } :=
  congrArg _ (setThrottle_present h _)

theorem exec_fimeasClrpk_present {s : State} {f : BitVec 2} (h : bit s.pkg.frames f.toNat = true) :
    exec (.fimeasClrpk f) s = .next { s with pkg := { s.pkg with
      throttle := s.pkg.throttle.wr f { s.pkg.throttle.rd f with peak := (s.pkg.throttle.rd f).cur } } } :=
  congrArg _ (setThrottle_present h _)

section
variable {cur : BitVec 12} {temp : Int} {x : Throttle} (cool : (throttleStep cur temp x).therm = false)
include cool

/-- A window above the limit raises the level of a frame that is not hot (R25). -/
theorem throttleStep_raises (above : x.bound < cur.toNat) :
    (throttleStep cur temp x).level.toNat = max x.floor.toNat (min 15 (x.level.toNat + 1)) := by
  rw [throttleStep_level cur temp x cool, asked_above above]

/-- Close below the limit the level stays and the calm windows start again. -/
theorem throttleStep_stays (within : cur.toNat ≤ x.bound) (near : x.bound * 15 < cur.toNat * 16) :
    (throttleStep cur temp x).calm = 0 ∧ (throttleStep cur temp x).level.toNat = max x.floor.toNat x.level.toNat := by
  have run : x.calmRun cur = 0 := calmRun_near near
  rw [throttleStep_calm, throttleStep_level cur temp x cool, asked_within within (by omega), run]
  exact ⟨rfl, rfl⟩

/-- A calm window before the fourth in a row counts (R26). -/
theorem throttleStep_counts (calm : cur.toNat * 16 ≤ x.bound * 15) (n : x.calm ≠ 3) :
    (throttleStep cur temp x).calm = x.calm + 1 ∧
      (throttleStep cur temp x).level.toNat = max x.floor.toNat x.level.toNat := by
  have run := calmRun_calm calm
  have few : x.calmRun cur ≠ 4 := by omega
  rw [throttleStep_calm, throttleStep_level cur temp x cool, asked_within (by omega) few, if_neg few]
  exact ⟨run, rfl⟩

/-- The fourth calm window in a row lowers the level (R26). -/
theorem throttleStep_lowers (calm : cur.toNat * 16 ≤ x.bound * 15) (n : x.calm = 3) :
    (throttleStep cur temp x).calm = 0 ∧
      (throttleStep cur temp x).level.toNat = max x.floor.toNat (x.level.toNat - 1) := by
  have run : x.calmRun cur = 4 := by rw [calmRun_calm calm, n]
  rw [throttleStep_calm, throttleStep_level cur temp x cool, if_pos run, asked_fourth (by omega) run]
  exact ⟨rfl, by omega⟩

end

/-- Settles O42: the masks of frames are read bit by bit, a window's level is compared with what `Throttle.asked` and
`Throttle.calmRun` say of it, and a record's fields are read back from the words stored. -/
theorem powerAndReportsComplete : Obligations.PowerAndReportsComplete := by
  unfold Obligations.PowerAndReportsComplete
  intro s
  refine ⟨fun v => ⟨_, exec_fclkWrite v s, rfl, rfl, rfl, fun f h => writeFclk_glide s v h⟩,
    fun f => ⟨_, exec_clockGlideEnd f s, fun g h => bit_clear _ _ h⟩, ?window, ?clearPeak, ?absent,
    fun idle => (exec_reportRecord s).trans (execReportRecord_idle idle), ?record⟩
  case window =>
    intro f cur temp present
    refine ⟨_, exec_throttleWindow_present present cur temp, fun g other => Reg.rd_wr_other _ _ other, ?_⟩
    simp only [Reg.rd_wr_same]
    generalize s.pkg.throttle.rd f = x
    exact ⟨rfl, throttleStep_peak cur temp x, rfl, rfl, rfl, throttleStep_therm cur temp x, throttleStep_hot cur temp x,
      throttleStep_raises, throttleStep_stays, throttleStep_counts, throttleStep_lowers⟩
  case clearPeak =>
    intro f present
    refine ⟨_, exec_fimeasClrpk_present present, ?_⟩
    rw [Reg.rd_wr_same]
    exact ⟨rfl, rfl⟩
  case absent =>
    intro f cur temp absent
    exact ⟨congrArg _ (setThrottle_absent absent _), congrArg _ (setThrottle_absent absent _)⟩
  case record =>
    intro r rest queued on
    rw [← ringLog]
    by_cases full : (s.pkg.rpTail - s.pkg.rpHead).toNat = 2 ^ fld s.pkg.rpCfg 0 4
    · exact ⟨_, (exec_reportRecord s).trans (execReportRecord_full queued on full), rfl, rfl,
        fun _ => ⟨rfl, rfl, toNat_saturated _⟩, fun room => absurd full room⟩
    · refine ⟨_, (exec_reportRecord s).trans (execReportRecord_room queued on full), rfl, State.store_cells _ _ _,
        fun c => absurd c full, fun _ => ⟨rfl, rfl, ?_, ?_⟩⟩
      · split <;> simp
      · exact State.store_mem s _ _ ▸ nat_reportWords s.mem _ s r

end Sys2Proof.Machine
end

section
/-! REFUTATION of O43: the end of a rail's bring-up that nobody waits for is not always without effect. -/

namespace Sys2Proof.Machine

/-- A package that is READY and brings no frame up, while PDSTAT shows an id that is not the package's own. -/
def readyUnderOtherId : State :=
  { State.reset with
    pkg := { Package.reset with devState := 1 }, pd := { Propolis.reset with self := Config.packageId + 1 } }

/-- A rail that nobody waits for changes no package register, but a READY package then shows its own id (R295, log 32). -/
theorem frameRailOk_ready {s : State} {f : BitVec 2} (h : s.pkg.bringup ≠ some f) (ready : s.pkg.devState = 1) :
    exec (.frameRailOk f) s = .next { s with pd := { s.pd with self := Config.packageId } } := by
  rw [exec_frameRailOk, execFrameRailOk, settleFrame, if_pos h, ownId, if_pos ready]

theorem readyUnderOtherId_self : readyUnderOtherId.pd.self ≠ Config.packageId := by
  show Config.packageId + 1 ≠ Config.packageId
  bv_omega

/-- Refutes O43, in its clause that a rail outside bring-up leaves the whole state as it is: in a package that is READY under an
id that is not its own, `frameRailOk` writes PDSTAT's id. Bring-up itself ends with the package's own id; but the statement
speaks of every state and has no hypothesis that leaves this one out. -/
theorem not_hostRegistersAndBringUp : ¬ Obligations.HostRegistersAndBringUp := by
  unfold Obligations.HostRegistersAndBringUp
  rintro ⟨-, bringUp⟩
  obtain ⟨-, -, otherFrame, -⟩ := bringUp readyUnderOtherId
  have notWaiting : readyUnderOtherId.pkg.bringup ≠ some 1 := nofun
  have unchanged := (otherFrame 1 notWaiting).1
  rw [frameRailOk_ready notWaiting rfl] at unchanged
  injection unchanged with same
  exact readyUnderOtherId_self (congrArg (·.pd.self) same).symm

end Sys2Proof.Machine
end

section
/-! PROOF of O49, part 1: alarms, erasure, attestation, formation and changes (R290, R291, R295, R297, R298). -/

namespace Sys2Proof.Machine

/-! ### Alarms and erasure -/

/-- An alarm shows the bit of its level. -/
theorem raiseAlarm_bit (s : State) (source : Nat) {k : Nat} (h : k < 8) :
    bit (raiseAlarm s (k + 1) source).pd.alarm k = true := by
  have low : 2 ^ k < 2 ^ 8 := Nat.pow_lt_pow_right (by omega) h
  have e : 2 ^ k + source * 256 = 2 ^ 8 * source + 2 ^ k := by omega
  have set : bit (BitVec.ofNat 64 (2 ^ k + source * 256)) k = true := by
    rw [bit, BitVec.getLsbD_ofNat, e, Nat.testBit_two_pow_mul_add _ low, if_pos h, Nat.testBit_two_pow_self]
    simp
    omega
  exact (bit_or _ _ _).trans (by rw [show k + 1 - 1 = k from rfl, set, Bool.or_true])

/-- Keeping the entries of some keys keeps what these keys read. -/
theorem SMap.get_filter {α : Type} (d : α) (p : Nat → Bool) (m : SMap α) (a : Nat) :
    SMap.get d (m.filter fun e => p e.1) a = if p a then SMap.get d m a else d := by
  induction m with
  | nil => simp [SMap.get]
  | cons e r ih =>
    obtain ⟨k, v⟩ := e
    by_cases same : k = a
    · subst same
      cases kept : p k <;> simp [kept, SMap.get, ih]
    · cases kept : p k <;> simp [SMap.get, same, kept, ih]

/-- An erasure leaves what lies outside HBM and the scout die. -/
theorem erase_rd (s : State) (source a : Nat) :
    (erase s source).mem.rd a = if 2 ≤ paTarget a then s.mem.rd a else 0 := by
  have e := SMap.get_filter 0 (fun a => decide (2 ≤ paTarget a)) s.mem a
  simp only [decide_eq_true_eq] at e
  exact e

/-! ### Attestation (R290, R291) -/

/-- Who is kept: who is known, the leader that this package is, and whoever measures as its record says. -/
theorem mem_vouched (s : State) (known : List (BitVec 16)) (reports : List Measured) (recs : List MemberRec) (m : BitVec 16) :
    m ∈ vouched s known reports recs ↔ ∃ r ∈ recs, r.id = m ∧
      (m ∈ known ∨ (m = s.pd.self ∧ leaderOf recs = some s.pd.self) ∨ ∃ x ∈ reports, x.id = m ∧
        bit x.chains r.slot.toNat = true ∧ x.firmware = r.firmware ∧ (bit m 15 = true ∨ x.code = r.code)) := by
  simp only [vouched, measuredOk, isSwitch, List.mem_map, List.mem_filter, Bool.or_eq_true, Bool.and_eq_true,
    decide_eq_true_eq, List.any_eq_true, and_assoc]
  constructor
  · rintro ⟨r, mem, why, rfl⟩
    exact ⟨r, mem, rfl, why.elim (Or.imp_right .inr) fun leads => .inr (.inl leads)⟩
  · rintro ⟨r, mem, rfl, why⟩
    exact ⟨r, mem, why.elim (fun known => .inl (.inl known)) fun w => w.elim .inr fun passed => .inl (.inr passed), rfl⟩

/-- The lower of the package found so far and the next id, of which switches do not count. -/
def lowerPackage (o : Option (BitVec 16)) (i : BitVec 16) : Option (BitVec 16) :=
  if isSwitch i then o else match o with
    | none => some i
    | some j => some (if i.toNat < j.toNat then i else j)

theorem lowerPackage_eq_some {o : Option (BitVec 16)} {i j : BitVec 16} (h : lowerPackage o i = some j) :
    (o = some j ∨ (j = i ∧ isSwitch i = false)) ∧ (∀ k, o = some k → j.toNat ≤ k.toNat) ∧
      (isSwitch i = false → j.toNat ≤ i.toNat) := by
  unfold lowerPackage at h
  cases sw : isSwitch i with
  | true =>
    rw [sw] at h
    obtain rfl : o = some j := h
    exact ⟨.inl rfl, fun k e => by cases e; rfl, nofun⟩
  | false =>
    rw [sw] at h
    cases o with
    | none =>
      obtain rfl : i = j := Option.some.inj h
      exact ⟨.inr ⟨rfl, rfl⟩, nofun, fun _ => le_rfl⟩
    | some k =>
      have e : (if i.toNat < k.toNat then i else k) = j := Option.some.inj h
      refine ⟨?_, fun _ e' => ?_, fun _ => ?_⟩
      · split at e
        · exact .inr ⟨e.symm, rfl⟩
        · exact .inl (congrArg _ e)
      · obtain rfl := Option.some.inj e'
        split at e <;> subst e <;> omega
      · split at e <;> subst e <;> omega

/-- The lowest package of a list, and of the one found before it. -/
theorem foldl_lowerPackage {l : List (BitVec 16)} {o : Option (BitVec 16)} {j : BitVec 16}
    (h : l.foldl lowerPackage o = some j) :
    (o = some j ∨ (j ∈ l ∧ isSwitch j = false)) ∧ (∀ k, o = some k → j.toNat ≤ k.toNat) ∧
      ∀ i ∈ l, isSwitch i = false → j.toNat ≤ i.toNat := by
  induction l generalizing o with
  | nil =>
    obtain rfl : o = some j := h
    exact ⟨.inl rfl, fun k e => by cases e; rfl, nofun⟩
  | cons i r ih =>
    obtain ⟨from_, below, rest⟩ := ih h
    cases e : lowerPackage o i with
    | none =>
      have none_ : o = none ∧ isSwitch i = true := by
        unfold lowerPackage at e
        cases sw : isSwitch i <;> cases o <;> simp_all
      obtain ⟨rfl, sw⟩ := none_
      rw [e] at from_
      refine ⟨from_.imp nofun fun ⟨mem, p⟩ => ⟨List.mem_cons_of_mem _ mem, p⟩, nofun, fun x mem p => ?_⟩
      rcases List.mem_cons.1 mem with rfl | mem
      · simp [sw] at p
      · exact rest x mem p
    | some m =>
      obtain ⟨m_from, m_below, m_i⟩ := lowerPackage_eq_some e
      have jm := below m e
      refine ⟨?_, fun k eo => jm.trans (m_below k eo), fun x mem p => ?_⟩
      · rcases from_ with from_ | ⟨mem, p⟩
        · obtain rfl := Option.some.inj (e.symm.trans from_)
          exact m_from.imp_right fun ⟨eq, p⟩ => ⟨by simp [eq], eq ▸ p⟩
        · exact .inr ⟨List.mem_cons_of_mem _ mem, p⟩
      · rcases List.mem_cons.1 mem with rfl | mem
        · exact jm.trans (m_i p)
        · exact rest x mem p

/-- The leader is a record's package, and none has a lower id (R291). -/
theorem leaderOf_lowest {recs : List MemberRec} {i : BitVec 16} (h : leaderOf recs = some i) :
    (∃ r ∈ recs, r.id = i) ∧ bit i 15 = false ∧ ∀ r ∈ recs, bit r.id 15 = false → i.toNat ≤ r.id.toNat := by
  have h : (recs.map (·.id)).foldl lowerPackage none = some i := h
  obtain ⟨from_, -, below⟩ := foldl_lowerPackage h
  obtain ⟨mem, package⟩ := from_.resolve_left nofun
  exact ⟨by simpa using mem, package, fun r mem p => below r.id (List.mem_map_of_mem mem) p⟩

/-! ### Formation and changes (R291, R297) -/

/-- Leaving a member out changes nothing of the domain but the alarm. -/
theorem logLeftOut_pd (s : State) (recs : List MemberRec) (kept : List (BitVec 16)) :
    ∃ alarm, (logLeftOut s recs kept).pd = { s.pd with alarm := alarm } := by
  unfold logLeftOut
  split <;> exact ⟨_, rfl⟩

theorem logLeftOut_alarm (s : State) {recs : List MemberRec} {kept : List (BitVec 16)} (h : kept.length < recs.length) :
    bit (logLeftOut s recs kept).pd.alarm 0 = true := by
  rw [logLeftOut, if_pos h]
  exact raiseAlarm_bit s 8 (k := 0) (by omega)

section
variable {s : State} (reports : List Measured) (secret : BitVec 384)

theorem execDomainForm_forming (h : s.pd.state = 1) : execDomainForm reports secret s = .next (endForming s reports secret) :=
  if_pos h

theorem execDomainForm_waits (h : s.pd.state ≠ 1) (up : broughtUp s = false) : execDomainForm reports secret s = .next s := by
  simp only [execDomainForm, h, up, Bool.not_false, Bool.or_true, if_true, if_false]

variable (ready : pdReady s 0 = true) (up : broughtUp s = true)
include ready up

/-- What the command does once it is taken, outside FORMING. -/
theorem execDomainForm_taken (h : s.pd.state ≠ 1) :
    execDomainForm reports secret s =
      if s.pd.state = 5 then .next (pdTaken s)
      else if !(manifest s).ok then .next (raiseAlarm (pdTaken s) 1 8)
      else if inDomain s then
        .next { pdTaken s with pd := { s.pd with state := 3, next := (manifest s).recs, change := true } }
      else .next { pdTaken s with pd := { s.pd with
        state := 1, domain := (manifest s).domain, next := (manifest s).recs, change := decide (s.pd.state = 4)
        arrived := false } } := by
  simp only [execDomainForm, h, ready, up, Bool.not_true, Bool.or_self, Bool.false_eq_true, if_false]
  rfl

end

theorem inDomain_iff (s : State) : inDomain s = true ↔ s.pd.state = 2 ∨ s.pd.state = 3 := by simp [inDomain]

/-- A package in a domain that leaves it asks for a membership without it. -/
theorem execDomainLeave_in {s : State} (ready : pdReady s 1 = true) (h : inDomain s = true) :
    execDomainLeave s = .next { pdTaken s with pd := { s.pd with
      state := 3, change := true
      next := (if s.pd.change then s.pd.next else s.pd.members.map knownRec).filter fun r => decide (r.id ≠ s.pd.self) } } := by
  simp only [execDomainLeave, ready, h, Bool.not_true, Bool.false_eq_true, if_false, if_true]
  rfl

/-! ### Re-keying (R297) -/

/-- A re-keying moves to the next generation, which those kept enter. -/
theorem rekey_pd (s : State) (reports : List Measured) :
    let kept := vouched s s.pd.members reports s.pd.next
    (rekey s reports).pd.gen = s.pd.gen + 1 ∧ (rekey s reports).pd.arrived = false ∧ (rekey s reports).pd.change = false ∧
      (rekey s reports).pd.tags = 0 ∧
      (s.pd.self ∈ kept → (rekey s reports).pd.state = 2 ∧ (rekey s reports).pd.secret = s.pd.secret ∧
        (rekey s reports).pd.members = kept) ∧
      (s.pd.self ∉ kept → (rekey s reports).pd.state = 0 ∧ (rekey s reports).pd.members = []) := by
  intro kept
  obtain ⟨alarm, logged⟩ := logLeftOut_pd s s.pd.next kept
  unfold rekey
  dsimp only
  rw [logged]
  refine ⟨rfl, rfl, rfl, rfl, fun stays => ?_, fun leaves => ?_⟩
  · simp only [kept] at stays ⊢
    simp [stays]
  · simp only [kept] at leaves
    simp [leaves]

theorem onTask_pd (s : State) (gang : Nat) (gmem : BitVec 6) (f : Cell → Cell) : (onTask s gang gmem f).pd = s.pd := by
  unfold onTask
  split <;> rfl

theorem cmdFault_pd (s : State) (x : Cmd) (f : BitVec 8 × Nat) : (cmdFault s x f).pd = s.pd := by
  unfold cmdFault
  split
  · rfl
  · split
    · rfl
    · split
      · rfl
      · exact onTask_pd _ _ _ _

/-- Ending open rounds leaves the domain as it is. -/
theorem endRounds_pd (s : State) (ch : Nat) (c : Chan) : (endRounds s ch c).pd = s.pd := by
  unfold endRounds
  dsimp only
  rw [setChan_pd]
  refine foldl_keeps (fun t : State => t.pd) (fun t r => ?_) _ s
  split
  · rfl
  · exact cmdFault_pd _ _ _

end Sys2Proof.Machine
end

section
/-! PROOF of O49, part 2: who waits for the responses of domain pages, and the flits that come (R287, R292, R294, R298). -/

namespace Sys2Proof.Machine

/-! ### Responses taken -/

/-- Using flits up leaves some of those that were there. -/
theorem mem_of_mem_dropFirst {p : BitVec 128 → Bool} {n : Nat} {l : List (BitVec 128)} {x : BitVec 128}
    (h : x ∈ dropFirst p n l) : x ∈ l := by
  induction l generalizing n with
  | nil => cases n <;> exact h
  | cons y r ih =>
    cases n with
    | zero => exact h
    | succ n =>
      unfold dropFirst at h
      split at h
      · exact List.mem_cons_of_mem _ (ih h)
      · rcases List.mem_cons.1 h with rfl | h
        · exact List.mem_cons_self
        · exact List.mem_cons_of_mem _ (ih h)

/-- The second state differs from the first only in the asks and in accepted flits that have been used up. -/
def OnlyAsks (s t : State) : Prop :=
  ∃ flits asks, t = { s with pd := { s.pd with flits := flits, asks := asks } } ∧ ∀ x ∈ flits, x ∈ s.pd.flits

theorem OnlyAsks.refl (s : State) : OnlyAsks s s := ⟨_, _, rfl, fun _ h => h⟩

theorem OnlyAsks.trans {s t u : State} (h : OnlyAsks s t) (k : OnlyAsks t u) : OnlyAsks s u := by
  obtain ⟨f, a, rfl, hf⟩ := h
  obtain ⟨f', a', rfl, hf'⟩ := k
  exact ⟨f', a', rfl, fun x mem => hf x (hf' x mem)⟩

theorem OnlyAsks.eq {s t : State} (h : OnlyAsks s t) :
    t = { s with pd := { s.pd with flits := t.pd.flits, asks := t.pd.asks } } := by
  obtain ⟨f, a, rfl, -⟩ := h
  rfl

theorem OnlyAsks.flits {s t : State} (h : OnlyAsks s t) : ∀ x ∈ t.pd.flits, x ∈ s.pd.flits := by
  obtain ⟨f, a, rfl, hf⟩ := h
  exact hf

theorem OnlyAsks.kept {s t : State} (h : OnlyAsks s t) :
    t.pd.state = s.pd.state ∧ t.pd.seqErr = s.pd.seqErr ∧ t.pd.seqs = s.pd.seqs ∧ t.pd.seen = s.pd.seen := by
  obtain ⟨f, a, rfl, -⟩ := h
  exact ⟨rfl, rfl, rfl, rfl⟩

theorem onlyAsks_setAsk (s : State) (a : Ask) : OnlyAsks s (setAsk s a) := ⟨_, _, rfl, fun _ h => h⟩

theorem onlyAsks_takeFlits {s t : State} {src : BitVec 16} {kind n : Nat} (h : takeFlits s src kind n = some t) :
    OnlyAsks s t := by
  unfold takeFlits at h
  dsimp only at h
  split at h
  · cases h
  · cases h
    exact ⟨_, _, rfl, fun _ => mem_of_mem_dropFirst⟩

theorem onlyAsks_takeResponses {l : List (BitVec 16)} {s t : State} (h : takeResponses l s = some t) : OnlyAsks s t := by
  induction l generalizing s with
  | nil => cases h; exact .refl _
  | cons p r ih =>
    obtain ⟨u, taken, rest⟩ := Option.bind_eq_some_iff.1 h
    exact (onlyAsks_takeFlits taken).trans (ih rest)

/-- Settling what nobody waits for any more changes nothing but the asks and the flits used up. -/
theorem onlyAsks_settleAsks (s : State) : OnlyAsks s (settleAsks s) := by
  refine List.foldlRecOn (motive := OnlyAsks s) s.pd.asks _ (.refl s) fun t kept a _ => ?_
  split
  · exact kept
  · split
    · exact kept
    · next u taken => exact (kept.trans (onlyAsks_takeResponses taken)).trans (onlyAsks_setAsk _ _)

/-! ### Flits that leave before the work (R292, R294) -/

section
variable {s : State} {k : Asker} (absent : ∀ a ∈ s.pd.asks, a.by_ ≠ k)
include absent

/-- Who has asked for nothing is owed nothing, and nothing is collected. -/
theorem askOf_absent : askOf s k = { by_ := k, owed := [], got := [] } := by
  rw [askOf, List.find?_eq_none.2 (by simpa using absent)]
  rfl

theorem setAsk_absent : setAsk s { by_ := k, owed := [], got := [] } = s := by
  have same : (s.pd.asks.filter fun x => decide (x.by_ ≠ k)) = s.pd.asks := List.filter_eq_self.2 (by simpa using absent)
  simp only [setAsk, same, and_self, if_true]

theorem collect_absent : collect k s = s := by
  unfold collect
  rw [askOf_absent absent]
  exact setAsk_absent absent

end

theorem unanswered_nil (l : List OutMsg) : unanswered l [] = l := by
  induction l with
  | nil => rfl
  | cons m r ih => simp [unanswered, ih]

theorem mem_loadsFirst {l : List OutMsg} {m : OutMsg} (h : m ∈ l) : m ∈ loadsFirst l := by
  by_cases e : fld m.hdr 36 4 = 0 <;> simp [loadsFirst, h, e]

theorem loadsFirst_ne_nil {l : List OutMsg} (h : l ≠ []) : loadsFirst l ≠ [] := by
  obtain ⟨m, mem⟩ := List.exists_mem_of_ne_nil l h
  exact List.ne_nil_of_mem (mem_loadsFirst mem)

theorem askNow_ne_nil {l : List OutMsg} (h : l ≠ []) : askNow l ≠ [] := by
  unfold askNow
  dsimp only
  split
  · exact h
  · next loads => exact loads

/-- Flits that leave lengthen what has left, and take their numbers. -/
theorem foldl_resend (ms : List OutMsg) (s : State) : ∃ out sends, ms.foldl resend s =
    { s with chans := { s.chans with out := s.chans.out ++ out }, pd := { s.pd with sends := sends } } ∧
      out.length = ms.length := by
  induction ms generalizing s with
  | nil => exact ⟨[], s.pd.sends, by simp, rfl⟩
  | cons m r ih =>
    obtain ⟨first, sends, e⟩ : ∃ first sends, resend s m =
        { s with chans := { s.chans with out := s.chans.out ++ [first] }, pd := { s.pd with sends := sends } } := ⟨_, _, rfl⟩
    obtain ⟨out, sends', e', long⟩ := ih (resend s m)
    refine ⟨first :: out, sends', ?_, by simp [long]⟩
    rw [List.foldl_cons, e', e]
    simp

/-- Work of one that has asked for nothing, and that would send flits to domain pages, sends these first. -/
theorem awaitDomain_sends {s : State} {k : Asker} {run : State → State} (need : sentDomain s (run s) ≠ [])
    (absent : ∀ a ∈ s.pd.asks, a.by_ ≠ k) :
    let ms := askNow (loadsFirst (sentDomain s (run s)))
    awaitDomain k run s = ms.foldl resend (setAsk s { by_ := k, owed := ms.map OutMsg.dest, got := [] }) := by
  have leave := loadsFirst_ne_nil need
  unfold awaitDomain
  simp only [collect_absent absent, askOf_absent absent, need, unanswered_nil, ne_eq, not_true_eq_false, if_false]

/-! ### Errors counted (R295, R298) -/

theorem satInc_eq {x : BitVec 32} (h : x.toNat < 2 ^ 32 - 1) : satInc x = x + 1 ∧ (satInc x).toNat = x.toNat + 1 := by
  have e : satInc x = x + 1 := by
    refine if_neg fun c => ?_
    rw [c] at h
    exact absurd h (by decide)
  rw [e]
  exact ⟨rfl, by bv_omega⟩

/-- What counting an error leaves: the count and its alarm, and above the threshold the suspension. -/
theorem checkErrors_pd (s : State) (source n : Nat) :
    let t := checkErrors s source n
    t.pd.seqErr = s.pd.seqErr ∧ t.pd.authErr = s.pd.authErr ∧ t.pd.seqs = s.pd.seqs ∧ (∀ x ∈ t.pd.flits, x ∈ s.pd.flits) ∧
      (fld s.pd.thr 0 16 < n → t.pd.state = 4 ∧ bit t.pd.alarm 1 = true) ∧ (n ≤ fld s.pd.thr 0 16 → t = s) := by
  intro t
  by_cases above : fld s.pd.thr 0 16 < n
  · have e : t = { raiseAlarm s 2 source with pd := { (raiseAlarm s 2 source).pd with state := 4, flits := [] } } :=
      if_pos above
    rw [e]
    exact ⟨rfl, rfl, rfl, nofun, fun _ => ⟨rfl, raiseAlarm_bit s source (k := 1) (by omega)⟩, fun c => absurd above (by omega)⟩
  · have e : t = s := if_neg above
    rw [e]
    exact ⟨rfl, rfl, rfl, fun _ h => h, fun c => absurd c above, fun _ => rfl⟩

theorem countSeq_pd {s : State} (h : s.pd.seqErr.toNat < 2 ^ 32 - 1) :
    let t := countSeq s
    t.pd.seqErr = s.pd.seqErr + 1 ∧ t.pd.seqs = s.pd.seqs ∧ (∀ x ∈ t.pd.flits, x ∈ s.pd.flits) ∧
      (fld s.pd.thr 0 16 < s.pd.seqErr.toNat + 1 → t.pd.state = 4 ∧ bit t.pd.alarm 1 = true) ∧
      (s.pd.seqErr.toNat + 1 ≤ fld s.pd.thr 0 16 → t.pd.state = s.pd.state ∧ bit t.pd.alarm 0 = true) := by
  obtain ⟨next, count⟩ := satInc_eq h
  let u := raiseAlarm { s with pd := { s.pd with seqErr := satInc s.pd.seqErr } } 1 1
  obtain ⟨seqErr, -, seqs, flits, above, within⟩ := checkErrors_pd u 1 (s.pd.seqErr.toNat + 1)
  have e : countSeq s = checkErrors u 1 (s.pd.seqErr.toNat + 1) := by rw [← count]; rfl
  rw [e]
  refine ⟨seqErr.trans next, seqs, flits, above, fun k => ?_⟩
  rw [within k]
  exact ⟨rfl, raiseAlarm_bit _ 1 (k := 0) (by omega)⟩

theorem countAuth_pd {s : State} (h : s.pd.authErr.toNat < 2 ^ 32 - 1) :
    let t := countAuth s
    t.pd.authErr = s.pd.authErr + 1 ∧ t.pd.seqs = s.pd.seqs ∧ (∀ x ∈ t.pd.flits, x ∈ s.pd.flits) ∧
      (fld s.pd.thr 0 16 < s.pd.authErr.toNat + 1 → t.pd.state = 4 ∧ bit t.pd.alarm 1 = true) ∧
      (s.pd.authErr.toNat + 1 ≤ fld s.pd.thr 0 16 → t.pd.state = s.pd.state ∧ bit t.pd.alarm 0 = true) := by
  obtain ⟨next, count⟩ := satInc_eq h
  let u := raiseAlarm { s with pd := { s.pd with authErr := satInc s.pd.authErr } } 1 2
  obtain ⟨-, authErr, seqs, flits, above, within⟩ := checkErrors_pd u 2 (s.pd.authErr.toNat + 1)
  have e : countAuth s = checkErrors u 2 (s.pd.authErr.toNat + 1) := by rw [← count]; rfl
  rw [e]
  refine ⟨authErr.trans next, seqs, flits, above, fun k => ?_⟩
  rw [within k]
  exact ⟨rfl, raiseAlarm_bit _ 2 (k := 0) (by omega)⟩

/-! ### Flits accepted (R287, R294) -/

/-- The machine with other numbers of flits, those expected next and those seen. -/
def numbered (s : State) (seqs : SMap Nat) (seen : SMap (List Nat)) : State :=
  { s with pd := { s.pd with seqs := seqs, seen := seen } }

/-- The flit is taken in: any kind but a response, or a response that is still awaited. -/
def Wanted (s : State) (hdr : BitVec 128) : Prop :=
  fld hdr 36 4 ≠ 3 ∨ (s.pd.flits.filter (flitFrom (hdr.extractLsb' 0 16) 3)).length < awaiting s (hdr.extractLsb' 0 16)

theorem admitFlit_wanted {s : State} {hdr : BitVec 128} (h : Wanted s hdr) :
    admitFlit s hdr = settleAsks { s with pd := { s.pd with flits := s.pd.flits ++ [hdr] } } := by
  refine if_neg fun ⟨response, enough⟩ => ?_
  rcases h with h | h
  · exact h response
  · omega

theorem admitFlit_unwanted {s : State} {hdr : BitVec 128} (h : ¬ Wanted s hdr) : admitFlit s hdr = s := by
  simp only [Wanted, not_or, not_not, Nat.not_lt] at h
  exact if_pos h

/-- What admitting a flit keeps of the domain, and where the flit waits. -/
theorem admitFlit_pd (s : State) (hdr : BitVec 128) :
    let t := admitFlit s hdr
    t.pd.state = s.pd.state ∧ t.pd.seqErr = s.pd.seqErr ∧ t.pd.seqs = s.pd.seqs ∧ t.pd.seen = s.pd.seen ∧
      (Wanted s hdr → s.pd.asks = [] → t.pd.flits = s.pd.flits ++ [hdr]) ∧
      (Wanted s hdr → ∀ x ∈ t.pd.flits, x ∈ s.pd.flits ++ [hdr]) ∧ (¬ Wanted s hdr → t.pd.flits = s.pd.flits) := by
  intro t
  by_cases wanted : Wanted s hdr
  · have e : t = _ := admitFlit_wanted wanted
    have only := onlyAsks_settleAsks { s with pd := { s.pd with flits := s.pd.flits ++ [hdr] } }
    rw [← e] at only
    obtain ⟨state, seqErr, seqs, seen⟩ := only.kept
    refine ⟨state, seqErr, seqs, seen, fun _ none_ => ?_, fun _ => only.flits, fun c => absurd wanted c⟩
    exact congrArg (fun u : State => u.pd.flits) (e.trans (settleAsks_none none_))
  · have e : t = s := admitFlit_unwanted wanted
    rw [e]
    exact ⟨rfl, rfl, rfl, rfl, fun c => absurd c wanted, fun c => absurd c wanted, fun _ => rfl⟩

/-- A flit of the domain for this package, of a kind that exists. -/
theorem flitForm_iff (s : State) (hdr : BitVec 128) :
    flitForm s hdr = true ↔ (s.pd.state = 2 ∨ s.pd.state = 3) ∧ hdr.extractLsb' 0 16 ∈ s.pd.members ∧ fld hdr 36 4 < 8 ∧
      hdr.getLsbD 35 = true ∧ (hdr.extractLsb' 16 16 = s.pd.self ∨ hdr.getLsbD 15 = true) := by
  have switch : isSwitch (hdr.extractLsb' 0 16) = hdr.getLsbD 15 := by simp [isSwitch, bit]
  simp only [flitForm, switch, Bool.and_eq_true, Bool.or_eq_true, inDomain_iff, decide_eq_true_eq, and_assoc]
  rfl

section
variable {s : State} {hdr : BitVec 128} {ue tagOk : Bool}

theorem execDomainFlitReceive_outside (h : flitForm s hdr = false) : execDomainFlitReceive hdr ue tagOk s = .next s := by
  simp only [execDomainFlitReceive, h, Bool.not_false, if_true]

variable (form : flitForm s hdr = true)
include form

theorem execDomainFlitReceive_unauthentic (h : ¬ (tagOk = true ∧ fld hdr 40 24 = s.pd.gen.toNat % 2 ^ 24)) :
    execDomainFlitReceive hdr ue tagOk s = .next (countAuth s) := by
  have bad : (!tagOk || decide (fld hdr 40 24 ≠ s.pd.gen.toNat % 2 ^ 24)) = true := by
    cases tagOk <;> simp_all
  simp only [execDomainFlitReceive, form, bad, Bool.not_true, Bool.false_eq_true, if_false, if_true]

/-- An authentic flit is admitted or counted by its number. -/
theorem execDomainFlitReceive_authentic (h : tagOk = true ∧ fld hdr 40 24 = s.pd.gen.toNat % 2 ^ 24) :
    execDomainFlitReceive hdr ue tagOk s =
      let k := seqKey hdr ue
      let q := fld hdr 64 64
      let n := s.pd.seqs.get 0 k
      let seen := s.pd.seen.get [] k
      if !ue then
        if q = n then .next (admitFlit (numbered s (s.pd.seqs.put k (q + 1)) s.pd.seen) hdr)
        else .next (countSeq s)
      else if q + 256 < n ∨ q ∈ seen then .next (countSeq s)
      else .next (admitFlit (numbered s (s.pd.seqs.put k (max n (q + 1)))
        (s.pd.seen.put k (q :: seen.filter fun x => decide (max n (q + 1) ≤ x + 256)))) hdr) := by
  obtain ⟨tag, gen⟩ := h
  have good : (!tagOk || decide (fld hdr 40 24 ≠ s.pd.gen.toNat % 2 ^ 24)) = false := by simp [tag, gen]
  simp only [execDomainFlitReceive, form, good, Bool.not_true, Bool.false_eq_true, if_false]
  rfl

end

end Sys2Proof.Machine
end

section
/-! PROOF of O49, part 3: the clauses of the statement, one lemma for each row of the domain. -/

namespace Sys2Proof.Machine

variable (s : State)

/-! ### Formation -/

/-- PDCMD form and change, outside FORMING (R23, R291, R295, R297). -/
theorem domainForm_command (reports : List Measured) (secret : BitVec 384) (ready : pdReady s 0 = true)
    (up : broughtUp s = true) :
    let run := exec (.domainForm reports secret) s
    (s.pd.state = 5 → ∃ t, run = .next t ∧ t.pd = s.pd) ∧
    (s.pd.state ≠ 5 → s.pd.state ≠ 1 → (manifest s).ok = false → ∃ t, run = .next t ∧
      t.pd.state = s.pd.state ∧ t.pd.members = s.pd.members ∧ bit t.pd.alarm 0 = true) ∧
    ((manifest s).ok = true → (s.pd.state = 2 ∨ s.pd.state = 3) → ∃ t, run = .next t ∧
      t.pd.state = 3 ∧ t.pd.change = true ∧ t.pd.gen = s.pd.gen ∧ t.pd.members = s.pd.members) ∧
    ((manifest s).ok = true → (s.pd.state = 0 ∨ s.pd.state = 4) → ∃ t, run = .next t ∧ t.pd.state = 1 ∧
      t.pd.domain = (manifest s).domain ∧ t.pd.next = (manifest s).recs ∧ t.pd.gen = s.pd.gen ∧
      t.pd.change = decide (s.pd.state = 4)) := by
  intro run
  have taken : s.pd.state ≠ 1 → run = _ := fun n => (exec_domainForm reports secret s).trans
    (execDomainForm_taken reports secret ready up n)
  refine ⟨fun erased => ?_, fun n5 n1 bad => ?_, fun ok in_ => ?_, fun ok out => ?_⟩
  · exact ⟨_, (taken (by rw [erased]; decide)).trans (if_pos erased), rfl⟩
  · have e := taken n1
    rw [if_neg n5, bad, Bool.not_false, if_pos rfl] at e
    exact ⟨_, e, rfl, rfl, raiseAlarm_bit _ 8 (k := 0) (by omega)⟩
  · have n1 : s.pd.state ≠ 1 := by rcases in_ with e | e <;> rw [e] <;> decide
    have n5 : s.pd.state ≠ 5 := by rcases in_ with e | e <;> rw [e] <;> decide
    have e := taken n1
    rw [if_neg n5, ok, Bool.not_true, if_neg Bool.false_ne_true, if_pos ((inDomain_iff s).2 in_)] at e
    exact ⟨_, e, rfl, rfl, rfl, rfl⟩
  · have n1 : s.pd.state ≠ 1 := by rcases out with e | e <;> rw [e] <;> decide
    have n5 : s.pd.state ≠ 5 := by rcases out with e | e <;> rw [e] <;> decide
    have outside : ¬ inDomain s = true := by rcases out with e | e <;> simp [inDomain, e]
    have e := taken n1
    rw [if_neg n5, ok, Bool.not_true, if_neg Bool.false_ne_true, if_neg outside] at e
    exact ⟨_, e, rfl, by dsimp only, by dsimp only, rfl, rfl⟩

/-- The end of formation (R291, R297). -/
theorem domainForm_ends (reports : List Measured) (secret : BitVec 384) (forming : s.pd.state = 1) :
    let kept := vouched s [] reports s.pd.next
    ∃ t, exec (.domainForm reports secret) s = .next t ∧ t.pd.domain = s.pd.domain ∧
      t.pd.gen = (if s.pd.change then s.pd.gen + 1 else 1) ∧ t.pd.seqErr = 0 ∧ t.pd.authErr = 0 ∧ t.pd.tags = 0 ∧
      (admitted s s.pd.next kept = true → t.pd.state = 2 ∧ t.pd.secret = secret ∧ t.pd.members = kept) ∧
      (admitted s s.pd.next kept = false → t.pd.state = 0 ∧ t.pd.secret = 0 ∧ t.pd.members = []) ∧
      (kept.length < s.pd.next.length → bit t.pd.alarm 0 = true) := by
  intro kept
  refine ⟨_, (exec_domainForm reports secret s).trans (execDomainForm_forming reports secret forming), ?_⟩
  obtain ⟨alarm, logged⟩ := logLeftOut_pd s s.pd.next kept
  have domain : (endForming s reports secret).pd.domain = s.pd.domain := by
    show (logLeftOut s s.pd.next kept).pd.domain = _
    rw [logged]
  have none_ : ∀ {p : Bool}, p = false → ¬ p = true := fun h => by simp [h]
  exact ⟨domain, rfl, rfl, rfl, rfl, fun ok => ⟨if_pos ok, if_pos ok, if_pos ok⟩,
    fun out => ⟨if_neg (none_ out), if_neg (none_ out), if_neg (none_ out)⟩, fun fewer => logLeftOut_alarm s fewer⟩

/-- PDCMD leave (R297). -/
theorem domainLeave_command (ready : pdReady s 1 = true) (in_ : s.pd.state = 2 ∨ s.pd.state = 3) :
    ∃ t, exec .domainLeave s = .next t ∧ t.pd.state = 3 ∧ t.pd.change = true ∧ ∀ r ∈ t.pd.next, r.id ≠ s.pd.self := by
  refine ⟨_, (exec_domainLeave s).trans (execDomainLeave_in ready ((inDomain_iff s).2 in_)), rfl, rfl, fun r mem => ?_⟩
  simpa using (List.mem_filter.1 mem).2

/-! ### Erasure -/

/-- What an erasure leaves (R298). -/
theorem erase_effect (source : Nat) :
    let z := erase s source
    z.pd.state = 5 ∧ z.pd.secret = 0 ∧ z.pd.members = [] ∧ z.staging = [] ∧ z.pkg.devState = 3 ∧
      bit z.pd.alarm 2 = true ∧ z.cells = s.cells ∧ (∀ a, paTarget a < 2 → z.mem.rd a = 0) ∧
      ∀ a, 2 ≤ paTarget a → z.mem.rd a = s.mem.rd a := by
  intro z
  refine ⟨rfl, rfl, rfl, rfl, rfl, raiseAlarm_bit s source (k := 2) (by omega), rfl, fun a die => ?_, fun a other => ?_⟩
  · rw [erase_rd, if_neg (by omega)]
  · rw [erase_rd, if_pos other]

/-- A sensor and a revocation erase alike. -/
theorem tamper_and_revoke (source : BitVec 8) (low : 3 ≤ source.toNat) (high : source.toNat ≤ 6) :
    ∃ t u, exec (.tamperSensor source) s = .next t ∧ (pdReady s 2 = true → exec .domainRevoke s = .next u) ∧
      ∀ z ∈ [t, u], z.pd.state = 5 ∧ z.pd.secret = 0 ∧ z.pd.members = [] ∧ z.staging = [] ∧ z.pkg.devState = 3 ∧
        bit z.pd.alarm 2 = true ∧ z.cells = s.cells ∧ (∀ a, paTarget a < 2 → z.mem.rd a = 0) ∧
        ∀ a, 2 ≤ paTarget a → z.mem.rd a = s.mem.rd a := by
  refine ⟨erase s source.toNat, erase (pdTaken s) 7, ?_, fun ready => ?_, ?_⟩
  · rw [exec_tamperSensor, execTamperSensor, if_pos ⟨low, high⟩]
  · rw [exec_domainRevoke, execDomainRevoke, if_pos ready]
  · intro z mem
    rcases List.mem_pair.1 mem with rfl | rfl
    · exact erase_effect s _
    · exact erase_effect (pdTaken s) 7

/-! ### Re-keying -/

/-- The barrier and the time limit of a re-keying (R297). -/
theorem rekey_rows (reports : List Measured) :
    let kept := vouched s s.pd.members reports s.pd.next
    let u := settleAsks s
    (s.pd.asks = [] → u = s) ∧ u = { s with pd := { s.pd with flits := u.pd.flits, asks := u.pd.asks } } ∧
    (s.pd.state = 3 → s.pd.change = true → s.pd.arrived = true → openRounds s = false → flitsOut u = false → ∃ t,
      exec (.rekeyBarrierComplete reports) s = .next t ∧ t.pd.gen = s.pd.gen + 1 ∧ t.pd.arrived = false ∧
      t.pd.change = false ∧ t.pd.tags = 0 ∧
      (s.pd.self ∈ kept → t.pd.state = 2 ∧ t.pd.secret = s.pd.secret ∧ t.pd.members = kept) ∧
      (s.pd.self ∉ kept → t.pd.state = 0 ∧ t.pd.members = [])) ∧
    (s.pd.arrived = false ∨ openRounds s = true ∨ flitsOut u = true → exec (.rekeyBarrierComplete reports) s = .next u) ∧
    ((∃ a ∈ u.pd.asks, ∃ p ∈ a.owed, domainOk s p.toNat = true) → flitsOut u = true) ∧
    (s.pd.state = 3 → s.pd.change = true → s.pd.arrived = true → ∃ t,
      exec (.rekeyDrainTimeout reports) s = .next t ∧ t.pd.gen = s.pd.gen + 1 ∧ t.pd.arrived = false) ∧
    (s.pd.arrived = false → exec (.rekeyDrainTimeout reports) s = .next s) := by
  intro kept u
  obtain ⟨flits, asks, e, -⟩ := onlyAsks_settleAsks s
  have barrier : exec (.rekeyBarrierComplete reports) s = .next
      (if decide (s.pd.state = 3) && s.pd.change && s.pd.arrived && !openRounds s && !flitsOut u then rekey u reports
        else u) := by
    have same : decide (u.pd.state = 3) = decide (s.pd.state = 3) ∧ u.pd.change = s.pd.change ∧
        u.pd.arrived = s.pd.arrived ∧ openRounds u = openRounds s := by
      rw [show u = _ from e]
      exact ⟨rfl, rfl, rfl, rfl⟩
    obtain ⟨state, change, arrived, rounds⟩ := same
    rw [exec_rekeyBarrierComplete, execRekeyBarrierComplete, ← state, ← change, ← arrived, ← rounds]
  refine ⟨settleAsks_none, (onlyAsks_settleAsks s).eq, fun state change arrived rounds out => ?_, fun blocked => ?_,
    fun ⟨a, ask, p, owed, ok⟩ => ?_, fun state change arrived => ?_, fun n => ?_⟩
  · have moves := rekey_pd u reports
    simp only [u, e] at moves
    refine ⟨_, barrier.trans (congrArg _ (if_pos ?_)), ?_⟩
    · rw [change, arrived, rounds, out]
      simp [state]
    · simp only [u, e]
      exact moves
  · refine barrier.trans (congrArg _ (if_neg ?_))
    rcases blocked with b | b | b <;> simp [b]
  · have ok : domainOk u p.toNat = true := by simp only [u, e]; exact ok
    have asked : (u.pd.asks.any fun a => a.owed.any fun p => domainOk u p.toNat) = true :=
      List.any_eq_true.2 ⟨a, ask, List.any_eq_true.2 ⟨p, owed, ok⟩⟩
    simp only [flitsOut, asked, Bool.or_true]
  · have run : exec (.rekeyDrainTimeout reports) s = .next (rekey
        (s.chans.table.foldl (fun s p => if p.2.dom then endRounds s p.1 p.2 else s) s) reports) := by
      rw [exec_rekeyDrainTimeout, execRekeyDrainTimeout, if_pos (by simp [state, change, arrived])]
    have pd : (s.chans.table.foldl (fun s p => if p.2.dom then endRounds s p.1 p.2 else s) s).pd = s.pd := by
      refine foldl_keeps (fun t : State => t.pd) (fun t p => ?_) _ s
      split
      · exact endRounds_pd _ _ _
      · rfl
    obtain ⟨gen, off, -⟩ := rekey_pd (s.chans.table.foldl (fun s p => if p.2.dom then endRounds s p.1 p.2 else s) s) reports
    exact ⟨_, run, by rw [gen, pd], off⟩
  · rw [exec_rekeyDrainTimeout, execRekeyDrainTimeout, if_neg (by simp [n])]

/-! ### Work that awaits responses -/

/-- The flits leave before the work, which waits while a response is owed (R292, R294). -/
theorem awaitDomain_rows (k : Asker) (run : State → State) (need : sentDomain s (run s) ≠ []) :
    let z := awaitDomain k run s
    let ms := askNow (loadsFirst (sentDomain s (run s)))
    ((∀ a ∈ s.pd.asks, a.by_ ≠ k) → z = { s with chans := z.chans, pd := z.pd } ∧ z.pd.flits = s.pd.flits ∧ ms ≠ [] ∧
      (askOf z k).owed = ms.map OutMsg.dest ∧ z.chans.out.length = s.chans.out.length + ms.length) ∧
    ((askOf s k).owed ≠ [] → takeResponses (askOf s k).owed s = none → z = s) := by
  intro z ms
  refine ⟨fun absent => ?_, fun _ waits => awaitDomain_waits waits need⟩
  have sent : z = ms.foldl resend (setAsk s { by_ := k, owed := ms.map OutMsg.dest, got := [] }) :=
    awaitDomain_sends need absent
  obtain ⟨out, sends, left, long⟩ := foldl_resend ms (setAsk s { by_ := k, owed := ms.map OutMsg.dest, got := [] })
  have asks : askOf z k = askOf (setAsk s { by_ := k, owed := ms.map OutMsg.dest, got := [] }) k := by
    rw [sent, left]
    rfl
  refine ⟨?_, ?_, askNow_ne_nil (loadsFirst_ne_nil need), ?_, ?_⟩
  · rw [sent, left]
    rfl
  · rw [sent, left]
    rfl
  · rw [asks]
    exact congrArg Ask.owed (askOf_setAsk s { by_ := k, owed := ms.map OutMsg.dest, got := [] })
  · rw [sent, left, ← long]
    exact List.length_append

/-! ### Flits -/

/-- A flit that is taken in waits to be performed, whatever number it has taken. -/
theorem admitFlit_performs (hdr : BitVec 128) (seqs : SMap Nat) (seen : SMap (List Nat)) :
    let kept := fld hdr 36 4 ≠ 3 ∨
      (s.pd.flits.filter (flitFrom (hdr.extractLsb' 0 16) 3)).length < awaiting s (hdr.extractLsb' 0 16)
    let t := admitFlit (numbered s seqs seen) hdr
    t.pd.seqs = seqs ∧ t.pd.seen = seen ∧ t.pd.state = s.pd.state ∧ t.pd.seqErr = s.pd.seqErr ∧
      (kept → s.pd.asks = [] → t.pd.flits = s.pd.flits ++ [hdr]) ∧ (kept → ∀ x ∈ t.pd.flits, x ∈ s.pd.flits ++ [hdr]) ∧
      (¬ kept → t.pd.flits = s.pd.flits) := by
  obtain ⟨state, seqErr, seqs', seen', flits⟩ := admitFlit_pd (numbered s seqs seen) hdr
  exact ⟨seqs', seen', state, seqErr, flits⟩

/-- The numbers seen, once one more is accepted (R294). -/
theorem mem_seen_put (m : SMap (List Nat)) (k q top : Nat) :
    q ∈ (m.put k (q :: (m.get [] k).filter fun x => decide (top ≤ x + 256))).get [] k ∧
      ∀ x ∈ m.get [] k, top ≤ x + 256 → x ∈ (m.put k (q :: (m.get [] k).filter fun x => decide (top ≤ x + 256))).get [] k := by
  rw [SMap.get_put_same]
  exact ⟨List.mem_cons_self, fun x mem recent => List.mem_cons_of_mem _ (List.mem_filter.2 ⟨mem, decide_eq_true recent⟩)⟩

/-- Settles O49: one lemma for each row of the domain, and the receipt of a flit by the outcome of its checks. -/
theorem domainStepsComplete : Obligations.DomainStepsComplete := by
  unfold Obligations.DomainStepsComplete
  intro s
  refine ⟨fun reports secret _ up n1 => ?_, domainForm_command s, domainForm_ends s, mem_vouched s,
    fun recs i => leaderOf_lowest, domainLeave_command s, tamper_and_revoke s, fun source other => ?_, rekey_rows s,
    awaitDomain_rows s, ⟨_, exec_pderrWindow s, rfl, rfl, rfl⟩, fun hdr ue tagOk => ?_⟩
  · rw [exec_domainForm, execDomainForm_waits reports secret n1 up]
  · rw [exec_tamperSensor, execTamperSensor, if_neg other]
  · intro k inside good errors source kept performs counted
    have key : k = seqKey hdr ue := rfl
    clear_value k
    subst key
    have form := flitForm_iff s hdr
    have counts : s.pd.seqErr.toNat < 2 ^ 32 - 1 → counted (countSeq s) := countSeq_pd
    simp only [exec_domainFlitReceive]
    refine ⟨fun out => ?_, fun in_ bad room => ?_, fun in_ ok scaleUp => ?_, fun in_ ok ultra => ?_⟩
    · refine execDomainFlitReceive_outside (Bool.eq_false_iff.2 fun c => out (form.1 c))
    · exact ⟨_, execDomainFlitReceive_unauthentic (form.2 in_) bad, countAuth_pd room⟩
    · subst scaleUp
      have run := execDomainFlitReceive_authentic (ue := false) (form.2 in_) ok
      refine ⟨fun next => ?_, fun other room => ?_⟩
      · obtain ⟨seqs, -, done⟩ := admitFlit_performs s hdr (s.pd.seqs.put (seqKey hdr false) (fld hdr 64 64 + 1)) s.pd.seen
        exact ⟨_, run.trans (if_pos next), by rw [seqs, SMap.get_put_same], done⟩
      · exact ⟨_, run.trans (if_neg other), counts room⟩
    · subst ultra
      have run := execDomainFlitReceive_authentic (ue := true) (form.2 in_) ok
      refine ⟨fun fresh => ?_, fun again room => ?_⟩
      · let top := max (s.pd.seqs.get 0 (seqKey hdr true)) (fld hdr 64 64 + 1)
        obtain ⟨seqs, seen, done⟩ := admitFlit_performs s hdr (s.pd.seqs.put (seqKey hdr true) top)
          (s.pd.seen.put (seqKey hdr true)
            (fld hdr 64 64 :: (s.pd.seen.get [] (seqKey hdr true)).filter fun x => decide (top ≤ x + 256)))
        obtain ⟨now, before⟩ := mem_seen_put s.pd.seen (seqKey hdr true) (fld hdr 64 64) top
        refine ⟨_, run.trans (if_neg fresh), ?_, ?_, ?_, done⟩
        · rw [seqs, SMap.get_put_same]
        · rw [seen]
          exact now
        · rw [seqs, seen, SMap.get_put_same]
          exact before
      · exact ⟨_, run.trans (if_pos again), counts room⟩

end Sys2Proof.Machine
end

section
/-! PROOF of O58: what each part of the machine reads right after reset. -/

namespace Sys2Proof.Machine

/-! ### The parts of the reset state -/

/-- Every cell is alike after reset. -/
@[simp] theorem cellAt_reset (c : BitVec 9) : State.reset.cellAt c = Cell.reset := Reg.rd_fill c _

@[simp] theorem throttle_reset (f : BitVec 2) : State.reset.pkg.throttle.rd f = Throttle.reset := Reg.rd_fill f _

/-- No slot is listed, so that each reads its reset value. -/
@[simp] theorem slot_reset (i : Nat) : State.reset.slot i = Slot.reset := rfl

theorem nx_reset_thr (i : BitVec 3) : Nx.reset.thr.rd i = 0xFFFFFFFF#64 := Reg.rd_fill i _

theorem nx_reset_cnt (i : BitVec 3) : Nx.reset.cnt.rd i = 0 := Reg.rd_fill i _

theorem reset_canonical : State.reset.Canonical := ⟨rfl, rfl⟩

/-- Settles O58: what repeats (cells, frames, slots, counters) is filled with one value, which every index reads; the registers
that stand alone are read off the reset state. -/
theorem resetState : Obligations.ResetState := by
  unfold Obligations.ResetState
  refine ⟨reset_canonical, fun c => ?_, fun f => ?_, rfl, rfl, rfl, rfl, fun i => ?_, rfl, rfl, rfl, by decide, rfl, rfl, rfl⟩
  · rw [cellAt_reset]
    exact ⟨rfl, rfl, rfl, rfl, fun i => ⟨nx_reset_thr i, nx_reset_cnt i⟩⟩
  · rw [throttle_reset]
    exact ⟨rfl, rfl⟩
  · rw [slot_reset]
    exact ⟨rfl, rfl, rfl⟩

end Sys2Proof.Machine
end

section
/-! PROOF of O8: EXIT, SPAWN and SPAWNG (R46 to R48, R50, R76, R360, R418). -/

namespace Sys2Proof.Machine

theorem exitReady_iff (c : Cell) : exitReady c = true ↔ c.pipe.pend = 0 ∧ c.mx.queue = [] ∧ c.mx.run = none := by
  simp [exitReady, and_assoc]

theorem closeWaits_iff (c : Cell) (scope : Nat) : closeWaits c scope = true ↔ 2 ≤ scope ∧ c.pipe.accs ≠ [] := by
  simp [closeWaits]

/-- The close of a narrow scope, or with no access pending, does not wait (R177). -/
theorem closeWaits_no {c : Cell} {scope : Nat} (h : scope < 2 ∨ c.pipe.accs = []) : closeWaits c scope = false := by
  rw [← Bool.not_eq_true, closeWaits_iff]
  rintro ⟨wide, pending⟩
  exact h.elim (fun narrow => by omega) pending

theorem rangeOk_iff (q : StageSt) (f : Nat) (base count : Word) :
    rangeOk q f base count = true ↔
      fieldOf q.hdr f (maskIdent q.hdr base) + count.toNat ≤ 2 ^ (fieldPos q.hdr f).2 := by
  simp [rangeOk]

/-- A C word that a handler may not issue, in user mode and without a tag, does what its body says where its fields are
legal. -/
theorem issueWord_user {h : Header} {s : State} {legal : Bool} {body : Cell → Issue} (p : Plain h s) (u : User s)
    (hl : legal = true) : issueWord h legal false false false s body = finish s (body s.cell) :=
  issueWord_plain p hl (fun e => absurd (u.symm.trans e) (by decide)) (fun e => absurd e (by decide))

section
variable {h : Header} {o : CS} {s : State}

theorem execExit_user (p : Plain h s) (u : User s) (w : (Instr.exit h o).WellFormed) :
    exec (.exit h o) s = finish s (if exitReady s.cell then .go (exitTask s s.cur) else .freeze) :=
  (exec_exit h o s).trans (issueWord_user p u (check_exit w))

/-- The range that a SPAWNG hands to the spawn unit (R48). -/
def spawnRange (s : State) (o : CS) : Range :=
  { cell := s.cur, gang := if s.cell.task.fused then s.cell.task.gang else 0, gmem := s.cell.task.gmem,
    launch := s.cell.task.launch, stage := o.imm.extractLsb' 0 4, field := o.imm.extractLsb' 5 3, base := s.cell.rdS o.sa,
    next := 0, count := (s.cell.rdS o.sb).toNat, barrier := bit o.imm 4, scope := o.scope }

variable {q : StageSt}

/-- SPAWN to a stage that the issuing stage lists (R47). -/
theorem execSpawn_target (p : Plain h s) (u : User s) (w : (Instr.spawn h o).WellFormed)
    (target : spawnTarget s (o.imm.extractLsb' 0 4) = some q) :
    exec (.spawn h o) s = finish s
      (if (rangeOf s s.cur).isSome || queueFull q || closeWaits s.cell o.scope.toNat then .freeze
      else .go (enqueue (closePhase s s.cur o.scope.toNat) s.cell.task.launch (o.imm.extractLsb' 0 4)
        { ident := s.cell.rdS o.sa, barrier := bit o.imm 4, scope := o.scope, step := none })) := by
  rw [exec_spawn, execSpawn, target]
  exact issueWord_user p u (by rw [check_spawn w]; rfl)

/-- SPAWNG to a stage that the issuing stage lists, of a range that stays in its field (R48). -/
theorem execSpawng_target (p : Plain h s) (u : User s) (w : (Instr.spawng h o).WellFormed)
    (target : spawnTarget s (o.imm.extractLsb' 0 4) = some q)
    (room : rangeOk q (o.imm.extractLsb' 5 3).toNat (s.cell.rdS o.sa) (s.cell.rdS o.sb) = true) :
    exec (.spawng h o) s = finish s
      (if (rangeOf s s.cur).isSome || closeWaits s.cell o.scope.toNat then .freeze
      else if s.cell.rdS o.sb = 0 then .go (closePhase s s.cur o.scope.toNat)
      else .go (setRange (closePhase s s.cur o.scope.toNat) s.cur (some (spawnRange s o)))) := by
  rw [exec_spawng, execSpawng, target]
  exact issueWord_user p u (by rw [check_spawng w]; exact room)

theorem execSpawng_leaves (p : Plain h s) (target : spawnTarget s (o.imm.extractLsb' 0 4) = some q)
    (beyond : rangeOk q (o.imm.extractLsb' 5 3).toNat (s.cell.rdS o.sa) (s.cell.rdS o.sb) = false) :
    exec (.spawng h o) s = .next (trapped s (trapOf cIllegalOp (h.slot.zeroExtend 64))) := by
  rw [exec_spawng, execSpawng, target]
  exact issueWord_illegal p.wait (.inl ((congrArg _ beyond).trans (Bool.and_false _)))

theorem spawn_noTarget (p : Plain h s) (target : spawnTarget s (o.imm.extractLsb' 0 4) = none) :
    exec (.spawn h o) s = .next (trapped s (trapOf cIllegalOp (h.slot.zeroExtend 64))) ∧
      exec (.spawng h o) s = .next (trapped s (trapOf cIllegalOp (h.slot.zeroExtend 64))) := by
  rw [exec_spawn, execSpawn, exec_spawng, execSpawng, target]
  exact ⟨issueWord_illegal p.wait (.inl (Bool.and_false _)), issueWord_illegal p.wait (.inl (Bool.and_false _))⟩

end

/-- Settles O8: each word is brought to what its body says once its checks have passed, then split by what it waits for. -/
theorem taskWordsComplete : Obligations.TaskWordsComplete := by
  unfold Obligations.TaskWordsComplete
  intro h s p u o
  refine ⟨fun w => ⟨fun ready => ?_, fun busy => ?_⟩, fun w q target held close => ?_, fun w target held => ?_,
    fun w q target held close room => ?_, fun w q target => ⟨fun room held => ?_, fun beyond => ?_⟩, fun target i hi _ => ?_⟩
  · rw [execExit_user p u w, (exitReady_iff _).2 ready]
    rfl
  · rw [execExit_user p u w, Bool.eq_false_iff.2 (mt (exitReady_iff _).1 busy)]
    rfl
  · rw [execSpawn_target p u w target, held, closeWaits_no close]
    refine ⟨fun space => ?_, fun full => ?_⟩
    · rw [show queueFull q = false from decide_eq_false (by omega)]
      rfl
    · rw [(queueFull_iff q).2 full]
      rfl
  · obtain ⟨q, target⟩ := Option.ne_none_iff_exists'.1 target
    rw [execSpawn_target p u w target, Option.isSome_iff_ne_none.2 held]
    rfl
  · rw [execSpawng_target p u w target ((rangeOk_iff _ _ _ _).2 room), held, closeWaits_no close]
    refine ⟨fun none_ => ?_, fun some_ => ?_⟩
    · rw [if_pos none_]
      rfl
    · rw [if_neg some_]
      rfl
  · rw [execSpawng_target p u w target ((rangeOk_iff _ _ _ _).2 room), Option.isSome_iff_ne_none.2 held]
    rfl
  · exact execSpawng_leaves p target (Bool.eq_false_iff.2 (mt (rangeOk_iff _ _ _ _).1 beyond))
  · obtain ⟨spawn, spawng⟩ := spawn_noTarget p target
    rcases List.mem_pair.1 hi with rfl | rfl
    · exact spawn
    · exact spawng

end Sys2Proof.Machine
end

section
/-! SUPPORT of O9, O10, O38 and O39: what phases and the emptying of an L1 leave as it is (R55, R171, R177). -/

namespace Sys2Proof.Machine

/-! ### All but the lines of the L1s, the memory and the slots -/

/-- The same cell but for the lines of its L1. -/
def Cell.SameButLines (x y : Cell) : Prop := x = { y with lines := x.lines }

theorem Cell.SameButLines.refl (x : Cell) : x.SameButLines x := rfl

theorem Cell.SameButLines.trans {x y z : Cell} (h : x.SameButLines y) (k : y.SameButLines z) : x.SameButLines z := by
  unfold Cell.SameButLines at *
  rw [h, k]

/-- Whatever of a cell does not speak of its lines is as it was. -/
theorem Cell.SameButLines.of {x y : Cell} (h : x.SameButLines y) {γ : Type} (f : Cell → γ)
    (blind : ∀ z l, f { z with lines := l } = f z) : f x = f y := by
  rw [h, blind]

/-- An update that does not look at the lines acts alike on both. -/
theorem Cell.SameButLines.map {x y : Cell} (h : x.SameButLines y) {f : Cell → Cell}
    (blind : ∀ z l, f { z with lines := l } = { f z with lines := l }) : (f x).SameButLines (f y) := by
  unfold Cell.SameButLines at *
  rw [h, blind]

/-- Tasks, package and the rest of each cell are as they were: what phases and a leaving L1 do not touch. -/
structure OnlyLines (s t : State) : Prop where
  cur : t.cur = s.cur
  nextId : t.nextId = s.nextId
  tasks : t.tasks = s.tasks
  pkg : t.pkg = s.pkg
  cmds : t.cmds = s.cmds
  staging : t.staging = s.staging
  cell : ∀ c, (t.cellAt c).SameButLines (s.cellAt c)

theorem OnlyLines.refl (s : State) : OnlyLines s s := ⟨rfl, rfl, rfl, rfl, rfl, rfl, fun _ => rfl⟩

theorem OnlyLines.trans {s t u : State} (h : OnlyLines s t) (k : OnlyLines t u) : OnlyLines s u where
  cur := k.cur.trans h.cur
  nextId := k.nextId.trans h.nextId
  tasks := k.tasks.trans h.tasks
  pkg := k.pkg.trans h.pkg
  cmds := k.cmds.trans h.cmds
  staging := k.staging.trans h.staging
  cell c := (k.cell c).trans (h.cell c)

theorem OnlyLines.of_cells {s t : State} (cells : t.cells = s.cells) (cur : t.cur = s.cur) (nextId : t.nextId = s.nextId)
    (tasks : t.tasks = s.tasks) (pkg : t.pkg = s.pkg) (cmds : t.cmds = s.cmds) (staging : t.staging = s.staging) :
    OnlyLines s t :=
  ⟨cur, nextId, tasks, pkg, cmds, staging, fun c => by rw [State.cellAt, cells]; exact .refl _⟩

/-- A fold of steps that keep all but lines. -/
theorem OnlyLines.each {α : Type} {turn : State → α → State} (one : ∀ t x, OnlyLines t (turn t x)) (l : List α) (s : State) :
    OnlyLines s (l.foldl turn s) :=
  l.foldlRecOn (motive := OnlyLines s) turn (.refl s) fun t h x _ => h.trans (one t x)

theorem onlyLines_flush (s : State) (ls : List Line) : OnlyLines s (s.flush ls) := by
  apply OnlyLines.of_cells <;> simp

theorem onlyLines_store (s : State) (a : Nat) (bs : List Byte) : OnlyLines s (s.store a bs) := by
  apply OnlyLines.of_cells <;> simp

theorem onlyLines_setSlot (s : State) (i : Nat) (x : Slot) : OnlyLines s (s.setSlot i x) := by
  apply OnlyLines.of_cells <;> simp

/-- The lines of one L1 are replaced. -/
theorem onlyLines_updAt (s : State) (c : BitVec 9) (f : Cell → List Line) :
    OnlyLines s (s.updAt c fun x => { x with lines := f x }) := by
  refine ⟨rfl, rfl, rfl, rfl, rfl, rfl, fun d => ?_⟩
  by_cases e : d = c
  · rw [e, State.updAt_cellAt]
    rfl
  · rw [State.updAt_other s _ e]
    exact .refl _

theorem onlyLines_l1Clean (s : State) (c : BitVec 9) : OnlyLines s (l1Clean s c) := by
  unfold l1Clean
  exact (onlyLines_updAt s _ _).trans (onlyLines_flush _ _)

theorem onlyLines_l1Open (s : State) (c : BitVec 9) : OnlyLines s (l1Open s c) := onlyLines_updAt s _ _

theorem onlyLines_l1Empty (s : State) (c : BitVec 9) : OnlyLines s (l1Empty s c) := by
  unfold l1Empty
  exact ((onlyLines_l1Clean s c).trans (onlyLines_updAt _ _ _)).trans ((onlyLines_updAt _ c _).trans (onlyLines_flush _ _))

theorem onlyLines_leaveL1 (s : State) (c : BitVec 9) (shared : Bool) : OnlyLines s (leaveL1 s c shared) := by
  unfold leaveL1
  split
  · exact .refl s
  · split
    · exact .refl s
    · exact onlyLines_l1Empty s c

theorem onlyLines_broodShadow (s : State) (a : Nat) (b : Byte) : OnlyLines s (broodShadow s a b) := by
  unfold broodShadow
  dsimp only
  split
  · exact onlyLines_setSlot s _ _
  · split
    · exact onlyLines_setSlot s _ _
    · exact .refl s

theorem onlyLines_performInbound (s : State) (w : Inbound) : OnlyLines s (performInbound broodShadow s w) := by
  refine OnlyLines.each (fun t i => ?_) _ s
  dsimp only
  split
  · exact onlyLines_broodShadow t _ _
  · split
    · exact .refl t
    · exact onlyLines_store t _ _

theorem onlyLines_drainInbound (s : State) (due : Inbound → Bool) : OnlyLines s (drainInbound s due) := by
  unfold drainInbound
  dsimp only
  refine OnlyLines.trans ?_ (OnlyLines.each onlyLines_performInbound _ _)
  exact .of_cells rfl rfl rfl rfl rfl rfl rfl

theorem onlyLines_closePhase (s : State) (c : BitVec 9) (scope : Nat) : OnlyLines s (closePhase s c scope) := by
  unfold closePhase
  split
  · exact onlyLines_l1Clean s c
  · exact .refl s

theorem onlyLines_openPhase (s : State) (c : BitVec 9) (scope : Nat) : OnlyLines s (openPhase s c scope) := by
  have drained : OnlyLines s (if 6 ≤ scope then drainInbound s (openDrains s scope) else s) := by
    split
    · exact onlyLines_drainInbound s _
    · exact .refl s
  unfold openPhase
  dsimp only
  generalize (if 6 ≤ scope then drainInbound s (openDrains s scope) else s) = u at drained ⊢
  split
  · exact drained.trans (onlyLines_l1Open _ c)
  · exact drained

/-! ### One turn for each cell of a list -/

section
variable {turn : State → BitVec 9 → State} {c : BitVec 9}
  (other : ∀ t d, c ≠ d → ((turn t d).cellAt c).SameButLines (t.cellAt c))
include other

/-- The turns of other cells leave a cell as it was. -/
theorem foldl_cellAt_notMem {cs : List (BitVec 9)} (hc : c ∉ cs) (s : State) :
    ((cs.foldl turn s).cellAt c).SameButLines (s.cellAt c) := by
  induction cs generalizing s with
  | nil => exact .refl _
  | cons d r ih =>
    obtain ⟨ne, rest⟩ := List.ne_and_not_mem_of_not_mem_cons hc
    exact (ih rest (turn s d)).trans (other s d ne)

variable {f : Cell → Cell} (own : ∀ t, ((turn t c).cellAt c).SameButLines (f (t.cellAt c)))
  (blind : ∀ z l, f { z with lines := l } = { f z with lines := l })
include own blind

/-- A cell of the list has had its turn. -/
theorem foldl_cellAt_nodup {cs : List (BitVec 9)} (hc : c ∈ cs) (once : cs.Nodup) (s : State) :
    ((cs.foldl turn s).cellAt c).SameButLines (f (s.cellAt c)) := by
  induction cs generalizing s with
  | nil => cases hc
  | cons d r ih =>
    obtain ⟨fresh, rest⟩ := List.nodup_cons.1 once
    by_cases e : c = d
    · subst e
      exact (foldl_cellAt_notMem other fresh _).trans (own s)
    · exact (ih ((List.mem_cons.1 hc).resolve_left e) rest _).trans ((other s d e).map blind)

/-- The same of a list that may name a cell twice, where a second turn does nothing. -/
theorem foldl_cellAt_mem (idem : ∀ z, f (f z) = f z) {cs : List (BitVec 9)} (hc : c ∈ cs) (s : State) :
    ((cs.foldl turn s).cellAt c).SameButLines (f (s.cellAt c)) := by
  induction cs generalizing s with
  | nil => cases hc
  | cons d r ih =>
    by_cases e : c = d
    · subst e
      by_cases again : c ∈ r
      · have twice := (ih again (turn s c)).trans ((own s).map blind)
        rwa [idem] at twice
      · exact (foldl_cellAt_notMem other again _).trans (own s)
    · exact (ih ((List.mem_cons.1 hc).resolve_left e) _).trans ((other s d e).map blind)

end

/-- A turn that acts on its own cell alone. -/
theorem updAt_sameButLines (s : State) {c d : BitVec 9} (f : Cell → Cell) (h : c ≠ d) :
    ((s.updAt d f).cellAt c).SameButLines (s.cellAt c) := by
  rw [State.updAt_other s f h]
  exact .refl _

/-! ### Gangs -/

theorem gangOf_congr {s t : State} (h : t.tasks = s.tasks) (id : Nat) : gangOf t id = gangOf s id := by
  rw [gangOf, gangOf, h]

theorem gangOf_id {s : State} {id : Nat} {g : Gang} (h : gangOf s id = some g) : g.id = id := by
  simpa using List.find?_some h

/-- A gang that is there reads what replaced it. -/
theorem gangOf_setGang {s : State} {g x : Gang} (h : gangOf s g.id = some x) : gangOf (setGang s g) g.id = some g := by
  simp only [gangOf, setGang] at h ⊢
  generalize s.tasks.gangs = gs at h ⊢
  induction gs with
  | nil => cases h
  | cons y r ih =>
    by_cases e : y.id = g.id
    · simp [e]
    · rw [List.find?_cons_of_neg (by simpa using e)] at h
      simpa [e] using ih h

@[simp] theorem setGang_saved (s : State) (g : Gang) : (setGang s g).tasks.saved = s.tasks.saved := rfl

theorem gangOf_onSaved (s : State) (gid : Nat) (f : Cell → Cell) (id : Nat) : gangOf (onSaved s gid f) id = gangOf s id := rfl

end Sys2Proof.Machine
end

section
/-! PROOF of O9: arrivals at a barrier, their closes and their traps (R53, R54, R318, R332 to R334, R345). -/

namespace Sys2Proof.Machine

theorem arrive_gang {s : State} {g : Gang} (found : gangOf s s.cell.task.gang = some g) (n : BitVec 4) (a : Arrival) :
    arrive s n a = setGang s (withArrival g n a) := by
  rw [arrive, found]
  rfl

/-- An arrival behind the close counts at the gang's barrier. -/
theorem arrive_closePhase {s : State} {g : Gang} (found : gangOf s s.cell.task.gang = some g) (scope : Nat) (n : BitVec 4)
    (a : Arrival) : arrive (closePhase s s.cur scope) n a = setGang (closePhase s s.cur scope) (withArrival g n a) := by
  have only := onlyLines_closePhase s s.cur scope
  have gang : (closePhase s s.cur scope).cell.task.gang = s.cell.task.gang := by
    rw [State.cell, only.cur]
    exact (only.cell s.cur).of (·.task.gang) fun _ _ => rfl
  exact arrive_gang (by rw [gang, gangOf_congr only.tasks, found]) n a

theorem isLead_iff (s : State) : isLead s = true ↔ (leadCell s).task.gmem = s.cell.task.gmem := by simp [isLead]

section
variable {h : Header} {legal : Bool} {n scope : BitVec 4} {s : State} {f : Cell → State → State}

theorem barrierWord_arrives (p : Plain h s) (u : User s) (hl : legal = true) (gang : s.cell.task.gsize ≠ 1)
    (close : scope.toNat < 2 ∨ s.cell.pipe.accs = []) :
    barrierWord h legal n scope s f = .next ((f s.cell (closePhase s s.cur scope.toNat)).mark s.cur .issued) := by
  rw [barrierWord, issueWord_user p u hl, if_neg gang, closeWaits_no close]
  rfl

theorem barrierWord_waits (p : Plain h s) (u : User s) (hl : legal = true) (gang : s.cell.task.gsize ≠ 1)
    (wide : 2 ≤ scope.toNat) (pending : s.cell.pipe.accs ≠ []) :
    barrierWord h legal n scope s f = .next (frozen s) := by
  rw [barrierWord, issueWord_user p u hl, if_neg gang, (closeWaits_iff _ _).2 ⟨wide, pending⟩]
  rfl

theorem barrierWord_alone (p : Plain h s) (u : User s) (hl : legal = true) (alone : s.cell.task.gsize = 1) :
    barrierWord h legal n scope s f = .next (trapped s (trapOf cBarrierMisuse (n.zeroExtend 64))) := by
  rw [barrierWord, issueWord_user p u hl, if_pos alone]
  rfl

end

section
variable {h : Header} {o : CS} {s : State}

/-- The check of CARVE on its split passes. -/
def SplitFits (s : State) (o : CS) : Prop :=
  ∃ q, stageOf s s.cell.task.launch s.cell.task.stage = some q ∧ carveOk q (s.cell.rdS o.sa)

theorem execCarve_fits (w : (Instr.carve h o).WellFormed) (fits : SplitFits s o) :
    exec (.carve h o) s = barrierWord h true (o.imm.extractLsb' 0 4) o.scope s fun c s1 =>
      (arrive s1 (o.imm.extractLsb' 0 4) { gmem := c.task.gmem, carve := some (((leadCell s).rdS o.sa).extractLsb' 0 12), waits := true }).upd
        fun c => { c with wait := .carve (o.imm.extractLsb' 0 4) o.scope } := by
  obtain ⟨q, stage, ok⟩ := fits
  simp only [exec_carve, execCarve, check_carve w, stage, ok, Bool.and_self]

/-- BARCFG of a value within the gang (R334). -/
theorem execBarcfg_user (p : Plain h s) (u : User s) (w : (Instr.barcfg h o).WellFormed)
    (within : (s.cell.rdS o.sa).toNat % 64 ≤ s.cell.task.gsize.toNat) {g : Gang} (found : gangOf s s.cell.task.gang = some g) :
    exec (.barcfg h o) s = finish s
      (if s.cell.task.gsize = 1 ∨ (g.bars.rd (o.imm.extractLsb' 0 4)).arrived ≠ [] then
        .trap (trapOf cBarrierMisuse ((o.imm.extractLsb' 0 4).zeroExtend 64))
      else if isLead s then
        .go (setGang s (withBarrier g (o.imm.extractLsb' 0 4) { g.bars.rd (o.imm.extractLsb' 0 4) with
          expect := if (s.cell.rdS o.sa).toNat % 64 = 0 then g.size else (s.cell.rdS o.sa).toNat % 64 }))
      else .go s) := by
  have e : fld (s.cell.rdS o.sa) 0 6 = (s.cell.rdS o.sa).toNat % 64 := fld_zero _ 6
  rw [exec_barcfg, execBarcfg, e, issueWord_user p u (by rw [check_barcfg w]; exact decide_eq_true within), found]
  simp only [decide_eq_true_eq]
  rfl

theorem execBarcfg_beyond (p : Plain h s) (beyond : s.cell.task.gsize.toNat < (s.cell.rdS o.sa).toNat % 64) :
    exec (.barcfg h o) s = .next (trapped s (trapOf cIllegalOp (h.slot.zeroExtend 64))) := by
  have e : fld (s.cell.rdS o.sa) 0 6 = (s.cell.rdS o.sa).toNat % 64 := fld_zero _ 6
  rw [exec_barcfg, execBarcfg, e]
  exact issueWord_illegal p.wait (.inl (by rw [decide_eq_false (by omega), Bool.and_false]))

end

/-- Settles O9: the four words by whether the task has a gang, whether its accesses hold the close, and for BARCFG by its value. -/
theorem barrierWordsComplete : Obligations.BarrierWordsComplete := by
  unfold Obligations.BarrierWordsComplete
  intro h s p u o g
  dsimp only
  intro found
  refine ⟨fun gang close => ⟨fun w => ?_, fun w => ?_, fun w fits => ?_, fun w within => ?_⟩,
    fun gang wide pending => ⟨fun w => ?_, fun w => ?_, fun w fits => ?_⟩, fun _ => execBarcfg_beyond p,
    fun alone => ⟨fun w => ?_, fun w => ?_, fun w within => ?_, fun w fits => ?_⟩⟩
  · rw [exec_bar, execBar, barrierWord_arrives p u (check_bar w) gang close, arrive_closePhase found]
  · rw [exec_bara, execBara, barrierWord_arrives p u (check_bara w) gang close, arrive_closePhase found]
  · rw [execCarve_fits w fits, barrierWord_arrives p u rfl gang close, arrive_closePhase found]
  · have free : (g.bars.rd (o.imm.extractLsb' 0 4)).arrived = [] →
        ¬ (s.cell.task.gsize = 1 ∨ (g.bars.rd (o.imm.extractLsb' 0 4)).arrived ≠ []) :=
      fun fresh => not_or.2 ⟨gang, not_not.2 fresh⟩
    rw [execBarcfg_user p u w within found]
    refine ⟨fun fresh lead => ?_, fun fresh other => ?_, fun arrived => ?_⟩
    · rw [if_neg (free fresh), if_pos ((isLead_iff s).2 lead)]
      rfl
    · rw [if_neg (free fresh), if_neg (mt (isLead_iff s).1 other)]
      rfl
    · rw [if_pos (.inr arrived)]
      rfl
  · rw [exec_bar, execBar, barrierWord_waits p u (check_bar w) gang wide pending]
  · rw [exec_bara, execBara, barrierWord_waits p u (check_bara w) gang wide pending]
  · rw [execCarve_fits w fits, barrierWord_waits p u rfl gang wide pending]
  · rw [exec_bar, execBar, barrierWord_alone p u (check_bar w) alone]
  · rw [exec_bara, execBara, barrierWord_alone p u (check_bara w) alone]
  · rw [execBarcfg_user p u w (by rw [alone]; exact within) found, if_pos (.inl alone)]
    rfl
  · rw [execCarve_fits w fits, barrierWord_alone p u rfl alone]

end Sys2Proof.Machine
end

section
/-! PROOF of O10: fused gangs come apart and together, barrier phases complete (R53, R54, R56, R357, R411). -/

namespace Sys2Proof.Machine

/-! ### A barrier phase completes (R53, R54) -/

/-- What a completed phase of barrier `n` leaves of a wait. -/
def waitReleased (n : BitVec 4) (allCarve : Bool) : Wait → Wait
  | .bar m sc => if m = n then .none else .bar m sc
  | w => carveReleased n allCarve w

/-- The same of a member of the gang on its cell; other cells stay. -/
def cellReleased (gid : Nat) (n : BitVec 4) (allCarve : Bool) (x : Cell) : Cell :=
  if runsTask x gid x.task.gmem then { x with wait := waitReleased n allCarve x.wait } else x

theorem waitReleased_idem (n : BitVec 4) (k : Bool) (w : Wait) :
    waitReleased n k (waitReleased n k w) = waitReleased n k w := by
  cases w with
  | bar m sc =>
    by_cases e : m = n
    · simp [waitReleased, carveReleased, e]
    · simp [waitReleased, e]
  | carve m sc =>
    by_cases e : m = n
    · cases k <;> simp [waitReleased, carveReleased, e]
    · simp [waitReleased, carveReleased, e]
  | _ => rfl

theorem cellReleased_idem (gid : Nat) (n : BitVec 4) (k : Bool) (x : Cell) :
    cellReleased gid n k (cellReleased gid n k x) = cellReleased gid n k x := by
  by_cases e : runsTask x gid x.task.gmem = true
  · have once : cellReleased gid n k x = { x with wait := waitReleased n k x.wait } := if_pos e
    have twice : cellReleased gid n k { x with wait := waitReleased n k x.wait } =
        { x with wait := waitReleased n k (waitReleased n k x.wait) } := if_pos e
    rw [once, twice, waitReleased_idem]
  · have stays : cellReleased gid n k x = x := if_neg e
    rw [stays, stays]

theorem cellReleased_blind (gid : Nat) (n : BitVec 4) (k : Bool) (x : Cell) (l : List Line) :
    cellReleased gid n k { x with lines := l } = { cellReleased gid n k x with lines := l } := by
  by_cases e : runsTask x gid x.task.gmem = true
  · have bare : cellReleased gid n k { x with lines := l } = { x with lines := l, wait := waitReleased n k x.wait } := if_pos e
    rw [bare, cellReleased, if_pos e]
  · have bare : cellReleased gid n k { x with lines := l } = { x with lines := l } := if_neg e
    rw [bare, cellReleased, if_neg e]

/-- The release of one cell, as `barrierCheck` performs it. -/
def releaseTurn (gid : Nat) (n : BitVec 4) (allCarve : Bool) (s : State) (c : BitVec 9) : State :=
  let x := s.cellAt c
  if runsTask x gid x.task.gmem then
    match x.wait with
    | .bar m sc => if m = n then openPhase (s.updAt c fun x => { x with wait := .none }) c sc.toNat else s
    | w => s.updAt c fun x => { x with wait := carveReleased n allCarve w }
  else s

/-- A turn releases its own cell. -/
theorem releaseTurn_own (gid : Nat) (n : BitVec 4) (k : Bool) (s : State) (c : BitVec 9) :
    ((releaseTurn gid n k s c).cellAt c).SameButLines (cellReleased gid n k (s.cellAt c)) := by
  unfold releaseTurn cellReleased
  dsimp only
  split
  · split
    · next m sc e =>
      rw [e]
      by_cases here : m = n
      · have opened := (onlyLines_openPhase (s.updAt c fun x => { x with wait := .none }) c sc.toNat).cell c
        rw [State.updAt_cellAt] at opened
        simpa only [waitReleased, here, if_true] using opened
      · simp only [waitReleased, here, if_false, ← e]
        exact .refl _
    · next w no =>
      rw [State.updAt_cellAt]
      have same : waitReleased n k (s.cellAt c).wait = carveReleased n k (s.cellAt c).wait := by
        unfold waitReleased
        split
        · next m sc e => exact absurd e (no m sc)
        · rfl
      rw [same]
      exact .refl _
  · exact .refl _

theorem releaseTurn_other (gid : Nat) (n : BitVec 4) (k : Bool) (s : State) {c d : BitVec 9} (h : c ≠ d) :
    ((releaseTurn gid n k s d).cellAt c).SameButLines (s.cellAt c) := by
  unfold releaseTurn
  dsimp only
  split
  · split
    · split
      · exact ((onlyLines_openPhase _ d _).cell c).trans (updAt_sameButLines s _ h)
      · exact .refl _
    · exact updAt_sameButLines s _ h
  · exact .refl _

theorem releaseTurn_tasks (gid : Nat) (n : BitVec 4) (k : Bool) (s : State) (c : BitVec 9) :
    (releaseTurn gid n k s c).tasks = s.tasks := by
  unfold releaseTurn
  dsimp only
  split
  · split
    · split
      · exact (onlyLines_openPhase _ _ _).tasks
      · rfl
    · rfl
  · rfl

/-- Every arrival of the phase was a CARVE (R54). -/
def Barrier.allCarve (b : Barrier) : Bool := b.arrived.all fun a => a.carve.isSome

/-- The gang after the phase: a phase of CARVEs leaves the split of the last one to be applied. -/
def phaseOver (g : Gang) (n : BitVec 4) : Gang :=
  { g with
    bars := g.bars.wr n { g.bars.rd n with arrived := [] }
    carving := if (g.bars.rd n).allCarve then
      g.carving ++ [(n, ((g.bars.rd n).arrived.reverse.findSome? fun a => a.carve).getD 0)] else g.carving }

section
variable {s : State} {id : Nat} {g : Gang} {n : BitVec 4} (found : gangOf s id = some g)
include found

theorem barrierCheck_waits
    (h : (g.bars.rd n).arrived = [] ∨ (g.bars.rd n).arrived.length + g.exited.length < (g.bars.rd n).expect) :
    barrierCheck s id n = s := by
  rw [barrierCheck, found]
  exact if_pos h

variable (some_ : (g.bars.rd n).arrived ≠ []) (all : (g.bars.rd n).expect ≤ (g.bars.rd n).arrived.length + g.exited.length)
include some_ all

theorem barrierCheck_completes :
    barrierCheck s id n = g.cells.foldl (releaseTurn id n (g.bars.rd n).allCarve)
      (onSaved (setGang s (phaseOver g n)) id (savedReleased n (g.bars.rd n).allCarve)) := by
  rw [barrierCheck, found]
  exact if_neg (not_or.2 ⟨some_, Nat.not_lt.2 all⟩)

theorem gangOf_barrierCheck : gangOf (barrierCheck s id n) id = some (phaseOver g n) := by
  obtain rfl := gangOf_id found
  rw [barrierCheck_completes found some_ all, gangOf_congr (foldl_keeps State.tasks (releaseTurn_tasks _ _ _) _ _)]
  exact gangOf_setGang (g := phaseOver g n) found

/-- Each cell of the gang is released. -/
theorem cellAt_barrierCheck {c : BitVec 9} (hc : c ∈ g.cells) :
    ((barrierCheck s id n).cellAt c).SameButLines (cellReleased id n (g.bars.rd n).allCarve (s.cellAt c)) := by
  rw [barrierCheck_completes found some_ all]
  exact foldl_cellAt_mem (fun t d h => releaseTurn_other _ _ _ t h) (fun t => releaseTurn_own _ _ _ t c)
    (cellReleased_blind _ _ _) (cellReleased_idem _ _ _) hc _

/-- What a member on its cell waits for after the phase. -/
theorem wait_barrierCheck {c : BitVec 9} (hc : c ∈ g.cells) (runs : runsTask (s.cellAt c) id (s.cellAt c).task.gmem = true) :
    ((barrierCheck s id n).cellAt c).wait = waitReleased n (g.bars.rd n).allCarve (s.cellAt c).wait := by
  rw [(cellAt_barrierCheck found some_ all hc).of (·.wait) fun _ _ => rfl, cellReleased, if_pos runs]

end

theorem waitReleased_ne_bar (n : BitVec 4) (k : Bool) (w : Wait) (sc : BitVec 4) : waitReleased n k w ≠ .bar n sc := by
  cases w with
  | bar m _ => by_cases e : m = n <;> simp [waitReleased, e]
  | carve m _ => by_cases e : m = n <;> cases k <;> simp [waitReleased, carveReleased, e]
  | _ => exact Wait.noConfusion

/-- The split of the last arrival of a phase of CARVEs. -/
theorem lastCarve {l : List Arrival} {a : Arrival} {v : BitVec 12} (h : a.carve = some v) :
    (((l ++ [a]).reverse.findSome? fun a => a.carve).getD 0) = v := by
  simp [h]

theorem allCarve_iff (b : Barrier) : b.allCarve = true ↔ ∀ a ∈ b.arrived, a.carve ≠ none := by
  simp [Barrier.allCarve, Option.isSome_iff_ne_none]

/-! ### A rejoined gang goes on (R56) -/

/-- The lower of two members, the earlier of equals. -/
def lowerMember (o : Option Cell) (x : Cell) : Option Cell :=
  match o with
  | none => some x
  | some y => if x.task.gmem.toNat < y.task.gmem.toNat then some x else some y

theorem foldl_lowerMember (l : List Cell) (y : Cell) :
    ∃ z, l.foldl lowerMember (some y) = some z ∧ z ∈ y :: l ∧ ∀ x ∈ y :: l, z.task.gmem.toNat ≤ x.task.gmem.toNat := by
  induction l generalizing y with
  | nil => exact ⟨y, rfl, List.mem_cons_self, by simp⟩
  | cons x r ih =>
    by_cases lower : x.task.gmem.toNat < y.task.gmem.toNat
    · obtain ⟨z, fold, there, least⟩ := ih x
      rw [List.foldl_cons, lowerMember, if_pos lower]
      refine ⟨z, fold, List.mem_cons_of_mem _ there, fun u hu => ?_⟩
      rcases List.mem_cons.1 hu with rfl | hu
      · exact (least x List.mem_cons_self).trans (Nat.le_of_lt lower)
      · exact least u hu
    · obtain ⟨z, fold, there, least⟩ := ih y
      rw [List.foldl_cons, lowerMember, if_neg lower]
      refine ⟨z, fold, ?_, fun u hu => ?_⟩
      · simp only [List.mem_cons] at there ⊢
        tauto
      · have first := least y List.mem_cons_self
        simp only [List.mem_cons] at hu
        rcases hu with rfl | rfl | hu
        · exact first
        · omega
        · exact least u (List.mem_cons_of_mem _ hu)

/-- The one lowest member is found wherever it stands. -/
theorem foldl_lowerMember_lead {l : List Cell} {lead : Cell} (hl : lead ∈ l)
    (least : ∀ x ∈ l, x = lead ∨ lead.task.gmem.toNat < x.task.gmem.toNat) : l.foldl lowerMember none = some lead := by
  cases l with
  | nil => cases hl
  | cons y r =>
    obtain ⟨z, fold, there, low⟩ := foldl_lowerMember r y
    rw [List.foldl_cons, lowerMember, fold]
    rcases least z there with rfl | higher
    · rfl
    · exact absurd (low lead hl) (by omega)

/-- A member on its cell goes on fused; other cells stay. -/
def cellRejoined (gid : Nat) (lead : Pipe) (x : Cell) : Cell :=
  if x.running && decide (x.task.gang = gid) then rejoined lead x else x

theorem cellRejoined_member {gid : Nat} {x : Cell} (runs : x.running = true) (gang : x.task.gang = gid) (lead : Pipe) :
    cellRejoined gid lead x = rejoined lead x := if_pos (by simp [runs, gang])

theorem cellRejoined_idem (gid : Nat) (lead : Pipe) (x : Cell) :
    cellRejoined gid lead (cellRejoined gid lead x) = cellRejoined gid lead x := by
  by_cases e : (x.running && decide (x.task.gang = gid)) = true
  · have once : cellRejoined gid lead x = rejoined lead x := if_pos e
    have twice : cellRejoined gid lead (rejoined lead x) = rejoined lead (rejoined lead x) := if_pos e
    rw [once, twice]
    rfl
  · have stays : cellRejoined gid lead x = x := if_neg e
    rw [stays, stays]

theorem cellRejoined_blind (gid : Nat) (lead : Pipe) (x : Cell) (l : List Line) :
    cellRejoined gid lead { x with lines := l } = { cellRejoined gid lead x with lines := l } := by
  unfold cellRejoined
  dsimp only
  split <;> rfl

section
variable {s : State} {id : Nat} {g : Gang} (found : gangOf s id = some g)
include found

theorem rejoinCheck_waits (h : g.rejoined = [] ∨ g.rejoined.length + g.exited.length < g.size) : rejoinCheck s id = s := by
  rw [rejoinCheck, found]
  exact if_pos h

variable (some_ : g.rejoined ≠ []) (all : g.size ≤ g.rejoined.length + g.exited.length)
include some_ all

/-- Everybody has rejoined or exited: the members are fused again where the lowest live one is. -/
theorem rejoinCheck_completes {lead : Cell} (live : lead ∈ membersOf s g)
    (least : ∀ x ∈ membersOf s g, x = lead ∨ lead.task.gmem.toNat < x.task.gmem.toNat) :
    rejoinCheck s id = g.cells.foldl (fun s c => s.updAt c (cellRejoined id lead.pipe))
      (onSaved (setGang s { g with rejoined := [], fused := true }) id (rejoined lead.pipe)) := by
  have leads := foldl_lowerMember_lead live least
  rw [rejoinCheck, found]
  dsimp only
  rw [if_neg (not_or.2 ⟨some_, Nat.not_lt.2 all⟩)]
  split
  · next e => exact absurd (e.symm.trans leads) nofun
  · next y e =>
    obtain rfl := Option.some.inj (e.symm.trans leads)
    rfl

variable {lead : Cell} (live : lead ∈ membersOf s g)
  (least : ∀ x ∈ membersOf s g, x = lead ∨ lead.task.gmem.toNat < x.task.gmem.toNat)
include live least

theorem tasks_rejoinCheck :
    (rejoinCheck s id).tasks =
      (onSaved (setGang s { g with rejoined := [], fused := true }) id (rejoined lead.pipe)).tasks := by
  rw [rejoinCheck_completes found some_ all live least]
  exact foldl_keeps State.tasks (fun t c => State.updAt_tasks t c _) _ _

theorem gangOf_rejoinCheck : gangOf (rejoinCheck s id) id = some { g with rejoined := [], fused := true } := by
  obtain rfl := gangOf_id found
  rw [gangOf_congr (tasks_rejoinCheck found some_ all live least)]
  exact gangOf_setGang (g := { g with rejoined := [], fused := true }) found

/-- A member on its cell goes on where the lowest one does. -/
theorem cellAt_rejoinCheck {c : BitVec 9} (hc : c ∈ g.cells) (runs : (s.cellAt c).running = true)
    (gang : (s.cellAt c).task.gang = id) :
    ((rejoinCheck s id).cellAt c).SameButLines (rejoined lead.pipe (s.cellAt c)) := by
  rw [rejoinCheck_completes found some_ all live least, ← cellRejoined_member runs gang]
  refine foldl_cellAt_mem (fun t d h => updAt_sameButLines t _ h) (fun t => ?_) (cellRejoined_blind _ _)
    (cellRejoined_idem _ _) hc _
  rw [State.updAt_cellAt]
  exact .refl _

/-- A saved member goes on there as well. -/
theorem saved_rejoinCheck {y : Saved} (hy : y ∈ s.tasks.saved) (gang : y.gang = id) :
    { y with image := rejoined lead.pipe y.image } ∈ (rejoinCheck s id).tasks.saved := by
  rw [tasks_rejoinCheck found some_ all live least]
  exact List.mem_map.2 ⟨y, hy, if_pos gang⟩

end

/-! ### The words (R56, R357, R411) -/

section
variable {h : Header} {o : CS} {s : State}

theorem execDecpl_user (p : Plain h s) (u : User s) (w : (Instr.decpl h o).WellFormed) {g : Gang}
    (found : gangOf s s.cell.task.gang = some g) :
    exec (.decpl h o) s = finish s
      (if s.cell.task.fused then
        .go (setGang (s.upd fun x => { x with task := { x.task with fused := false } }) { g with fused := false, rejoined := [] })
      else .trap (trapOf cBarrierMisuse 0)) := by
  have kept : gangOf (s.upd fun x => { x with task := { x.task with fused := false } }) s.cell.task.gang = some g := found
  rw [exec_decpl, execDecpl, issueWord_user p u (check_decpl w)]
  dsimp only
  rw [kept]

theorem execRejoin_user (p : Plain h s) (u : User s) (w : (Instr.rejoin h o).WellFormed) {g : Gang}
    (found : gangOf s s.cell.task.gang = some g) :
    exec (.rejoin h o) s = finish s
      (if s.cell.task.fused || !fuseGang s s.cell then .trap (trapOf cBarrierMisuse 0)
      else .go (setGang (s.upd fun x => { x with wait := .rejoin }) { g with rejoined := g.rejoined ++ [s.cell.task.gmem] })) := by
  have kept : gangOf (s.upd fun x => { x with wait := .rejoin }) s.cell.task.gang = some g := found
  rw [exec_rejoin, execRejoin, issueWord_user p u (check_rejoin w)]
  dsimp only
  rw [kept]

theorem fuseGang_stage {c : Cell} {q : StageSt} (stage : stageOf s c.task.launch c.task.stage = some q) :
    fuseGang s c = q.hdr.fuse := by
  rw [fuseGang, stage]

end

/-! ### A CARVE released into misuse (R54) -/

theorem tickAt_mem (s : State) (c : BitVec 9) : (s.tickAt c).mem = s.mem := by
  unfold State.tickAt
  dsimp only
  split <;> rfl

theorem issueCycle_mem (s : State) (c : BitVec 9) : (issueCycle s c).mem = s.mem := by
  unfold issueCycle
  split
  · rfl
  · exact tickAt_mem s c

/-- At the member's next turn, after the issue cycle of its bundle. -/
theorem cellTurn_misuse {s : State} {c : BitVec 9} {n : BitVec 4} (live : cellLive s c = true) (saving : c ∉ s.tasks.saving)
    (quiet : pendingEvent s c = none) (user : (s.cellAt c).sup = false) (wait : (s.cellAt c).wait = .misuse n) :
    cellTurn s c = .next (takeMisuse { s with cur := c } c n) := by
  have live0 : cellLive { s with cur := c } c = true := live
  have quiet0 : pendingEvent { s with cur := c } c = none := quiet
  have user0 : (({ s with cur := c } : State).cellAt c).sup = false := user
  have wait0 : (({ s with cur := c } : State).cellAt c).wait = .misuse n := wait
  have answer0 : answered (({ s with cur := c } : State).cellAt c) = false := by rw [answered, wait0]
  simp only [cellTurn, live0, decide_eq_false saving, wait0, answer0, quiet0, user0, Bool.not_true, Bool.or_self,
    Bool.false_eq_true, if_false, reduceCtorEq]

/-- Settles O10: the words by what their bodies say, a phase and a REJOIN by what each leaves of the gang, of a cell and of a
saved member. -/
theorem gangStepsComplete : Obligations.GangStepsComplete := by
  unfold Obligations.GangStepsComplete
  refine ⟨fun h s p u o g => ?words, fun s id n g found => ?phase, fun s id n g found => ?carves,
    fun s c n live saving quiet user wait => ?misuse, fun s id g found => ?rejoin⟩
  case words =>
    dsimp only
    intro found
    refine ⟨fun w fused => ?_, fun w single => ?_, fun w single declared => ?_, fun w refuse => ?_⟩
    · rw [execDecpl_user p u w found, if_pos fused]
      rfl
    · rw [execDecpl_user p u w found, single]
      rfl
    · obtain ⟨q, stage, fuse⟩ := declared
      rw [execRejoin_user p u w found, single, fuseGang_stage stage, fuse]
      rfl
    · have trap : (s.cell.task.fused || !fuseGang s s.cell) = true := by
        rcases refuse with fused | ⟨q, stage, fuse⟩
        · rw [fused, Bool.true_or]
        · rw [fuseGang_stage stage, fuse, Bool.not_false, Bool.or_true]
      rw [execRejoin_user p u w found, if_pos trap]
      rfl
  case phase =>
    refine ⟨barrierCheck_waits found, fun some_ all => ⟨⟨_, gangOf_barrierCheck found some_ all, ?_⟩, fun c hc runs sc => ?_⟩⟩
    · have over_ : (phaseOver g n).bars.rd n = { g.bars.rd n with arrived := [] } := Reg.rd_wr_same _ _ _
      rw [over_]
      exact ⟨rfl, rfl, rfl⟩
    · rw [wait_barrierCheck found some_ all hc runs]
      exact waitReleased_ne_bar _ _ _ _
  case carves =>
    dsimp only
    intro some_ all
    have gang := gangOf_barrierCheck found some_ all
    refine ⟨fun l a v last split carves => ?_, fun ⟨a, ha, bar⟩ => ?_⟩
    · have every : (g.bars.rd n).allCarve = true := by
        refine (allCarve_iff _).2 fun x hx => ?_
        rw [last] at hx
        rcases List.mem_append.1 hx with hx | hx
        · exact carves x hx
        · rw [List.mem_singleton.1 hx, split]
          nofun
      refine ⟨?_, fun c hc runs sc wait => ?_⟩
      · rw [gang, Option.map_some, phaseOver, if_pos every, last, lastCarve split]
      · rw [wait_barrierCheck found some_ all hc runs, wait, every]
        simp [waitReleased, carveReleased]
    · have mixed : (g.bars.rd n).allCarve = false :=
        Bool.eq_false_iff.2 fun every => (allCarve_iff _).1 every a ha bar
      refine ⟨?_, fun c hc runs sc wait => ?_⟩
      · rw [gang, Option.map_some, phaseOver, mixed]
        rfl
      · rw [wait_barrierCheck found some_ all hc runs, wait, mixed]
        simp [waitReleased, carveReleased]
  case misuse =>
    refine ⟨_, cellTurn_misuse live saving quiet user wait, ?_, issueCycle_mem _ c⟩
    rw [State.updAt_cellAt]
  case rejoin =>
    refine ⟨rejoinCheck_waits found, fun some_ all lead live least => ⟨⟨_, gangOf_rejoinCheck found some_ all live least, rfl, rfl⟩,
      fun c hc runs gang => ?_, fun y hy gang => ⟨_, saved_rejoinCheck found some_ all live least hy gang, gang, rfl, rfl⟩⟩⟩
    have same := cellAt_rejoinCheck found some_ all live least hc runs gang
    exact ⟨same.of (·.wait) fun _ _ => rfl, same.of (·.task.fused) fun _ _ => rfl, same.of (·.pipe.pc) fun _ _ => rfl,
      same.of (·.pipe.inner) fun _ _ => rfl, same.of (·.pipe.outer) fun _ _ => rfl, same.of (·.regs) fun _ _ => rfl⟩

end Sys2Proof.Machine
end

section
/-! PROOF of O14: TRET resumes, parks or ends the task (R46, R201, R203, R207, R214, R423). -/

namespace Sys2Proof.Machine

/-! ### What the completion of a gang's phases leaves as it is -/

theorem updAt_running (s : State) (c d : BitVec 9) {f : Cell → Cell} (keep : ∀ x, (f x).running = x.running) :
    ((s.updAt d f).cellAt c).running = (s.cellAt c).running := by
  by_cases e : c = d
  · rw [e, State.updAt_cellAt, keep]
  · rw [State.updAt_other s f e]

theorem cellReleased_running (gid : Nat) (n : BitVec 4) (k : Bool) (x : Cell) :
    (cellReleased gid n k x).running = x.running := by
  unfold cellReleased
  split <;> rfl

theorem cellRejoined_running (gid : Nat) (lead : Pipe) (x : Cell) : (cellRejoined gid lead x).running = x.running := by
  unfold cellRejoined
  split <;> rfl

theorem releaseTurn_running (gid : Nat) (n : BitVec 4) (k : Bool) (s : State) (c d : BitVec 9) :
    ((releaseTurn gid n k s d).cellAt c).running = (s.cellAt c).running := by
  by_cases e : c = d
  · rw [e, (releaseTurn_own gid n k s d).of (·.running) fun _ _ => rfl, cellReleased_running]
  · exact (releaseTurn_other gid n k s e).of (·.running) fun _ _ => rfl

theorem releaseTurn_cur (gid : Nat) (n : BitVec 4) (k : Bool) (s : State) (d : BitVec 9) :
    (releaseTurn gid n k s d).cur = s.cur := by
  unfold releaseTurn
  dsimp only
  split
  · split
    · split
      · exact (onlyLines_openPhase _ _ _).cur
      · rfl
    · rfl
  · rfl

/-- What no release of a cell, no rejoined member and no bookkeeping of gangs changes. -/
structure GangBlind {γ : Type} (f : State → γ) : Prop where
  release : ∀ gid n k t d, f (releaseTurn gid n k t d) = f t
  rejoin : ∀ gid lead t d, f (t.updAt d (cellRejoined gid lead)) = f t
  gang : ∀ t g, f (setGang t g) = f t
  saved : ∀ t gid r, f (onSaved t gid r) = f t

theorem gangBlind_running (c : BitVec 9) : GangBlind fun t => (t.cellAt c).running where
  release gid n k t d := releaseTurn_running gid n k t c d
  rejoin gid lead t d := updAt_running t c d (cellRejoined_running gid lead)
  gang _ _ := rfl
  saved _ _ _ := rfl

theorem gangBlind_cur : GangBlind State.cur where
  release := releaseTurn_cur
  rejoin _ _ _ _ := rfl
  gang _ _ := rfl
  saved _ _ _ := rfl

section
variable {γ : Type} {f : State → γ} (blind : GangBlind f)
include blind

theorem GangBlind.barrierCheck (s : State) (gid : Nat) (n : BitVec 4) : f (barrierCheck s gid n) = f s := by
  cases found : gangOf s gid with
  | none => rw [Machine.barrierCheck, found]
  | some g =>
    by_cases wait : (g.bars.rd n).arrived = [] ∨ (g.bars.rd n).arrived.length + g.exited.length < (g.bars.rd n).expect
    · rw [barrierCheck_waits found wait]
    · obtain ⟨some_, all⟩ := not_or.1 wait
      rw [barrierCheck_completes found some_ (Nat.not_lt.1 all), foldl_keeps f (blind.release _ _ _), blind.saved, blind.gang]

theorem GangBlind.rejoinCheck (s : State) (gid : Nat) : f (rejoinCheck s gid) = f s := by
  unfold Machine.rejoinCheck
  split
  · rfl
  · split
    · rfl
    · split
      · rfl
      · next lead _ =>
        exact (foldl_keeps f (blind.rejoin gid lead.pipe) _ _).trans ((blind.saved _ _ _).trans (blind.gang _ _))

theorem GangBlind.settleGang (s : State) (gid : Nat) : f (settleGang s gid) = f s :=
  (blind.rejoinCheck _ gid).trans (foldl_keeps f (fun t n => blind.barrierCheck t gid (BitVec.ofNat 4 n)) _ s)

end

/-! ### The end of a task (R46) -/

/-- A task that ends runs no longer, whatever its exit completes for the others. -/
theorem endTask_running (s : State) (c : BitVec 9) : ((endTask s c).cellAt c).running = false := by
  unfold endTask
  dsimp only
  generalize e : s.updAt c _ = s1
  have stopped : (s1.cellAt c).running = false := by
    rw [← e, State.updAt_cellAt]
  split
  · exact stopped
  · split
    · exact ((gangBlind_running c).settleGang _ _).trans stopped
    · split
      · exact stopped
      · exact stopped

theorem endTask_cur (s : State) (c : BitVec 9) : (endTask s c).cur = s.cur := by
  unfold endTask
  dsimp only
  split
  · rfl
  · split
    · exact gangBlind_cur.settleGang _ _
    · split <;> rfl

theorem matrixIdle_iff (c : Cell) : matrixIdle c = true ↔ c.mx.queue = [] ∧ c.mx.run = none := by simp [matrixIdle]

theorem abortTask_cur (s : State) (c : BitVec 9) : (abortTask s c).cur = s.cur := by
  unfold abortTask
  dsimp only
  split
  · exact endTask_cur _ c
  · rfl

theorem abortTask_running {s : State} {c : BitVec 9} (idle : matrixIdle (s.cellAt c) = true) :
    ((abortTask s c).cellAt c).running = false := by
  rw [abortTask, if_pos idle]
  exact endTask_running _ c

theorem abortTask_waits {s : State} {c : BitVec 9} (busy : matrixIdle (s.cellAt c) = false) :
    (abortTask s c).cellAt c = endWhenIdle (s.cellAt c) := by
  rw [abortTask, busy]
  exact State.updAt_cellAt _ _ _

/-! ### The word -/

/-- Resuming the held command leaves all but the commands (R214). -/
theorem resumeHeld_keeps (s : State) (c : BitVec 9) :
    (resumeHeld s c).cells = s.cells ∧ (resumeHeld s c).cur = s.cur ∧ (resumeHeld s c).mem = s.mem ∧
      (resumeHeld s c).pkg = s.pkg := by
  unfold resumeHeld
  split <;> exact ⟨rfl, rfl, rfl, rfl⟩

/-- The machine back in user mode. -/
def returned (s : State) : State := (resumeHeld s s.cur).upd leaveHandler

/-- The same, parked and reported (R207). -/
def parked (s : State) : State :=
  ((returned s).report (cellReport s s.cur 4 (s.cell.tr.cause.extractLsb' 0 8) s.cell.tr.epc s.cell.tr.tval (parkVa s.cell))).upd
    fun c => { c with wait := .park }

theorem execTret_handler {h : Header} {o : CS} {s : State} (p : Plain h s) (w : (Instr.tret h o).WellFormed)
    (sup : s.cell.sup = true) :
    exec (.tret h o) s = finish s
      (if s.cell.pipe.inflight ≠ [] then .needIdle
      else if bit s.cell.tr.status 2 ∨ s.cell.tr.cause.toNat % 256 = cMachineCheck.toNat then .go (abortTask s s.cur)
      else if bit s.cell.tr.status 3 then .go (parked s) else .go (returned s)) := by
  rw [exec_tret, execTret, issueWord_plain p (check_tret w) (fun _ => rfl) (fun _ => sup), fld_zero _ 8]
  rfl

theorem upd_cell (s : State) (f : Cell → Cell) : (s.upd f).cell = f s.cell := State.updAt_cellAt _ _ _

theorem returned_keeps (s : State) :
    (returned s).cell = leaveHandler s.cell ∧ (returned s).cur = s.cur ∧ (returned s).mem = s.mem ∧ (returned s).pkg = s.pkg := by
  obtain ⟨cells, cur, mem, pkg⟩ := resumeHeld_keeps s s.cur
  refine ⟨?_, cur, mem, pkg⟩
  rw [returned, upd_cell, State.cell, State.cellAt, cells, cur]
  rfl

/-- Both ways back leave the cell in user mode at EPC, with the flight record counting again (R201, R203). -/
theorem returned_marked (s : State) :
    (((returned s).mark s.cur .issued).cell = { leaveHandler s.cell with verdict := .issued }) ∧
      ((parked s).mark s.cur .issued).cell = { leaveHandler s.cell with wait := .park, verdict := .issued } := by
  obtain ⟨cell, cur, -, -⟩ := returned_keeps s
  have there : (parked s).cur = s.cur := cur
  have park : (parked s).cell = { leaveHandler s.cell with wait := .park } := by
    rw [← cell]
    exact upd_cell _ _
  refine ⟨?_, ?_⟩
  · have marked := upd_cell (returned s) fun x => { x with verdict := .issued }
    rw [State.upd, cur, cell] at marked
    exact marked
  · have marked := upd_cell (parked s) fun x => { x with verdict := .issued }
    rw [State.upd, there, park] at marked
    exact marked

theorem leaveHandler_sup (c : Cell) : (leaveHandler c).sup = false := by simp [Cell.sup, leaveHandler, bit]

theorem parkVa_eq (c : Cell) : parkVa c = if c.tr.cause.toNat % 256 = cEngineFault.toNat then c.tr.taddr else c.tr.tval := by
  rw [parkVa, fld_zero _ 8]
  rfl

/-- Settles O14: the word by what is in flight and by STATUS, the end of the task by what its matrix unit still does. -/
theorem returnFromTrap : Obligations.ReturnFromTrap := by
  unfold Obligations.ReturnFromTrap
  intro h o s p w sup
  have run := execTret_handler p w sup
  refine ⟨fun busy => ?_, fun landed => ⟨fun abort check => ?_, fun ends => ?_, fun empty still => ?_, fun work => ?_⟩⟩
  · rw [run, if_pos busy]
    rfl
  · have goesOn : ¬ (bit s.cell.tr.status 2 = true ∨ s.cell.tr.cause.toNat % 256 = cMachineCheck.toNat) :=
      not_or.2 ⟨Bool.eq_false_iff.1 abort, check⟩
    rw [if_neg (not_not.2 landed), if_neg goesOn] at run
    obtain ⟨-, -, mem, pkg⟩ := returned_keeps s
    obtain ⟨back, park⟩ := returned_marked s
    cases stays : bit s.cell.tr.status 3 with
    | true =>
      rw [if_pos stays] at run
      refine ⟨_, run, ?_⟩
      rw [park, ← parkVa_eq]
      exact ⟨leaveHandler_sup s.cell, rfl, rfl, rfl, rfl, rfl, rfl, mem, fun _ => ⟨rfl, congrArg (·.reports ++ _) pkg⟩, nofun⟩
    | false =>
      rw [stays] at run
      refine ⟨_, run, ?_⟩
      rw [back]
      exact ⟨leaveHandler_sup s.cell, rfl, rfl, rfl, rfl, rfl, rfl, mem, nofun, fun _ => ⟨rfl, pkg⟩⟩
  · rw [run, if_neg (not_not.2 landed), if_pos ends]
    rfl
  · rw [State.cell, abortTask_cur]
    exact abortTask_running ((matrixIdle_iff _).2 ⟨empty, still⟩)
  · rw [State.cell, abortTask_cur]
    refine abortTask_waits (Bool.eq_false_iff.2 fun idle => ?_)
    obtain ⟨empty, still⟩ := (matrixIdle_iff _).1 idle
    exact work.elim (· empty) (· still)

end Sys2Proof.Machine
end

section
/-! PROOF of O54: what a handler and user mode may not issue, and what waits for a tag (R45, R75, R111, R199). -/

namespace Sys2Proof.Machine

/-- The words that user mode may not issue at all (R111). -/
def notInUser : Instr → Bool
  | .tret _ _ | .tlbi _ _ | .dbar _ _ => true
  | _ => false

/-- An outcome of a word that comes through the checks shared by all words: a handler passes them only with a word that it may
issue, and user mode never with a privileged one. -/
def Gated (h : Header) (i : Instr) (s : State) (r : Host.Outcome State Fault Refusal) : Prop :=
  ∃ legal handler priv tags body, r = issueWord h legal handler priv tags s body ∧
    (handler = true → notInHandler i = false ∧ (3 ≤ h.slot.toNat → ∃ g, i = .nop g)) ∧
    (notInUser i = true → legal = true ∧ priv = true)

section
variable {h : Header} {i : Instr} {s : State} {r : Host.Outcome State Fault Refusal} {legal priv tags : Bool}
  {body : Cell → Issue}

/-- What a gated word does in each of the cases. -/
theorem Gated.restricted (g : Gated h i s r) :
    (tagWait h s.cell = true → r = .next (frozen s)) ∧
    (tagWait h s.cell = false → s.cell.sup = true → notInHandler i = true ∨ (3 ≤ h.slot.toNat ∧ ∀ g, i ≠ .nop g) →
      r = .next (trapped s (trapOf cIllegalOp (h.slot.zeroExtend 64)))) ∧
    (tagWait h s.cell = false → s.cell.sup = false → notInUser i = true →
      r = .next (trapped s (trapOf cPrivilege (h.slot.zeroExtend 64)))) := by
  obtain ⟨legal, handler, priv, tags, body, rfl, may, user⟩ := g
  refine ⟨issueWord_wait, fun ready sup barred => issueWord_illegal ready (.inr ⟨sup, ?_⟩), fun ready sup word => ?_⟩
  · cases handler with
    | false => rfl
    | true =>
      obtain ⟨free, nop⟩ := may rfl
      obtain no | ⟨high, other⟩ := barred
      · simp [no] at free
      · obtain ⟨g, rfl⟩ := nop high
        exact absurd rfl (other g)
  · obtain ⟨rfl, rfl⟩ := user word
    exact issueWord_privilege ready rfl sup

/-- A word that no handler may issue. -/
theorem gated_barred (user : notInUser i = true → legal = true ∧ priv = true) :
    Gated h i s (issueWord h legal false priv tags s body) :=
  ⟨legal, false, priv, tags, body, rfl, nofun, user⟩

/-- A word of slots 0 to 2 that a handler may issue. -/
theorem gated_open (slot : h.slot.toNat < 3) (free : notInHandler i = false)
    (user : notInUser i = true → legal = true ∧ priv = true) : Gated h i s (issueWord h legal true priv tags s body) :=
  ⟨legal, true, priv, tags, body, rfl, fun _ => ⟨free, fun high => absurd high (by omega)⟩, user⟩

theorem slotC_low {b : Bool} (c : (slotC h && b) = true) : h.slot.toNat < 3 := by
  rw [Laws.Coding.slot_c c]
  decide

theorem slotA_low {b : Bool} (c : (slotA h && b) = true) : h.slot.toNat < 3 := by
  obtain e | e := Laws.Coding.slot_a c <;> rw [e] <;> decide

end

/-! ### The shared shapes of words -/

section
variable {h : Header} {i : Instr} {s : State}

theorem gated_results (slot : h.slot.toNat < 3) (free : notInHandler i = false) (user : notInUser i = false) {legal : Bool}
    {lands : Cell → List Land} {n : Nat} {ev : BitVec 8} : Gated h i s (issueResults h legal true s lands n ev) :=
  gated_open slot free (by simp [user])

theorem gated_barredResults (user : notInUser i = false) {legal : Bool} {lands : Cell → List Land} {n : Nat}
    {ev : BitVec 8} : Gated h i s (issueResults h legal false s lands n ev) :=
  gated_barred (by simp [user])

theorem gated_vecWord (user : notInUser i = false) {legal : Bool} {rows : List (BitVec 9 × Bool)} {n : Nat}
    {f : Cell → List Land × BitVec 8} : Gated h i s (vecWord h legal rows n s f) :=
  gated_barred (by simp [user])

theorem gated_aluReg (slot : h.slot.toNat < 3) (free : notInHandler i = false) (user : notInUser i = false) {legal : Bool}
    {n : Nat} {f : Word → Word → Word → Word} {o : CR} : Gated h i s (aluReg legal n f h o s) :=
  gated_results slot free user

theorem gated_aluImm (slot : h.slot.toNat < 3) (free : notInHandler i = false) (user : notInUser i = false) {legal : Bool}
    {n : Nat} {f : Word → Word → Word → Word} {o : CI} : Gated h i s (aluImm legal n f h o s) :=
  gated_results slot free user

theorem gated_crUpdate (slot : h.slot.toNat < 3) (free : notInHandler i = false) (user : notInUser i = false) {set : Bool}
    {o : CS} : Gated h i s (crUpdate set h o s) := by
  unfold crUpdate
  exact gated_open slot free (by simp [user])

theorem gated_barrierWord (user : notInUser i = false) {legal : Bool} {n scope : BitVec 4} {f : Cell → State → State} :
    Gated h i s (barrierWord h legal n scope s f) :=
  gated_barred (by simp [user])

theorem gated_vecArith (user : notInUser i = false) {op : LaneOp} {n : Nat} {o : VR} : Gated h i s (vecArith op n h o s) :=
  gated_vecWord user

theorem gated_vecArithImm (user : notInUser i = false) {op : LaneOp} {n : Nat} {o : VI} :
    Gated h i s (vecArithImm op n h o s) :=
  gated_vecWord user

theorem gated_vecPick (user : notInUser i = false) {isMax : Bool} {o : VR} : Gated h i s (vecPick isMax h o s) :=
  gated_vecWord user

theorem gated_vecPickImm (user : notInUser i = false) {isMax : Bool} {o : VI} : Gated h i s (vecPickImm isMax h o s) :=
  gated_vecWord user

theorem gated_vecDev (user : notInUser i = false) {f : FV → FV × BitVec 8} {o : VR} : Gated h i s (vecDev f h o s) :=
  gated_vecWord user

theorem gated_vecBits (user : notInUser i = false) {legal : Bool} {f : Nat → Nat → Nat → Nat} {o : VR} :
    Gated h i s (vecBits legal f h o s) :=
  gated_vecWord user

theorem gated_vecBitsImm (user : notInUser i = false) {legal : Bool} {f : Nat → Nat → Nat → Nat} {o : VI} :
    Gated h i s (vecBitsImm legal f h o s) :=
  gated_vecWord user

theorem gated_maskWord (user : notInUser i = false) {legal : Bool} {f : BitVec 256 → BitVec 256 → BitVec 256} {o : KR} :
    Gated h i s (maskWord legal f h o s) :=
  gated_barredResults user

theorem gated_loadWord (user : notInUser i = false) {isB legal : Bool} {o : ML} :
    Gated h i s (loadWord isB legal h o s) := by
  unfold loadWord
  exact gated_barred (by simp [user])

theorem gated_engineWord (user : notInUser i = false) {op : EOp} {o : EC} {legal : Bool} {f : Cell → Cmd → Issue} :
    Gated h i s (engineWord op h o legal s f) :=
  gated_barred (by simp [user])

/-! ### Words that compute a field before their checks -/

theorem execCrwr_gated (slot : h.slot.toNat < 3) {o : CS} : Gated h (.crwr h o) s (execCrwr h o s) := by
  unfold execCrwr
  exact gated_open slot rfl nofun

theorem execSpawn_gated {o : CS} : Gated h (.spawn h o) s (execSpawn h o s) := by
  unfold execSpawn
  exact gated_barred nofun

theorem execSpawng_gated {o : CS} : Gated h (.spawng h o) s (execSpawng h o s) := by
  unfold execSpawng
  exact gated_barred nofun

theorem execBarcfg_gated {o : CS} : Gated h (.barcfg h o) s (execBarcfg h o s) := by
  unfold execBarcfg
  exact gated_barred nofun

theorem execMma_gated {o : MM} : Gated h (.mma h o) s (execMma h o s) := by
  unfold execMma
  exact gated_barred nofun

theorem execMstz_gated {o : MZ} : Gated h (.mstz h o) s (execMstz h o s) := by
  unfold execMstz
  exact gated_barred nofun

theorem execMldz_gated {o : MZ} : Gated h (.mldz h o) s (execMldz h o s) := by
  unfold execMldz
  exact gated_barred nofun

theorem execMcode_gated {o : ML} : Gated h (.mcode h o) s (execMcode h o s) := by
  unfold execMcode
  exact gated_barred nofun

theorem execMstore_gated {o : MS} : Gated h (.mstore h o) s (execMstore h o s) := by
  unfold execMstore
  exact gated_barred nofun

theorem execBar_gated {o : CS} : Gated h (.bar h o) s (execBar h o s) := by
  unfold execBar
  exact gated_barrierWord rfl

theorem execBara_gated {o : CS} : Gated h (.bara h o) s (execBara h o s) := by
  unfold execBara
  exact gated_barrierWord rfl

theorem execCarve_gated {o : CS} : Gated h (.carve h o) s (execCarve h o s) := by
  unfold execCarve
  exact gated_barrierWord rfl

theorem execDbar_gated (core : s.core = false) {o : EC} (legal : (slotE h && ecNone o) = true) :
    Gated h (.dbar h o) s (execDbar h o s) := by
  have cell : execDbar h o s = issueWord h (slotE h && ecNone o) false true true s fun _ => .go s := by simp [execDbar, core]
  rw [cell]
  exact gated_barred fun _ => ⟨legal, rfl⟩

end

/-- The header parsed from a word is the one it was made of. -/
theorem encode_header {h g : Header} {op : BitVec 10} {x : BitVec 50} {w : BitVec 80} (e : some (h.word op x) = some w)
    (p : Header.parse w = g) : h = g := by
  cases e
  rw [← p, Header.parse_word]

/-- Every encodable word of a program that a cell issues is gated. -/
theorem exec_gated {i : Instr} {w : BitVec 80} {s : State} (wf : i.WellFormed) (word : encode i = some w)
    (core : s.core = false) : Gated (Header.parse w) i s (exec i s) := by
  generalize p : Header.parse w = g
  unfold exec
  cases i with
  | nop h =>
    obtain rfl := encode_header word p
    exact ⟨_, true, _, _, _, rfl, fun _ => ⟨rfl, fun _ => ⟨h, rfl⟩⟩, nofun⟩
  | tret | tlbi =>
    obtain rfl := encode_header word p
    exact gated_open (slotC_low wf) rfl fun _ => ⟨wf, rfl⟩
  | dbar h o =>
    obtain rfl := encode_header word p
    exact execDbar_gated core wf
  | add | sub | mul | mulh | div | rem | and | or | xor | shl | shr | sra | min | max | cmp | sel | clz | popc | brev | ext
  | bfx | bfi =>
    obtain rfl := encode_header word p
    exact gated_aluReg (slotC_low wf) rfl rfl
  | addImm | subImm | mulImm | mulhImm | divImm | remImm | andImm | orImm | xorImm | shlImm | shrImm | li | lih =>
    obtain rfl := encode_header word p
    exact gated_aluImm (slotC_low wf) rfl rfl
  | crrd | rdtime =>
    obtain rfl := encode_header word p
    exact gated_results (slotC_low wf) rfl rfl
  | crset | crclr =>
    obtain rfl := encode_header word p
    exact gated_crUpdate (slotC_low wf) rfl rfl
  | br | brc | bri | call | calli | ret | phase | fence | xfence | trap | brk =>
    obtain rfl := encode_header word p
    exact gated_open (slotC_low wf) rfl nofun
  | amov | aget | aadd | amode | aupd | hset | hget =>
    obtain rfl := encode_header word p
    exact gated_results (slotA_low wf) rfl rfl
  | ld | st | ldv | stv | amo | cas | pref | lea | hld | hst =>
    obtain rfl := encode_header word p
    exact gated_open (slotA_low wf) rfl nofun
  | crwr =>
    obtain rfl := encode_header word p
    exact execCrwr_gated (slotC_low wf)
  | spawn =>
    obtain rfl := encode_header word p
    exact execSpawn_gated
  | spawng =>
    obtain rfl := encode_header word p
    exact execSpawng_gated
  | bar =>
    obtain rfl := encode_header word p
    exact execBar_gated
  | bara =>
    obtain rfl := encode_header word p
    exact execBara_gated
  | barcfg =>
    obtain rfl := encode_header word p
    exact execBarcfg_gated
  | carve =>
    obtain rfl := encode_header word p
    exact execCarve_gated
  | mma =>
    obtain rfl := encode_header word p
    exact execMma_gated
  | mstz =>
    obtain rfl := encode_header word p
    exact execMstz_gated
  | mldz =>
    obtain rfl := encode_header word p
    exact execMldz_gated
  | mcode =>
    obtain rfl := encode_header word p
    exact execMcode_gated
  | mstore =>
    obtain rfl := encode_header word p
    exact execMstore_gated
  | loop | loopx | exit | wait | decpl | rejoin | accb | acce | accinv | mzero | mcfg | mcall | mfmt | mloop | mend =>
    obtain rfl := encode_header word p
    exact gated_barred nofun
  | vadd | vsub | vmul | vfma =>
    obtain rfl := encode_header word p
    exact gated_vecArith rfl
  | vaddImm | vsubImm | vmulImm | vfmaImm =>
    obtain rfl := encode_header word p
    exact gated_vecArithImm rfl
  | vmin | vmax =>
    obtain rfl := encode_header word p
    exact gated_vecPick rfl
  | vminImm | vmaxImm =>
    obtain rfl := encode_header word p
    exact gated_vecPickImm rfl
  | vrcp | vrsq | vexp2 | vlog2 | vtanh =>
    obtain rfl := encode_header word p
    exact gated_vecDev rfl
  | vcvt | vcmp | vsel | vmov | vbcast | vext | vins | vperm | viota | vred =>
    obtain rfl := encode_header word p
    exact gated_vecWord rfl
  | vand | vor | vxor | vshl | vshr =>
    obtain rfl := encode_header word p
    exact gated_vecBits rfl
  | vandImm | vorImm | vxorImm | vshlImm | vshrImm =>
    obtain rfl := encode_header word p
    exact gated_vecBitsImm rfl
  | kand | kor | kxor | kmov =>
    obtain rfl := encode_header word p
    exact gated_maskWord rfl
  | kpopc | msetq =>
    obtain rfl := encode_header word p
    exact gated_barredResults rfl
  | mla | mlb =>
    obtain rfl := encode_header word p
    exact gated_loadWord rfl
  | cpy | chsend | chrecv | chred | qprop | qver | qres | bset | bget | sieve | tokz | detok | gadv | gmask | sltick | slpin
  | slget =>
    obtain rfl := encode_header word p
    exact gated_engineWord rfl
  | _ => exact nomatch word

theorem tagWait_iff {h : Header} {c : Cell} :
    tagWait h c = true ↔ c.pipe.pend &&& h.cmk ≠ 0 ∨ (h.av = 1#1 ∧ bit c.pipe.pend h.tag.toNat = true) := by
  simp [tagWait]

theorem notInUser_iff {i : Instr} :
    notInUser i = true ↔ (∃ g o, i = .tret g o) ∨ (∃ g o, i = .tlbi g o) ∨ ∃ g o, i = .dbar g o := by
  constructor
  · cases i with
    | tret g o => exact fun _ => .inl ⟨g, o, rfl⟩
    | tlbi g o => exact fun _ => .inr (.inl ⟨g, o, rfl⟩)
    | dbar g o => exact fun _ => .inr (.inr ⟨g, o, rfl⟩)
    | _ => exact nofun
  · rintro (⟨g, o, rfl⟩ | ⟨g, o, rfl⟩ | ⟨g, o, rfl⟩) <;> rfl

/-- Settles O54: every word passes the same checks first (`exec_gated`), and these say what it may not do. -/
theorem restrictionsOfMode : Obligations.RestrictionsOfMode := by
  unfold Obligations.RestrictionsOfMode
  intro i w s wf word core
  dsimp only
  rw [← tagWait_iff, Bool.not_eq_true, ← notInUser_iff]
  obtain ⟨wait, handler, user⟩ := (exec_gated wf word core).restricted
  exact ⟨wait, fun ready sup high other => handler ready sup (.inr ⟨high, other⟩),
    fun ready sup no => handler ready sup (.inl no), user⟩

end Sys2Proof.Machine
end

section
/-! SUPPORT of O38 and O39: what an L1 that is emptied gives up, the dirty bytes of its lines (R55, R171). -/

namespace Sys2Proof.Machine

/-- A byte that some L1 holds dirty for an address. -/
def HeldDirty (s : State) (a : Nat) (b : Byte) : Prop :=
  ∃ d, ∃ l ∈ (s.cellAt d).lines, l.tag ≤ a ∧ l.dirty.getLsbD (a - l.tag) = true ∧ b = byteAt l.data (a - l.tag)

/-- Memory has changed by dirty bytes of lines only, and no line has become dirty. -/
structure WroteBack (s t : State) : Prop where
  brood : t.brood = s.brood
  inbound : t.inbound = s.inbound
  lines : ∀ d, ∀ l ∈ (t.cellAt d).lines, l.dirty ≠ 0 → l ∈ (s.cellAt d).lines
  mem : ∀ a, t.mem.rd a = s.mem.rd a ∨ HeldDirty s a (t.mem.rd a)

theorem dirty_ne_zero {l : Line} {i : Nat} (h : l.dirty.getLsbD i = true) : l.dirty ≠ 0 := by
  intro e
  simp [e] at h

theorem WroteBack.refl (s : State) : WroteBack s s := ⟨rfl, rfl, fun _ _ h _ => h, fun _ => .inl rfl⟩

theorem WroteBack.trans {s t u : State} (h : WroteBack s t) (k : WroteBack t u) : WroteBack s u where
  brood := k.brood.trans h.brood
  inbound := k.inbound.trans h.inbound
  lines d l hl dirty := h.lines d l (k.lines d l hl dirty) dirty
  mem a := by
    obtain e | ⟨d, l, hl, above, dirty, e⟩ := k.mem a
    · rw [e]
      exact h.mem a
    · exact .inr ⟨d, l, h.lines d l hl (dirty_ne_zero dirty), above, dirty, e⟩

/-- A step that leaves the memory and changes cells without making a line of theirs dirty. -/
theorem WroteBack.of_lines {s t : State} (brood : t.brood = s.brood) (inbound : t.inbound = s.inbound) (mem : t.mem = s.mem)
    (lines : ∀ d, ∀ l ∈ (t.cellAt d).lines, l.dirty ≠ 0 → l ∈ (s.cellAt d).lines) : WroteBack s t :=
  ⟨brood, inbound, lines, fun _ => .inl (by rw [mem])⟩

theorem WroteBack.of_cells {s t : State} (brood : t.brood = s.brood) (inbound : t.inbound = s.inbound) (mem : t.mem = s.mem)
    (cells : t.cells = s.cells) : WroteBack s t :=
  .of_lines brood inbound mem fun d l hl _ => by rwa [State.cellAt, cells] at hl

theorem wroteBack_updAt (s : State) (c : BitVec 9) {f : Cell → Cell}
    (keep : ∀ x, ∀ l ∈ (f x).lines, l.dirty ≠ 0 → l ∈ x.lines) : WroteBack s (s.updAt c f) := by
  refine .of_lines rfl rfl rfl fun d l hl dirty => ?_
  by_cases e : d = c
  · rw [e, State.updAt_cellAt] at hl
    rw [e]
    exact keep _ l hl dirty
  · rwa [State.updAt_other s f e] at hl

/-- Lines of the L1s, or clean ones, go home. -/
theorem WroteBack.flush {s t : State} (h : WroteBack s t) {ls : List Line}
    (own : ∀ l ∈ ls, l.dirty ≠ 0 → ∃ d, l ∈ (s.cellAt d).lines) : WroteBack s (t.flush ls) where
  brood := (State.flush_brood t ls).trans h.brood
  inbound := (State.flush_inbound t ls).trans h.inbound
  lines d l hl := h.lines d l (by rwa [State.cellAt, State.flush_cells] at hl)
  mem a := by
    have home : ∀ m : Mem, m.rd a = s.mem.rd a ∨ HeldDirty s a (m.rd a) →
        (ls.foldl (fun m l => l.flush m) m).rd a = s.mem.rd a ∨ HeldDirty s a ((ls.foldl (fun m l => l.flush m) m).rd a) := by
      intro m hm
      refine ls.foldlRecOn (motive := fun m : Mem => m.rd a = s.mem.rd a ∨ HeldDirty s a (m.rd a)) _ hm fun m hm l hl => ?_
      rw [Line.flush_rd]
      split
      · next dirty =>
        obtain ⟨above, -, dirty⟩ := dirty
        obtain ⟨d, at_⟩ := own l hl (dirty_ne_zero dirty)
        exact .inr ⟨d, l, at_, above, dirty, rfl⟩
      · exact hm
    rw [State.flush, State.poke_mem]
    exact home t.mem (h.mem a)

theorem wroteBack_l1Clean (s : State) (c : BitVec 9) : WroteBack s (l1Clean s c) := by
  unfold l1Clean
  refine (wroteBack_updAt s _ fun x l hl dirty => ?_).flush fun l hl _ => ⟨_, hl⟩
  obtain ⟨y, -, rfl⟩ := List.mem_map.1 hl
  exact absurd rfl dirty

/-- Emptying the list of lines makes none dirty. -/
theorem wroteBack_dropLines (s : State) (c : BitVec 9) : WroteBack s (s.updAt c fun x => { x with lines := [] }) :=
  wroteBack_updAt s c fun _ _ hl _ => absurd hl List.not_mem_nil

theorem wroteBack_l1Empty (s : State) (c : BitVec 9) : WroteBack s (l1Empty s c) := by
  unfold l1Empty
  have clean := (wroteBack_l1Clean s c).trans (wroteBack_dropLines _ (l1Owner s c))
  exact (clean.trans (wroteBack_dropLines _ c)).flush fun l hl dirty => ⟨c, clean.lines c l hl dirty⟩

theorem wroteBack_leaveL1 (s : State) (c : BitVec 9) (shared : Bool) : WroteBack s (leaveL1 s c shared) := by
  unfold leaveL1
  split
  · exact .refl s
  · split
    · exact .refl s
    · exact wroteBack_l1Empty s c

end Sys2Proof.Machine
end

section
/-! PROOF of O39, part 1: what a decision leaves alone, and the state of a task that it starts (R33, R49, R55, R57, R85, R148). -/

namespace Sys2Proof.Machine

/-! ### The start of a task -/

theorem freshTile_sh (c : Cell) (z : BitVec 3) : (freshTile c z).regs.sh = c.regs.sh := by
  simp only [freshTile, zeroTile, setTileRows]

theorem freshTile_lines (c : Cell) (z : BitVec 3) : (freshTile c z).lines = c.lines := by
  simp only [freshTile, zeroTile, setTileRows]

/-- Binding a cell keeps what tiles and scratchpad do not hold. -/
theorem bindCell_keeps {γ : Type} (f : Cell → γ) (tile : ∀ c z, f (freshTile c z) = f c)
    (bind : ∀ c b p, f { c with bound := b, pad := p } = f c) (b : Binding) (c : Cell) : f (bindCell b c) = f c := by
  unfold bindCell
  split
  · exact bind c _ _
  · refine (foldl_keeps f (fun x z => ?_) _ _).trans (bind c _ _)
    split
    · exact tile x _
    · rfl

@[simp] theorem startCell_sh (x : Cand) (g j : Nat) (e : QEntry) (ctx : Context) (area : Nat) (c : Cell) :
    (startCell x g j e ctx area c).regs.sh = c.regs.sh :=
  bindCell_keeps (·.regs.sh) freshTile_sh (fun _ _ _ => rfl) _ c

@[simp] theorem startCell_lines (x : Cand) (g j : Nat) (e : QEntry) (ctx : Context) (area : Nat) (c : Cell) :
    (startCell x g j e ctx area c).lines = c.lines :=
  bindCell_keeps (·.lines) freshTile_lines (fun _ _ _ => rfl) _ c

/-- Cell `y` is at the first bundle of a task of gang `g` on the cell `x` (R33, R49, R85, R148). -/
structure Started (g : Nat) (x y : Cell) : Prop where
  running : y.running = true
  sup : y.sup = false
  gang : y.task.gang = g
  wait : y.wait = .none
  s : ∀ i, y.regs.s.rd i = 0
  a : ∀ i, y.regs.a.rd i = 0
  h : ∀ i, y.regs.h.rd i = 0
  k : ∀ i, y.regs.k.rd i = 0
  sh : y.regs.sh = x.regs.sh
  inflight : y.pipe.inflight = []
  pend : y.pipe.pend = 0
  inner : y.pipe.inner = none
  outer : y.pipe.outer = none
  nx : y.nx = Nx.reset
  events : y.events = Events.none

theorem startCell_started (x : Cand) (g j : Nat) (e : QEntry) (ctx : Context) (area : Nat) (c : Cell) :
    Started g c (startCell x g j e ctx area c) where
  running := rfl
  sup := by simp [Cell.sup, startCell, bit]
  gang := rfl
  wait := rfl
  s i := Reg.rd_fill i 0
  a i := Reg.rd_fill i 0
  h i := Reg.rd_fill i 0
  k i := Reg.rd_fill i 0
  sh := startCell_sh x g j e ctx area c
  inflight := rfl
  pend := rfl
  inner := rfl
  outer := rfl
  nx := rfl
  events := rfl

theorem Started.lines {g : Nat} {x y z : Cell} (h : Started g x y) (e : z.SameButLines y) : Started g x z := by
  rw [e]
  exact ⟨h.running, h.sup, h.gang, h.wait, h.s, h.a, h.h, h.k, h.sh, h.inflight, h.pend, h.inner, h.outer, h.nx, h.events⟩

/-- From `s` to `t` nothing but lost lines and new members of gang `g` on cells of `cs`. -/
structure Starts (g : Nat) (cs : List (BitVec 9)) (s t : State) : Prop where
  staging : t.staging = s.staging
  cmds : t.cmds = s.cmds
  wrote : WroteBack s t
  cell : ∀ d, (t.cellAt d).SameButLines (s.cellAt d) ∨ d ∈ cs ∧ Started g (s.cellAt d) (t.cellAt d)

theorem Starts.of_cells {g : Nat} {cs : List (BitVec 9)} {s t : State} (staging : t.staging = s.staging)
    (cmds : t.cmds = s.cmds) (brood : t.brood = s.brood) (inbound : t.inbound = s.inbound) (mem : t.mem = s.mem)
    (cells : t.cells = s.cells) : Starts g cs s t :=
  ⟨staging, cmds, .of_cells brood inbound mem cells, fun d => .inl (by rw [State.cellAt, cells]; exact .refl _)⟩

theorem Started.from {g : Nat} {x x' y : Cell} (h : Started g x' y) (sh : x'.regs.sh = x.regs.sh) : Started g x y :=
  { h with sh := h.sh.trans sh }

theorem Starts.trans {g : Nat} {cs : List (BitVec 9)} {s t u : State} (h : Starts g cs s t) (k : Starts g cs t u) :
    Starts g cs s u where
  staging := k.staging.trans h.staging
  cmds := k.cmds.trans h.cmds
  wrote := h.wrote.trans k.wrote
  cell d := by
    obtain same | ⟨hd, new⟩ := k.cell d
    · obtain old | ⟨hd, started⟩ := h.cell d
      · exact .inl (same.trans old)
      · exact .inr ⟨hd, started.lines same⟩
    · refine .inr ⟨hd, new.from ?_⟩
      obtain old | ⟨-, started⟩ := h.cell d
      · exact old.of (·.regs.sh) fun _ _ => rfl
      · exact started.sh

/-- One member starts. -/
theorem starts_member {g : Nat} {cs : List (BitVec 9)} {c : BitVec 9} (hc : c ∈ cs) (s : State) (x : Cand) (j : Nat) (e : QEntry)
    (ctx : Context) (a : Nat) :
    Starts g cs s ((leaveL1 s c x.h.qsl1).updAt c (startCell x g j e ctx a)) := by
  have left := onlyLines_leaveL1 s c x.h.qsl1
  refine ⟨left.staging, left.cmds, (wroteBack_leaveL1 s c _).trans (wroteBack_updAt _ c fun y l hl _ => ?_), fun d => ?_⟩
  · rwa [startCell_lines] at hl
  · by_cases e : d = c
    · subst e
      rw [State.updAt_cellAt]
      exact .inr ⟨hc, (startCell_started ..).from ((left.cell d).of (·.regs.sh) fun _ _ => rfl)⟩
    · rw [State.updAt_other _ _ e]
      exact .inl (left.cell d)

/-- What taking a save area leaves alone. -/
theorem takeArea_starts {s t : State} {ctx : BitVec 16} {key a : Nat} {k : Context} (h : takeArea s ctx key = some (k, a, t)) :
    t = { s with pkg := t.pkg } := by
  unfold takeArea at h
  split at h
  · cases h
  · split at h
    · cases h
    · cases h
      rfl

theorem startMembers_starts (x : Cand) (g : Nat) (e : QEntry) {cs : List (BitVec 9)} (b : List (BitVec 9)) (sub : b ⊆ cs)
    (j : Nat) (s : State) : Starts g cs s (startMembers x g e b j s) := by
  induction b generalizing j s with
  | nil => exact .of_cells rfl rfl rfl rfl rfl rfl
  | cons c r ih =>
    obtain ⟨hc, rest⟩ := List.cons_subset.1 sub
    unfold startMembers
    split
    · exact .of_cells rfl rfl rfl rfl rfl rfl
    · next k a s1 taken =>
      have paid : Starts g cs s s1 := by
        rw [takeArea_starts taken]
        exact .of_cells rfl rfl rfl rfl rfl rfl
      exact (paid.trans (starts_member hc s1 x j e k a)).trans (ih rest (j + 1) _)

/-! ### Bookkeeping -/

/-- Nothing but the bookkeeping of tasks has changed. -/
def TasksOnly (s t : State) : Prop := t = { s with tasks := t.tasks }

theorem TasksOnly.refl (s : State) : TasksOnly s s := rfl

theorem TasksOnly.trans {s t u : State} (h : TasksOnly s t) (k : TasksOnly t u) : TasksOnly s u := by
  unfold TasksOnly at *
  rw [k, h]

theorem TasksOnly.each {α : Type} {turn : State → α → State} (one : ∀ t x, TasksOnly t (turn t x)) (l : List α) (s : State) :
    TasksOnly s (l.foldl turn s) :=
  l.foldlRecOn (motive := TasksOnly s) turn (.refl s) fun t h x _ => h.trans (one t x)

theorem TasksOnly.starts {s t : State} (h : TasksOnly s t) (g : Nat) (cs : List (BitVec 9)) : Starts g cs s t := by
  rw [h]
  exact .of_cells rfl rfl rfl rfl rfl rfl

theorem tasksOnly_setStage (s : State) (id : Nat) (k : BitVec 4) (q : StageSt) : TasksOnly s (setStage s id k q) := by
  unfold setStage
  split <;> rfl

theorem tasksOnly_setCredit (s : State) (id : Nat) (k : BitVec 4) (d : Nat) : TasksOnly s (setCredit s id k d) := by
  unfold setCredit
  split
  · rfl
  · exact tasksOnly_setStage s id k _

theorem tasksOnly_resetCredits (s : State) (scout : Bool) : TasksOnly s (resetCredits s scout) := by
  unfold resetCredits
  refine TasksOnly.each (fun t x => ?_) _ s
  split
  · rfl
  · exact tasksOnly_setCredit t _ _ _

theorem tasksOnly_markDraining (s : State) (x : Cand) (b : List (BitVec 9)) : TasksOnly s (markDraining s x b) := by
  unfold markDraining
  split
  · rfl
  · exact tasksOnly_setStage s _ _ _

theorem tasksOnly_clearBlock (s : State) (scout : Bool) (b : List (BitVec 9)) : TasksOnly s (clearBlock s scout b) :=
  TasksOnly.each (turn := markVictim) (fun _ _ => rfl) _ s

theorem tasksOnly_victims (scout : Bool) (p : State × List (BitVec 9)) (x : Cand) : TasksOnly p.1 (victims scout p x).1 := by
  unfold victims
  dsimp only
  split
  · rfl
  · split
    · exact tasksOnly_clearBlock p.1 scout _
    · split
      · split
        · rfl
        · exact (tasksOnly_markDraining p.1 x _).trans (tasksOnly_clearBlock _ scout _)
      · split
        · rfl
        · split <;> rfl

theorem tasksOnly_selectFrom (cs : List Cand) (f k : Nat) (s : State) : TasksOnly s (selectFrom cs f k s).2 := by
  induction f generalizing k s with
  | zero => rfl
  | succ f ih =>
    unfold selectFrom
    split
    · rfl
    · dsimp only
      split
      · exact tasksOnly_setCredit s _ _ _
      · exact (tasksOnly_setCredit s _ _ _).trans (ih _ _)

theorem tasksOnly_selectStage (s : State) (scout : Bool) (cs : List Cand) : TasksOnly s (selectStage s scout cs).2 := by
  unfold selectStage
  split
  · rfl
  · next x0 r =>
    dsimp only
    generalize ((x0 :: r).findIdx? _).getD 0 = k
    have picked := tasksOnly_selectFrom (x0 :: r) (16 * (x0 :: r).length + 1) k s
    split
    · next e => rwa [e] at picked
    · next e =>
      rw [e] at picked
      exact picked.trans rfl

theorem tasksOnly_noteAffinity (s : State) (scout : Bool) (x : Cand) (ident : Word) (c : BitVec 9) :
    TasksOnly s (noteAffinity s scout x ident c) := by
  unfold noteAffinity
  split <;> rfl

/-! ### A decision -/

/-- The gang that a queue entry starts on a block. -/
def newGang (s : State) (x : Cand) (b : List (BitVec 9)) (e : QEntry) : Gang :=
  { id := s.nextId, launch := x.l.id, stage := x.i, size := x.h.gang, ident := e.ident, cells := b, exited := []
    fused := x.h.fuse, bars := Reg.fill { expect := x.h.gang, arrived := [] }, rejoined := [], carving := [], step := e.step }

/-- The books before the members start: the entry has left its queue, affinity is noted, the gang is listed. -/
def bookGang (s : State) (scout : Bool) (x : Cand) (b : List (BitVec 9)) (q : StageSt) (e : QEntry) (rest : List QEntry) :
    State :=
  let s1 := noteAffinity (setStage s x.l.id x.i { q with queue := rest, draining := none }) scout x e.ident (b.headD 0)
  { s1 with tasks := { s1.tasks with gangs := s1.tasks.gangs ++ [newGang s x b e] }, nextId := s1.nextId + 1 }

theorem startGang_head {s : State} {scout : Bool} {x : Cand} {b : List (BitVec 9)} {q : StageSt} {e : QEntry}
    {rest : List QEntry} (stage : stageOf s x.l.id x.i = some q) (head : q.queue = e :: rest) :
    startGang s scout x b = startMembers x s.nextId e b 0 (bookGang s scout x b q e rest) := by
  rw [startGang, stage]
  dsimp only
  rw [head]
  rfl

theorem bookGang_tasksOnly (s : State) (scout : Bool) (x : Cand) (b : List (BitVec 9)) (q : StageSt) (e : QEntry)
    (rest : List QEntry) :
    bookGang s scout x b q e rest =
      { s with tasks := (bookGang s scout x b q e rest).tasks, nextId := (bookGang s scout x b q e rest).nextId } := by
  have booked := (tasksOnly_setStage s x.l.id x.i { q with queue := rest, draining := none }).trans
    (tasksOnly_noteAffinity _ scout x e.ident (b.headD 0))
  unfold bookGang
  dsimp only
  rw [booked]

theorem startGang_starts (s : State) (scout : Bool) (x : Cand) (b : List (BitVec 9)) :
    Starts s.nextId b s (startGang s scout x b) := by
  cases stage : stageOf s x.l.id x.i with
  | none =>
    rw [startGang, stage]
    exact (TasksOnly.refl s).starts _ _
  | some q =>
    cases head : q.queue with
    | nil =>
      rw [startGang, stage]
      dsimp only
      rw [head]
      exact (TasksOnly.refl s).starts _ _
    | cons e rest =>
      rw [startGang_head stage head]
      refine Starts.trans ?_ (startMembers_starts x s.nextId e b (List.Subset.refl b) 0 _)
      rw [bookGang_tasksOnly]
      exact .of_cells rfl rfl rfl rfl rfl rfl

theorem tasksOnly_resumeGang (s : State) (g : Gang) (b : List (BitVec 9)) : TasksOnly s (resumeGang s g b) := rfl

theorem placeStage_starts {s : State} (scout : Bool) (x : Cand) (b : List (BitVec 9)) :
    Starts s.nextId b s (placeStage s scout x b) := by
  unfold placeStage
  split
  · split
    · exact (TasksOnly.refl s).starts _ _
    · next g _ _ q _ =>
      have kept := (tasksOnly_setStage s x.l.id x.i { q with draining := none }).trans (tasksOnly_resumeGang _ g b)
      exact kept.starts _ _
  · exact startGang_starts s scout x b

theorem cellIdle_running {s : State} {c : BitVec 9} (h : cellIdle s c = true) : (s.cellAt c).running = false := by
  simp only [cellIdle, Bool.and_eq_true, Bool.not_eq_true'] at h
  exact h.1.1.1.1

theorem mem_options {s : State} {scout : Bool} {x : Cand} {b : List (BitVec 9)} (h : b ∈ options s scout x) :
    b ∈ blocks s scout x ∧ blockFree s x b = true := by
  have among : b ∈ (blocks s scout x).filter fun b => blockFree s x b && underMax s scout x b := by
    unfold options at h
    dsimp only at h
    split at h
    · exact List.mem_of_mem_take h
    · exact h
  obtain ⟨block, free⟩ := List.mem_filter.1 among
  exact ⟨block, (Bool.and_eq_true _ _ ▸ free).1⟩

theorem blockFree_idle {s : State} {x : Cand} {b : List (BitVec 9)} (h : blockFree s x b = true) :
    ∀ c ∈ b, cellIdle s c = true := by
  intro c hc
  have cell := List.all_eq_true.1 h c hc
  simp only [Bool.and_eq_true] at cell
  exact cell.1.1

/-- What a fold that keeps the best of a list has kept is of the list. -/
theorem foldl_best_mem {α : Type} {step : Option (Nat × α) → α → Option (Nat × α)}
    (one : ∀ o b, step o b = o ∨ ∃ k, step o b = some (k, b)) {l : List α} {b : α}
    (h : (l.foldl step none).map (·.2) = some b) : b ∈ l := by
  have start : ∀ p : Nat × α, (none : Option (Nat × α)) = some p → p.2 ∈ l := nofun
  have kept : ∀ p, l.foldl step none = some p → p.2 ∈ l := by
    refine l.foldlRecOn (motive := fun o => ∀ p, o = some p → p.2 ∈ l) step start fun o ho x hx p hp => ?_
    obtain e | ⟨k, e⟩ := one o x
    · exact ho p (e ▸ hp)
    · rw [e] at hp
      cases hp
      exact hx
  obtain ⟨p, hp, rfl⟩ := Option.map_eq_some_iff.1 h
  exact kept p hp

theorem pickBlock_mem {s : State} {scout : Bool} {x : Cand} {want : Option Nat} {bs : List (List (BitVec 9))}
    {b : List (BitVec 9)} (h : pickBlock s scout x want bs = some b) : b ∈ bs := by
  refine foldl_best_mem (fun o b => ?_) h
  dsimp only
  split
  · exact .inr ⟨_, rfl⟩
  · split
    · exact .inr ⟨_, rfl⟩
    · exact .inl rfl

theorem wholeBlock_idle {s : State} {scout : Bool} {x : Cand} {b : List (BitVec 9)} (h : wholeBlock s scout = some (x, b)) :
    ∀ c ∈ b, cellIdle s c = true := by
  obtain ⟨y, -, e⟩ := List.exists_of_findSome?_eq_some h
  split at e
  · cases e
  · split at e
    · next whole =>
      cases e
      intro c hc
      have cell := List.all_eq_true.1 (Bool.and_eq_true _ _ ▸ whole).2 c hc
      exact (Bool.and_eq_true _ _ ▸ cell).1
    · cases e

/-- A decision starts members on cells that run nothing, if it starts any. -/
theorem decideDispatch_starts (s : State) (scout : Bool) :
    ∃ cs, (∀ c ∈ cs, (s.cellAt c).running = false) ∧ Starts s.nextId cs s (decideDispatch s scout) := by
  have reset := tasksOnly_resetCredits s scout
  have place : ∀ {u : State} (x : Cand) {b : List (BitVec 9)}, TasksOnly s u → (∀ c ∈ b, cellIdle u c = true) →
      ∃ cs, (∀ c ∈ cs, (s.cellAt c).running = false) ∧ Starts s.nextId cs s (placeStage u scout x b) := by
    intro u x b book idle
    have run : ∀ c, (u.cellAt c).running = (s.cellAt c).running := fun c => by rw [book]; rfl
    have id : u.nextId = s.nextId := by rw [book]
    exact ⟨b, fun c hc => run c ▸ cellIdle_running (idle c hc), (book.starts _ _).trans (id ▸ placeStage_starts scout x b)⟩
  have quiet : ∀ {u : State}, TasksOnly s u → ∃ cs : List (BitVec 9), (∀ c ∈ cs, (s.cellAt c).running = false) ∧
      Starts s.nextId cs s u := fun book => ⟨[], nofun, book.starts _ _⟩
  unfold decideDispatch
  dsimp only
  split
  · next whole => exact place _ reset (wholeBlock_idle whole)
  · have picked := reset.trans (tasksOnly_selectStage (resetCredits s scout) scout
      (filterCands (resetCredits s scout) scout ((stagesOf (resetCredits s scout) scout).filter
        (isCand (resetCredits s scout) scout))))
    split
    · next e => exact quiet (by rwa [e] at picked)
    · next x s1 e =>
      rw [e] at picked
      split
      · next chosen => exact place x picked (blockFree_idle (mem_options (pickBlock_mem chosen)).2)
      · split
        · exact quiet picked
        · exact quiet (picked.trans (tasksOnly_markDraining _ _ _))

theorem chosenVictims_tasksOnly (s : State) (scout : Bool) :
    TasksOnly s ((stagesOf s scout).foldl (victims scout) (s, [])).1 :=
  (stagesOf s scout).foldlRecOn (motive := fun p => TasksOnly s p.1) (victims scout) (.refl s)
    fun p h x _ => h.trans (tasksOnly_victims scout p x)

/-- The decision starts at most a gang of the next id on cells that run nothing. -/
theorem execDispatchDecision_starts (s : State) (scout : Bool) : ∃ t cs, exec (.dispatchDecision scout) s = .next t ∧
    (∀ c ∈ cs, (s.cellAt c).running = false) ∧ Starts s.nextId cs s t := by
  have marked := chosenVictims_tasksOnly s scout
  change ∃ t cs, Host.Outcome.next (if anyFree _ scout = true then _ else _) = .next t ∧ _
  generalize ((stagesOf s scout).foldl (victims scout) (s, [])).1 = u at marked ⊢
  have run : ∀ c, (u.cellAt c).running = (s.cellAt c).running := fun c => by rw [marked]; rfl
  have id : u.nextId = s.nextId := by rw [marked]
  obtain ⟨cs, idle, starts⟩ := decideDispatch_starts u scout
  refine ⟨_, cs, rfl, fun c hc => run c ▸ idle c hc, (marked.starts _ _).trans ?_⟩
  split
  · exact (id ▸ starts).trans ((tasksOnly_resetCredits _ scout).starts _ _)
  · exact (TasksOnly.refl u).starts _ _

end Sys2Proof.Machine
end

section
/-! PROOF of O39, part 2: a decision starts a gang where a stage has a whole free block (R57, R58, R66). What a decision looks for
does not depend on credits and pointers, so that it is the same before and after the choice of a stage. -/

namespace Sys2Proof.Machine

/-! ### Credits and pointers aside -/

def StageSt.bare (q : StageSt) : StageSt := { q with credit := 0 }

def Launch.bare (l : Launch) : Launch := { l with stages := l.stages.map StageSt.bare }

def Cand.bare (x : Cand) : Cand := { x with l := x.l.bare, q := x.q.bare }

/-- A state without the credits of stages and the pointers of classes. -/
def State.bare (s : State) : State :=
  { s with tasks := { s.tasks with
      launches := s.tasks.launches.map Launch.bare, combPtr := Reg.fill (0, 0), scoutPtr := Reg.fill (0, 0) } }

theorem launchOf_bare (s : State) (id : Nat) : launchOf s.bare id = (launchOf s id).map Launch.bare :=
  List.find?_map ..

theorem stageOf_bare (s : State) (id : Nat) (k : BitVec 4) : stageOf s.bare id k = (stageOf s id k).map StageSt.bare := by
  rw [stageOf, launchOf_bare, stageOf]
  cases launchOf s id with
  | none => rfl
  | some l => exact List.getElem?_map

theorem launchInSlot_bare (s : State) (scout : Bool) (n : Nat) :
    launchInSlot s.bare scout n = (launchInSlot s scout n).map Launch.bare :=
  List.find?_map ..

theorem stagesOf_bare (s : State) (scout : Bool) : stagesOf s.bare scout = (stagesOf s scout).map Cand.bare := by
  simp only [stagesOf, List.map_flatMap]
  refine List.flatMap_congr fun n _ => ?_
  rw [launchInSlot_bare]
  cases launchInSlot s scout n with
  | none => rfl
  | some l =>
    simp only [Option.map_some, Launch.bare, List.length_map, List.map_filterMap, List.getElem?_map]
    refine List.filterMap_congr fun i _ => ?_
    cases l.stages[i]? with
    | none => rfl
    | some q =>
      simp only [Option.map_some, StageSt.bare]
      split <;> rfl

theorem draining_bare (s : State) (c : BitVec 9) : draining s.bare c = draining s c := by
  simp only [draining, State.bare, List.any_map, Function.comp_def, Launch.bare]
  rfl

theorem options_bare (s : State) (scout : Bool) (x : Cand) : options s.bare scout x.bare = options s scout x := by
  have free : ∀ b, blockFree s.bare x.bare b = blockFree s x b := fun b => by
    simp only [blockFree, draining_bare]
    rfl
  simp only [options, free]
  rfl

theorem startable_bare (s : State) (x : Cand) : startable s.bare x.bare = startable s x := rfl

section
variable {s t : State} {scout : Bool} (same : t.bare = s.bare)
include same

theorem bare_saved : t.tasks.saved = s.tasks.saved := congrArg (·.tasks.saved) same

theorem bare_gangs : t.tasks.gangs = s.tasks.gangs := congrArg (·.tasks.gangs) same

theorem bare_nextId : t.nextId = s.nextId := congrArg (·.nextId) same

theorem bare_cells : t.cells = s.cells := congrArg (·.cells) same

theorem bare_pkg : t.pkg = s.pkg := congrArg (·.pkg) same

theorem bare_ids : t.tasks.launches.map (·.id) = s.tasks.launches.map (·.id) := by
  have ids := congrArg (fun u : State => u.tasks.launches.map (·.id)) same
  simpa [State.bare, Function.comp_def, Launch.bare] using ids

theorem bare_stageOf (id : Nat) (k : BitVec 4) : (stageOf t id k).map StageSt.bare = (stageOf s id k).map StageSt.bare := by
  rw [← stageOf_bare, same, stageOf_bare]

theorem bare_stageOf_none (id : Nat) (k : BitVec 4) : stageOf t id k = none ↔ stageOf s id k = none := by
  rw [← Option.map_eq_none_iff (f := StageSt.bare), bare_stageOf same, Option.map_eq_none_iff]

/-- Each stage of the one is a stage of the other, but for its credit. -/
theorem bare_stagesOf {x : Cand} (h : x ∈ stagesOf t scout) : ∃ y ∈ stagesOf s scout, y.bare = x.bare := by
  have mem : x.bare ∈ (stagesOf t scout).map Cand.bare := List.mem_map_of_mem h
  rw [← stagesOf_bare, same, stagesOf_bare] at mem
  exact List.mem_map.1 mem

variable {x y : Cand} (cand : x.bare = y.bare)
include cand

theorem bare_options : options t scout x = options s scout y := by
  rw [← options_bare, same, cand, options_bare]

theorem bare_startable : startable t x = startable s y := by
  rw [← startable_bare, same, cand, startable_bare]

end

theorem bare_h {x y : Cand} (h : x.bare = y.bare) : x.h = y.h := congrArg (·.q.hdr) h

theorem bare_queue {x y : Cand} (h : x.bare = y.bare) : x.q.queue = y.q.queue := congrArg (·.q.queue) h

theorem bare_draining {x y : Cand} (h : x.bare = y.bare) : x.q.draining = y.q.draining := congrArg (·.q.draining) h

theorem bare_id {x y : Cand} (h : x.bare = y.bare) : x.l.id = y.l.id := congrArg (·.l.id) h

theorem bare_i {x y : Cand} (h : x.bare = y.bare) : x.i = y.i := congrArg (·.i) h

/-! ### The stages of a die -/

theorem mem_stagesOf {s : State} {scout : Bool} {x : Cand} (h : x ∈ stagesOf s scout) :
    x.l ∈ s.tasks.launches ∧ ∃ n : Nat, x.l.stages[n]? = some x.q ∧ x.i = BitVec.ofNat 4 n := by
  obtain ⟨n, -, hx⟩ := List.mem_flatMap.1 h
  split at hx
  · cases hx
  · next l found =>
    obtain ⟨i, -, e⟩ := List.mem_filterMap.1 hx
    split at e
    · cases e
    · next q at_ =>
      split at e
      · cases e
        exact ⟨List.mem_of_find?_eq_some found, i, at_, rfl⟩
      · cases e

/-- The launch with an id is the one that is looked up. -/
theorem launchOf_mem {s : State} (ids : (s.tasks.launches.map (·.id)).Nodup) {l : Launch} (h : l ∈ s.tasks.launches) :
    launchOf s l.id = some l := by
  cases found : launchOf s l.id with
  | none => exact absurd h (fun h => by simpa using List.find?_eq_none.1 found l h)
  | some k => rw [List.inj_on_of_nodup_map ids (List.mem_of_find?_eq_some found) h (launchOf_id found)]

theorem stageOf_mem {s : State} {scout : Bool} (ids : (s.tasks.launches.map (·.id)).Nodup)
    (short : ∀ l ∈ s.tasks.launches, l.stages.length ≤ 16) {x : Cand} (h : x ∈ stagesOf s scout) :
    stageOf s x.l.id x.i = some x.q := by
  obtain ⟨launch, n, at_, e⟩ := mem_stagesOf h
  have low : n < 16 := Nat.lt_of_lt_of_le (List.getElem?_eq_some_iff.1 at_).1 (short _ launch)
  rw [stageOf_launch (launchOf_mem ids launch), e, BitVec.toNat_ofNat, Nat.mod_eq_of_lt (by omega), at_]

/-! ### Credits -/

/-- A stage that changes its credit alone. -/
theorem bare_setStage {s : State} (ids : (s.tasks.launches.map (·.id)).Nodup) {id : Nat} {k : BitVec 4} {q : StageSt}
    (h : stageOf s id k = some q) {x : StageSt} (e : x.bare = q.bare) : (setStage s id k x).bare = s.bare := by
  obtain ⟨l, found, at_⟩ := stageOf_eq_some h
  have same : Launch.bare { l with stages := l.stages.set k.toNat x } = l.bare := by
    have stages : (l.stages.set k.toNat x).map StageSt.bare = l.stages.map StageSt.bare := by
      obtain ⟨low, rfl⟩ := List.getElem?_eq_some_iff.1 at_
      rw [List.map_set, e, ← List.map_set, List.set_getElem_self]
    simp only [Launch.bare, stages]
  have launches : (s.tasks.launches.map fun y => if y.id = l.id then { l with stages := l.stages.set k.toNat x } else y).map
      Launch.bare = s.tasks.launches.map Launch.bare := by
    rw [List.map_map]
    refine List.map_congr_left fun y hy => ?_
    simp only [Function.comp_apply]
    split
    · next own => rw [same, List.inj_on_of_nodup_map ids hy (List.mem_of_find?_eq_some found) own]
    · rfl
  rw [setStage, found]
  simp only [State.bare, setLaunch, launches]

theorem bare_setCredit {s : State} (ids : (s.tasks.launches.map (·.id)).Nodup) (id : Nat) (k : BitVec 4) (d : Nat) :
    (setCredit s id k d).bare = s.bare := by
  unfold setCredit
  split
  · rfl
  · next h => exact bare_setStage ids h rfl

theorem bare_resetCredits {s : State} (ids : (s.tasks.launches.map (·.id)).Nodup) (scout : Bool) :
    (resetCredits s scout).bare = s.bare := by
  refine (stagesOf s scout).foldlRecOn (motive := fun t => State.bare t = s.bare) _ rfl fun t same x _ => ?_
  split
  · exact same
  · exact (bare_setCredit (bare_ids same ▸ ids) _ _ _).trans same

theorem bare_selectFrom {s : State} (ids : (s.tasks.launches.map (·.id)).Nodup) (cs : List Cand) (f k : Nat) :
    (selectFrom cs f k s).2.bare = s.bare := by
  induction f generalizing k s with
  | zero => rfl
  | succ f ih =>
    unfold selectFrom
    split
    · rfl
    · dsimp only
      have same := bare_setCredit ids
      split
      · exact same _ _ _
      · exact (ih (bare_ids (same _ _ _) ▸ ids) _).trans (same _ _ _)

/-- The credit of the stage of a candidate. -/
def creditOf (s : State) (x : Cand) : Nat := ((stageOf s x.l.id x.i).map (·.credit)).getD 0

theorem stageOf_setStage_other {s : State} {id id' : Nat} {k k' : BitVec 4} (h : ¬ (id' = id ∧ k' = k)) (x : StageSt) :
    stageOf (setStage s id k x) id' k' = stageOf s id' k' := by
  unfold setStage
  split
  · rfl
  · next l found =>
    by_cases e : id' = id
    · subst e
      have own := launchOf_id found
      subst own
      rw [stageOf_launch (launchOf_setLaunch (l := { l with stages := l.stages.set k.toNat x }) found), stageOf_launch found]
      exact List.getElem?_set_ne fun at_ => h ⟨rfl, (BitVec.eq_of_toNat_eq at_).symm⟩
    · have other : launchOf (setLaunch s { l with stages := l.stages.set k.toNat x }) id' = launchOf s id' := by
        have ne : l.id ≠ id' := fun own => e (own.symm.trans (launchOf_id found))
        simp only [launchOf, setLaunch]
        induction s.tasks.launches with
        | nil => rfl
        | cons y r ih =>
          by_cases own : y.id = l.id
          · simp [own, ih, ne]
          · simp [List.find?_cons, own, ih]
      rw [stageOf, stageOf, other]

theorem creditOf_setCredit {s : State} {x : Cand} (h : stageOf s x.l.id x.i ≠ none) (y : Cand) (d : Nat) :
    creditOf (setCredit s x.l.id x.i d) y = if y.l.id = x.l.id ∧ y.i = x.i then d else creditOf s y := by
  obtain ⟨q, at_⟩ := Option.ne_none_iff_exists'.1 h
  rw [setCredit, at_]
  dsimp only
  split
  · next own => rw [creditOf, own.1, own.2, stageOf_setStage at_]; rfl
  · next other => rw [creditOf, stageOf_setStage_other other, creditOf]

/-- The credits of candidates, as far as they count before a choice. -/
def creditSum (cs : List Cand) (s : State) : Nat := (cs.map fun x => min (creditOf s x) 16).sum

theorem creditSum_le (cs : List Cand) (s : State) : creditSum cs s ≤ 16 * cs.length := by
  have bound := List.sum_le_card_nsmul (cs.map fun x => min (creditOf s x) 16) 16 fun n hn => by
    obtain ⟨x, -, rfl⟩ := List.mem_map.1 hn
    exact Nat.min_le_right _ _
  simpa [creditSum, Nat.mul_comm] using bound

/-- A turn that chooses nobody adds to the credits. -/
theorem creditSum_lt {s : State} {cs : List Cand} {x : Cand} (hx : x ∈ cs) (stage : stageOf s x.l.id x.i ≠ none) {d : Nat}
    (more : creditOf s x < d) (low : d < 16) : creditSum cs s < creditSum cs (setCredit s x.l.id x.i d) := by
  refine List.sum_lt_sum _ _ (fun y _ => ?_) ⟨x, hx, ?_⟩
  · rw [creditOf_setCredit stage]
    split
    · next own =>
      have credit : creditOf s y = creditOf s x := by rw [creditOf, own.1, own.2, creditOf]
      omega
    · exact Nat.le_refl _
  · rw [creditOf_setCredit stage, if_pos ⟨rfl, rfl⟩]
    omega

theorem weight_pos (x : Cand) : 1 ≤ weight x := by
  unfold weight
  exact Nat.le_add_right 1 _

theorem selectFrom_turn {cs : List Cand} {k : Nat} {x : Cand} (h : cs[k % cs.length]? = some x) (f : Nat) (s : State) :
    selectFrom cs (f + 1) k s =
      if 16 ≤ creditOf s x + weight x then (some x, setCredit s x.l.id x.i (creditOf s x + weight x - 16))
      else selectFrom cs f (k + 1) (setCredit s x.l.id x.i (creditOf s x + weight x)) := by
  rw [selectFrom, h]
  rfl

/-- The loop of R58 chooses a candidate before its fuel is spent. -/
theorem selectFrom_finds {cs : List Cand} (some_ : cs ≠ []) (f k : Nat) {s : State}
    (ids : (s.tasks.launches.map (·.id)).Nodup) (stages : ∀ x ∈ cs, stageOf s x.l.id x.i ≠ none)
    (fuel : 16 * cs.length < f + creditSum cs s) : ∃ x ∈ cs, (selectFrom cs f k s).1 = some x := by
  induction f generalizing k s with
  | zero =>
    have := creditSum_le cs s
    omega
  | succ f ih =>
    have low : k % cs.length < cs.length := Nat.mod_lt _ (List.length_pos_iff.2 some_)
    have at_ := List.getElem?_eq_getElem low
    have hx : cs[k % cs.length] ∈ cs := List.getElem_mem low
    generalize cs[k % cs.length] = x at at_ hx
    rw [selectFrom_turn at_]
    split
    · exact ⟨x, hx, rfl⟩
    · have more := weight_pos x
      have gained := creditSum_lt hx (stages x hx) (d := creditOf s x + weight x) (by omega) (by omega)
      have same := bare_setCredit ids x.l.id x.i (creditOf s x + weight x)
      refine ih (k + 1) (bare_ids same ▸ ids) (fun y hy => ?_) (by omega)
      exact mt (bare_stageOf_none same y.l.id y.i).1 (stages y hy)

/-! ### The choice of a stage -/

theorem foldl_min_attained {α : Type} (f : α → Nat) (l : List α) (m : Nat) :
    (∃ x ∈ l, f x = l.foldl (fun m x => min m (f x)) m) ∨
      l.foldl (fun m x => min m (f x)) m = m ∧ ∀ x ∈ l, m ≤ f x := by
  induction l generalizing m with
  | nil => exact .inr ⟨rfl, nofun⟩
  | cons x r ih =>
    rw [List.foldl_cons]
    obtain ⟨y, hy, e⟩ | ⟨e, above⟩ := ih (min m (f x))
    · exact .inl ⟨y, List.mem_cons_of_mem x hy, e⟩
    · by_cases less : f x ≤ m
      · exact .inl ⟨x, List.mem_cons_self, by omega⟩
      · refine .inr ⟨by omega, fun y hy => ?_⟩
        obtain rfl | hy := List.mem_cons.1 hy
        · omega
        · have := above y hy
          omega

theorem filterCands_sub {s : State} {scout : Bool} {cs : List Cand} {x : Cand} (h : x ∈ filterCands s scout cs) : x ∈ cs := by
  have passed := (List.mem_filter.1 h).1
  split at passed
  · exact passed
  · exact (List.mem_filter.1 passed).1

/-- Some candidate is of the lowest class that there is. -/
theorem lowestClass_ne_nil {cs : List Cand} (h : cs ≠ []) :
    (cs.filter fun x => decide (x.h.prio.toNat = cs.foldl (fun m x => min m x.h.prio.toNat) 3)) ≠ [] := by
  obtain ⟨x0, h0⟩ := List.exists_mem_of_ne_nil cs h
  have attained : ∃ x ∈ cs, x.h.prio.toNat = cs.foldl (fun m x => min m x.h.prio.toNat) 3 := by
    obtain found | ⟨e, above⟩ := foldl_min_attained (fun x : Cand => x.h.prio.toNat) cs 3
    · exact found
    · have := above x0 h0
      exact ⟨x0, h0, by omega⟩
  obtain ⟨x, hx, e⟩ := attained
  exact List.ne_nil_of_mem (List.mem_filter.2 ⟨hx, decide_eq_true e⟩)

/-- The filters of R58 leave a candidate where there is one. -/
theorem filterCands_ne_nil (s : State) (scout : Bool) {cs : List Cand} (h : cs ≠ []) : filterCands s scout cs ≠ [] := by
  unfold filterCands
  refine lowestClass_ne_nil ?_
  split
  · exact h
  · assumption

theorem selectStage_finds {s : State} (scout : Bool) {cs : List Cand} (some_ : cs ≠ [])
    (ids : (s.tasks.launches.map (·.id)).Nodup) (stages : ∀ x ∈ cs, stageOf s x.l.id x.i ≠ none) :
    ∃ x ∈ cs, ∃ u, selectStage s scout cs = (some x, u) ∧ u.bare = s.bare := by
  cases cs with
  | nil => exact absurd rfl some_
  | cons x0 r =>
    have loop := fun k => selectFrom_finds some_ (16 * (x0 :: r).length + 1) k ids stages (by omega)
    have same := bare_selectFrom ids (x0 :: r) (16 * (x0 :: r).length + 1)
    rw [selectStage]
    dsimp only
    generalize (List.findIdx? _ (x0 :: r)).getD 0 = k
    obtain ⟨x, hx, found⟩ := loop k
    have kept := same k
    generalize selectFrom (x0 :: r) _ k s = p at found kept ⊢
    obtain ⟨o, u⟩ := p
    subst found
    refine ⟨x, hx, _, rfl, ?_⟩
    rw [← kept]
    cases scout <;> rfl

/-! ### The start of every member -/

theorem takeArea_finds {s : State} {ctx : BitVec 16} (h : 0 < areasFree s ctx) (key : Nat) :
    ∃ c a t, takeArea s ctx key = some (c, a, t) ∧ areasFree s ctx = areasFree t ctx + 1 := by
  unfold areasFree at h
  cases found : s.pkg.contexts.find? fun c => decide (c.id = ctx) with
  | none => simp [found] at h
  | some c =>
    cases free : c.free with
    | nil => simp [found, free] at h
    | cons j r =>
      have id : c.id = ctx := by simpa using List.find?_some found
      refine ⟨c, j, _, by rw [takeArea, found]; dsimp only; rw [free], ?_⟩
      have after : (s.pkg.contexts.map fun y =>
          if y.id = ctx then { y with free := r, used := (key, j) :: y.used } else y).find? (fun c => decide (c.id = ctx)) =
          some { c with free := r, used := (key, j) :: c.used } := by
        have blind : ((fun c : Context => decide (c.id = ctx)) ∘ fun y =>
            if y.id = ctx then { y with free := r, used := (key, j) :: y.used } else y) = fun c => decide (c.id = ctx) := by
          funext y
          simp only [Function.comp_apply]
          split <;> rfl
        rw [List.find?_map, blind, found, Option.map_some, if_pos id]
      simp [areasFree, found, free, after]

theorem areasFree_pkg {s t : State} (h : t.pkg = s.pkg) (ctx : BitVec 16) : areasFree t ctx = areasFree s ctx := by
  rw [areasFree, areasFree, h]

theorem startMembers_tasks (x : Cand) (g : Nat) (e : QEntry) (b : List (BitVec 9)) (j : Nat) (s : State) :
    (startMembers x g e b j s).tasks = s.tasks := by
  induction b generalizing j s with
  | nil => rfl
  | cons c r ih =>
    unfold startMembers
    split
    · rfl
    · next k a s1 taken =>
      rw [ih, State.updAt_tasks, (onlyLines_leaveL1 s1 c _).tasks, takeArea_starts taken]

theorem Starts.stays {g : Nat} {cs : List (BitVec 9)} {s t : State} (h : Starts g cs s t) {c : BitVec 9}
    (running : (s.cellAt c).running = true) (gang : (s.cellAt c).task.gang = g) :
    (t.cellAt c).running = true ∧ (t.cellAt c).task.gang = g := by
  obtain same | ⟨-, new⟩ := h.cell c
  · exact ⟨(same.of (·.running) fun _ _ => rfl).trans running, (same.of (·.task.gang) fun _ _ => rfl).trans gang⟩
  · exact ⟨new.running, new.gang⟩

/-- With a save area for each, every member starts. -/
theorem startMembers_all {x : Cand} {g : Nat} {e : QEntry} {b : List (BitVec 9)} {j : Nat} {s : State}
    (areas : b.length ≤ areasFree s x.l.ctx) :
    ∀ c ∈ b, ((startMembers x g e b j s).cellAt c).running = true ∧
      ((startMembers x g e b j s).cellAt c).task.gang = g := by
  induction b generalizing j s with
  | nil => exact nofun
  | cons d r ih =>
    obtain ⟨k, a, s1, taken, less⟩ := takeArea_finds (Nat.lt_of_lt_of_le (Nat.succ_pos _) areas) (areaKey g (BitVec.ofNat 6 j))
    have kept : ∀ f, areasFree ((leaveL1 s1 d x.h.qsl1).updAt d f) x.l.ctx = areasFree s1 x.l.ctx := fun f =>
      areasFree_pkg (by rw [State.updAt_pkg, (onlyLines_leaveL1 s1 d _).pkg]) _
    have length : (d :: r).length = r.length + 1 := rfl
    intro c hc
    rw [startMembers, taken]
    dsimp only
    obtain rfl | hc := List.mem_cons.1 hc
    · refine (startMembers_starts x g e r (List.Subset.refl r) (j + 1) _).stays ?_ ?_ <;> rw [State.updAt_cellAt] <;> rfl
    · exact ih (by rw [kept]; omega) c hc

/-! ### A decision with a stage that can start -/

/-- No task waits to resume, no block drains, a stage whose head may start has a whole free block or is a single-cell stage above
class 0, and some stage's head may start on a free block. -/
structure Ready (s : State) (scout : Bool) : Prop where
  ids : (s.tasks.launches.map (·.id)).Nodup
  short : ∀ l ∈ s.tasks.launches, l.stages.length ≤ 16
  saved : s.tasks.saved = []
  draining : ∀ x ∈ stagesOf s scout, x.q.draining = none
  waits : ∀ x ∈ stagesOf s scout, startable s x = true →
    options s scout x ≠ [] ∧ 1 ≤ x.h.gang ∨ options s scout x = [] ∧ x.h.gang = 1 ∧ x.h.prio ≠ 0#2
  found : ∃ x ∈ stagesOf s scout, startable s x = true ∧ options s scout x ≠ [] ∧ 1 ≤ x.h.gang

theorem resumable_none {s : State} (h : s.tasks.saved = []) (x : Cand) : resumable s x = none := by
  simp [resumable, savedOf, h]

theorem mem_blocks {s : State} {scout : Bool} {x : Cand} {b : List (BitVec 9)} (h : b ∈ blocks s scout x) :
    b.length = x.h.gang ∧ ∀ c ∈ b, c ∈ eligible s scout x := by
  obtain ⟨mapped, own⟩ := List.mem_filter.1 h
  obtain ⟨n, -, rfl⟩ := List.mem_map.1 mapped
  exact ⟨by simp, by simpa using own⟩

theorem drainBlocks_single {s : State} {scout : Bool} {x : Cand} (h : x.h.gang = 1) : drainBlocks s scout x = [] :=
  if_pos (.inl h)

theorem foldl_best_some {α : Type} {step : Option (Nat × α) → α → Option (Nat × α)}
    (one : ∀ o b, (step o b).isSome = true) {l : List α} (h : l ≠ []) : ∃ b, (l.foldl step none).map (·.2) = some b := by
  have isSome : (l.foldl step none).isSome = true := by
    rw [← List.dropLast_append_getLast h, List.foldl_append]
    exact one _ _
  obtain ⟨p, e⟩ := Option.isSome_iff_exists.1 isSome
  exact ⟨p.2, by rw [e]; rfl⟩

theorem pickBlock_finds (s : State) (scout : Bool) (x : Cand) (want : Option Nat) {bs : List (List (BitVec 9))} (h : bs ≠ []) :
    ∃ b ∈ bs, pickBlock s scout x want bs = some b := by
  obtain ⟨b, e⟩ : ∃ b, pickBlock s scout x want bs = some b := by
    refine foldl_best_some (fun o b => ?_) h
    dsimp only
    split
    · rfl
    · split <;> rfl
  exact ⟨b, pickBlock_mem e, e⟩

section
variable {s : State} {scout : Bool} (ready : Ready s scout)
include ready

/-- No stage of class 0 waits, so that no task is pre-empted. -/
theorem Ready.victims : (stagesOf s scout).foldl (victims scout) (s, []) = (s, []) := by
  refine (stagesOf s scout).foldlRecOn (motive := fun p => p = (s, [])) _ rfl fun p e x hx => ?_
  subst e
  refine if_pos ?_
  by_cases may : startable s x = true
  · obtain ⟨free, -⟩ | ⟨-, -, prio⟩ := ready.waits x hx may
    · exact .inr (.inr free)
    · exact .inl prio
  · exact .inr (.inl (by simpa [resumable_none ready.saved] using may))

theorem Ready.anyFree : anyFree s scout = true := by
  obtain ⟨x, -, -, free, gang⟩ := ready.found
  obtain ⟨b, hb⟩ := List.exists_mem_of_ne_nil _ free
  obtain ⟨block, idle⟩ := mem_options hb
  obtain ⟨length, among⟩ := mem_blocks block
  obtain ⟨c, hc⟩ := List.exists_mem_of_length_pos (by omega : 0 < b.length)
  obtain ⟨die, present⟩ := List.mem_filter.1 (among c hc)
  exact List.any_eq_true.2 ⟨c, die, Bool.and_eq_true _ _ ▸ ⟨(Bool.and_eq_true _ _ ▸ present).1, blockFree_idle idle c hc⟩⟩

/-- The decision starts the head of a stage that has a free block. -/
theorem Ready.decides : ∃ x ∈ stagesOf s scout, ∃ y u b, decideDispatch s scout = startGang u scout y b ∧
    u.bare = s.bare ∧ y.bare = x.bare ∧ startable s x = true ∧ 1 ≤ x.h.gang ∧ b ∈ options s scout x := by
  have reset := bare_resetCredits ready.ids scout
  generalize at_ : resetCredits s scout = s0 at reset
  have calm : ∀ {u : State}, u.bare = s.bare → ∀ x, resumable u x = none := fun same x =>
    resumable_none ((bare_saved same).trans ready.saved) x
  have none_whole : wholeBlock s0 scout = none := by
    refine List.findSome?_eq_none_iff.2 fun x hx => ?_
    obtain ⟨y, hy, e⟩ := bare_stagesOf reset hx
    rw [← bare_draining e, ready.draining y hy]
  have cands : ∀ x ∈ (stagesOf s0 scout).filter (isCand s0 scout), ∃ y ∈ stagesOf s scout, y.bare = x.bare ∧
      startable s y = true ∧ 1 ≤ y.h.gang ∧ options s scout y ≠ [] := by
    intro x hx
    obtain ⟨hx, cand⟩ := List.mem_filter.1 hx
    obtain ⟨y, hy, e⟩ := bare_stagesOf reset hx
    simp only [isCand, calm reset, Option.isSome_none, Bool.or_false, Bool.and_eq_true, Bool.or_eq_true,
      decide_eq_true_eq] at cand
    obtain ⟨may, place⟩ := cand
    rw [bare_startable reset e.symm] at may
    obtain ⟨free, gang⟩ | ⟨none_, gang, -⟩ := ready.waits y hy may
    · exact ⟨y, hy, e, may, gang, free⟩
    · obtain free | drain := place
      · exact absurd ((bare_options reset e.symm).trans none_) free
      · exact absurd (drainBlocks_single ((congrArg Stage.gang (bare_h e)).symm.trans gang)) drain
  have some_ : (stagesOf s0 scout).filter (isCand s0 scout) ≠ [] := by
    obtain ⟨y, hy, may, free, gang⟩ := ready.found
    obtain ⟨x, hx, e⟩ := bare_stagesOf reset.symm hy
    refine List.ne_nil_of_mem (List.mem_filter.2 ⟨hx, ?_⟩)
    simp [isCand, bare_startable reset e, may, bare_options reset e, free]
  have stages : ∀ x ∈ filterCands s0 scout ((stagesOf s0 scout).filter (isCand s0 scout)),
      stageOf s0 x.l.id x.i ≠ none := by
    intro x hx
    obtain ⟨y, hy, e, -⟩ := cands x (filterCands_sub hx)
    rw [Ne, bare_stageOf_none reset, ← bare_id e, ← bare_i e, stageOf_mem ready.ids ready.short hy]
    exact nofun
  obtain ⟨y, hy, u, chosen, kept⟩ := selectStage_finds scout (filterCands_ne_nil s0 scout some_)
    (bare_ids reset ▸ ready.ids) stages
  obtain ⟨x, hx, e, may, gang, free⟩ := cands y (filterCands_sub hy)
  have same := kept.trans reset
  have places := bare_options same e.symm (scout := scout)
  obtain ⟨b, hb, picked⟩ := pickBlock_finds u scout y (wantedUnit u scout y (placeIdent u y)) (places ▸ free)
  refine ⟨x, hx, y, u, b, ?_, same, e.symm, may, gang, places ▸ hb⟩
  simp only [decideDispatch, at_, none_whole, chosen, picked, placeStage, calm same]

end

theorem startable_queue {s : State} {x : Cand} (h : startable s x = true) :
    ∃ e r, x.q.queue = e :: r ∧ x.h.gang ≤ areasFree s x.l.ctx := by
  unfold startable at h
  split at h
  · cases h
  · next e r queue => exact ⟨e, r, queue, of_decide_eq_true (Bool.and_eq_true _ _ ▸ h).2⟩

theorem noteAffinity_books (s : State) (scout : Bool) (x : Cand) (ident : Word) (c : BitVec 9) :
    (noteAffinity s scout x ident c).tasks.gangs = s.tasks.gangs ∧
      (noteAffinity s scout x ident c).tasks.launches = s.tasks.launches := by
  unfold noteAffinity
  split
  · exact ⟨rfl, rfl⟩
  · cases scout <;> exact ⟨rfl, rfl⟩

theorem setStage_gangs (s : State) (id : Nat) (k : BitVec 4) (q : StageSt) :
    (setStage s id k q).tasks.gangs = s.tasks.gangs := by
  unfold setStage
  split <;> rfl

theorem bookGang_gangs (s : State) (scout : Bool) (x : Cand) (b : List (BitVec 9)) (q : StageSt) (e : QEntry)
    (rest : List QEntry) : (bookGang s scout x b q e rest).tasks.gangs = s.tasks.gangs ++ [newGang s x b e] := by
  unfold bookGang
  dsimp only
  rw [(noteAffinity_books ..).1, setStage_gangs]

theorem stageOf_launches {s t : State} (h : t.tasks.launches = s.tasks.launches) (id : Nat) (k : BitVec 4) :
    stageOf t id k = stageOf s id k := by
  rw [stageOf, launchOf, h]
  rfl

theorem bookGang_stage {s : State} (scout : Bool) {x : Cand} {b : List (BitVec 9)} {q : StageSt} (e : QEntry)
    (rest : List QEntry) (h : stageOf s x.l.id x.i = some q) :
    stageOf (bookGang s scout x b q e rest) x.l.id x.i = some { q with queue := rest, draining := none } := by
  rw [← stageOf_setStage h { q with queue := rest, draining := none }]
  exact stageOf_launches (noteAffinity_books ..).2 _ _

theorem bookGang_ids {s : State} (scout : Bool) {x : Cand} {b : List (BitVec 9)} {q : StageSt} {e : QEntry}
    {rest : List QEntry} : (bookGang s scout x b q e rest).tasks.launches.map (·.id) = s.tasks.launches.map (·.id) := by
  unfold bookGang
  dsimp only
  rw [(noteAffinity_books ..).2, setStage]
  split
  · rfl
  · exact setLaunch_ids s _

/-- A gang that starts: its entry has left the queue of a stage, it is listed, and each of its cells runs a member. -/
theorem Ready.starts {s : State} {scout : Bool} (ready : Ready s scout) {t : State}
    (exec_ : exec (.dispatchDecision scout) s = .next t) :
    ∃ x ∈ stagesOf s scout, ∃ (e : QEntry) (r : List QEntry) (g : Gang), x.q.queue = e :: r ∧
      t.tasks.gangs = s.tasks.gangs ++ [g] ∧ g.id = s.nextId ∧ g.launch = x.l.id ∧ g.stage = x.i ∧ g.ident = e.ident ∧
      g.cells ∈ options s scout x ∧ g.cells ≠ [] ∧ (stageOf t x.l.id x.i).map (·.queue) = some r ∧
      ∀ c ∈ g.cells, (s.cellAt c).running = false ∧ (t.cellAt c).running = true ∧ (t.cellAt c).task.gang = g.id := by
  obtain ⟨x, hx, y, u, b, decided, same, cand, may, gang, hb⟩ := ready.decides
  obtain ⟨e, r, queue, areas⟩ := startable_queue may
  obtain ⟨block, idle⟩ := mem_options hb
  obtain ⟨length, -⟩ := mem_blocks block
  have stage : (stageOf u y.l.id y.i).map StageSt.bare = some x.q.bare := by
    rw [bare_stageOf same, bare_id cand, bare_i cand, stageOf_mem ready.ids ready.short hx]
    rfl
  obtain ⟨q, at_, bare⟩ := Option.map_eq_some_iff.1 stage
  have head : q.queue = e :: r := (congrArg (·.queue) bare).trans queue
  have ran : exec (.dispatchDecision scout) s = .next (resetCredits (decideDispatch s scout) scout) := by
    change execDispatchDecision scout s = _
    simp only [execDispatchDecision, ready.victims, ready.anyFree, if_true]
  obtain rfl := Host.Outcome.next.inj (exec_.symm.trans ran)
  rw [decided, startGang_head at_ head]
  generalize started : startMembers y u.nextId e b 0 (bookGang u scout y b q e r) = v
  have books : v.tasks = (bookGang u scout y b q e r).tasks := by rw [← started, startMembers_tasks]
  have ids : (v.tasks.launches.map (·.id)).Nodup := by
    rw [books, bookGang_ids, bare_ids same]
    exact ready.ids
  have reset := bare_resetCredits ids scout
  refine ⟨x, hx, e, r, newGang u y b e, queue, ?_, bare_nextId same, bare_id cand, bare_i cand, rfl, hb, ?_, ?_, fun c hc => ?_⟩
  · rw [bare_gangs reset, books, bookGang_gangs, bare_gangs same]
  · exact List.ne_nil_of_length_pos (by change 0 < b.length; omega)
  · have left := bare_stageOf reset x.l.id x.i
    rw [stageOf_launches (congrArg (·.launches) books), ← bare_id cand, ← bare_i cand, bookGang_stage scout e r at_] at left
    obtain ⟨q', after, e'⟩ := Option.map_eq_some_iff.1 left
    rw [← bare_id cand, ← bare_i cand, after]
    exact congrArg some (congrArg (·.queue) e')
  · have enough : b.length ≤ areasFree (bookGang u scout y b q e r) y.l.ctx := by
      have pkg : (bookGang u scout y b q e r).pkg = s.pkg :=
        (congrArg (·.pkg) (bookGang_tasksOnly u scout y b q e r)).trans (bare_pkg same)
      have ctx : y.l.ctx = x.l.ctx := congrArg (·.l.ctx) cand
      rwa [areasFree_pkg pkg, ctx, length]
    have runs := startMembers_all (g := u.nextId) (e := e) (j := 0) enough c hc
    rw [started] at runs
    refine ⟨cellIdle_running (blockFree_idle idle c hc), ?_⟩
    rwa [State.cellAt, bare_cells reset]

/-- Settles O39: part 1 bounds what a decision changes, part 2 finds the gang that it starts. -/
theorem dispatchStartsGangs : Obligations.DispatchStartsGangs := by
  unfold Obligations.DispatchStartsGangs
  intro s scout
  obtain ⟨t, cs, ran, idle, starts⟩ := execDispatchDecision_starts s scout
  refine ⟨t, ran, starts.staging, starts.cmds, starts.wrote.brood, starts.wrote.inbound, starts.wrote.mem,
    fun c running => ?_, fun d changed => ?_, ?_⟩
  · obtain same | ⟨hc, -⟩ := starts.cell c
    · exact same
    · simp [idle c hc] at running
  · obtain same | ⟨hd, new⟩ := starts.cell d
    · exact absurd same changed
    · exact ⟨idle d hd, new.running, new.sup, new.gang, new.wait, new.s, new.a, new.h, new.k, new.sh, new.inflight, new.pend,
        new.inner, new.outer, new.nx, new.events⟩
  · intro free ids short saved stages found
    refine Ready.starts ⟨ids, short, saved, fun x hx => (stages x hx).1, fun x hx may => ?_, found⟩ ran
    obtain ⟨options, gang⟩ | waits := (stages x hx).2 may
    · exact .inl ⟨options, gang⟩
    · exact .inr waits

end Sys2Proof.Machine
end

section
/-! SUPPORT of O38: what the bytes of a save area give back (R209, R210). -/

namespace Sys2Proof.Machine

/-! ### Lists of pieces of one length -/

section
variable {α β : Type} {f : α → List β} {n : Nat}

theorem length_flatMap_const (l : List α) (len : ∀ x, (f x).length = n) : (l.flatMap f).length = n * l.length := by
  induction l with
  | nil => rfl
  | cons x r ih =>
    rw [List.flatMap_cons, List.length_append, len, ih, List.length_cons, Nat.mul_succ]
    omega

theorem take_drop_flatMap (l : List α) (len : ∀ x, (f x).length = n) {j : Nat} (h : j < l.length) :
    ((l.flatMap f).drop (n * j)).take n = f l[j] := by
  induction l generalizing j with
  | nil => cases h
  | cons x r ih =>
    rw [List.flatMap_cons]
    cases j with
    | zero => exact List.take_left' (len x)
    | succ j =>
      rw [List.drop_append, List.drop_eq_nil_of_le (by rw [len, Nat.mul_succ]; omega), len, Nat.mul_succ, Nat.add_sub_cancel]
      exact ih (by simpa using h)

end

/-- From piece `j` on. -/
theorem drop_flatMap {α β : Type} {f : α → List β} {n : Nat} (l : List α) (len : ∀ x, (f x).length = n) {j : Nat} (h : j < l.length)
    (r : List β) : (l.flatMap f ++ r).drop (n * j) = f l[j] ++ ((l.drop (j + 1)).flatMap f ++ r) := by
  have skip : (l.flatMap f).drop (n * j) = (l.drop j).flatMap f := by
    conv_lhs => rw [← List.take_append_drop j l, List.flatMap_append]
    refine List.drop_left' ?_
    rw [length_flatMap_const _ len, List.length_take, Nat.min_eq_left (Nat.le_of_lt h)]
  have below : n * j ≤ (l.flatMap f).length := by
    rw [length_flatMap_const l len]
    exact Nat.mul_le_mul_left n (Nat.le_of_lt h)
  rw [List.drop_append_of_le_length below, skip, List.drop_eq_getElem_cons h, List.flatMap_cons, List.append_assoc]

/-- The pieces of bytes that begin with pieces of that length. -/
theorem pieces_flatMap {α : Type} {f : α → List Byte} {n k : Nat} {l : List α} (len : ∀ x, (f x).length = n) (h : l.length = k)
    (rest : List Byte) : pieces n k (l.flatMap f ++ rest) = l.map f := by
  subst h
  induction l with
  | nil => rfl
  | cons x r ih =>
    rw [List.flatMap_cons, List.append_assoc, List.length_cons, pieces, List.take_left' (len x), List.drop_left' (len x), ih,
      List.map_cons]

theorem length_wordBytes (x : Word) : (wordBytes x).length = 8 := length_toBytes 8 _

theorem word_wordBytes (x : Word) : BitVec.ofNat 64 (leNat (wordBytes x)) = x := by
  rw [wordBytes, leNat_toBytes, show 256 ^ 8 = 2 ^ 64 from rfl, Nat.mod_eq_of_lt x.isLt, BitVec.ofNat_toNat, BitVec.setWidth_eq]

theorem bytesRow_rowBytes (r : Row) : bytesRow (rowBytes r) = r := by
  refine BitVec.eq_of_getLsbD_eq fun j hj => ?_
  have byte : byteAt (bytesRow (rowBytes r)) (j / 8) = byteAt r (j / 8) := by
    rw [byteAt_bytesRow _ _ (by omega), getD_rowBytes _ _ (by omega)]
  have bit := congrArg (·.getLsbD (j % 8)) byte
  simpa only [getLsbD_byteAt _ _ _ (Nat.mod_lt j (by omega)), Nat.div_add_mod] using bit

/-- The words of bytes that begin with words. -/
theorem words_flatMap {k : Nat} {ws : List Word} (h : ws.length = k) (rest : List Byte) :
    ((pieces 8 k (ws.flatMap wordBytes ++ rest)).map fun b => BitVec.ofNat 64 (leNat b)) = ws := by
  rw [pieces_flatMap length_wordBytes h, List.map_map]
  exact (List.map_congr_left fun x _ => word_wordBytes x).trans (List.map_id ws)

/-! ### Register files -/

theorem Reg.ext_rd {n : Nat} {α : Type} {f g : Reg n α} (h : ∀ i, f.rd i = g.rd i) : f = g :=
  Vector.ext fun i hi => h (BitVec.ofNatLT i hi)

theorem Reg.rd_ofFn {n : Nat} {α : Type} (g : Fin (2 ^ n) → α) (i : BitVec n) : Reg.rd (Vector.ofFn g) i = g ⟨i.toNat, i.isLt⟩ := by
  simp [Reg.rd]

theorem rd_regOfList_range {n : Nat} {α : Type} (d : α) (g : BitVec n → α) (i : BitVec n) :
    (regOfList d ((List.range (2 ^ n)).map fun i => g (BitVec.ofNat n i))).rd i = g i := by
  rw [regOfList, Reg.rd_ofFn]
  simp [List.getD_eq_getElem?_getD, i.isLt]

theorem regOfList_range {n : Nat} {α : Type} (d : α) (f : Reg n α) :
    regOfList d ((List.range (2 ^ n)).map fun i => f.rd (BitVec.ofNat n i)) = f :=
  Reg.ext_rd fun i => rd_regOfList_range d f.rd i

/-- The number that the 64-bit parts of a register stand for. -/
theorem foldr_parts (k : Nat) {w : Nat} (x : BitVec w) (lo : Nat) :
    ((List.range k).map fun j => x.extractLsb' (64 * (lo + j)) 64).foldr (fun y t => y.toNat + 2 ^ 64 * t) 0 =
      x.toNat / 2 ^ (64 * lo) % 2 ^ (64 * k) := by
  induction k generalizing lo with
  | zero => simp [Nat.mod_one]
  | succ k ih =>
    have next : (List.range k).map (fun j => x.extractLsb' (64 * (lo + (j + 1))) 64) =
        (List.range k).map fun j => x.extractLsb' (64 * (lo + 1 + j)) 64 :=
      List.map_congr_left fun j _ => by rw [Nat.add_comm j 1, Nat.add_assoc]
    simp only [List.range_succ_eq_map, List.map_cons, List.map_map, List.foldr_cons, Function.comp_def, Nat.succ_eq_add_one,
      next, ih (lo + 1), Nat.add_zero]
    rw [BitVec.extractLsb'_toNat, Nat.shiftRight_eq_div_pow, show 64 * (lo + 1) = 64 * lo + 64 from rfl,
      show 64 * (k + 1) = 64 + 64 * k by omega, Nat.pow_add, Nat.pow_add, Nat.mod_mul, Nat.div_div_eq_div_mul]

theorem length_fileWords {n w k : Nat} (f : Reg n (BitVec w)) : (fileWords k f).length = k * 2 ^ n := by
  rw [fileWords, length_flatMap_const (n := k) _ fun i => by simp, List.length_range]

theorem wordFile_fileWords {n w k : Nat} (h : w = 64 * k) (f : Reg n (BitVec w)) : wordFile k (fileWords k f) = f := by
  refine Reg.ext_rd fun i => ?_
  have part := take_drop_flatMap (f := fun i => (List.range k).map fun j => (f.rd (BitVec.ofNat n i)).extractLsb' (64 * j) 64)
    (n := k) (List.range (2 ^ n)) (fun _ => by simp) (j := i.toNat) (by simp [i.isLt])
  have sum := foldr_parts k (f.rd i) 0
  simp only [Nat.zero_add, Nat.mul_zero, Nat.pow_zero, Nat.div_one, ← h, Nat.mod_eq_of_lt (f.rd i).isLt] at sum
  rw [wordFile, Reg.rd_ofFn, fileWords, part, List.getElem_range, BitVec.ofNat_toNat, BitVec.setWidth_eq, sum,
    BitVec.ofNat_toNat, BitVec.setWidth_eq]

/-- A file is taken off the words that begin with it. -/
theorem takeFile_fileWords {n w k : Nat} (h : w = 64 * k) (f : Reg n (BitVec w)) (r : List Word) :
    takeFile k (fileWords k f ++ r) = (f, r) := by
  rw [takeFile, List.take_left' (length_fileWords f), List.drop_left' (length_fileWords f), wordFile_fileWords h]

theorem takeFile_words {n : Nat} (f : Reg n Word) (r : List Word) :
    takeFile (n := n) (w := 64) 1 (fileWords 1 f ++ r) = (f, r) := by
  rw [takeFile_fileWords (by omega)]

theorem takeFile_wide {n : Nat} (f : Reg n (BitVec 256)) (r : List Word) :
    takeFile (n := n) (w := 256) 4 (fileWords 4 f ++ r) = (f, r) := by
  rw [takeFile_fileWords (by omega)]

/-! ### The control block -/

theorem length_flightWords (l : List InFlight) : (flightWords l).length = 64 := by
  refine (length_flatMap_const (n := 2) _ fun i => ?_).trans (by rw [List.length_range])
  cases l[i]? with
  | none => rfl
  | some x => rfl

theorem length_jobWords (j : MJob) : (jobWords j).length = 2 := by
  cases j <;> simp only [jobWords, List.length_cons, List.length_nil]

theorem length_queueWords (q : List MJob) : (queueWords q).length = 16 := by
  refine (length_flatMap_const (n := 2) _ fun i => ?_).trans (by rw [List.length_range])
  cases q[i]? with
  | none => rfl
  | some j => exact (List.length_map _).trans (length_jobWords j)

theorem length_controlWords (bars : Reg 4 Barrier) (c : Cell) : (controlWords bars c).length = 340 := by
  simp [controlWords, length_fileWords, length_flightWords, length_queueWords]

/-- Element `i` of lanes. -/
theorem ofLanes_div (w : Nat) (xs : List Nat) {i : Nat} (h : i < xs.length) :
    ofLanes w xs / 2 ^ (w * i) % 2 ^ w = xs[i] % 2 ^ w := by
  induction xs generalizing i with
  | nil => cases h
  | cons x r ih =>
    have pos : 0 < 2 ^ w := Nat.two_pow_pos w
    rw [ofLanes]
    cases i with
    | zero => simp
    | succ i =>
      rw [Nat.mul_succ, Nat.add_comm (w * i), Nat.pow_add, ← Nat.div_div_eq_div_mul, Nat.add_mul_div_left _ _ pos,
        Nat.div_eq_of_lt (Nat.mod_lt _ pos), Nat.zero_add]
      exact ih (by simpa using h)

theorem ofLanes_lt (w : Nat) (xs : List Nat) : ofLanes w xs < 2 ^ (w * xs.length) := by
  induction xs with
  | nil => exact Nat.one_pos
  | cons x r ih =>
    have pos : 0 < 2 ^ w := Nat.two_pow_pos w
    have low := Nat.mod_lt x pos
    rw [ofLanes, List.length_cons, Nat.mul_succ, Nat.add_comm (w * _), Nat.pow_add]
    calc x % 2 ^ w + 2 ^ w * ofLanes w r < 2 ^ w + 2 ^ w * ofLanes w r := by omega
      _ = 2 ^ w * (ofLanes w r + 1) := by rw [Nat.mul_succ, Nat.add_comm]
      _ ≤ 2 ^ w * 2 ^ (w * r.length) := Nat.mul_le_mul_left _ ih

/-- The tile types that one word holds. -/
theorem ztype_word (zt : Reg 3 (BitVec 2)) (z : BitVec 3) :
    BitVec.ofNat 2 ((BitVec.ofNat 64 (ofLanes 2 ((List.range 8).map fun z => (zt.rd (BitVec.ofNat 3 z)).toNat))).toNat /
      4 ^ z.toNat) = zt.rd z := by
  have fits := ofLanes_lt 2 ((List.range 8).map fun z => (zt.rd (BitVec.ofNat 3 z)).toNat)
  have at_ := ofLanes_div 2 ((List.range 8).map fun z => (zt.rd (BitVec.ofNat 3 z)).toNat) (i := z.toNat)
    (by simpa using z.isLt)
  rw [List.length_map, List.length_range] at fits
  refine BitVec.eq_of_toNat_eq ?_
  rw [BitVec.toNat_ofNat, BitVec.toNat_ofNat, Nat.mod_eq_of_lt (Nat.lt_trans fits (by norm_num)), show 4 = 2 ^ 2 from rfl,
    ← Nat.pow_mul, at_, List.getElem_map, List.getElem_range, BitVec.ofNat_toNat, BitVec.setWidth_eq,
    Nat.mod_eq_of_lt (zt.rd z).isLt]

/-- The words of the whole control block. -/
def controlBlock (steps : Nat) (bars : Reg 4 Barrier) (c : Cell) : List Word :=
  controlWords bars c ++ (List.range 172).map fun i => Config.saveWord steps (340 + i)

theorem length_controlBlock (steps : Nat) (bars : Reg 4 Barrier) (c : Cell) : (controlBlock steps bars c).length = 512 := by
  rw [controlBlock, List.length_append, length_controlWords, List.length_map, List.length_range]

theorem controlBlock_bytes (steps : Nat) (bars : Reg 4 Barrier) (c : Cell) :
    (controlWords bars c).flatMap wordBytes ++
      openWords steps (controlWords bars c).length (512 - (controlWords bars c).length) =
      (controlBlock steps bars c).flatMap wordBytes := by
  rw [length_controlWords, controlBlock, List.flatMap_append, List.flatMap_map]
  rfl

/-- What a control block gives back of the cell that it was made from. -/
structure ControlOf (x y : Cell) : Prop where
  regs : y.regs = { x.regs with v := y.regs.v }
  cnt : y.nx.cnt = x.nx.cnt
  rmode : y.nx.rmode = x.nx.rmode &&& 7#64
  win : y.nx.win = x.nx.win &&& 0xFFFFFFFF#64
  ctl : y.nx.ctl = x.nx.ctl &&& 0xFFFFFF#64
  thr : ∀ i, y.nx.thr.rd i = x.nx.thr.rd i &&& 0xFFFFFFFF#64
  ztype : y.mx.ztype = x.mx.ztype
  status : y.tr.status = x.tr.status &&& 0xF#64
  tval : y.tr.tval = x.tr.tval
  epc : y.tr.epc = x.tr.epc &&& 0xFFFFFFFF#64

theorem loadControl_controlBlock (steps : Nat) (bars : Reg 4 Barrier) (x old : Cell) :
    ControlOf x (loadControl ((controlBlock steps bars x).flatMap wordBytes) old) := by
  have ws := words_flatMap (length_controlBlock steps bars x) []
  rw [List.append_nil] at ws
  have flight : ∀ l r, (flightWords l ++ r).drop 64 = r := fun l r => List.drop_left' (length_flightWords l)
  unfold loadControl
  rw [ws, controlBlock, controlWords]
  simp only [List.append_assoc, takeFile_words, takeFile_wide, flight, List.cons_append, List.nil_append,
    List.drop_succ_cons, List.drop_zero, List.getD_cons_zero, List.getD_cons_succ]
  exact
    { regs := rfl, cnt := rfl, rmode := rfl, win := rfl, ctl := rfl
      thr := fun i => by simp [Reg.rd]
      ztype := Reg.ext_rd fun z => (Reg.rd_ofFn _ z).trans (ztype_word x.mx.ztype z)
      status := rfl, tval := rfl, epc := rfl }

/-! ### The parts of a save area behind the control block -/

def entryBytes (c : Cell) : List Byte := (List.range 256).flatMap fun i => wordBytes (c.entry.rd (BitVec.ofNat 8 i))

def fmtBytes (c : Cell) : List Byte := (List.range 16).flatMap fun i => wordBytes (c.mx.fmt.rd (BitVec.ofNat 4 i))

def storeBytes (c : Cell) : List Byte := (List.range 1024).flatMap fun i => toBytes 10 (c.mx.store.get 0 i).toNat

def bookBytes (b : Reg 8 Word) : List Byte := (List.range 256).flatMap fun j => wordBytes (b.rd (BitVec.ofNat 8 j))

def booksBytes (c : Cell) : List Byte := (List.range 4).flatMap fun i => bookBytes (c.mx.cb.rd (BitVec.ofNat 2 i))

def latchesBytes (l : Reg 2 Latch) : List Byte := (List.range 4).flatMap fun i => latchBytes (l.rd (BitVec.ofNat 2 i))

def tileBytes (c : Cell) : List Byte := (List.range 512).flatMap fun i => rowBytes (c.regs.v.rd (BitVec.ofNat 9 i))

theorem saveBytes_parts (steps : Nat) (bars : Reg 4 Barrier) (c : Cell) :
    saveBytes steps bars c = (controlBlock steps bars c).flatMap wordBytes ++ (entryBytes c ++ (fmtBytes c ++
      (openWords steps 512 240 ++ (storeBytes c ++ (booksBytes c ++ (latchesBytes c.mx.la ++ (latchesBytes c.mx.lb ++
        (tileBytes c ++ c.pad.bytes 0 (padBytes c))))))))) := by
  unfold saveBytes
  dsimp only
  rw [controlBlock_bytes]
  simp only [List.append_assoc]
  rfl

theorem length_controlBytes (steps : Nat) (bars : Reg 4 Barrier) (c : Cell) :
    ((controlBlock steps bars c).flatMap wordBytes).length = 4096 := by
  rw [length_flatMap_const _ length_wordBytes, length_controlBlock]

theorem length_entryBytes (c : Cell) : (entryBytes c).length = 2048 := by
  rw [entryBytes, length_flatMap_const _ fun _ => length_wordBytes _, List.length_range]

theorem length_fmtBytes (c : Cell) : (fmtBytes c).length = 128 := by
  rw [fmtBytes, length_flatMap_const _ fun _ => length_wordBytes _, List.length_range]

theorem length_openWords (steps lo n : Nat) : (openWords steps lo n).length = 8 * n := by
  rw [openWords, length_flatMap_const _ fun _ => length_wordBytes _, List.length_range]

theorem length_storeBytes (c : Cell) : (storeBytes c).length = 10240 := by
  rw [storeBytes, length_flatMap_const _ fun _ => length_toBytes _ _, List.length_range]

theorem length_bookBytes (b : Reg 8 Word) : (bookBytes b).length = 2048 := by
  rw [bookBytes, length_flatMap_const _ fun _ => length_wordBytes _, List.length_range]

theorem length_booksBytes (c : Cell) : (booksBytes c).length = 8192 := by
  rw [booksBytes, length_flatMap_const _ fun _ => length_bookBytes _, List.length_range]

theorem length_latchBytes (l : Latch) : (latchBytes l).length = 16384 := by
  rw [latchBytes, length_flatMap_const _ fun _ => length_rowBytes _, List.length_range]

theorem length_latchesBytes (l : Reg 2 Latch) : (latchesBytes l).length = 65536 := by
  rw [latchesBytes, length_flatMap_const _ fun _ => length_latchBytes _, List.length_range]

theorem length_tileBytes (c : Cell) : (tileBytes c).length = 131072 := by
  rw [tileBytes, length_flatMap_const _ fun _ => length_rowBytes _, List.length_range]

section
variable (c : Cell) (r : List Byte)

/-- A masked table of words is read back masked. -/
theorem maskedWords {n k : Nat} (h : 2 ^ n = k) (f : Reg n Word) (m : Word) (i : BitVec n) :
    Reg.rd (regOfList 0 ((pieces 8 k (((List.range k).flatMap fun i => wordBytes (f.rd (BitVec.ofNat n i))) ++ r)).map fun b =>
      BitVec.ofNat 64 (leNat b) &&& m)) i = f.rd i &&& m := by
  rw [pieces_flatMap (fun _ => length_wordBytes _) List.length_range, List.map_map]
  simp only [Function.comp_def, word_wordBytes]
  rw [← h]
  exact rd_regOfList_range 0 (fun i => f.rd i &&& m) i

theorem books_words (i : Fin (2 ^ 2)) :
    regOfList 0 ((pieces 8 256 ((booksBytes c ++ r).drop (2048 * i.val))).map fun b => BitVec.ofNat 64 (leNat b)) =
      c.mx.cb.rd (BitVec.ofNat 2 i.val) := by
  rw [booksBytes, drop_flatMap _ (fun _ => length_bookBytes _) (by simp), List.getElem_range, bookBytes,
    pieces_flatMap (fun _ => length_wordBytes _) List.length_range, List.map_map]
  simp only [Function.comp_def, word_wordBytes]
  exact regOfList_range 0 (c.mx.cb.rd (BitVec.ofNat 2 i.val))

theorem tile_rows : regOfList 0 ((pieces 256 512 (tileBytes c ++ r)).map bytesRow) = c.regs.v := by
  rw [tileBytes, pieces_flatMap (fun _ => length_rowBytes _) List.length_range, List.map_map]
  simp only [Function.comp_def, bytesRow_rowBytes]
  exact regOfList_range 0 c.regs.v

end

theorem loadContext_saveBytes (steps : Nat) (bars : Reg 4 Barrier) (x old : Cell) :
    let y := loadContext (saveBytes steps bars x) old
    y.regs = x.regs ∧ y.nx.cnt = x.nx.cnt ∧ y.nx.rmode = x.nx.rmode &&& 7#64 ∧ y.nx.win = x.nx.win &&& 0xFFFFFFFF#64 ∧
      y.nx.ctl = x.nx.ctl &&& 0xFFFFFF#64 ∧ (∀ i, y.nx.thr.rd i = x.nx.thr.rd i &&& 0xFFFFFFFF#64) ∧
      (∀ i, y.entry.rd i = x.entry.rd i &&& 0x83FF03FF#64) ∧ (∀ i, y.mx.fmt.rd i = x.mx.fmt.rd i &&& 0x1FF#64) ∧
      y.mx.ztype = x.mx.ztype ∧ y.mx.cb = x.mx.cb ∧ y.tr.status = x.tr.status &&& 0xF#64 ∧ y.tr.tval = x.tr.tval ∧
      y.tr.epc = x.tr.epc &&& 0xFFFFFFFF#64 ∧ ∀ a < padBytes x, y.pad.rd a = x.pad.rd a := by
  have control := loadControl_controlBlock steps bars x old
  have ahead : ∀ r, (entryBytes x ++ (fmtBytes x ++ (openWords steps 512 240 ++ r))).drop 4096 = r := fun r => by
    rw [← List.append_assoc, ← List.append_assoc]
    exact List.drop_left' (by simp only [List.length_append, length_entryBytes, length_fmtBytes, length_openWords])
  have latches : ∀ r, (latchesBytes x.mx.la ++ (latchesBytes x.mx.lb ++ r)).drop 131072 = r := fun r => by
    rw [← List.append_assoc]
    exact List.drop_left' (by simp only [List.length_append, length_latchesBytes])
  unfold loadContext
  simp only [saveBytes_parts, List.take_left' (length_controlBytes ..), List.drop_left' (length_controlBytes ..), ahead,
    List.drop_left' (length_entryBytes x), List.drop_left' (length_storeBytes x), List.drop_left' (length_booksBytes x), latches,
    List.drop_left' (length_tileBytes x)]
  refine ⟨?_, control.cnt, control.rmode, control.win, control.ctl, control.thr, fun i => maskedWords _ rfl x.entry _ i,
    fun i => maskedWords _ rfl x.mx.fmt _ i, control.ztype, ?_, control.status, control.tval, control.epc, fun a ha => ?_⟩
  · rw [control.regs, tile_rows]
  · refine Reg.ext_rd fun i => (Reg.rd_ofFn _ i).trans ?_
    rw [books_words, BitVec.ofNat_toNat, BitVec.setWidth_eq]
  · rw [Mem.rd_store, Mem.length_bytes, if_pos ⟨Nat.zero_le a, by omega⟩, Nat.sub_zero, Mem.getD_bytes _ _ _ _ ha, Nat.zero_add]

end Sys2Proof.Machine
end

section
/-! PROOF of O38, part 2: the emergency area, parking, cleared cells and the end of a CARVE (R50, R54, R212, R221). -/

namespace Sys2Proof.Machine

/-! ### The emergency area (R212) -/

/-- A save writes memory alone. -/
theorem saveRun_onlyLines (ctx : BitVec 16) (base limit f off : Nat) (bs : List Byte) (s : State) :
    (saveRun ctx base limit f off bs s).1.cells = s.cells ∧ (saveRun ctx base limit f off bs s).1.tasks = s.tasks ∧
      (saveRun ctx base limit f off bs s).1.pkg = s.pkg := by
  induction f generalizing off bs s with
  | zero => exact ⟨rfl, rfl, rfl⟩
  | succ f ih =>
    unfold saveRun
    split
    · exact ⟨rfl, rfl, rfl⟩
    · split
      · exact ⟨rfl, rfl, rfl⟩
      · split
        · exact ⟨rfl, rfl, rfl⟩
        · next pa _ =>
          obtain ⟨cells, tasks, pkg⟩ := ih (off + 4096) (bs.drop 4096) (s.store pa (bs.take 4096))
          rw [cells, tasks, pkg]
          simp

theorem copyBack_cells {s u : State} {die : BitVec 1} (h : copyBack s die = some u) : u.cells = s.cells := by
  unfold copyBack at h
  split at h
  · cases h
    rfl
  · next y _ =>
    dsimp only at h
    have kept := (saveRun_onlyLines y.image.task.ctx y.image.tr.savea.toNat (2 ^ 32)
      ((contextBytes y - splitAt_ y) / 4096 + 1) (splitAt_ y)
      (s.mem.bytes (Config.emergBase (die = 1) + splitAt_ y) (contextBytes y - splitAt_ y)) s).1
    split at h
    · next e =>
      cases h
      rwa [e] at kept
    · cases h

theorem copyBack_unsplit {s : State} {die : BitVec 1} (h : ∀ y ∈ s.tasks.saved, y.split ≠ some die) :
    copyBack s die = some s := by
  have none_ : s.tasks.saved.find? (fun y => decide (y.split = some die)) = none :=
    List.find?_eq_none.2 fun y hy => by simpa using h y hy
  rw [copyBack, none_]

theorem joinCell_joinCell (x : Cell) : joinCell (joinCell x) = joinCell x := by
  simp only [joinCell, BitVec.and_assoc, BitVec.and_self]

/-- The same update of each cell of a list, where it makes no difference whether it comes once or twice. -/
theorem foldl_updAt {f : Cell → Cell} (idem : ∀ x, f (f x) = f x) (cs : List (BitVec 9)) (s : State) (d : BitVec 9) :
    (cs.foldl (fun s c => s.updAt c f) s).cellAt d = if d ∈ cs then f (s.cellAt d) else s.cellAt d := by
  induction cs generalizing s with
  | nil => rfl
  | cons c r ih =>
    rw [List.foldl_cons, ih]
    by_cases e : d = c
    · subst e
      rw [State.updAt_cellAt, if_pos List.mem_cons_self]
      split
      · exact idem _
      · rfl
    · simp [State.updAt_other s f e, e]

theorem foldl_updAt_keeps {γ : Type} (g : State → γ) (keep : ∀ s c f, g (s.updAt c f) = g s) (f : Cell → Cell)
    (cs : List (BitVec 9)) (s : State) : g (cs.foldl (fun s c => s.updAt c f) s) = g s :=
  foldl_keeps g (fun t c => keep t c f) cs s

theorem unsplit_split (die : BitVec 1) (y : Saved) : (unsplit die y).split ≠ some die := by
  unfold unsplit
  split
  · exact nofun
  · assumption

/-- What the state is once the diverted part has been copied. -/
theorem emergencyAreaFree_copied {s u : State} (scout : Bool)
    (h : copyBack s (BitVec.ofNat 1 (if scout then 1 else 0)) = some u) :
    ∃ t, exec (.emergencyAreaFree scout) s = .next t ∧
      t.pkg.emergBusy.rd (BitVec.ofNat 1 (if scout then 1 else 0)) = false ∧
      (∀ y ∈ t.tasks.saved, y.split ≠ some (BitVec.ofNat 1 (if scout then 1 else 0))) ∧ t.mem = u.mem ∧
      ∀ c, t.cellAt c = if c ∈ dieCells scout then joinCell (s.cellAt c) else s.cellAt c := by
  change ∃ t, execEmergencyAreaFree scout s = .next t ∧ _
  unfold execEmergencyAreaFree
  dsimp only
  rw [h]
  generalize BitVec.ofNat 1 (if scout then 1 else 0) = die at h ⊢
  refine ⟨_, rfl, ?_, ?_, ?_, fun c => ?_⟩ <;> unfold joinDie
  · rw [foldl_updAt_keeps (·.pkg) (fun _ _ _ => rfl)]
    exact Reg.rd_wr_same ..
  · rw [foldl_updAt_keeps (·.tasks) (fun _ _ _ => rfl)]
    intro y hy
    obtain ⟨z, -, rfl⟩ := List.mem_map.1 hy
    exact unsplit_split die z
  · exact foldl_updAt_keeps (·.mem) (fun _ _ _ => rfl) ..
  · rw [foldl_updAt joinCell_joinCell]
    simp only [State.cellAt, copyBack_cells h]

/-! ### Parked tasks, cleared cells (R50, R221) -/

theorem parkRelease_releases (s : State) (uid : Nat) :
    ∃ t, exec (.parkRelease uid) s = .next t ∧ (∀ y ∈ t.tasks.saved, y.gang = uid → y.parked = false) ∧
      t.tasks.saved.map (·.image) = s.tasks.saved.map (·.image) ∧ t.cells = s.cells ∧ t.mem = s.mem := by
  refine ⟨_, rfl, fun y hy own => ?_, ?_, rfl, rfl⟩
  · obtain ⟨z, -, rfl⟩ := List.mem_map.1 hy
    split at own
    · simp [*]
    · next other => exact absurd own other
  · dsimp only
    rw [List.map_map]
    refine List.map_congr_left fun y _ => ?_
    simp only [Function.comp_apply]
    split <;> rfl

theorem cellClearDone_clears {s : State} {c : BitVec 9} (idle : cellIdle s c = true) (bound : (s.cellAt c).bound ≠ none) :
    ∃ t, exec (.cellClearDone c) s = .next t ∧ (t.cellAt c).bound = none ∧ (t.cellAt c).pad = [] ∧
      (t.cellAt c).regs = Regs.reset ∧ (t.cellAt c).mx = Matrix.reset := by
  have run : execCellClearDone c s = .next ((l1Empty s c).updAt c clearCell) :=
    if_pos (by rw [idle, Option.isSome_iff_ne_none.2 bound]; rfl)
  refine ⟨_, run, ?_⟩
  rw [State.updAt_cellAt]
  exact ⟨rfl, rfl, rfl, rfl⟩

theorem cellClearDone_running {s : State} {c : BitVec 9} (h : (s.cellAt c).running = true) :
    exec (.cellClearDone c) s = .next s :=
  if_neg (by simp [cellIdle, h])

/-! ### The end of a CARVE (R54) -/

/-- A member's cell once it has the split. -/
def carved (n : BitVec 4) (v : BitVec 12) (gang : Nat) (x : Cell) : Cell :=
  if x.running && decide (x.task.gang = gang) then
    match x.wait with
    | .carveDone m _ => if m = n then { carveCell v x with wait := .none } else carveCell v x
    | _ => carveCell v x
  else x

theorem carveCell_lines (v : BitVec 12) (x : Cell) (l : List Line) :
    carveCell v { x with lines := l } = { carveCell v x with lines := l } := by
  unfold carveCell
  dsimp only
  split <;> rfl

theorem carved_lines (n : BitVec 4) (v : BitVec 12) (gang : Nat) (x : Cell) (l : List Line) :
    carved n v gang { x with lines := l } = { carved n v gang x with lines := l } := by
  unfold carved
  dsimp only
  rw [carveCell_lines]
  split
  · split
    · split <;> rfl
    · rfl
  · rfl

theorem carveMember_other (n : BitVec 4) (v : BitVec 12) (gang : Nat) (s : State) {c d : BitVec 9} (h : c ≠ d) :
    ((carveMember n v gang s d).cellAt c).SameButLines (s.cellAt c) := by
  have split_ : (((l1Empty s d).updAt d (carveCell v)).cellAt c).SameButLines (s.cellAt c) :=
    (updAt_sameButLines _ _ h).trans ((onlyLines_l1Empty s d).cell c)
  unfold carveMember
  dsimp only
  split
  · split
    · split
      · exact ((onlyLines_openPhase _ d _).cell c).trans ((updAt_sameButLines _ _ h).trans split_)
      · exact split_
    · exact split_
  · exact .refl _

theorem carveMember_own (n : BitVec 4) (v : BitVec 12) (gang : Nat) (s : State) (c : BitVec 9) :
    ((carveMember n v gang s c).cellAt c).SameButLines (carved n v gang (s.cellAt c)) := by
  have split_ : (((l1Empty s c).updAt c (carveCell v)).cellAt c).SameButLines (carveCell v (s.cellAt c)) := by
    rw [State.updAt_cellAt]
    exact ((onlyLines_l1Empty s c).cell c).map (carveCell_lines v)
  unfold carveMember carved
  dsimp only
  split
  · cases (s.cellAt c).wait with
    | carveDone m sc =>
      dsimp only
      split
      · refine ((onlyLines_openPhase _ c _).cell c).trans ?_
        rw [State.updAt_cellAt]
        exact split_.map (f := fun y => { y with wait := .none }) fun _ _ => rfl
      · exact split_
    | _ => exact split_
  · exact .refl _

theorem carveMember_tasks (n : BitVec 4) (v : BitVec 12) (gang : Nat) (s : State) (c : BitVec 9) :
    (carveMember n v gang s c).tasks = s.tasks := by
  have split_ : ((l1Empty s c).updAt c (carveCell v)).tasks = s.tasks := (onlyLines_l1Empty s c).tasks
  unfold carveMember
  dsimp only
  split
  · split
    · split
      · exact ((onlyLines_openPhase _ c _).tasks).trans split_
      · exact split_
    · exact split_
  · rfl

/-- What a split does to the scratchpad: what lies beyond either size reads zero. -/
theorem carveCell_pad {v : BitVec 12} {x : Cell} {b : Binding} (h : x.bound = some b) (a : Nat) :
    (carveCell v x).pad.rd a =
      if min b.spr.toNat (v.toNat % 64) * 32768 ≤ a ∧ a < 2 ^ 21 then 0 else x.pad.rd a := by
  have kept := SMap.get_filter 0 (fun k => decide (k < min b.spr.toNat (v.extractLsb' 0 6).toNat * Config.granule) ||
    decide (64 * Config.granule ≤ k)) x.pad a
  have size : (v.extractLsb' 0 6).toNat = v.toNat % 64 := by simp [BitVec.extractLsb'_toNat]
  rw [carveCell, h]
  refine kept.trans ?_
  rw [size, show Config.granule = 32768 from rfl]
  by_cases beyond : min b.spr.toNat (v.toNat % 64) * 32768 ≤ a ∧ a < 2 ^ 21
  · rw [if_pos beyond, if_neg (by simp; omega)]
  · rw [if_neg beyond, if_pos (by simp; omega)]
    rfl

theorem carveCell_bound {v : BitVec 12} {x : Cell} {b : Binding} (h : x.bound = some b) :
    (carveCell v x).bound = some { b with spr := v.extractLsb' 0 6, l1r := v.extractLsb' 8 4 } := by
  rw [carveCell, h]

theorem carveCell_keeps {γ : Type} (f : Cell → γ) (blind : ∀ x p b, f { x with pad := p, bound := b } = f x) (v : BitVec 12)
    (x : Cell) : f (carveCell v x) = f x := by
  unfold carveCell
  split
  · rfl
  · exact blind x _ _

/-- A member's cell but for its wait. -/
theorem carved_keeps {γ : Type} (f : Cell → γ) (blind : ∀ x w, f { x with wait := w } = f x) (n : BitVec 4) (v : BitVec 12)
    {gang : Nat} {x : Cell} (running : x.running = true) (own : x.task.gang = gang) :
    f (carved n v gang x) = f (carveCell v x) := by
  rw [carved, if_pos (by simp [running, own])]
  split
  · split
    · exact blind _ _
    · rfl
  · rfl

theorem carved_wait {n m : BitVec 4} {v : BitVec 12} {gang : Nat} {x : Cell} {sc : BitVec 4} (running : x.running = true)
    (own : x.task.gang = gang) (wait : x.wait = .carveDone m sc) :
    (carved n v gang x).wait = if m = n then .none else .carveDone m sc := by
  have kept : (carveCell v x).wait = x.wait := carveCell_keeps (·.wait) (fun _ _ _ => rfl) v x
  rw [carved, if_pos (by simp [running, own]), wait]
  dsimp only
  split
  · rfl
  · rw [kept, wait]

theorem execCarveRelease_eq {s : State} {gang : Nat} {g : Gang} {n : BitVec 4} {v : BitVec 12} {r : List (BitVec 4 × BitVec 12)}
    (found : gangOf s gang = some g) (oldest : g.carving = (n, v) :: r) :
    exec (.carveRelease gang) s = .next (g.cells.foldl (carveMember n v gang)
      (carveSaved (setGang s { g with carving := r }) gang n v)) := by
  change execCarveRelease gang s = _
  rw [execCarveRelease, found]
  dsimp only
  rw [oldest]

theorem carveRelease_none {s : State} {gang : Nat} {g : Gang} (found : gangOf s gang = some g) (empty : g.carving = []) :
    exec (.carveRelease gang) s = .next s := by
  change execCarveRelease gang s = _
  rw [execCarveRelease, found]
  dsimp only
  rw [empty]

theorem carveRelease_splits {s : State} {gang : Nat} {g : Gang} {n : BitVec 4} {v : BitVec 12}
    {r : List (BitVec 4 × BitVec 12)} (found : gangOf s gang = some g) (oldest : g.carving = (n, v) :: r) (once : g.cells.Nodup) :
    ∃ t, exec (.carveRelease gang) s = .next t ∧ (gangOf t gang).map (·.carving) = some r ∧
      (∀ c ∈ g.cells, ∀ b, (s.cellAt c).running = true → (s.cellAt c).task.gang = gang → (s.cellAt c).bound = some b →
        let y := t.cellAt c
        (∀ m sc, (s.cellAt c).wait = .carveDone m sc → y.wait = if m = n then .none else .carveDone m sc) ∧
        y.regs = (s.cellAt c).regs ∧
        y.bound = some { b with spr := v.extractLsb' 0 6, l1r := v.extractLsb' 8 4 } ∧
        ∀ a, y.pad.rd a = if min b.spr.toNat (v.toNat % 64) * 32768 ≤ a ∧ a < 2 ^ 21 then 0 else (s.cellAt c).pad.rd a) ∧
      (∀ y ∈ s.tasks.saved, y.gang = gang → ∃ z ∈ t.tasks.saved, z.gang = y.gang ∧ z.gmem = y.gmem ∧
        z.image = carveImage n (carveCell v y.image) ∧ z.landed = y.landed ++ [.carve v]) := by
  obtain rfl := gangOf_id found
  refine ⟨_, execCarveRelease_eq found oldest, ?_, fun c hc b running own bound => ?_, fun y hy own => ?_⟩
  · rw [gangOf_congr (foldl_keeps (fun t : State => t.tasks) (carveMember_tasks n v g.id) _ _)]
    exact congrArg (Option.map (·.carving)) (gangOf_setGang (g := { g with carving := r }) found)
  · have cell := foldl_cellAt_nodup (fun t d h => carveMember_other n v g.id t h) (fun t => carveMember_own n v g.id t c)
      (carved_lines n v g.id) hc once (carveSaved (setGang s { g with carving := r }) g.id n v)
    have keep {γ : Type} (f : Cell → γ) (lines : ∀ x l, f { x with lines := l } = f x)
        (wait : ∀ x w, f { x with wait := w } = f x) := (cell.of f lines).trans (carved_keeps f wait n v running own)
    refine ⟨fun m sc wait => (cell.of (·.wait) fun _ _ => rfl).trans (carved_wait running own wait), ?_, ?_, fun a => ?_⟩
    · exact (keep (·.regs) (fun _ _ => rfl) fun _ _ => rfl).trans (carveCell_keeps (·.regs) (fun _ _ _ => rfl) v _)
    · exact (keep (·.bound) (fun _ _ => rfl) fun _ _ => rfl).trans (carveCell_bound bound)
    · exact (keep (·.pad.rd a) (fun _ _ => rfl) fun _ _ => rfl).trans (carveCell_pad bound a)
  · rw [foldl_keeps (·.tasks.saved) (fun t c => congrArg (·.saved) (carveMember_tasks n v g.id t c))]
    refine ⟨_, List.mem_map_of_mem hy, ?_⟩
    rw [if_pos own]
    exact ⟨rfl, rfl, rfl, rfl⟩

end Sys2Proof.Machine
end

section
/-! PROOF of O38, part 3: a pre-emption saves a task, a restore gives it back (R196, R201, R208, R209, R303, R321). -/

namespace Sys2Proof.Machine

/-! ### The issue cycle at which a task is saved -/

theorem crPut_task (c : Cell) (n : Nat) (v : Word) : (c.crPut n v).task = c.task := by
  simp only [Cell.crPut, apply_ite Cell.task, ite_self]

theorem land_task (c : Cell) (l : Land) : (c.land l).task = c.task := by
  cases l <;> simp only [Cell.land, crPut_task]

theorem landIn_task (late : List InFlight) (c : Cell) (x : InFlight) : (c.landIn late x).task = c.task := by
  unfold Cell.landIn
  split <;> exact land_task c x.land

theorem clearTag_task (t : Option (BitVec 3)) (c : Cell) : (clearTag t c).task = c.task := by
  unfold clearTag
  split <;> rfl

theorem clearTags_task (l : List Nat) (c : Cell) :
    (l.foldl (fun c i => if bit c.pipe.untag i then clearTag (some (BitVec.ofNat 3 i)) c else c) c).task = c.task := by
  refine foldl_keeps Cell.task (fun t i => ?_) l c
  split
  · exact clearTag_task _ t
  · rfl

theorem clearDropped_task (c : Cell) : (clearDropped c).task = c.task := by
  unfold clearDropped
  split
  · rfl
  · dsimp only
    exact clearTags_task (List.range 8) c

theorem countClass_task (c : Cell) (i : BitVec 3) : (countClass c i).1.task = c.task := by
  unfold countClass
  exact (apply_ite (fun p : Cell × Bool => p.1.task) _ _ _).trans (ite_self _)

/-- One step of a count, with the counting taken as a whole. -/
theorem counted_task {p r : Cell × Bool} (one : r.1.task = p.1.task) (b : Bool) :
    (if b then (r.1, p.2 || r.2) else p).1.task = p.1.task := by
  split
  · exact one
  · rfl

theorem countEvents_task (c : Cell) (ev : BitVec 8) : (countEvents c ev).1.task = c.task :=
  foldl_keeps (fun p : Cell × Bool => p.1.task)
    (fun p i => counted_task (countClass_task p.1 (BitVec.ofNat 3 i)) (bit ev i)) (List.range 8) (c, false)

theorem countDue_task (ev : InFlight → BitVec 8) (l : List InFlight) (p : Cell × Bool) :
    (l.foldl (fun p x => ((countEvents p.1 (ev x)).1, p.2 || (countEvents p.1 (ev x)).2)) p).1.task = p.1.task :=
  foldl_keeps (fun p : Cell × Bool => p.1.task) (fun p x => counted_task (countEvents_task p.1 (ev x)) true) l p

theorem keepFired_task (m : Word) (c : Cell) : (keepFired m c).task = c.task := by
  unfold keepFired
  split <;> rfl

theorem endAccess_task (a : Access) (c : Cell) : (endAccess a c).task = c.task := clearTag_task a.tag c

/-- A cycle leaves the task on its cell. -/
theorem tick_task (c : Cell) : c.tick.1.task = c.task := by
  unfold Cell.tick
  dsimp only
  rw [foldl_keeps Cell.task (fun t a => endAccess_task a t), keepFired_task]
  refine (countDue_task _ _ _).trans ?_
  exact (foldl_keeps Cell.task (landIn_task _) _ _).trans (clearDropped_task _)

theorem tickAt_cell (s : State) (c : BitVec 9) : (s.tickAt c).cellAt c = (s.cellAt c).tick.1 := by
  unfold State.tickAt
  dsimp only
  split <;> exact Reg.rd_wr_same ..

theorem tickAt_tasks (s : State) (c : BitVec 9) : (s.tickAt c).tasks = s.tasks := by
  unfold State.tickAt
  dsimp only
  split <;> rfl

theorem issueCycle_task (s : State) (c : BitVec 9) :
    ((issueCycle s c).cellAt c).task = (s.cellAt c).task ∧ (issueCycle s c).tasks = s.tasks := by
  unfold issueCycle
  split
  · exact ⟨by rw [State.updAt_cellAt], rfl⟩
  · exact ⟨by rw [tickAt_cell, tick_task], tickAt_tasks s c⟩

theorem drainFlight_task (f : Nat) (s : State) (c : BitVec 9) :
    ((drainFlight f s c).cellAt c).task = (s.cellAt c).task ∧ (drainFlight f s c).tasks = s.tasks := by
  induction f generalizing s with
  | zero => exact ⟨rfl, rfl⟩
  | succ f ih =>
    unfold drainFlight
    split
    · exact ⟨rfl, rfl⟩
    · obtain ⟨cell, tasks⟩ := ih (s.tickAt c)
      exact ⟨by rw [cell, tickAt_cell, tick_task], tasks.trans (tickAt_tasks s c)⟩

theorem settleFlight_task (s : State) (c : BitVec 9) :
    ((settleFlight s c).cellAt c).task = (s.cellAt c).task ∧ (settleFlight s c).tasks = s.tasks := by
  unfold settleFlight
  split
  · exact drainFlight_task 32 s c
  · obtain ⟨cell, tasks⟩ := issueCycle_task s c
    exact ⟨by rw [State.updAt_cellAt]; exact cell, tasks⟩

/-- A cell with nothing due keeps all but the ages of what it waits for, and the late results of the last cycle. -/
def aged (x : Cell) : Cell :=
  { x with pipe := { x.pipe with
      late := [], flight := x.pipe.flight.map fun y => { y with age := y.age + 1 }
      accs := x.pipe.accs.map fun a => { a with age := a.age + 1 } } }

theorem tick_idle {x : Cell} (flight : x.pipe.inflight = []) (soon : ∀ a ∈ x.pipe.accs, a.soon = true → a.age < 5)
    (untag : x.pipe.untag = 0) : x.tick.1 = aged x := by
  have none_ : x.pipe.accs.filter Access.over = [] := List.filter_eq_nil_iff.2 fun a ha due => by
    simp only [Access.over, Bool.and_eq_true, decide_eq_true_eq] at due
    have := soon a ha due.1
    omega
  have order : landOrder [] = [] := rfl
  simp [Cell.tick, none_, flight, order, clearDropped, untag, keepFired, writtenFired, aged]

/-- What the boundary of a save leaves of a cell with nothing in flight. -/
structure Settled (x y : Cell) : Prop where
  cell : y = { x with pipe := y.pipe, lines := y.lines }
  pc : y.pipe.pc = x.pipe.pc
  pend : y.pipe.pend = x.pipe.pend
  accs : y.pipe.accs.map (·.id) = x.pipe.accs.map (·.id)
  inner : y.pipe.inner = x.pipe.inner
  outer : y.pipe.outer = x.pipe.outer
  rest : y.pipe.rest = x.pipe.rest

theorem settleFlight_settled {s : State} {c : BitVec 9} (user : (s.cellAt c).sup = false)
    (flight : (s.cellAt c).pipe.inflight = []) (soon : ∀ a ∈ (s.cellAt c).pipe.accs, a.soon = true → a.age < 5)
    (untag : (s.cellAt c).pipe.untag = 0) : Settled (s.cellAt c) ((settleFlight s c).cellAt c) := by
  rw [settleFlight, user, if_neg (by simp), State.updAt_cellAt, issueCycle]
  split
  · rw [State.updAt_cellAt]
    exact ⟨rfl, rfl, rfl, rfl, rfl, rfl, rfl⟩
  · rw [tickAt_cell, tick_idle flight soon untag]
    exact ⟨rfl, rfl, rfl, by simp [aged, Function.comp_def], rfl, rfl, rfl⟩

theorem settleFlight_emerg {s : State} {c : BitVec 9} (user : (s.cellAt c).sup = false) :
    (settleFlight s c).pkg.emergBusy = s.pkg.emergBusy := by
  rw [settleFlight, user, if_neg (by simp), State.updAt_pkg, issueCycle]
  split
  · rfl
  · unfold State.tickAt
    dsimp only
    split <;> rfl

/-! ### The saved task and its cell -/

/-- The entry of a saved task. -/
def savedTask (s : State) (c : BitVec 9) (parked : Bool) (cur : Word) (split : Option (BitVec 1)) : Saved :=
  { gang := (s.cellAt c).task.gang, gmem := (s.cellAt c).task.gmem, image := imageOf s c cur, at_ := c, landed := []
    padLen := padBytes (s.cellAt c), parked := parked, split := split, cell := none }

/-- The cell that a saved task has left. -/
def leftCell (cur : Word) (x : Cell) : Cell := { clearCell x with tr := { (clearCell x).tr with savecur := cur } }

theorem savedOn_books (s : State) (c : BitVec 9) (parked : Bool) (cur : Word) (split : Option (BitVec 1)) :
    (savedOn s c parked cur split).tasks.saved = s.tasks.saved ++ [savedTask s c parked cur split] ∧
      (savedOn s c parked cur split).tasks.preempt = s.tasks.preempt.filter (fun d => decide (d ≠ c)) ∧
      (savedOn s c parked cur split).cellAt c = leftCell cur (s.cellAt c) := by
  unfold savedOn
  dsimp only
  have left := State.updAt_cellAt s c (leftCell cur)
  split <;> exact ⟨rfl, rfl, left⟩

/-- The machine once the rest of a save has gone to the emergency area (R212). -/
def diverted (s : State) (c : BitVec 9) (die : BitVec 1) (off : Nat) (bs : List Byte) : State :=
  { s.store (Config.emergBase (isScout c) + off) (bs.drop off) with
    pkg := { s.pkg with emergBusy := s.pkg.emergBusy.wr die true, emergOwner := s.pkg.emergOwner.wr die c } }

/-- A save either waits for a busy emergency area or puts the task in the list, with the books and cells that it finds. -/
theorem saveCell_saves (s0 s : State) (c : BitVec 9) (parked : Bool) :
    saveCell s0 s c parked = awaitArea s0 c ∧ s.pkg.emergBusy.rd (BitVec.ofNat 1 (if isScout c then 1 else 0)) = true ∨
    ∃ u cur split, u.cells = s.cells ∧ u.tasks = s.tasks ∧
      (saveCell s0 s c parked).tasks = (savedOn u c parked cur split).tasks ∧
      (saveCell s0 s c parked).cells = (savedOn u c parked cur split).cells := by
  unfold saveCell
  dsimp only
  have run := saveRun_onlyLines (s.cellAt c).task.ctx (s.cellAt c).tr.savea.toNat (s.cellAt c).tr.savel.toNat
  generalize saveBytes s.steps _ (s.cellAt c) = bs
  generalize BitVec.ofNat 1 (if isScout c then 1 else 0) = die
  have kept := run (bs.length / 4096 + 1) 0 bs s
  generalize saveRun _ _ _ _ 0 bs s = p at kept ⊢
  obtain ⟨s1, o⟩ := p
  obtain ⟨cells, tasks, -⟩ := kept
  cases o with
  | none => exact .inr ⟨s1, 0, none, cells, tasks, rfl, rfl⟩
  | some q =>
    obtain ⟨off, ovf⟩ := q
    dsimp only
    cases busy : s.pkg.emergBusy.rd die with
    | true => exact .inl ⟨rfl, rfl⟩
    | false =>
      refine .inr ⟨diverted s1 c die off bs, saveCur off ovf, some die, (State.store_cells ..).trans cells,
        (State.store_tasks ..).trans tasks, ?_⟩
      cases ovf <;> exact ⟨rfl, rfl⟩

/-- The machine at the boundary at which a task is saved. -/
def atSave (s : State) (c : BitVec 9) : State := settleFlight (l1Empty (markVictim s c) c) c

theorem onlyLines_atSave (s : State) (c : BitVec 9) : OnlyLines (markVictim s c) (l1Empty (markVictim s c) c) :=
  onlyLines_l1Empty _ c

theorem atSave_saved (s : State) (c : BitVec 9) : (atSave s c).tasks.saved = s.tasks.saved :=
  congrArg (·.saved) ((settleFlight_task _ c).2.trans (onlyLines_atSave s c).tasks)

theorem atSave_gang (s : State) (c : BitVec 9) : ((atSave s c).cellAt c).task = (s.cellAt c).task :=
  (settleFlight_task _ c).1.trans (((onlyLines_atSave s c).cell c).of (·.task) fun _ _ => rfl)

theorem Settled.lines {x y z : Cell} (h : Settled x z) (e : x.SameButLines y) : Settled y z where
  cell := by rw [h.cell, e]
  pc := h.pc.trans (e.of (·.pipe.pc) fun _ _ => rfl)
  pend := h.pend.trans (e.of (·.pipe.pend) fun _ _ => rfl)
  accs := h.accs.trans (e.of (·.pipe.accs.map (·.id)) fun _ _ => rfl)
  inner := h.inner.trans (e.of (·.pipe.inner) fun _ _ => rfl)
  outer := h.outer.trans (e.of (·.pipe.outer) fun _ _ => rfl)
  rest := h.rest.trans (e.of (·.pipe.rest) fun _ _ => rfl)

theorem atSave_settled {s : State} {c : BitVec 9} (user : (s.cellAt c).sup = false)
    (flight : (s.cellAt c).pipe.inflight = []) (soon : ∀ a ∈ (s.cellAt c).pipe.accs, a.soon = true → a.age < 5)
    (untag : (s.cellAt c).pipe.untag = 0) : Settled (s.cellAt c) ((atSave s c).cellAt c) := by
  have same : ((l1Empty (markVictim s c) c).cellAt c).SameButLines (s.cellAt c) := (onlyLines_atSave s c).cell c
  have pipe := same.of (·.pipe) fun _ _ => rfl
  refine (settleFlight_settled ?_ ?_ ?_ ?_).lines same
  · exact (same.of Cell.sup fun _ _ => rfl).trans user
  · rw [pipe, flight]
  · rw [pipe]
    exact soon
  · rw [pipe, untag]

theorem atSave_emerg {s : State} {c : BitVec 9} (user : (s.cellAt c).sup = false) :
    (atSave s c).pkg.emergBusy = s.pkg.emergBusy := by
  have same : ((l1Empty (markVictim s c) c).cellAt c).SameButLines (s.cellAt c) := (onlyLines_atSave s c).cell c
  refine (settleFlight_emerg ((same.of Cell.sup fun _ _ => rfl).trans user)).trans ?_
  exact congrArg (·.emergBusy) (onlyLines_atSave s c).pkg

/-! ### When a pre-emption acts -/

theorem preemption_stays {s : State} {c : BitVec 9}
    (h : (s.cellAt c).running = false ∨ (c ∉ s.tasks.preempt ∧ (s.cellAt c).wait ≠ .park) ∨ (s.cellAt c).mx.run ≠ none ∨
      (s.cellAt c).mx.queue.any (begun s) = true ∨ (s.cellAt c).wait = .ending ∨ answerHolds s c = true) :
    exec (.preemption c) s = .next s := by
  refine if_pos ?_
  obtain h | ⟨h, h'⟩ | h | h | h | h := h
  · simp [h]
  · simp [h, h']
  · simp [Option.isSome_iff_ne_none.2 h]
  · simp [h]
  · simp [h]
  · simp [h]

theorem preemption_goes {s : State} {c : BitVec 9} (running : (s.cellAt c).running = true)
    (marked : c ∈ s.tasks.preempt) (run : (s.cellAt c).mx.run = none) (storing : (s.cellAt c).mx.queue.any (begun s) = false)
    (ends : (s.cellAt c).wait ≠ .ending) (holds : answerHolds s c = false) :
    exec (.preemption c) s = if (pendingEvent (withdraw s c) c).isSome then .next (withdraw s c)
      else .next (saveCell (withdraw s c) (atSave (withdraw s c) c) c (decide ((s.cellAt c).wait = .park))) :=
  if_neg (by simp [running, marked, run, storing, ends, holds])

theorem withdraw_id {s : State} {c : BitVec 9} (h : (s.cellAt c).wait = .none ∨ (s.cellAt c).wait = .park) :
    withdraw s c = s := by
  unfold withdraw
  obtain h | h := h <;> rw [h]

theorem answerHolds_wait {s : State} {c : BitVec 9} (h : ∀ g a, (s.cellAt c).wait ≠ .accbDone g a) :
    answerHolds s c = false := by
  have no : answered (s.cellAt c) = false := by
    unfold answered
    split
    · next g a e => exact absurd e (h g a)
    · rfl
  simp [answerHolds, no]

theorem preemption_pending {s : State} {c : BitVec 9} (h : (s.cellAt c).wait = .none ∨ (s.cellAt c).wait = .park)
    (event : pendingEvent s c ≠ none) : exec (.preemption c) s = .next s := by
  change execPreemption c s = _
  unfold execPreemption
  dsimp only
  rw [withdraw_id h, Option.isSome_iff_ne_none.2 event]
  split <;> rfl

theorem preemption_saves {s : State} {c : BitVec 9} (running : (s.cellAt c).running = true)
    (marked : c ∈ s.tasks.preempt) (run : (s.cellAt c).mx.run = none) (storing : (s.cellAt c).mx.queue.any (begun s) = false)
    (wait : (s.cellAt c).wait = .none) (event : pendingEvent s c = none) :
    exec (.preemption c) s = .next (saveCell s (atSave s c) c false) := by
  rw [preemption_goes running marked run storing (by rw [wait]; exact nofun)
    (answerHolds_wait fun _ _ => by rw [wait]; exact nofun), withdraw_id (.inl wait), event, wait]
  rfl

/-- A waiting ACCB is withdrawn before an event (R196, R321). -/
theorem preemption_withdraws {s : State} {c : BitVec 9} (running : (s.cellAt c).running = true)
    (marked : c ∈ s.tasks.preempt) (run : (s.cellAt c).mx.run = none) (storing : (s.cellAt c).mx.queue.any (begun s) = false)
    (wait : (∃ g, (s.cellAt c).wait = .accb g) ∨ ((∃ g a, (s.cellAt c).wait = .accbDone g a) ∧ answerHolds s c = false))
    (event : pendingEvent (withdraw s c) c ≠ none) :
    exec (.preemption c) s = .next (withdraw s c) ∧ ((withdraw s c).cellAt c).wait = .none ∧
      ((withdraw s c).cellAt c).regs = (s.cellAt c).regs ∧ ((withdraw s c).cellAt c).pipe = (s.cellAt c).pipe := by
  have goes : (s.cellAt c).wait ≠ .ending → answerHolds s c = false → exec (.preemption c) s = .next (withdraw s c) :=
    fun ends holds => by
      rw [preemption_goes running marked run storing ends holds, if_pos (Option.isSome_iff_ne_none.2 event)]
  have cell : (withdraw s c).cellAt c = { s.cellAt c with wait := .none } := by
    have own := State.updAt_cellAt s c fun x => { x with wait := .none }
    unfold withdraw
    obtain ⟨g, e⟩ | ⟨⟨g, a, e⟩, -⟩ := wait <;> simp only [e] <;> exact own
  refine ⟨?_, by rw [cell], by rw [cell], by rw [cell]⟩
  obtain ⟨g, e⟩ | ⟨⟨g, a, e⟩, holds⟩ := wait
  · exact goes (by rw [e]; exact nofun) (answerHolds_wait fun _ _ => by rw [e]; exact nofun)
  · exact goes (by rw [e]; exact nofun) holds

/-! ### What a pre-emption saves -/

/-- What the image of a saved task has of the cell that it leaves. -/
structure ImageOf (x y : Cell) : Prop where
  regs : y.regs = x.regs
  pad : y.pad = x.pad
  task : y.task = x.task
  mx : y.mx = x.mx
  entry : y.entry = x.entry
  nx : y.nx = x.nx
  pc : y.pipe.pc = x.pipe.pc
  pend : y.pipe.pend = x.pipe.pend
  accs : y.pipe.accs.map (·.id) = x.pipe.accs.map (·.id)
  inner : y.pipe.inner = x.pipe.inner
  outer : y.pipe.outer = x.pipe.outer
  tvec : y.tr.tvec = x.tr.tvec
  region : y.region = none
  polled : y.pipe.polled = none
  asked : y.pipe.asked = none
  got : y.pipe.got = none
  expired : y.pipe.expired = false
  rest : y.pipe.rest = x.pipe.rest
  late : y.pipe.late = []

theorem imageOf_settled {s : State} {c : BitVec 9} {x : Cell} (h : Settled x (s.cellAt c)) (cur : Word) :
    ImageOf x (imageOf s c cur) := by
  unfold imageOf
  rw [h.cell]
  exact ⟨rfl, rfl, rfl, rfl, rfl, rfl, h.pc, h.pend, h.accs, h.inner, h.outer, rfl, rfl, rfl, rfl, rfl, rfl, h.rest, rfl⟩

theorem preemption_image {s : State} {c : BitVec 9} (running : (s.cellAt c).running = true)
    (marked : c ∈ s.tasks.preempt) (run : (s.cellAt c).mx.run = none) (storing : (s.cellAt c).mx.queue.any (begun s) = false)
    (user : (s.cellAt c).sup = false) (wait : (s.cellAt c).wait = .none) (flight : (s.cellAt c).pipe.inflight = [])
    (soon : ∀ a ∈ (s.cellAt c).pipe.accs, a.soon = true → a.age < 5) (untag : (s.cellAt c).pipe.untag = 0)
    (event : pendingEvent s c = none) (emerg : s.pkg.emergBusy.rd (if isScout c then 1 else 0) = false) :
    ∃ t y, exec (.preemption c) s = .next t ∧ t.tasks.saved = s.tasks.saved ++ [y] ∧ y.gang = (s.cellAt c).task.gang ∧
      y.gmem = (s.cellAt c).task.gmem ∧ y.parked = false ∧ y.cell = none ∧ y.landed = [] ∧ ImageOf (s.cellAt c) y.image ∧
      (∃ z cur, t.cellAt c = leftCell cur z) ∧ c ∉ t.tasks.preempt := by
  have task := atSave_gang s c
  obtain ⟨-, busy⟩ | ⟨u, cur, split, cells, tasks, books, left⟩ := saveCell_saves s (atSave s c) c false
  · rw [atSave_emerg user] at busy
    have die : BitVec.ofNat 1 (if isScout c then 1 else 0) = if isScout c then 1 else 0 := by split <;> rfl
    rw [die, emerg] at busy
    cases busy
  · obtain ⟨saved, preempt, cell⟩ := savedOn_books u c false cur split
    have same : u.cellAt c = (atSave s c).cellAt c := by rw [State.cellAt, cells]; rfl
    refine ⟨_, savedTask u c false cur split, preemption_saves running marked run storing wait event, ?_, ?_, ?_, rfl, rfl, rfl,
      ?_, ⟨u.cellAt c, cur, ?_⟩, ?_⟩
    · rw [books, saved, tasks, atSave_saved]
    · rw [savedTask, same, task]
    · rw [savedTask, same, task]
    · exact imageOf_settled (same ▸ atSave_settled user flight soon untag) cur
    · rw [State.cellAt, left]
      exact cell
    · rw [books, preempt]
      simp

/-- In any case the task joins the saved ones or waits for the emergency area. -/
theorem preemption_joins {s : State} {c : BitVec 9} (running : (s.cellAt c).running = true)
    (marked : c ∈ s.tasks.preempt) (run : (s.cellAt c).mx.run = none) (storing : (s.cellAt c).mx.queue.any (begun s) = false)
    (wait : (s.cellAt c).wait = .none) (event : pendingEvent s c = none) :
    ∃ t, exec (.preemption c) s = .next t ∧
      (t = awaitArea s c ∨ t.tasks.saved.map (·.gang) = s.tasks.saved.map (·.gang) ++ [(s.cellAt c).task.gang]) := by
  refine ⟨_, preemption_saves running marked run storing wait event, ?_⟩
  obtain ⟨waits, -⟩ | ⟨u, cur, split, cells, tasks, books, -⟩ := saveCell_saves s (atSave s c) c false
  · exact .inl waits
  · have same : u.cellAt c = (atSave s c).cellAt c := by rw [State.cellAt, cells]; rfl
    refine .inr ?_
    rw [books, (savedOn_books u c false cur split).1, tasks, atSave_saved, List.map_append, List.map_singleton, savedTask, same,
      atSave_gang]

/-! ### Restore -/

theorem setStage_saved (s : State) (id : Nat) (k : BitVec 4) (q : StageSt) :
    (setStage s id k q).tasks.saved = s.tasks.saved := by
  unfold setStage
  split <;> rfl

theorem resetCredits_saved (s : State) (scout : Bool) : (resetCredits s scout).tasks.saved = s.tasks.saved := by
  unfold resetCredits
  refine foldl_keeps (fun t : State => t.tasks.saved) (fun t x => ?_) _ s
  split
  · rfl
  · unfold setCredit
    split
    · rfl
    · exact setStage_saved t _ _ _

/-- The L1 of an emptied cell holds no line. -/
theorem l1Empty_lines (s : State) (c : BitVec 9) : ((l1Empty s c).cellAt c).lines = [] := by
  unfold l1Empty
  dsimp only
  rw [State.cellAt, State.flush_cells]
  exact congrArg Cell.lines (State.updAt_cellAt ..)

theorem taskRestore_waits {s : State} {c : BitVec 9} {y : Saved}
    (found : s.tasks.saved.find? (fun z => decide (z.cell = some c)) = some y)
    (h : (∃ a ∈ y.image.pipe.accs, a.lands ≠ []) ∨ areaContext s y = none) : exec (.taskRestore c) s = .next s := by
  change execTaskRestore c s = _
  rw [execTaskRestore, found]
  dsimp only
  split
  · rfl
  · next idle =>
    obtain ⟨a, ha, lands⟩ | none_ := h
    · exact absurd (List.any_eq_true.2 ⟨a, ha, decide_eq_true lands⟩) idle
    · rw [none_]

/-- The machine once the task has its context on the cell again. -/
def reloaded (s : State) (c : BitVec 9) (y : Saved) (x : Cell) : State :=
  l1Empty (dropSaved (s.updAt c (restored x)) y) c

theorem taskRestore_reloads {s : State} {c : BitVec 9} {y : Saved} {x : Cell}
    (found : s.tasks.saved.find? (fun z => decide (z.cell = some c)) = some y)
    (landed : ∀ a ∈ y.image.pipe.accs, a.lands = []) (area : areaContext s y = some x) :
    ∃ t u, exec (.taskRestore c) s = .next t ∧ u = { reloaded s c y x with pkg := u.pkg } ∧ t = resetCredits u (isScout c) := by
  have none_ : y.image.pipe.accs.any (fun a => decide (a.lands ≠ [])) = false :=
    List.any_eq_false.2 fun a ha => by simp [landed a ha]
  have run : execTaskRestore c s = .next (resetCredits
      (if y.image.tr.fpstat = 3 then
        { reloaded s c y x with pkg := { (reloaded s c y x).pkg with fastPath := (reloaded s c y x).pkg.fastPath ++ [c] } }
      else reloaded s c y x) (isScout c)) := by
    rw [execTaskRestore, found]
    dsimp only
    rw [none_, area]
    rfl
  refine ⟨_, _, run, ?_, rfl⟩
  split <;> rfl

theorem restored_lines (im old : Cell) : (restored im old).lines = old.lines := by
  rw [restored]

theorem reloaded_wroteBack (s : State) (c : BitVec 9) (y : Saved) (x : Cell) : WroteBack s (reloaded s c y x) := by
  have came : WroteBack s (s.updAt c (restored x)) := wroteBack_updAt s c fun z l hl _ => by rwa [restored_lines] at hl
  have moved : WroteBack s (dropSaved (s.updAt c (restored x)) y) := came.trans (.of_cells rfl rfl rfl rfl)
  exact moved.trans (wroteBack_l1Empty _ c)

theorem taskRestore_restores {s : State} {c : BitVec 9} {y : Saved} {im : Cell}
    (found : s.tasks.saved.find? (fun z => decide (z.cell = some c)) = some y)
    (landed : ∀ a ∈ y.image.pipe.accs, a.lands = []) (area : areaContext s y = some im) :
    ∃ t, exec (.taskRestore c) s = .next t ∧
      (t.cellAt c).regs = im.regs ∧ (t.cellAt c).pad = im.pad ∧ (t.cellAt c).pipe = im.pipe ∧
      (t.cellAt c).task = im.task ∧ (t.cellAt c).mx = im.mx ∧ (t.cellAt c).tr.savecur = im.tr.savecur ∧
      (t.cellAt c).tr.status = im.tr.status ∧ (t.cellAt c).lines = [] ∧ (t.cellAt c).icache = [] ∧ y ∉ t.tasks.saved ∧
      (∀ a, t.mem.rd a = s.mem.rd a ∨ ∃ d, ∃ l ∈ (s.cellAt d).lines,
        l.tag ≤ a ∧ l.dirty.getLsbD (a - l.tag) = true ∧ t.mem.rd a = byteAt l.data (a - l.tag)) ∧
      (∀ d, d ≠ c → t.cellAt d = { s.cellAt d with lines := (t.cellAt d).lines }) := by
  obtain ⟨t, u, run, pkg, rfl⟩ := taskRestore_reloads found landed area
  have books : resetCredits u (isScout c) = { u with tasks := (resetCredits u (isScout c)).tasks } :=
    tasksOnly_resetCredits u _
  have emptied := onlyLines_l1Empty (dropSaved (s.updAt c (restored im)) y) c
  have cells : ∀ d, (resetCredits u (isScout c)).cellAt d = (reloaded s c y im).cellAt d := fun d => by rw [books, pkg]; rfl
  have own : ((reloaded s c y im).cellAt c).SameButLines (restored im (s.cellAt c)) := by
    refine (emptied.cell c).trans ?_
    exact (State.updAt_cellAt s c (restored im)) ▸ .refl _
  have saved : (resetCredits u (isScout c)).tasks.saved = (dropSaved (s.updAt c (restored im)) y).tasks.saved := by
    rw [resetCredits_saved, pkg]
    exact congrArg (·.saved) emptied.tasks
  refine ⟨_, run, ?_, ?_, ?_, ?_, ?_, ?_, ?_, ?_, ?_, ?_, fun a => ?_, fun d other => ?_⟩
  · rw [cells]; exact own.of (·.regs) fun _ _ => rfl
  · rw [cells]; exact own.of (·.pad) fun _ _ => rfl
  · rw [cells]; exact own.of (·.pipe) fun _ _ => rfl
  · rw [cells]; exact own.of (·.task) fun _ _ => rfl
  · rw [cells]; exact own.of (·.mx) fun _ _ => rfl
  · rw [cells]; exact own.of (·.tr.savecur) fun _ _ => rfl
  · rw [cells]; exact own.of (·.tr.status) fun _ _ => rfl
  · rw [cells]; exact l1Empty_lines _ c
  · rw [cells]; exact own.of (·.icache) fun _ _ => rfl
  · rw [saved]
    exact fun h => by simpa [dropSaved] using (List.mem_filter.1 h).2
  · have mem : (resetCredits u (isScout c)).mem = (reloaded s c y im).mem := by rw [books, pkg]
    rw [mem]
    exact (reloaded_wroteBack s c y im).mem a
  · rw [cells]
    refine (emptied.cell d).trans ?_
    exact updAt_sameButLines s (restored im) other

/-- What reaches a saved task once its area has been read is applied again at the restore (R209). -/
theorem areaContext_landed {s : State} {y : Saved} {l : List Redirected} {im : Cell} (h : areaContext s y = some im) :
    areaContext s { y with landed := y.landed ++ l } = some (l.foldl Redirected.apply im) := by
  obtain ⟨bs, read, rfl⟩ := Option.map_eq_some_iff.1 h
  rw [← List.foldl_append]
  exact congrArg (Option.map _) read

theorem redirectTo_saved {s : State} {y : Saved} (hy : y ∈ s.tasks.saved) (l : List Redirected) :
    ∃ z ∈ (redirectTo s y.gang y.gmem l).tasks.saved,
      z = { y with image := z.image, landed := y.landed ++ l } ∧ z.image = l.foldl Redirected.apply y.image := by
  refine ⟨y.redirect l, ?_, rfl, rfl⟩
  have mem := List.mem_map_of_mem (f := fun z => if z.gang = y.gang ∧ z.gmem = y.gmem then z.redirect l else z) hy
  rwa [if_pos ⟨rfl, rfl⟩] at mem

/-! ### The whole -/

/-- Settles O38: pre-emption and restore from this part, the save area from its support, the services from part 2. -/
theorem savedTasksAndServices : Obligations.SavedTasksAndServices := by
  unfold Obligations.SavedTasksAndServices
  refine ⟨fun s c => ?_, loadContext_saveBytes, fun s => ⟨fun scout => ?_, parkRelease_releases s, fun c => ?_, ?_, ?_⟩⟩
  · dsimp only
    refine ⟨?_, ?_, ⟨rfl, rfl, ?_⟩, fun saving => ⟨?_, ?_⟩, ?_, ?_, fun y found => ⟨?_, taskRestore_waits found⟩, ?_, ?_⟩
    · intro running marked run storing user wait flight soon untag event emerg
      obtain ⟨t, y, ran, saved, gang, gmem, parked, cell, landed, image, ⟨z, cur, left⟩, unmarked⟩ :=
        preemption_image running marked run storing user wait flight soon untag event emerg
      exact ⟨t, y, ran, saved, gang, gmem, parked, cell, image.regs, image.pad, image.task, image.mx, image.entry, image.nx,
        image.pc, image.pend, image.accs, image.inner, image.outer, image.tvec, image.region, image.polled, image.asked,
        image.got, image.expired, image.rest, image.late, landed, by rw [left]; rfl, by rw [left]; rfl, by rw [left]; rfl,
        by rw [left]; rfl, by rw [left]; rfl, unmarked⟩
    · exact fun running marked run storing wait event => preemption_joins running marked run storing wait event
    · simp [awaitArea]
    · simp [cellTurn, saving]
    · simp [pendingEvent, saving]
    · rintro (h | h | h | h | h | h | ⟨wait, event⟩)
      · exact preemption_stays (.inl h)
      · exact preemption_stays (.inr (.inl h))
      · exact preemption_stays (.inr (.inr (.inl h)))
      · exact preemption_stays (.inr (.inr (.inr (.inl h))))
      · exact preemption_stays (.inr (.inr (.inr (.inr (.inl h)))))
      · exact preemption_stays (.inr (.inr (.inr (.inr (.inr h)))))
      · exact preemption_pending wait event
    · exact fun running marked run storing wait event => preemption_withdraws running marked run storing wait event
    · exact fun im landed area => taskRestore_restores found landed area
    · exact fun y l im area => areaContext_landed area
    · exact fun y hy l => redirectTo_saved hy l
  · refine ⟨fun waits => ?_, copyBack_unsplit, fun u copied => emergencyAreaFree_copied scout copied⟩
    change execEmergencyAreaFree scout s = _
    rw [execEmergencyAreaFree]
    dsimp only
    rw [waits]
  · exact ⟨cellClearDone_clears, cellClearDone_running⟩
  · exact fun gang g n v r found oldest once => carveRelease_splits found oldest once
  · exact fun gang g found empty => carveRelease_none found empty

end Sys2Proof.Machine
end

section
/-! PROOF of O56: the word of a well-formed instruction decodes to it (R69, R94, R106 to R122). -/

namespace Sys2Proof.Laws.Coding

/-- What is shown of every row of the operation table, row by row. -/
theorem statement_of_row (i : Instr) : Statement i :=
  @Instr.rec Statement add addImm sub subImm mul mulImm mulh mulhImm div divImm rem remImm and andImm or orImm xor xorImm shl
    shlImm shr shrImm sra min max cmp sel clz popc brev ext bfx bfi li lih br brc bri call calli ret loop loopx exit spawn
    spawng bar bara barcfg wait phase fence xfence carve decpl rejoin crrd crwr crset crclr trap tret brk tlbi rdtime accb
    acce accinv nop ld st ldv stv amo cas pref amov aget aadd amode aupd lea hld hst hset hget vadd vaddImm vsub vsubImm vmul
    vmulImm vfma vfmaImm vmin vminImm vmax vmaxImm vrcp vrsq vexp2 vlog2 vtanh vcvt vcmp vsel vand vandImm vor vorImm vxor
    vxorImm vshl vshlImm vshr vshrImm vmov vbcast vext vins vperm viota vred kand kor kxor kmov kpopc mla mlb mma mzero mcfg
    mstz mldz mcall msetq mfmt mcode mstore mloop mend cpy chsend chrecv chred qprop qver qres bset bget sieve tokz detok gadv
    gmask sltick slpin slget dbar engineFault grammarOverflow microFault numericLimit machineCheck stepTrap softwareTrapTaken
    variableResultLand engineCommandComplete translationWalkDone latchTransfer mmaStart mmaRetire tilePipeStart
    mcallRoutineRun dispatchDecision preemption emergencyAreaFree taskRestore parkRelease cellClearDone carveRelease
    spawnUnitEnqueue seedEnqueue launchEntryRead launchAdmit launchComplete lqtailWrite lqcfgWrite fclkWrite clockGlideEnd
    registerWrite throttleWindow fimeasClrpk packageReset frameRailOk frameBringupTimeout linkPortDown linkPortUp
    hostWriteAccept hostWritePerform hostRead reportRecord nxWindowStart efctlResume efctlAbandon fpreqWrite fastPathMapDone
    contextCreate contextDestroy contextInvalidate contextSetPool contextBadCommand quiesceAdvance quarantineRelease
    broodSnapshot roundDraftEnqueue quorumDecision sieveList outputDrain textInstallVocabulary textInstallGrammar
    textRemoveVocabulary textRemoveGrammar channelInstall channelRemove channelMessageArrival reduceResultArrival
    domainFlitReceive pderrWindow domainForm domainLeave domainRevoke tamperSensor rekeyBarrierComplete rekeyDrainTimeout
    mediaRingTailWrite mediaUeMessage mediaRecordArrival tick timeLockLoss timeRelock accordDecision accordSample accordEpoch
    accordDescriptorWrite cellAccessPerformed l1LineEviction waitTimeout mdcfgWrite peerInboundAccess rescalePhase1Result i

end Sys2Proof.Laws.Coding

namespace Sys2Proof

/-- The decoder on a word made of its parts: the candidate of its slot, where its check passes. -/
theorem decode_word {h : Header} {op : BitVec 10} {x : BitVec 50} {i : Instr} (slot : h.slot.toNat < 6)
    (candidate : decodeSlot h op.toNat x = some (some i)) (legal : i.WellFormed) : decode (h.word op x) = .ok i := by
  simp only [decode, h.parse_word, h.word_op, h.word_x, candidate, if_neg (Nat.not_le.2 slot)]
  exact if_pos legal

/-- Settles O56: what each row's word is made of, and the decoder on a word made so. -/
theorem encodingRoundTrip : Obligations.EncodingRoundTrip := by
  unfold Obligations.EncodingRoundTrip
  refine ⟨fun i => (Laws.Coding.statement_of_row i).1, fun i w legal word => ?_⟩
  obtain ⟨h, op, x, rfl, slot, candidate⟩ := (Laws.Coding.statement_of_row i).2 w legal word
  exact decode_word slot candidate legal

end Sys2Proof
end

section
/-! PROOF of O57: a word that decodes is the encoding of the instruction that it decodes to (R69, R94, R108). A format reads all
the bits of the operand field, so its parse and its bits are inverse to each other. -/

namespace Sys2Proof

/-- Two neighbouring fields of a word are one field. -/
theorem extract_append {n : Nat} (x : BitVec n) {hi lo a b : Nat} (next : hi = lo + b) :
    x.extractLsb' hi a ++ x.extractLsb' lo b = x.extractLsb' lo (a + b) := by
  subst next
  refine BitVec.eq_of_getLsbD_eq fun i bound => ?_
  rw [BitVec.getLsbD_append, BitVec.getLsbD_extractLsb', BitVec.getLsbD_extractLsb', BitVec.getLsbD_extractLsb']
  by_cases low : i < b
  · simp [low, bound]
  · have place : lo + b + (i - b) = lo + i := by omega
    have upper : i - b < a := by omega
    simp [low, bound, upper, place]

/-- A format with reserved bits reads a word in which they are 0. -/
theorem parsed_if {α : Type} {p : Prop} [Decidable p] {a o : α} (e : (if p then some a else none) = some o) : p ∧ a = o :=
  (Option.ite_none_right_eq_some.1 e).imp_right Option.some.inj

/-! ### Each format -/

theorem CR.parse_iff {x : BitVec 50} {o : CR} : CR.parse x = some o ↔ o.bits = x := by
  refine ⟨fun e => ?_, fun e => e ▸ o.parse_bits⟩
  obtain ⟨zero, rfl⟩ := parsed_if e
  simp only [CR.bits, ← zero, extract_append]
  exact field_all x

theorem CI.parse_iff {x : BitVec 50} {o : CI} : CI.parse x = some o ↔ o.bits = x := by
  refine ⟨fun e => ?_, fun e => e ▸ o.parse_bits⟩
  obtain ⟨zero, rfl⟩ := parsed_if e
  simp only [CI.bits, ← zero, extract_append]
  exact field_all x

theorem CB.parse_iff {x : BitVec 50} {o : CB} : CB.parse x = some o ↔ o.bits = x := by
  refine ⟨fun e => ?_, fun e => e ▸ o.parse_bits⟩
  obtain ⟨zero, rfl⟩ := parsed_if e
  simp only [CB.bits, ← zero, extract_append]
  exact field_all x

theorem CL.parse_iff {x : BitVec 50} {o : CL} : CL.parse x = some o ↔ o.bits = x := by
  refine ⟨fun e => ?_, fun e => e ▸ o.parse_bits⟩
  obtain ⟨zero, rfl⟩ := parsed_if e
  simp only [CL.bits, ← zero, extract_append]
  exact field_all x

theorem CS.parse_iff {x : BitVec 50} {o : CS} : CS.parse x = some o ↔ o.bits = x := by
  refine ⟨fun e => ?_, fun e => e ▸ o.parse_bits⟩
  obtain rfl := Option.some.inj e
  simp only [CS.bits, extract_append]
  exact field_all x

theorem AM.parse_iff {x : BitVec 50} {o : AM} : AM.parse x = some o ↔ o.bits = x := by
  refine ⟨fun e => ?_, fun e => e ▸ o.parse_bits⟩
  obtain rfl := Option.some.inj e
  simp only [AM.bits, extract_append]
  exact field_all x

theorem AA.parse_iff {x : BitVec 50} {o : AA} : AA.parse x = some o ↔ o.bits = x := by
  refine ⟨fun e => ?_, fun e => e ▸ o.parse_bits⟩
  obtain rfl := Option.some.inj e
  simp only [AA.bits, extract_append]
  exact field_all x

theorem AT.parse_iff {x : BitVec 50} {o : AT} : AT.parse x = some o ↔ o.bits = x := by
  refine ⟨fun e => ?_, fun e => e ▸ o.parse_bits⟩
  obtain ⟨zero, rfl⟩ := parsed_if e
  simp only [AT.bits, ← zero, extract_append]
  exact field_all x

theorem AH.parse_iff {x : BitVec 50} {o : AH} : AH.parse x = some o ↔ o.bits = x := by
  refine ⟨fun e => ?_, fun e => e ▸ o.parse_bits⟩
  obtain rfl := Option.some.inj e
  simp only [AH.bits, extract_append]
  exact field_all x

theorem VR.parse_iff {x : BitVec 50} {o : VR} : VR.parse x = some o ↔ o.bits = x := by
  refine ⟨fun e => ?_, fun e => e ▸ o.parse_bits⟩
  obtain rfl := Option.some.inj e
  simp only [VR.bits, extract_append]
  exact field_all x

theorem VI.parse_iff {x : BitVec 50} {o : VI} : VI.parse x = some o ↔ o.bits = x := by
  refine ⟨fun e => ?_, fun e => e ▸ o.parse_bits⟩
  obtain ⟨zero, rfl⟩ := parsed_if e
  simp only [VI.bits, ← zero, extract_append]
  exact field_all x

theorem VX.parse_iff {x : BitVec 50} {o : VX} : VX.parse x = some o ↔ o.bits = x := by
  refine ⟨fun e => ?_, fun e => e ▸ o.parse_bits⟩
  obtain ⟨zero, rfl⟩ := parsed_if e
  simp only [VX.bits, ← zero, extract_append]
  exact field_all x

theorem KR.parse_iff {x : BitVec 50} {o : KR} : KR.parse x = some o ↔ o.bits = x := by
  refine ⟨fun e => ?_, fun e => e ▸ o.parse_bits⟩
  obtain ⟨zero, rfl⟩ := parsed_if e
  simp only [KR.bits, ← zero, extract_append]
  exact field_all x

theorem ML.parse_iff {x : BitVec 50} {o : ML} : ML.parse x = some o ↔ o.bits = x := by
  refine ⟨fun e => ?_, fun e => e ▸ o.parse_bits⟩
  obtain ⟨zero, rfl⟩ := parsed_if e
  simp only [ML.bits, ← zero, extract_append]
  exact field_all x

theorem MM.parse_iff {x : BitVec 50} {o : MM} : MM.parse x = some o ↔ o.bits = x := by
  refine ⟨fun e => ?_, fun e => e ▸ o.parse_bits⟩
  obtain ⟨zero, rfl⟩ := parsed_if e
  simp only [MM.bits, ← zero, extract_append]
  exact field_all x

theorem MC.parse_iff {x : BitVec 50} {o : MC} : MC.parse x = some o ↔ o.bits = x := by
  refine ⟨fun e => ?_, fun e => e ▸ o.parse_bits⟩
  obtain ⟨zero, rfl⟩ := parsed_if e
  simp only [MC.bits, ← zero, extract_append]
  exact field_all x

theorem MQ.parse_iff {x : BitVec 50} {o : MQ} : MQ.parse x = some o ↔ o.bits = x := by
  refine ⟨fun e => ?_, fun e => e ▸ o.parse_bits⟩
  obtain ⟨zero, rfl⟩ := parsed_if e
  simp only [MQ.bits, ← zero, extract_append]
  exact field_all x

theorem MF.parse_iff {x : BitVec 50} {o : MF} : MF.parse x = some o ↔ o.bits = x := by
  refine ⟨fun e => ?_, fun e => e ▸ o.parse_bits⟩
  obtain ⟨zero, rfl⟩ := parsed_if e
  simp only [MF.bits, ← zero, extract_append]
  exact field_all x

theorem MZ.parse_iff {x : BitVec 50} {o : MZ} : MZ.parse x = some o ↔ o.bits = x := by
  refine ⟨fun e => ?_, fun e => e ▸ o.parse_bits⟩
  obtain ⟨zero, rfl⟩ := parsed_if e
  simp only [MZ.bits, ← zero, extract_append]
  exact field_all x

theorem MS.parse_iff {x : BitVec 50} {o : MS} : MS.parse x = some o ↔ o.bits = x := by
  refine ⟨fun e => ?_, fun e => e ▸ o.parse_bits⟩
  obtain ⟨zero, rfl⟩ := parsed_if e
  simp only [MS.bits, ← zero, extract_append]
  exact field_all x

theorem EC.parse_iff {x : BitVec 50} {o : EC} : EC.parse x = some o ↔ o.bits = x := by
  refine ⟨fun e => ?_, fun e => e ▸ o.parse_bits⟩
  obtain rfl := Option.some.inj e
  simp only [EC.bits, extract_append]
  exact field_all x

/-! ### Words -/

/-- A word is made of its header, opcode and operand fields. -/
theorem word_parts (w : BitVec 80) : (Header.parse w).word (w.extractLsb' 50 10) (w.extractLsb' 0 50) = w := by
  simp only [Header.word, Header.parse, extract_append]
  exact field_all w


/-! ### The opcode map of each slot: the word from which it reads an instruction is that instruction's -/

theorem encode_of_decodeC {h : Header} {n : Nat} {x : BitVec 50} {i : Instr} (d : decodeC h n x = some (some i)) :
    encode i = some (h.word (BitVec.ofNat 10 n) x) := by
  unfold decodeC at d
  split at d
  all_goals simp only [Option.some.injEq, Option.map_eq_some_iff, Option.ite_none_right_eq_some, reduceCtorEq,
    CR.parse_iff, CI.parse_iff, CB.parse_iff, CL.parse_iff, CS.parse_iff] at d
  case h_1 => obtain ⟨rfl, rfl⟩ := d; rfl
  all_goals obtain ⟨o, rfl, rfl⟩ := d; rfl

theorem encode_of_decodeA {h : Header} {n : Nat} {x : BitVec 50} {i : Instr} (d : decodeA h n x = some (some i)) :
    encode i = some (h.word (BitVec.ofNat 10 n) x) := by
  unfold decodeA at d
  split at d
  all_goals simp only [Option.some.injEq, Option.map_eq_some_iff, Option.ite_none_right_eq_some, reduceCtorEq,
    AM.parse_iff, AA.parse_iff, AT.parse_iff, AH.parse_iff] at d
  case h_1 => obtain ⟨rfl, rfl⟩ := d; rfl
  all_goals obtain ⟨o, rfl, rfl⟩ := d; rfl

theorem encode_of_decodeV {h : Header} {n : Nat} {x : BitVec 50} {i : Instr} (d : decodeV h n x = some (some i)) :
    encode i = some (h.word (BitVec.ofNat 10 n) x) := by
  unfold decodeV at d
  split at d
  all_goals simp only [Option.some.injEq, Option.map_eq_some_iff, Option.ite_none_right_eq_some, reduceCtorEq,
    VR.parse_iff, VI.parse_iff, VX.parse_iff, KR.parse_iff] at d
  case h_1 => obtain ⟨rfl, rfl⟩ := d; rfl
  all_goals obtain ⟨o, rfl, rfl⟩ := d; rfl

theorem encode_of_decodeM {h : Header} {n : Nat} {x : BitVec 50} {i : Instr} (d : decodeM h n x = some (some i)) :
    encode i = some (h.word (BitVec.ofNat 10 n) x) := by
  unfold decodeM at d
  split at d
  all_goals simp only [Option.some.injEq, Option.map_eq_some_iff, Option.ite_none_right_eq_some, reduceCtorEq,
    ML.parse_iff, MM.parse_iff, MC.parse_iff, MQ.parse_iff, MF.parse_iff, MZ.parse_iff, MS.parse_iff] at d
  case h_1 => obtain ⟨rfl, rfl⟩ := d; rfl
  all_goals obtain ⟨o, rfl, rfl⟩ := d; rfl

theorem encode_of_decodeE {h : Header} {n : Nat} {x : BitVec 50} {i : Instr} (d : decodeE h n x = some (some i)) :
    encode i = some (h.word (BitVec.ofNat 10 n) x) := by
  unfold decodeE at d
  split at d
  all_goals simp only [Option.some.injEq, Option.map_eq_some_iff, Option.ite_none_right_eq_some, reduceCtorEq, EC.parse_iff] at d
  case h_1 => obtain ⟨rfl, rfl⟩ := d; rfl
  all_goals obtain ⟨o, rfl, rfl⟩ := d; rfl

theorem encode_of_decodeSlot {h : Header} {n : Nat} {x : BitVec 50} {i : Instr} (d : decodeSlot h n x = some (some i)) :
    encode i = some (h.word (BitVec.ofNat 10 n) x) := by
  unfold decodeSlot at d
  split at d
  · exact encode_of_decodeC d
  · exact encode_of_decodeA d
  · exact encode_of_decodeA d
  · exact encode_of_decodeV d
  · exact encode_of_decodeM d
  · exact encode_of_decodeE d
  · cases d

/-- What a word that decodes has passed: its slot's opcode map answers the instruction, and its check. -/
theorem decode_eq_ok {w : BitVec 80} {i : Instr} (d : decode w = .ok i) :
    decodeSlot (Header.parse w) (w.extractLsb' 50 10).toNat (w.extractLsb' 0 50) = some (some i) ∧ i.WellFormed := by
  unfold decode at d
  split at d
  · cases d
  · split at d
    · cases d
    · cases d
    next j candidate =>
      split at d
      next legal =>
        cases d
        exact ⟨candidate, legal⟩
      · cases d

/-- Settles O57: the opcode maps read each instruction from its own word, of which the fields leave out no bit. -/
theorem decodingIsExact : Obligations.DecodingIsExact := by
  unfold Obligations.DecodingIsExact
  intro w i d
  obtain ⟨candidate, legal⟩ := decode_eq_ok d
  have word := encode_of_decodeSlot candidate
  rw [BitVec.ofNat_toNat, BitVec.setWidth_eq, word_parts] at word
  exact ⟨legal, word⟩

/-- Settles O55: each word is decoded. -/
theorem decodesWrittenWords : Obligations.DecodesWrittenWords := by
  unfold Obligations.DecodesWrittenWords
  decide +kernel

end Sys2Proof
end

section
/-! PROOF of O18: the checks of R90 in the order of R110. -/

namespace Sys2Proof.Machine

section
variable {s : State} {ea : Word} {slice size kind space : Nat}

/-! ### The scratchpad and the alignment -/

theorem resolve_beyondPad (h : padBytes s.cell ≤ ea.toNat) :
    resolve s ea 1 slice size kind = .error (trapOf cSpRange ea) := if_pos ⟨rfl, h⟩

/-- Past the range check of the scratchpad, the alignment is next. -/
theorem resolve_misaligned (within : space = 1 → ea.toNat < padBytes s.cell) (h : ea.toNat % size ≠ 0) :
    resolve s ea space slice size kind = .error (trapOf cAlign ea) := by
  have range : ¬ (space = 1 ∧ padBytes s.cell ≤ ea.toNat) := fun ⟨pad, beyond⟩ => (within pad).not_ge beyond
  rw [resolve, if_neg range, if_pos h]

theorem resolve_pad (within : ea.toNat < padBytes s.cell) (aligned : ea.toNat % size = 0) :
    resolve s ea 1 slice size kind = .ok (.pad, ea.toNat, s) := by
  rw [resolve, if_neg fun h => h.2.not_gt within, if_neg (not_not.2 aligned), if_pos rfl]

/-! ### The staging window and the translation -/

theorem resolve_staging (aligned : ea.toNat % size = 0) : resolve s ea 2 slice size kind =
    if 2 ^ 20 ≤ ea.toNat then
      .error { cause := cProtection, kind := BitVec.ofNat 4 kind, tval := BitVec.ofNat 64 slice }
    else if !bit s.pkg.frames (slice / 64) then .error (trapOf cFrameOff ea)
    else if 56 ≤ slice % 64 then
      .error { cause := cProtection, kind := BitVec.ofNat 4 kind, tval := BitVec.ofNat 64 slice }
    else .ok (.staging, slice * 2 ^ 20 + ea.toNat, s) := by
  simp only [resolve, aligned, ne_eq, not_true, if_false, OfNat.ofNat_ne_one, false_and, if_true]

theorem resolve_global_error {t : Trap} (aligned : ea.toNat % size = 0) (e : xlate s s.cur ea kind = .error t) :
    resolve s ea 0 slice size kind = .error t := by
  simp only [resolve, aligned, ne_eq, not_true, if_false, OfNat.zero_ne_ofNat, zero_ne_one, false_and, e]

theorem resolve_global_ok {t : State} {pa : Nat} (aligned : ea.toNat % size = 0) (e : xlate s s.cur ea kind = .ok (pa, t)) :
    resolve s ea 0 slice size kind = .ok (.main, pa, t) := by
  simp only [resolve, aligned, ne_eq, not_true, if_false, OfNat.zero_ne_ofNat, zero_ne_one, false_and, e]

theorem xlate_beyond {ci : BitVec 9} (h : 2 ^ 56 ≤ ea.toNat) :
    xlate s ci ea kind = .error { cause := cProtection, kind := BitVec.ofNat 4 kind, tval := ea } := by
  rw [xlate, if_pos h]
  rfl

end

/-- Settles O18: `resolve` is read once for the scratchpad, the staging window and the translation, check by check. -/
theorem addressChecks : Obligations.AddressChecks := by
  unfold Obligations.AddressChecks
  intro s ea slice size kind _
  refine ⟨resolve_beyondPad, resolve_pad, fun within => resolve_misaligned fun _ => within, fun space other =>
    resolve_misaligned fun pad => absurd pad other, fun aligned high => ?_, fun aligned low off => ?_,
    fun aligned low on queue => ?_, fun aligned low on data => ?_, fun aligned high =>
    resolve_global_error aligned (xlate_beyond high), fun pa t aligned => resolve_global_ok aligned⟩
  · rw [resolve_staging aligned, if_pos high]
  · rw [resolve_staging aligned, if_neg low.not_ge, if_pos (by rw [off]; rfl)]
  · rw [resolve_staging aligned, if_neg low.not_ge, if_neg (by rw [on]; decide), if_pos queue]
  · rw [resolve_staging aligned, if_neg low.not_ge, if_neg (by rw [on]; decide), if_neg data.not_ge]

end Sys2Proof.Machine
end

section
/-! PROOF of O17: the words on address indices and handles, and the post-update over the integers (R88 to R90, R93, R314, R319,
R325, R328, R329, R331, R370, R372, R377). -/

namespace Sys2Proof.Machine

/-! ### Fields and residues -/

/-- A field that is replaced holds the low bits of its new value; the other bits stay. -/
theorem getLsbD_setFld {n : Nat} (x : BitVec n) (lo w v : Nat) {i : Nat} (h : i < n) :
    (setFld x lo w v).getLsbD i = if lo ≤ i ∧ i < lo + w then v.testBit (i - lo) else x.getLsbD i := by
  rw [setFld, BitVec.getLsbD_or, BitVec.getLsbD_and, BitVec.getLsbD_not, BitVec.getLsbD_ofNat, BitVec.getLsbD_ofNat,
    Nat.testBit_shiftLeft, Nat.testBit_shiftLeft, Nat.testBit_two_pow_sub_one, Nat.testBit_mod_two_pow]
  by_cases above : lo ≤ i
  · have place : i - lo < w ↔ i < lo + w := by omega
    by_cases within : i < lo + w <;> simp [h, above, place, within]
  · simp [h, above]

theorem fld_eq {n : Nat} (x : BitVec n) (lo w : Nat) : fld x lo w = x.toNat / 2 ^ lo % 2 ^ w := by
  rw [fld, BitVec.extractLsb'_toNat, Nat.shiftRight_eq_div_pow]

theorem fld_lt {n : Nat} (x : BitVec n) (lo w : Nat) : fld x lo w < 2 ^ w := BitVec.isLt _

theorem wrap_lt (w : Nat) (x : Int) : wrap w x < 2 ^ w := by
  have pos : (0 : Int) < (2 ^ w : Nat) := by exact_mod_cast Nat.two_pow_pos w
  have low := Int.emod_nonneg x pos.ne'
  have high := Int.emod_lt_of_pos x pos
  rw [wrap]
  omega

/-- A number differs from its residue by a multiple of the modulus. -/
theorem wrap_add_mul (w : Nat) (x : Int) : ((wrap w x : Nat) : Int) + x / (2 ^ w : Nat) * (2 ^ w : Nat) = x := by
  rw [wrap, Int.toNat_of_nonneg (Int.emod_nonneg x (by positivity))]
  exact Int.emod_add_ediv_mul x _

theorem ofNat_wrap (w : Nat) (x : Int) : BitVec.ofNat w (wrap w x) = BitVec.ofInt w x := by
  refine BitVec.eq_of_toNat_eq ?_
  rw [BitVec.toNat_ofNat, Nat.mod_eq_of_lt (wrap_lt w x), BitVec.toNat_ofInt, wrap]

/-! ### Bit reversal -/

theorem bitrev_lt (n x : Nat) : bitrev n x < 2 ^ n := by
  induction n generalizing x with
  | zero => simp [bitrev]
  | succ n ih =>
    have low := ih (x / 2)
    have top : x % 2 * 2 ^ n ≤ 1 * 2 ^ n := Nat.mul_le_mul_right _ (by omega)
    rw [bitrev, Nat.pow_succ]
    omega

theorem testBit_bitrev (n x i : Nat) : (bitrev n x).testBit i = (decide (i < n) && x.testBit (n - 1 - i)) := by
  induction n generalizing x with
  | zero => simp [bitrev]
  | succ n ih =>
    rw [bitrev, Nat.mul_comm, Nat.testBit_two_pow_mul_add _ (bitrev_lt n _), ih]
    obtain low | rfl | high := Nat.lt_trichotomy i n
    · have next_ : n - i = n - 1 - i + 1 := by omega
      simp [low, Nat.lt_succ_of_lt low, next_, Nat.testBit_succ]
    · simp [Nat.testBit_zero]
    · have small : x % 2 < 2 ^ (i - n) := (Nat.mod_lt x two_pos).trans_le (Nat.le_self_pow (by omega) 2)
      have beyond : ¬ i < n + 1 := by omega
      simp [high.not_gt, beyond, Nat.testBit_lt_two_pow small]

theorem bitrev_bitrev {n x : Nat} (h : x < 2 ^ n) : bitrev n (bitrev n x) = x := by
  refine Nat.eq_of_testBit_eq fun i => ?_
  rw [testBit_bitrev, testBit_bitrev]
  by_cases low : i < n
  · have back : n - 1 - (n - 1 - i) = i := by omega
    have upper : n - 1 - i < n := by omega
    simp [low, upper, back]
  · have big : x < 2 ^ i := h.trans_le (Nat.pow_le_pow_right two_pos (Nat.not_lt.1 low))
    simp [low, Nat.testBit_lt_two_pow big]

/-! ### The post-update of R89 -/

section
variable {m a : Word}

theorem indexUpdate_linear (mode : fld m 0 2 = 0) :
    indexUpdate m a = BitVec.ofInt 64 (a.toNat + sgn 20 (fld m 8 20)) := by
  rw [indexUpdate, mode]
  exact ofNat_wrap 64 _

theorem indexUpdate_modulo (mode : fld m 0 2 = 1) (pos : 0 < fld m 32 24) :
    ((indexUpdate m a).toNat : Int) = ((a.toNat : Int) + sgn 20 (fld m 8 20)) % (fld m 32 24 : Int) := by
  have low := Int.emod_nonneg ((a.toNat : Int) + sgn 20 (fld m 8 20)) (Int.natCast_pos.2 pos).ne'
  have high := Int.emod_lt_of_pos ((a.toNat : Int) + sgn 20 (fld m 8 20)) (Int.natCast_pos.2 pos)
  have len := fld_lt m 32 24
  simp only [indexUpdate, mode]
  rw [BitVec.toNat_ofNat, Nat.mod_eq_of_lt (by omega), Int.toNat_of_nonneg low]

theorem indexUpdate_reversed {n : Nat} (mode : fld m 0 2 = 2) (len : fld m 32 24 = 2 ^ n) (within : n ≤ 23) :
    (indexUpdate m a).toNat = bitrev n (wrap n ((bitrev n (a.toNat % 2 ^ n) : Int) + sgn 20 (fld m 8 20))) := by
  simp only [indexUpdate, mode, len]
  rw [Nat.log2_two_pow, BitVec.toNat_ofNat, Nat.mod_eq_of_lt]
  exact (bitrev_lt n _).trans_le (Nat.pow_le_pow_right two_pos (by omega))

end

/-! ### Words on indices and handles -/

theorem getLsbD_hSet (x : BitVec 256) (id : Nat) (v : Word) {i : Nat} (h : i < 256) :
    (hSet x id v).getLsbD i =
      if (hField id).1 ≤ i ∧ i < (hField id).1 + (hField id).2 then v.getLsbD (i - (hField id).1) else x.getLsbD i := by
  rw [hSet, getLsbD_setFld _ _ _ _ h]
  rfl

theorem effAddr_eq (c : Cell) (b : BitVec 1) (hb ai : BitVec 4) (disp : Int) : effAddr c b hb ai disp =
    BitVec.ofInt 64 ((if b = 1#1 then (hBase (c.regs.h.rd hb) : Int) else 0) + (c.regs.a.rd ai).toNat + disp) :=
  ofNat_wrap 64 _

theorem inFlight_lea (h : Header) (c : Cell) (o : AM) (v : Word) :
    ({ land := c.dstS (o.data.extractLsb' 0 6) v, n := 1, slot := h.slot, ev := 0 } : InFlight) :: indexResult h c o.u o.ai =
      inFlight h 1 0 (c.dstS (o.data.extractLsb' 0 6) v ::
        if o.u = 1#1 then [.a o.ai (indexUpdate (c.regs.m.rd o.ai) (c.regs.a.rd o.ai))] else []) := by
  rw [indexResult, inFlight]
  split <;> rfl

theorem exec_amode_bad {h : Header} {s : State} {o : AA} (plain : Plain h s) (bad : modeOk (s.cell.rdS o.ss) = false) :
    exec (.amode h o) s = .next (trapped s (trapOf cIllegalOp (h.slot.zeroExtend 64))) := by
  rw [exec_amode, execAmode]
  exact issueWord_illegal plain.wait (.inl (by rw [bad, Bool.and_false]))

theorem exec_lea_plain {h : Header} {s : State} {o : AM} (plain : Plain h s) (wf : (Instr.lea h o).WellFormed)
    (legal : memLegal s o.b o.hb o.space = true) : exec (.lea h o) s =
      .next (issued s (inFlight h 1 0 (s.cell.dstS (o.data.extractLsb' 0 6) (amAddr s.cell o) ::
        if o.u = 1#1 then [.a o.ai (indexUpdate (s.cell.regs.m.rd o.ai) (s.cell.regs.a.rd o.ai))] else []))) := by
  rw [exec_lea, execLea]
  refine (issueWord_plain plain (by rw [check_lea wf, legal]; rfl) (fun _ => rfl) (fun e => Bool.noConfusion e)).trans ?_
  rw [inFlight_lea]
  rfl

/-- Settles O17: each word by its checks and its results, the post-update by its mode. -/
theorem indexWordsAndModes : Obligations.IndexWordsAndModes := by
  unfold Obligations.IndexWordsAndModes
  refine ⟨fun h s plain => ⟨fun o => ⟨fun wf => ?_, fun wf => ?_, fun wf => ?_, fun wf => ?_, fun wf ok => ?_, fun _ =>
    exec_amode_bad plain⟩, fun o => ⟨fun wf => ?_, fun wf => ?_⟩, fun o wf legal => ?_⟩, fun m a => ⟨indexUpdate_linear,
    fun mode pos => ?_, fun n mode len _ within => ?_⟩⟩
  · rw [exec_amov]
    exact issueResults_plain plain (check_amov wf) fun _ => rfl
  · rw [exec_aget]
    exact issueResults_plain plain (check_aget wf) fun _ => rfl
  · rw [exec_aadd]
    exact issueResults_plain plain (check_aadd wf) fun _ => rfl
  · rw [exec_aupd]
    exact issueResults_plain plain (check_aupd wf) fun _ => rfl
  · rw [exec_amode]
    exact issueResults_plain plain (by rw [check_amode wf, ok]; rfl) fun _ => rfl
  · rw [exec_hset]
    exact ⟨_, issueResults_plain plain (check_hset wf) fun _ => rfl, fun i bound => getLsbD_hSet _ _ _ bound⟩
  · rw [exec_hget, ← fld_eq]
    exact issueResults_plain plain (check_hget wf) fun _ => rfl
  · rw [exec_lea_plain plain wf legal, amAddr, effAddr_eq]
  · have value := indexUpdate_modulo (a := a) mode pos
    have high := Int.emod_lt_of_pos ((a.toNat : Int) + sgn 20 (fld m 8 20)) (Int.natCast_pos.2 pos)
    exact ⟨by omega, _, by rw [value]; exact Int.emod_add_ediv_mul _ _⟩
  · have value := indexUpdate_reversed (a := a) mode len within
    have whole := wrap_add_mul n ((bitrev n (a.toNat % 2 ^ n) : Int) + sgn 20 (fld m 8 20))
    rw [value, bitrev_bitrev (wrap_lt n _)]
    exact ⟨bitrev_lt n _, _, by exact_mod_cast whole⟩

end Sys2Proof.Machine
end

section
/-! PROOF of O52: the registers that a cell names, and the link of a call (R86). -/

namespace Sys2Proof.Machine

/-! ### Scalar registers -/

/-- The name selects a register of the shadow bank. -/
def shadows (c : Cell) (i : BitVec 6) : Bool := c.sup && decide (48 ≤ i.toNat)

/-- The cell with a scalar register of the task's own written. -/
def Cell.putS (c : Cell) (i : BitVec 6) (v : Word) : Cell := { c with regs := { c.regs with s := c.regs.s.wr i v } }

/-- The cell with a register of the shadow bank written. -/
def Cell.putShadow (c : Cell) (i : BitVec 4) (v : Word) : Cell := { c with regs := { c.regs with sh := c.regs.sh.wr i v } }

section
variable {c : Cell} {i j : BitVec 6} {v : Word}

theorem rdS_eq (c : Cell) (i : BitVec 6) : c.rdS i =
    if i = 0 then 0 else if shadows c i then c.regs.sh.rd (i.extractLsb' 0 4) else c.regs.s.rd i := rfl

theorem rdS_putS : (c.putS i v).rdS j =
    if j = 0 then 0 else if shadows c j then c.regs.sh.rd (j.extractLsb' 0 4) else (c.regs.s.wr i v).rd j := rfl

theorem rdS_putShadow {k : BitVec 4} : (c.putShadow k v).rdS j =
    if j = 0 then 0 else if shadows c j then (c.regs.sh.wr k v).rd (j.extractLsb' 0 4) else c.regs.s.rd j := rfl

theorem dstS_eq (c : Cell) (i : BitVec 6) (v : Word) :
    c.dstS i v = if shadows c i then .sh (i.extractLsb' 0 4) v else .s i v := rfl

theorem land_dstS_shadow (h : shadows c i = true) : c.land (c.dstS i v) = c.putShadow (i.extractLsb' 0 4) v := by
  rw [dstS_eq, if_pos h]
  rfl

theorem land_dstS_own (h : shadows c i = false) (nonzero : i ≠ 0) : c.land (c.dstS i v) = c.putS i v := by
  have land : c.regs.land (.s i v) = { c.regs with s := c.regs.s.wr i v } := if_neg nonzero
  rw [dstS_eq, if_neg (Bool.eq_false_iff.1 h), Cell.putS, ← land]
  rfl

theorem shadows_ne_zero (h : shadows c i = true) : i ≠ 0 := by
  rintro rfl
  simp [shadows] at h

/-- Two names of the shadow bank are told apart by their low four bits. -/
theorem shadow_low_ne (hi : shadows c i = true) (hj : shadows c j = true) (ne : j ≠ i) :
    j.extractLsb' 0 4 ≠ i.extractLsb' 0 4 := by
  simp only [shadows, Bool.and_eq_true, decide_eq_true_eq] at hi hj
  refine fun same => ne (BitVec.eq_of_toNat_eq ?_)
  have low := congrArg BitVec.toNat same
  simp only [BitVec.extractLsb'_toNat, Nat.shiftRight_zero] at low
  have := i.isLt
  have := j.isLt
  omega

/-- A result for a register is read back under its name, and no other name reads it. -/
theorem rdS_land (nonzero : i ≠ 0) :
    (c.land (c.dstS i v)).rdS i = v ∧ ∀ j, j ≠ i → (c.land (c.dstS i v)).rdS j = c.rdS j := by
  cases hi : shadows c i with
  | true =>
    rw [land_dstS_shadow hi]
    refine ⟨by rw [rdS_putShadow, if_neg nonzero, if_pos hi, Reg.rd_wr_same], fun j ne => ?_⟩
    rw [rdS_putShadow, rdS_eq]
    cases hj : shadows c j with
    | true => rw [Reg.rd_wr_other _ _ (shadow_low_ne hi hj ne)]
    | false => rfl
  | false =>
    rw [land_dstS_own hi nonzero]
    refine ⟨by rw [rdS_putS, if_neg nonzero, if_neg (Bool.eq_false_iff.1 hi), Reg.rd_wr_same], fun j ne => ?_⟩
    rw [rdS_putS, rdS_eq, Reg.rd_wr_other _ _ ne]

end

/-! ### Mask registers -/

theorem rdK_land {c : Cell} {i : BitVec 3} {v : BitVec 256} (nonzero : i ≠ 0) :
    (c.land (.k i v)).rdK i = v ∧ ∀ j, j ≠ i → (c.land (.k i v)).rdK j = c.rdK j := by
  have reads (j : BitVec 3) : (c.land (.k i v)).rdK j = if j = 0 then BitVec.allOnes 256 else (c.regs.k.wr i v).rd j := by
    have land : c.regs.land (.k i v) = { c.regs with k := c.regs.k.wr i v } := if_neg nonzero
    show (if j = 0 then _ else (c.regs.land (.k i v)).k.rd j) = _
    rw [land]
  refine ⟨by rw [reads, if_neg nonzero, Reg.rd_wr_same], fun j ne => ?_⟩
  rw [reads, Reg.rd_wr_other _ _ ne]
  rfl

/-! ### The link -/

/-- The results in flight after a call are those before it and its link. -/
theorem inflight_call (s : State) (l : List InFlight) (t : BitVec 32) (v : Verdict) :
    (((s.push l).jump t).mark s.cur v).cell.pipe.inflight = s.cell.pipe.inflight ++ l := by
  simp [State.cell, State.mark, State.jump, State.push, State.upd]

/-- Settles O52: registers by whether the name is a constant, a shadow or the task's own; CALL and CALLI push their link. -/
theorem registerFileRules : Obligations.RegisterFileRules := by
  unfold Obligations.RegisterFileRules
  refine ⟨fun c => ⟨rfl, rfl, fun v => ?_, fun v => rfl, fun i v => rdS_land, fun i v => rdK_land,
    fun i sup high => ?_⟩, fun h s o plain => ⟨fun wf => ?_, fun wf => ?_⟩⟩
  · rw [Cell.dstS, if_neg (by simp)]
    rfl
  · have shadow : shadows c i = true := by simp [shadows, sup, high]
    exact ⟨by rw [rdS_eq, if_neg (shadows_ne_zero shadow), if_pos shadow], fun v => by rw [land_dstS_shadow shadow]; rfl⟩
  · rw [exec_call, execCall]
    exact ⟨_, issueWord_plain plain (check_call wf) (fun _ => rfl) (fun e => Bool.noConfusion e), inflight_call _ _ _ _⟩
  · rw [exec_calli, execCalli]
    exact ⟨_, issueWord_plain plain (check_calli wf) (fun _ => rfl) (fun e => Bool.noConfusion e), inflight_call _ _ _ _⟩

end Sys2Proof.Machine
end

section
/-! REFUTATION of O53: a handle load that is due lands beside the results in flight (R76, R371). -/

namespace Sys2Proof.Machine

/-- The word 1 for s1, in flight for two issue cycles. -/
def twoCycles : InFlight := { land := .s 1 1, n := 2, slot := 0, ev := 0 }

/-- A scratchpad load of a handle that is due, and that is to write 2 to s1. -/
def dueLoad : Access :=
  { id := 1, tag := none, lands := [.s 1 2], write := false, pa := 0, dom := false, slot := 1, age := 5, soon := true }

/-- A cell with both under way. -/
def loadMeetsResult : Cell :=
  { Cell.reset with pipe := { Pipe.reset with inflight := [twoCycles], accs := [dueLoad] } }

/-- After one issue cycle s1 reads what the load brought. -/
theorem loadMeetsResult_tick : (Cell.ticks 1 loadMeetsResult).regs.s.rd 1 = 2 := by decide +kernel

/-- Refutes O53, in its clause that a register reads as it did until the result in flight for it lands: a handle load that is due
lands in the cycle before, in the same register. The clause keeps the other results in flight and the late ones off that register,
but not the pending accesses, of which `Cell.tick` lands those of HLD that are due (R371). HLD itself names handle registers; but
the statement speaks of every cell and has no hypothesis that leaves this one out. -/
theorem not_resultsLandInTime : ¬ Obligations.ResultsLandInTime := by
  unfold Obligations.ResultsLandInTime
  rintro ⟨inTime, -⟩
  have alone : ∀ y ∈ [] ++ [] ++ loadMeetsResult.pipe.late, scalarOf y.land ≠ some 1 := by
    simp [loadMeetsResult, Pipe.reset]
  obtain ⟨before, -⟩ := inTime loadMeetsResult [] [] twoCycles 1 1 rfl rfl (by decide) (by decide) alone
  have unchanged := before 1 (by decide)
  rw [loadMeetsResult_tick] at unchanged
  exact absurd unchanged (by decide +kernel)

end Sys2Proof.Machine
end

section
/-! PROOF of O23: the lanes that VADD, VSUB, VMUL and VFMA write (R97, R119, R125, R128, R425, R432). -/

namespace Sys2Proof.Machine

/-! ### Rows from lanes (R125) -/

/-- The types of 8 bits or more fill a row with at most 256 lanes. -/
theorem wide_lanes {t : BitVec 4} (h : tyWide t = true) :
    8 ≤ widthOf t.toNat ∧ lanesOf t.toNat ≤ 256 ∧ widthOf t.toNat * lanesOf t.toNat = 2048 := by
  revert t
  decide

theorem getD_map_range {n i : Nat} (f : Nat → Nat) (h : i < n) : ((List.range n).map f).getD i 0 = f i := by
  simp [List.getD_eq_getElem?_getD, h]

/-- Bit `j` of a row is a bit of lane `j / w`. -/
theorem getLsbD_rowOf {w n j : Nat} (f : Nat → Nat) (hw : 0 < w) (whole : w * n = 2048) (h : j < 2048) :
    (rowOf w ((List.range n).map f)).getLsbD j = (f (j / w)).testBit (j % w) := by
  have lane_ : j / w < n := Nat.div_lt_of_lt_mul (whole ▸ h)
  rw [rowOf, BitVec.getLsbD_ofNat, testBit_ofLanes w hw, getD_map_range f lane_]
  simp [h]

/-- A lane of a row made of lanes. -/
theorem lane_rowOf {w n i : Nat} (f : Nat → Nat) (hw : 0 < w) (whole : w * n = 2048) (h : i < n) :
    lane w (rowOf w ((List.range n).map f)) i = f i % 2 ^ w := by
  refine Nat.eq_of_testBit_eq fun j => ?_
  rw [lane, Nat.testBit_mod_two_pow, Nat.testBit_mod_two_pow, Nat.testBit_shiftRight]
  by_cases within : j < w
  · have below : w * i + j < 2048 := by
      have := Nat.mul_le_mul_left w h
      rw [Nat.mul_succ] at this
      omega
    have bit_ := getLsbD_rowOf f hw whole below
    rw [Nat.mul_add_div hw, Nat.div_eq_of_lt within, Nat.add_zero, Nat.mul_add_mod, Nat.mod_eq_of_lt within] at bit_
    rw [← bit_]
    rfl
  · simp [within]

/-! ### The lanes that a mask governs (R119, R147) -/

section
variable {t : BitVec 4} (wide : tyWide t = true) (k : BitVec 256)
include wide

theorem governed_wide (i : Nat) : governed t.toNat k i = k.getLsbD i := by
  obtain ⟨broad, -, -⟩ := wide_lanes wide
  exact if_neg (by omega)

theorem getLsbD_maskRow {j : Nat} (h : j < 2048) :
    (maskRow t.toNat k).getLsbD j = k.getLsbD (j / max 8 (widthOf t.toNat)) := by
  obtain ⟨broad, -, whole⟩ := wide_lanes wide
  have pos : 0 < widthOf t.toNat := by omega
  have within := Nat.mod_lt j pos
  rw [maskRow, if_neg (by omega), laneMask, getLsbD_rowOf _ pos whole h, Nat.max_eq_right broad]
  cases k.getLsbD (j / widthOf t.toNat) with
  | false => simp
  | true => simp [Nat.testBit_two_pow_sub_one, within]

theorem lane_laneRow (f : Nat → Nat × BitVec 8) {i : Nat} (h : i < lanesOf t.toNat) (on : governed t.toNat k i = true) :
    lane (widthOf t.toNat) (laneRow t.toNat k f).1 i = (f i).1 % 2 ^ widthOf t.toNat := by
  obtain ⟨broad, -, whole⟩ := wide_lanes wide
  rw [laneRow, List.map_map]
  refine (lane_rowOf _ (by omega) whole h).trans ?_
  rw [Function.comp_apply, if_pos on]

end

/-- The union of the events of several lanes. -/
theorem getLsbD_foldl_or {α : Type} (g : α → BitVec 8) (l : List α) (e : BitVec 8) (b : Nat) :
    (l.foldl (fun e x => e ||| g x) e).getLsbD b = true ↔ e.getLsbD b = true ∨ ∃ x ∈ l, (g x).getLsbD b = true := by
  induction l generalizing e with
  | nil => simp
  | cons x l ih => simp [ih, or_assoc]

theorem events_laneRow (ty : Nat) (k : BitVec 256) (f : Nat → Nat × BitVec 8) (b : Nat) :
    (laneRow ty k f).2.getLsbD b = true ↔ ∃ i < lanesOf ty, governed ty k i = true ∧ (f i).2.getLsbD b = true := by
  rw [laneRow, getLsbD_foldl_or]
  constructor
  · rintro (none_ | ⟨r, made, set⟩)
    · simp at none_
    · obtain ⟨i, bound, rfl⟩ := List.mem_map.1 made
      split at set
      next on => exact ⟨i, List.mem_range.1 bound, on, set⟩
      next => simp at set
  · rintro ⟨i, bound, on, set⟩
    exact .inr ⟨f i, List.mem_map.2 ⟨i, List.mem_range.2 bound, if_pos on⟩, set⟩

/-! ### Vector words -/

section
variable {h : Header} {s : State} {legal : Bool} {rows : List (BitVec 9 × Bool)} {n : Nat} {body : Cell → List Land × BitVec 8}

/-- A vector word whose rows are free puts its results in flight. -/
theorem vecWord_issues (plain : Plain h s) (user : User s) (ok : legal = true) (free : RowsFree s rows) :
    vecWord h legal rows n s body = .next (issued s (inFlight h n (body s.cell).2 (body s.cell).1)) := by
  have handler : s.cell.sup = true → false = true := fun sup => absurd (user.symm.trans sup) (by decide)
  have reserved_ : rows.findSome? (fun r => noTile s.cell r.1) = none := List.findSome?_eq_none_iff.2 fun r hr => (free r hr).1
  have idle : (rows.any fun r => rowBusy s.cell r.1 r.2) = false := by
    rw [List.any_eq_false]
    exact fun r hr => by rw [(free r hr).2]; decide
  refine (issueWord_plain plain ok handler (fun e => Bool.noConfusion e)).trans ?_
  simp only [reserved_, idle]
  rfl

/-- A vector word whose first row is outside the reservation takes NO_TILE. -/
theorem vecWord_noTile {row : BitVec 9} {write : Bool} (plain : Plain h s) (user : User s) (ok : legal = true)
    (outside : tilesOf s.cell ≤ row.toNat / 64) : vecWord h legal ((row, write) :: rows) n s body =
      .next (trapped s (trapOf cNoTile (BitVec.ofNat 64 (row.toNat / 64)))) := by
  have handler : s.cell.sup = true → false = true := fun sup => absurd (user.symm.trans sup) (by decide)
  refine (issueWord_plain plain ok handler (fun e => Bool.noConfusion e)).trans ?_
  simp only [List.findSome?_cons, noTile, if_pos outside]
  rfl

/-- A vector word with one row as its result writes the lanes that its mask governs. -/
theorem vecWord_writes {t : BitVec 4} {k : BitVec 256} {vd : BitVec 9} {f : Nat → Nat × BitVec 8} (wide : tyWide t = true)
    (plain : Plain h s) (user : User s) (ok : legal = true) (free : RowsFree s rows)
    (result : body s.cell = rowResult t.toNat k vd f) :
    WritesLanes s h n t.toNat k vd f (vecWord h legal rows n s body) := by
  rw [vecWord_issues plain user ok free, result]
  exact ⟨_, _, _, rfl, fun j => getLsbD_maskRow wide k, fun i => lane_laneRow wide k f, fun b _ => events_laneRow _ _ _ b⟩

end

/-! ### Arithmetic words -/

theorem wide_of_vrArith {h : Header} {o : VR} (legal : (slotV h && vrArith o) = true) : tyWide o.ty = true := by
  simp only [vrArith, Bool.and_eq_true] at legal
  obtain ⟨-, ⟨⟨⟨wide, -⟩, -⟩, -⟩, -⟩ := legal
  exact wide

theorem wide_of_viArith {h : Header} {o : VI} (legal : (slotV h && viArith o) = true) : tyWide o.ty = true := by
  simp only [viArith, Bool.and_eq_true] at legal
  obtain ⟨-, ⟨⟨wide, -⟩, -⟩, -⟩ := legal
  exact wide

section
variable {h : Header} {s : State} (plain : Plain h s) (user : User s) (op : LaneOp) (n : Nat)
include plain user

/-- The register form: source b is lane 0 with broadcast. -/
theorem vecArith_writes {o : VR} (legal : (slotV h && vrArith o) = true)
    (free : RowsFree s [(o.vd, true), (o.va, false), (o.vb, false)]) :
    WritesLanes s h n o.ty.toNat (s.cell.rdK o.k) o.vd
      (fun i => arithLane op o.ty.toNat (cellMode s.cell o.rnd) (decide (o.sat = 1)) (decide (o.clamp = 1)) (scaleExp o.scale)
        (srcA o (lane (widthOf o.ty.toNat) (s.cell.rdV o.va) i))
        (srcB o (lane (widthOf o.ty.toNat) (s.cell.rdV o.vb) (if o.bc = 1#2 then 0 else i)))
        (FV.ofBits o.ty.toNat (lane (widthOf o.ty.toNat) (s.cell.rdV o.vd) i)))
      (vecArith op n h o s) :=
  vecWord_writes (wide_of_vrArith legal) plain user legal free rfl

/-- The immediate form. -/
theorem vecArithImm_writes {o : VI} (legal : (slotV h && viArith o) = true) (free : RowsFree s [(o.vd, true), (o.va, false)]) :
    WritesLanes s h n o.ty.toNat (s.cell.rdK o.k) o.vd
      (fun i => arithLane op o.ty.toNat (cellMode s.cell o.rnd) (decide (o.sat = 1)) (decide (o.clamp = 1)) 0
        (FV.ofBits o.ty.toNat (lane (widthOf o.ty.toNat) (s.cell.rdV o.va) i)) (FV.ofBits o.ty.toNat (immLane o.ty.toNat o.imm))
        (FV.ofBits o.ty.toNat (lane (widthOf o.ty.toNat) (s.cell.rdV o.vd) i)))
      (vecArithImm op n h o s) :=
  vecWord_writes (wide_of_viArith legal) plain user legal free rfl

end

/-- Settles O23: the eight words are `vecArith` and `vecArithImm` with an operation and a latency. -/
theorem vectorArithmeticComplete : Obligations.VectorArithmeticComplete := by
  unfold Obligations.VectorArithmeticComplete
  intro h s plain user
  dsimp only
  refine ⟨fun o => ⟨fun free => ⟨fun wf => ?_, fun wf => ?_, fun wf => ?_, fun wf => ?_⟩, fun wf outside => ?_⟩,
    fun o free => ⟨fun wf => ?_, fun wf => ?_, fun wf => ?_, fun wf => ?_⟩⟩
  · rw [exec_vadd, execVadd]
    exact vecArith_writes plain user .add 2 (check_vadd wf) free
  · rw [exec_vsub, execVsub]
    exact vecArith_writes plain user .sub 2 (check_vsub wf) free
  · rw [exec_vmul, execVmul]
    exact vecArith_writes plain user .mul 4 (check_vmul wf) free
  · rw [exec_vfma, execVfma]
    exact vecArith_writes plain user .fma 4 (check_vfma wf) free
  · rw [exec_vadd, execVadd]
    exact (vecWord_noTile plain user (check_vadd wf) outside)
  · rw [exec_vaddImm, execVaddImm]
    exact vecArithImm_writes plain user .add 2 (check_vaddImm wf) free
  · rw [exec_vsubImm, execVsubImm]
    exact vecArithImm_writes plain user .sub 2 (check_vsubImm wf) free
  · rw [exec_vmulImm, execVmulImm]
    exact vecArithImm_writes plain user .mul 4 (check_vmulImm wf) free
  · rw [exec_vfmaImm, execVfmaImm]
    exact vecArithImm_writes plain user .fma 4 (check_vfmaImm wf) free

end Sys2Proof.Machine
end

section
/-! PROOF of O36, part 1: a pending access lands, walks, evictions (R79, R84, R171, R180, R209, R220, R294). -/

namespace Sys2Proof.Machine

/-! ### What a landing leaves of a cell -/

theorem crPut_pipe (c : Cell) (n : Nat) (v : Word) : (c.crPut n v).pipe = c.pipe := by
  simp only [Cell.crPut, apply_ite Cell.pipe, ite_self]

theorem land_pipe (c : Cell) (l : Land) : (c.land l).pipe = c.pipe := by
  cases l <;> simp only [Cell.land, crPut_pipe]

theorem landIn_pipe (late : List InFlight) (c : Cell) (x : InFlight) : (c.landIn late x).pipe = c.pipe := by
  unfold Cell.landIn
  split <;> exact land_pipe c x.land

theorem landNow_accs (c : Cell) (l : List InFlight) : (c.landNow l).pipe.accs = c.pipe.accs := by
  unfold Cell.landNow
  split
  · rw [foldl_keeps Cell.pipe fun c (x : InFlight) => land_pipe c x.land]
  · dsimp only
    rw [foldl_keeps Cell.pipe (landIn_pipe _)]

/-- A result for a scalar register that nothing of its cycle meets is read from then on. -/
theorem landNow_scalar {c : Cell} {x : InFlight} {i : BitVec 6} {v : Word} (land : x.land = .s i v) (nonzero : i ≠ 0)
    (alone : c.pipe.late = []) : (c.landNow [x]).regs.s.rd i = v := by
  have lands : (c.land x.land).regs.s.rd i = v := by
    rw [land]
    show (c.regs.land (.s i v)).s.rd i = v
    rw [Regs.land, if_neg nonzero]
    exact Reg.rd_wr_same _ _ _
  unfold Cell.landNow
  split
  · exact lands
  · have kept : c.landIn c.pipe.late x = c.land x.land := by
      rw [alone]
      exact if_neg (by simp [overruled])
    simpa only [List.foldl_cons, List.foldl_nil, kept] using lands

theorem clearTag_pend {t : Option (BitVec 3)} {g : BitVec 3} (h : t = some g) (c : Cell) :
    bit (clearTag t c).pipe.pend g.toNat = false := by
  rw [h]
  refine (bit_clear c.pipe.pend g.toNat g.isLt).trans ?_
  simp

theorem clearTag_accs (t : Option (BitVec 3)) (c : Cell) : (clearTag t c).pipe.accs = c.pipe.accs := by
  cases t <;> rfl

theorem clearTag_regs (t : Option (BitVec 3)) (c : Cell) : (clearTag t c).regs = c.regs := by
  cases t <;> rfl

theorem mem_accs_landAccess {a b : Access} {c : Cell} :
    b ∈ (landAccess a c).pipe.accs ↔ b ∈ c.pipe.accs ∧ b.id ≠ a.id := by
  show b ∈ (clearTag a.tag (c.landNow a.results)).pipe.accs.filter _ ↔ _
  rw [clearTag_accs, landNow_accs, List.mem_filter, decide_eq_true_eq]

/-! ### The access of a number (R79, R209) -/

section
variable {s : State} {c : BitVec 9} {a : Access}

/-- The only access of its number is found by it. -/
theorem accessOf_only {x : Cell} (mem : a ∈ x.pipe.accs) (only : ∀ b ∈ x.pipe.accs, b.id = a.id → b = a) :
    accessOf x a.id (decide (a.lands ≠ [])) = some a := by
  unfold accessOf
  cases found : x.pipe.accs.find? _ with
  | none => exact absurd (List.find?_eq_none.1 found a mem) (by simp)
  | some b =>
    have same := List.find?_some found
    simp only [Bool.and_eq_true, decide_eq_true_eq] at same
    rw [only b (List.mem_of_find?_eq_some found) same.1]

theorem completeAccess_only (mem : a ∈ (s.cellAt c).pipe.accs) (only : ∀ b ∈ (s.cellAt c).pipe.accs, b.id = a.id → b = a) :
    completeAccess (decide (a.lands ≠ [])) c a.id s =
      ((takeResponse s a).map fun t => t.updAt c (landAccess a)).getD s := by
  have found := accessOf_only mem only
  simp only [completeAccess, pendingAccess, found, Option.bind_some]
  cases takeResponse s a <;> rfl

/-- A response that is taken is one flit less. -/
theorem takeResponse_cells {t : State} (h : takeResponse s a = some t) : t.cells = s.cells := by
  unfold takeResponse at h
  split at h
  · obtain ⟨_, _, rfl, -⟩ := onlyAsks_takeFlits h
    rfl
  · cases h
    rfl

theorem takeResponse_domain (h : a.dom = true ∧ paTarget a.pa = 3) :
    takeResponse s a = takeFlits s (BitVec.ofNat 16 (peerOf a.pa)) 3 1 := if_pos (by simp [h])

theorem takeResponse_other (h : a.dom = false ∨ paTarget a.pa ≠ 3) : takeResponse s a = some s := by
  refine if_neg ?_
  obtain h | h := h <;> simp [h]

end

/-- What a landing leaves: the access and its tag are gone, a scalar register reads its result. -/
theorem landAccess_at {s t : State} {c : BitVec 9} {a : Access}
    (only : ∀ b ∈ (s.cellAt c).pipe.accs, b.id = a.id → b = a) (same : t.cells = s.cells) :
    (∀ b, b ∈ ((t.updAt c (landAccess a)).cellAt c).pipe.accs ↔ b ∈ (s.cellAt c).pipe.accs ∧ b ≠ a) ∧
    (∀ g, a.tag = some g → bit ((t.updAt c (landAccess a)).cellAt c).pipe.pend g.toNat = false) ∧
    (∀ i v, a.lands = [.s i v] → i ≠ 0 → (s.cellAt c).pipe.late = [] →
      ((t.updAt c (landAccess a)).cellAt c).regs.s.rd i = v) := by
  have cell : (t.updAt c (landAccess a)).cellAt c = landAccess a (s.cellAt c) := by
    rw [State.updAt_cellAt, State.cellAt, same, State.cellAt]
  rw [cell]
  refine ⟨fun b => ?_, fun g tag => clearTag_pend tag _, fun i v lands nonzero alone => ?_⟩
  · rw [mem_accs_landAccess]
    exact and_congr_right fun pending => not_congr ⟨only b pending, fun e => e ▸ rfl⟩
  · show (clearTag a.tag ((s.cellAt c).landNow a.results)).regs.s.rd i = v
    rw [clearTag_regs, Access.results, lands]
    exact landNow_scalar rfl nonzero alone

/-! ### Walks (R217, R220) -/

theorem walkDone_reads {s : State} {c : BitVec 9} {va : Word} {r : Nat × State} (running : (s.cellAt c).running = true)
    (found : xlate s c va 0 = .ok r) : exec (.translationWalkDone c va) s = .next r.2 := by
  simp only [exec_translationWalkDone, execTranslationWalkDone, running, found, Bool.not_true, Bool.false_eq_true, if_false]

theorem walkDone_fails {s : State} {c : BitVec 9} {va : Word} {e f g : Trap} (running : (s.cellAt c).running = true)
    (read : xlate s c va 0 = .error e) (write : xlate s c va 1 = .error f) (fetch : xlate s c va 2 = .error g) :
    exec (.translationWalkDone c va) s = .next s := by
  simp only [exec_translationWalkDone, execTranslationWalkDone, running, read, write, fetch, Bool.not_true, Bool.false_eq_true,
    if_false]

/-! ### Evictions (R171, R180) -/

/-- The bits of a number built from powers of two. -/
theorem testBit_sumWhere (p : Nat → Bool) (n : Nat) :
    (List.range n).foldl (fun x i => if p i then x + 2 ^ i else x) 0 < 2 ^ n ∧
    ∀ i, ((List.range n).foldl (fun x i => if p i then x + 2 ^ i else x) 0).testBit i = (decide (i < n) && p i) := by
  induction n with
  | zero => simp
  | succ n ih =>
    obtain ⟨below, bits⟩ := ih
    rw [List.range_succ, List.foldl_append]
    generalize (List.range n).foldl _ 0 = x at below bits ⊢
    simp only [List.foldl_cons, List.foldl_nil]
    split
    next on =>
      refine ⟨by rw [Nat.pow_succ]; omega, fun i => ?_⟩
      have sum : x + 2 ^ n = 2 ^ n * 1 + x := by omega
      rw [sum, Nat.testBit_two_pow_mul_add _ below, bits]
      obtain low | rfl | high := Nat.lt_trichotomy i n
      · simp [low, Nat.lt_succ_of_lt low]
      · simp [on]
      · have none_ : Nat.testBit 1 (i - n) = false := Nat.testBit_lt_two_pow (Nat.one_lt_two_pow (by omega))
        have beyond : ¬ i < n + 1 := by omega
        simp [high.not_gt, beyond, none_]
    next off =>
      refine ⟨below.trans (Nat.pow_lt_pow_right one_lt_two n.lt_succ_self), fun i => ?_⟩
      rw [bits]
      obtain low | rfl | high := Nat.lt_trichotomy i n
      · simp [low, Nat.lt_succ_of_lt low]
      · simp [off]
      · have beyond : ¬ i < n + 1 := by omega
        simp [high.not_gt, beyond]

theorem getLsbD_units (l : Line) (p : Nat → Bool) {i : Nat} (h : i < 256) : (l.units p).getLsbD i = p ((l.tag + i) / 8) := by
  obtain ⟨-, bits⟩ := testBit_sumWhere (fun i => p ((l.tag + i) / 8)) 256
  rw [Line.units, BitVec.getLsbD_ofNat, bits]
  simp [h]

end Sys2Proof.Machine
end

section
/-! PROOF of O36, part 2: evictions, windows, held commands and the fast path (R149, R171, R180, R214, R221, R440). -/

namespace Sys2Proof.Machine

/-! ### The two parts of a line that is evicted (R171, R180) -/

section
variable (l : Line) (p : Nat → Bool)

theorem split_home_dirty {i : Nat} (h : i < 256) :
    (l.split p).1.dirty.getLsbD i = (l.dirty.getLsbD i && !p ((l.tag + i) / 8)) := by
  rw [Line.split, BitVec.getLsbD_and, BitVec.getLsbD_not, getLsbD_units l p h, decide_eq_true h, Bool.true_and]

theorem split_stay_dirty {i : Nat} (h : i < 256) :
    (l.split p).2.dirty.getLsbD i = (l.dirty.getLsbD i && p ((l.tag + i) / 8)) := by
  rw [Line.split, BitVec.getLsbD_and, getLsbD_units l p h]

theorem split_stay_dirty_ne_zero :
    (l.split p).2.dirty ≠ 0 ↔ ∃ i < 256, (l.dirty.getLsbD i && p ((l.tag + i) / 8)) = true := by
  constructor
  · intro some_
    by_contra none_
    push Not at none_
    refine some_ (BitVec.eq_of_getLsbD_eq fun i h => ?_)
    rw [split_stay_dirty l p h, Bool.eq_false_iff.2 (none_ i h)]
    simp
  · rintro ⟨i, h, stays⟩ zero
    rw [← split_stay_dirty l p h, zero] at stays
    simp at stays

end

/-- The lines that an eviction leaves: the others, and what stays dirty of the one evicted. -/
def evicted (p : Nat → Bool) (line : Nat) (ls : List Line) : List Line :=
  ls.filter (fun l => decide (l.tag ≠ line)) ++
    if ((lineOf ls line).split p).2.dirty = 0 then [] else [((lineOf ls line).split p).2]

theorem mem_evicted {p : Nat → Bool} {line : Nat} {ls : List Line} {m : Line} :
    m ∈ evicted p line ls ↔ (m ∈ ls ∧ m.tag ≠ line) ∨
      (((lineOf ls line).split p).2.dirty ≠ 0 ∧ m = ((lineOf ls line).split p).2) := by
  unfold evicted
  rw [List.mem_append, List.mem_filter, decide_eq_true_eq]
  split
  next zero => simp [zero]
  next some_ => rw [List.mem_singleton, and_iff_right some_]

theorem mem_evicted_line {p : Nat → Bool} {line : Nat} {ls : List Line} {m : Line} :
    m ∈ evicted p line ls ∧ m.tag = line ↔
      ((lineOf ls line).split p).2.dirty ≠ 0 ∧ m = ((lineOf ls line).split p).2 := by
  rw [mem_evicted]
  constructor
  · rintro ⟨⟨-, other⟩ | stays, tag⟩
    · exact absurd tag other
    · exact stays
  · rintro ⟨some_, rfl⟩
    exact ⟨.inr ⟨some_, rfl⟩, lineOf_tag ls line⟩

/-- The line stays where some dirty byte of it does. -/
theorem evicted_line_iff {p : Nat → Bool} {line : Nat} {ls : List Line} :
    (∃ m ∈ evicted p line ls, m.tag = line) ↔
      ∃ i < 256, ((lineOf ls line).dirty.getLsbD i && p ((line + i) / 8)) = true := by
  simp only [mem_evicted_line, exists_eq_right]
  rw [split_stay_dirty_ne_zero, lineOf_tag]

theorem evicted_line {p : Nat → Bool} {line : Nat} {ls : List Line} {m : Line} (mem : m ∈ evicted p line ls)
    (tag : m.tag = line) :
    m.data = (lineOf ls line).data ∧ ∀ i < 256,
      m.dirty.getLsbD i = ((lineOf ls line).dirty.getLsbD i && p ((line + i) / 8)) ∧
      m.have_.getLsbD i = ((lineOf ls line).dirty.getLsbD i && p ((line + i) / 8)) := by
  obtain ⟨-, rfl⟩ := mem_evicted_line.1 ⟨mem, tag⟩
  refine ⟨rfl, fun i below => ?_⟩
  have stays := split_stay_dirty (lineOf ls line) p below
  rw [lineOf_tag] at stays
  exact ⟨stays, stays⟩

/-- The state after an eviction from the L1. -/
def evictLine (s : State) (c : BitVec 9) (line : Nat) : State :=
  (s.updAt c fun x => { x with lines := evicted (Config.unitStays s.steps) line x.lines }).flush
    [((lineOf (s.cellAt c).lines line).split (Config.unitStays s.steps)).1]

theorem exec_evictLine (s : State) (c : BitVec 9) (line : Nat) :
    exec (.l1LineEviction c line false) s = .next (evictLine s c line) := by
  rw [exec_l1LineEviction, execL1LineEviction, if_neg Bool.false_ne_true, evictLine]
  dsimp only [evicted, State.updAt]

theorem evictLine_lines (s : State) (c : BitVec 9) (line : Nat) :
    ((evictLine s c line).cellAt c).lines = evicted (Config.unitStays s.steps) line (s.cellAt c).lines := by
  rw [evictLine, State.cellAt, State.flush_cells]
  exact congrArg Cell.lines (State.updAt_cellAt s c _)

theorem flush_single_mem (s : State) (l : Line) : (s.flush [l]).mem = l.flush s.mem := by
  rw [State.flush, State.poke_mem, List.foldl_cons, List.foldl_nil]

theorem evictLine_mem (s : State) (c : BitVec 9) (line : Nat) {i : Nat} (h : i < 256) :
    (evictLine s c line).mem.rd (line + i) =
      if (lineOf (s.cellAt c).lines line).dirty.getLsbD i = true ∧
          ((lineOf (s.cellAt c).lines line).dirty.getLsbD i && Config.unitStays s.steps ((line + i) / 8)) = false
      then byteAt (lineOf (s.cellAt c).lines line).data i else s.mem.rd (line + i) := by
  have tag := lineOf_tag (s.cellAt c).lines line
  have home := split_home_dirty (lineOf (s.cellAt c).lines line) (Config.unitStays s.steps) h
  rw [tag] at home
  have flushed : (evictLine s c line).mem =
      ((lineOf (s.cellAt c).lines line).split (Config.unitStays s.steps)).1.flush s.mem := by
    rw [evictLine, flush_single_mem, State.updAt_mem]
  rw [flushed, Line.flush_rd, show (Line.split _ _).1.tag = line from tag, show line + i - line = i by omega, home]
  refine if_congr ?_ rfl rfl
  cases (lineOf (s.cellAt c).lines line).dirty.getLsbD i <;> simp [h]

/-! ### Code lines, waits and windows (R149, R367, R440) -/

theorem icacheEviction (s : State) (c : BitVec 9) (line : Nat) :
    ∃ t, exec (.l1LineEviction c line true) s = .next t ∧ t.mem = s.mem ∧ (t.cellAt c).lines = (s.cellAt c).lines ∧
      ∀ l ∈ (t.cellAt c).icache, l.tag ≠ line := by
  rw [exec_l1LineEviction, execL1LineEviction, if_pos rfl]
  refine ⟨_, rfl, rfl, by rw [State.updAt_cellAt], ?_⟩
  rw [State.updAt_cellAt]
  intro l mem
  simpa using (List.mem_filter.1 mem).2

theorem waitTimeout_expires (s : State) (c : BitVec 9) :
    ∃ t, exec (.waitTimeout c) s = .next t ∧
      (t.cellAt c).pipe.expired = ((s.cellAt c).pipe.expired || (s.cellAt c).pipe.polled.isSome) ∧
      (t.cellAt c).regs = (s.cellAt c).regs ∧ t.mem = s.mem := by
  rw [exec_waitTimeout, execWaitTimeout]
  refine ⟨_, rfl, ?_, ?_, rfl⟩ <;> rw [State.updAt_cellAt] <;> split
  next polled => simp [polled]
  next idle => simp [idle]
  · rfl
  · rfl

theorem Reg.rd_map {n : Nat} {α : Type} (f : Reg n α) (g : α → α) (i : BitVec n) : Reg.rd (f.map g) i = g (f.rd i) :=
  Vector.getElem_map g _

theorem nxWindowStart_clears (s : State) (c : BitVec 9) :
    ∃ t, exec (.nxWindowStart c) s = .next t ∧ ((s.cellAt c).running = true → (s.cellAt c).nx.win ≠ 0 →
      (∀ i, (t.cellAt c).nx.cnt.rd i = (s.cellAt c).nx.cnt.rd i &&& 0xFFFFFFFF00000000#64) ∧
      (t.cellAt c).nx.ctl = (s.cellAt c).nx.ctl &&& 0xFFFFFFFFFF00FFFF#64) ∧ ((s.cellAt c).nx.win = 0 → t = s) := by
  rw [exec_nxWindowStart, execNxWindowStart]
  refine ⟨_, rfl, fun running window => ?_, fun none_ => State.updAt_id s c _ (if_neg fun h => h.2 none_)⟩
  rw [State.updAt_cellAt, if_pos ⟨running, window⟩]
  exact ⟨fun i => Reg.rd_map _ _ i, rfl⟩

/-! ### A handler's writes (R214, R221) -/

theorem inHandler_true {s : State} {c : BitVec 9} (running : (s.cellAt c).running = true) (sup : (s.cellAt c).sup = true) :
    inHandler s c = true := by
  rw [inHandler, running, sup]
  rfl

theorem inHandler_false {s : State} {c : BitVec 9} (user : (s.cellAt c).sup = false) : inHandler s c = false := by
  rw [inHandler, user, Bool.and_false]

theorem efctlResume_held {s : State} {c : BitVec 9} {x : Cmd} (handler : inHandler s c = true) (held : heldOf s c = some x) :
    exec (.efctlResume c) s = .next (setCmd s { x with held := none }) := by
  rw [exec_efctlResume, execEfctlResume, if_pos handler, resumeHeld, held]

theorem efctlAbandon_held {s : State} {c : BitVec 9} {x : Cmd} (handler : inHandler s c = true) (held : heldOf s c = some x) :
    exec (.efctlAbandon c) s = .next ((dropCmd s x.id).updAt c (clearTag x.tag)) := by
  rw [exec_efctlAbandon, execEfctlAbandon, if_pos handler, abandonHeld, held]

theorem mem_dropCmd {s : State} {id : Nat} {y : Cmd} (h : y ∈ (dropCmd s id).cmds) : y.id ≠ id := by
  simpa using (List.mem_filter.1 (show y ∈ s.cmds.filter _ from h)).2

theorem efctlAbandon_ends {s : State} {c : BitVec 9} {x : Cmd} (handler : inHandler s c = true) (held : heldOf s c = some x) :
    ∃ t, exec (.efctlAbandon c) s = .next t ∧ (∀ y ∈ t.cmds, y.id ≠ x.id) ∧ (t.cellAt c).regs = (s.cellAt c).regs ∧
      ∀ g, x.tag = some g → bit (t.cellAt c).pipe.pend g.toNat = false := by
  refine ⟨_, efctlAbandon_held handler held, fun y mem => mem_dropCmd mem, ?_, fun g tag => ?_⟩ <;> rw [State.updAt_cellAt]
  · exact clearTag_regs _ _
  · exact clearTag_pend tag _

theorem fpreqWrite_asks {s : State} {c : BitVec 9} (v : Word) (handler : inHandler s c = true) :
    ∃ t, exec (.fpreqWrite c v) s = .next t ∧ c ∈ t.pkg.fastPath ∧
      (t.cellAt c).tr.fpreq = v &&& 0xFFFFFFFFFF0001#64 ∧ (t.cellAt c).tr.fpstat = 0 := by
  rw [exec_fpreqWrite, execFpreqWrite, if_pos handler]
  have cell := State.updAt_cellAt s c fun x => { x with tr := { x.tr with fpreq := v &&& 0xFFFFFFFFFF0001#64, fpstat := 0 } }
  refine ⟨_, rfl, List.mem_append_right _ (List.mem_singleton.2 rfl), ?_, ?_⟩
  · exact congrArg (fun x => x.tr.fpreq) cell
  · exact congrArg (fun x => x.tr.fpstat) cell

theorem user_writes_nothing {s : State} {c : BitVec 9} (v : Word) (user : (s.cellAt c).sup = false) :
    exec (.efctlResume c) s = .next s ∧ exec (.efctlAbandon c) s = .next s ∧ exec (.fpreqWrite c v) s = .next s := by
  have outside := inHandler_false user
  rw [exec_efctlResume, execEfctlResume, exec_efctlAbandon, execEfctlAbandon, exec_fpreqWrite, execFpreqWrite, outside]
  exact ⟨rfl, rfl, rfl⟩

/-! ### The fast path (R221, R222) -/

/-- The entry that the service core writes has R and U, and W for a write, in 8 bytes. -/
theorem fastPath_entry (e : Word) (write : Bool) :
    (fld e 13 43 * 2 ^ 13 + 2 ^ 0 + 2 ^ 3 + 2 ^ 6 + (if write then 2 ^ 4 else 0)) % 256 ^ 8 =
      pteAddr e + (if write then 0x59 else 0x49) := by
  have below : fld e 13 43 < 2 ^ 43 := (e.extractLsb' 13 43).isLt
  rw [pteAddr]
  cases write <;> simp only [if_true, Bool.false_eq_true, if_false] <;> omega

/-- An answer of the service core reads back in FPSTAT, and the cell no longer waits for it. -/
theorem fastPath_answered {t : State} {c : BitVec 9} (n : BitVec 2) (answered : c ∉ t.pkg.fastPath) :
    c ∉ (t.updAt c fun x => { x with tr := { x.tr with fpstat := n } }).pkg.fastPath ∧
    ((t.updAt c fun x => { x with tr := { x.tr with fpstat := n } }).cellAt c).tr.fpstat = n := by
  rw [State.updAt_cellAt, State.updAt_pkg]
  exact ⟨answered, rfl⟩

theorem fastPathMapDone_idle {s : State} {c : BitVec 9} (h : c ∉ s.pkg.fastPath) :
    exec (.fastPathMapDone c) s = .next s := by
  rw [exec_fastPathMapDone, execFastPathMapDone, if_pos h]

theorem fastPathMapDone_answers {s : State} {c : BitVec 9} (asked : c ∈ s.pkg.fastPath) :
    ∃ t, exec (.fastPathMapDone c) s = .next t ∧ c ∉ t.pkg.fastPath ∧
      ((t.cellAt c).tr.fpstat = 2 ∧ t.mem = s.mem ∨
        (t.cellAt c).tr.fpstat = 1 ∧ ∃ (k : Context) (at_ : Nat), k ∈ s.pkg.contexts ∧ k.id = (s.cellAt c).task.ctx ∧
          leafSlot s (fld (s.cellAt c).tr.fpreq 16 40 * 65536) 3 0 k.root = some at_ ∧
          ((bit (s.mem.word at_) 0 && bit (s.mem.word at_) 62) = true → t.mem = s.mem) ∧
          ((bit (s.mem.word at_) 0 && bit (s.mem.word at_) 62) = false → k.poolN ≠ 0 ∧
            t.mem.nat at_ 8 = (pteAddr (s.mem.word (k.pool + 8 * (k.poolN - 1))) +
              (if bit (s.cellAt c).tr.fpreq 0 then 0x59 else 0x49)))) := by
  have gone : c ∉ s.pkg.fastPath.filter (fun y => decide (y ≠ c)) := by simp
  rw [exec_fastPathMapDone, execFastPathMapDone, if_neg (not_not.2 asked)]
  dsimp only
  cases context : s.pkg.contexts.find? fun y => decide (y.id = (s.cellAt c).task.ctx) with
  | none =>
    obtain ⟨out, status⟩ := fastPath_answered (t := { s with pkg := { s.pkg with fastPath := _ } }) 2 gone
    exact ⟨_, rfl, out, .inl ⟨status, rfl⟩⟩
  | some k =>
    have mem := List.mem_of_find?_eq_some context
    have id : k.id = (s.cellAt c).task.ctx := by simpa using List.find?_some context
    dsimp only
    cases slot : leafSlot s (fld (s.cellAt c).tr.fpreq 16 40 * 65536) 3 0 k.root with
    | none =>
      obtain ⟨out, status⟩ := fastPath_answered (t := { s with pkg := { s.pkg with fastPath := _ } }) 2 gone
      exact ⟨_, rfl, out, .inl ⟨status, rfl⟩⟩
    | some at_ =>
      dsimp only
      split
      next mapped =>
        obtain ⟨out, status⟩ := fastPath_answered (t := { s with pkg := { s.pkg with fastPath := _ } }) 1 gone
        refine ⟨_, rfl, out, .inr ⟨status, k, at_, mem, id, slot, fun _ => rfl, fun unmapped => ?_⟩⟩
        simp [mapped.1, mapped.2] at unmapped
      next unmapped =>
        split
        next empty =>
          obtain ⟨out, status⟩ := fastPath_answered (t := { s with pkg := { s.pkg with fastPath := _ } }) 2 gone
          exact ⟨_, rfl, out, .inl ⟨status, rfl⟩⟩
        next pages =>
          have entry := fastPath_entry (s.mem.word (k.pool + 8 * (k.poolN - 1))) (bit (s.cellAt c).tr.fpreq 0)
          refine ⟨_, rfl, ?_, .inr ⟨?_, k, at_, mem, id, slot, fun mapped => ?_, fun _ => ⟨pages, ?_⟩⟩⟩
          · exact gone
          · rw [State.updAt_cellAt]
          · exact absurd (by simpa using mapped) unmapped
          · rw [← entry, State.updAt_mem]
            show (State.store _ _ _).mem.nat at_ 8 = _
            rw [State.store_mem]
            exact Mem.nat_storeNat s.mem at_ 8 _

/-! ### The statement -/

/-- Settles O36: a clause for each event of a cell, each by the lemma above that says what the event leaves. -/
theorem cellEventsComplete : Obligations.CellEventsComplete := by
  unfold Obligations.CellEventsComplete
  intro s c
  dsimp only
  refine ⟨fun a mem only => ?_, fun a => ⟨fun dom peer => takeResponse_domain ⟨dom, peer⟩, takeResponse_other⟩,
    fun va running => ⟨fun r => walkDone_reads running, fun e f g => walkDone_fails running⟩, fun line => ?_,
    icacheEviction s c, waitTimeout_expires s c, nxWindowStart_clears s c,
    fun cmd running sup held => ?_, fun v running sup => fpreqWrite_asks v (inHandler_true running sup),
    fun v => user_writes_nothing v, fastPathMapDone_idle, fastPathMapDone_answers⟩
  · have landed := completeAccess_only mem only
    refine ⟨completeAccess (decide (a.lands ≠ [])) c a.id s, fun loads => ?_, fun stores => ?_, fun waits => ?_,
      fun s1 taken => ?_⟩
    · rw [exec_variableResultLand, execVariableResultLand, decide_eq_true loads]
    · rw [exec_cellAccessPerformed, execCellAccessPerformed, decide_eq_false (not_not.2 stores)]
    · rw [landed, waits]
      rfl
    · have state : completeAccess (decide (a.lands ≠ [])) c a.id s = s1.updAt c (landAccess a) := by
        rw [landed, taken]
        rfl
      rw [state]
      exact ⟨rfl, landAccess_at only (takeResponse_cells taken)⟩
  · refine ⟨evictLine s c line, exec_evictLine s c line, ?_⟩
    rw [evictLine_lines]
    exact ⟨fun l mem other => mem_evicted.2 (.inl ⟨mem, other⟩), fun i below => evictLine_mem s c line below,
      evicted_line_iff, fun m mem tag => evicted_line mem tag⟩
  · have handler := inHandler_true running sup
    exact ⟨⟨_, efctlResume_held handler held, rfl⟩, efctlAbandon_ends handler held⟩

end Sys2Proof.Machine
end

section
/-! REFUTATION of O59: a cell whose save waits for the emergency area issues nothing (R212). -/

namespace Sys2Proof.Machine

/-- TRET with EB, alone in its bundle. -/
def tretWord : BitVec 80 := 0x80000314000000000000

def tretInstr : Instr := .tret ⟨1, 0, 0, 0, 0, 0⟩ ⟨0, 0, 0, 0, 0, 0, 0, 0⟩

/-- Cell 0 stands at the TRET in user mode, and its save waits for the emergency area. -/
def savingAtTret : State :=
  let s := State.reset.withFetchWord 80 tretWord.toNat
  { s with tasks := { s.tasks with saving := [0] } }

/-- A cell whose save waits for the emergency area takes no turn (R212). -/
theorem step_of_saving {s : State} (agenda : s.agenda = []) (saving : s.cur ∈ s.tasks.saving) : step s = .next (clockStep s) := by
  have turn : takeTurn (clockStep s) = (.cell s.cur, clockStep s) := by
    rw [takeTurn, show (clockStep s).agenda = [] from agenda]
    rfl
  have stands : (!cellLive (clockStep s) s.cur || decide (s.cur ∈ (clockStep s).tasks.saving)) = true := by
    rw [decide_eq_true (show s.cur ∈ (clockStep s).tasks.saving from saving), Bool.or_true]
  rw [step, turn]
  show cellTurn (clockStep s) s.cur = _
  rw [cellTurn]
  exact if_pos stands

/-- What a bundle fetched at the counter has to meet for its one word, the TRET, to issue in a machine in which it traps. -/
def tretFetched (s1 : State) (r : List (BitVec 80) × State) : Bool :=
  let spent := spendPd r.2 0 (Header.parse tretWord).pd.toNat
  let held := updPipe spent 0 fun p => { p with seq := (s1.cellAt 0).pipe.pc + BitVec.ofNat 32 r.1.length }
  decide (tretWord ∈ r.1) && (bundleForm r.1 (s1.cellAt 0).pipe.pc).isNone &&
    decide (toIssue (r.2.cellAt 0) (r.1.map formWord) = [formWord tretWord]) && (pendingEvent spent 0).isNone &&
    !bundleWaits (spent.cellAt 0) [formWord tretWord] &&
    match exec tretInstr held with
    | .next t => decide (t.cell.verdict = .trapped)
    | _ => false

theorem ok_of_toOption_any {ε α : Type} {x : Except ε α} {p : α → Bool} (h : x.toOption.any p = true) : ∃ a, x = .ok a ∧ p a = true := by
  cases x with
  | error _ => cases h
  | ok a => exact ⟨a, rfl, h⟩

/-- The machine in which a bundle is fetched, after one issue cycle. -/
def afterIssueCycle (s : State) (c : BitVec 9) : State := { drainM (issueCycle s c) c with cur := c }

theorem savingAtTret_fetched :
    (bundleWords 0 (2 ^ 32) (afterIssueCycle (clockStep savingAtTret) 0)
      ((afterIssueCycle (clockStep savingAtTret) 0).cellAt 0).pipe.pc).toOption.any
        (tretFetched (afterIssueCycle (clockStep savingAtTret) 0)) = true := by
  decide +kernel

theorem savingAtTret_alone : Alone (clockStep savingAtTret) 0 := by
  unfold Alone
  decide +kernel

/-- The TRET is fetched, and traps. -/
theorem savingAtTret_traps : ∃ held t, Fetched (clockStep savingAtTret) 0 tretWord held ∧ exec tretInstr held = .next t ∧
    t.cell.verdict = .trapped := by
  obtain ⟨r, words, fetched⟩ := ok_of_toOption_any savingAtTret_fetched
  simp only [tretFetched, Bool.and_eq_true, decide_eq_true_eq, Option.isNone_iff_eq_none, Bool.not_eq_true'] at fetched
  obtain ⟨⟨⟨⟨⟨mine, form⟩, due⟩, still⟩, free⟩, ran⟩ := fetched
  split at ran
  next t done =>
    exact ⟨_, t, ⟨r.1, r.2, by decide +kernel, words, mine, form, due, still, free, rfl⟩, done, of_decide_eq_true ran⟩
  next => cases ran

/-- Refutes O59, in its clause that a word that traps leaves its trap: cell 0 stands at a TRET in user mode and its save waits for
the emergency area. Neither `Alone` nor `Fetched` leaves such a cell out (`pendingEvent` is none for it, R212), the TRET would take
PRIVILEGE, and the step does nothing. -/
theorem not_stepRunsTheDecodedWord : ¬ Obligations.StepRunsTheDecodedWord := by
  unfold Obligations.StepRunsTheDecodedWord
  rintro ⟨one, -⟩
  obtain ⟨held, t, fetched, ran, trap⟩ := savingAtTret_traps
  obtain ⟨-, -, leaves, -⟩ := one savingAtTret held t tretWord tretInstr rfl savingAtTret_alone fetched (by decide +kernel) ran
  have same : clockStep savingAtTret = t.mark 0 .trapped := by
    have stepped := leaves trap
    rw [step_of_saving rfl (by decide +kernel)] at stepped
    exact Host.Outcome.next.inj stepped
  have marked : ((t.mark 0 .trapped).cellAt 0).verdict = .trapped := congrArg Cell.verdict (State.updAt_cellAt t 0 _)
  rw [← same] at marked
  exact absurd marked (by decide +kernel)

end Sys2Proof.Machine
end

section
/-! PROOF of O12: control registers are read and written by a program (R111, R317, R355, R410). -/

namespace Sys2Proof.Machine

/-! ### How CRWR, CRSET and CRCLR issue (R111, R317) -/

/-- What CRSET, or else CRCLR, writes back over the old value (R355). -/
def crUpdated (set : Bool) (old v : Word) : Word := if set then old ||| v else old &&& ~~~v

/-- A write of a register of the cell is a result in flight (R317); a register of the package is written at the issue (log 47). -/
theorem finish_by_owner (s t : State) (n : Nat) (l : List InFlight) :
    (crLocal n = true → finish s (if crLocal n then .go (s.push l) else .go t) = .next (issued s l)) ∧
    (crLocal n = false → finish s (if crLocal n then .go (s.push l) else .go t) = .next (t.mark s.cur .issued)) :=
  ⟨fun here => congrArg (finish s) (if_pos here), fun elsewhere => congrArg (finish s) (if_neg (Bool.eq_false_iff.1 elsewhere))⟩

section
variable {h : Header} {o : CS} {s : State}

/-- A CRWR that the register's map allows. -/
theorem execCrwr_allowed (p : Plain h s) (w : (Instr.crwr h o).WellFormed)
    (allowed : crPrivileged o.cr.toNat = true → s.cell.sup = true) :
    (crLocal o.cr.toNat = true →
      exec (.crwr h o) s = .next (issued s (inFlight h 1 0 [.cr o.cr (s.cell.rdS o.sa)]))) ∧
    (crLocal o.cr.toNat = false →
      exec (.crwr h o) s = .next ((crWritePkg s s.cur o.cr.toNat (s.cell.rdS o.sa)).mark s.cur .issued)) := by
  rw [exec_crwr, execCrwr, issueWord_plain p (check_crwr w) (fun _ => rfl) allowed]
  exact finish_by_owner _ _ _ _

/-- A CRSET or CRCLR that the register's map allows: one of the package is read and written at the issue. -/
theorem crUpdate_allowed (set : Bool) (p : Plain h s) (legal : (slotC h && csCr o) = true)
    (allowed : crPrivileged o.cr.toNat = true → s.cell.sup = true) :
    (crLocal o.cr.toNat = true → crUpdate set h o s = .next (issued s (inFlight h 1 0
      [.rmw o.cr set (s.cell.rdS o.sa) o.sd (s.cell.sup && decide (48 ≤ o.sd.toNat))]))) ∧
    (crLocal o.cr.toNat = false → crUpdate set h o s = .next (((crWritePkg s s.cur o.cr.toNat
        (crUpdated set (crRead s s.cur o.cr.toNat) (s.cell.rdS o.sa))).push
      (inFlight h 1 0 [s.cell.dstS o.sd (crRead s s.cur o.cr.toNat)])).mark s.cur .issued)) := by
  rw [crUpdate, issueWord_plain p legal (fun _ => rfl) allowed]
  exact finish_by_owner _ _ _ _

/-- A write reserved to supervisor mode takes PRIVILEGE in user mode, whatever the write would do (R111). -/
theorem issueWord_reserved {legal handler tags priv : Bool} {body : Cell → Issue} (p : Plain h s) (w : legal = true)
    (denied : ¬ (priv = true → s.cell.sup = true)) :
    issueWord h legal handler priv tags s body = .next (trapped s (trapOf cPrivilege (h.slot.zeroExtend 64))) := by
  obtain ⟨reserved, user⟩ := Classical.not_imp.1 denied
  rw [reserved]
  exact issueWord_privilege p.wait w (Bool.eq_false_iff.2 user)

end

/-! ### What a read-and-write leaves when it lands (R355) -/

section
variable (c : Cell) (n : BitVec 12) (set : Bool) (v : Word) (sd : BitVec 6)

/-- The old value lands in a scalar register of the task's own bank. -/
theorem land_rmw_scalar (nonzero : sd ≠ 0) : (c.land (.rmw n set v sd false)).regs.s.rd sd = c.crGet n.toNat := by
  simp only [Cell.land, Bool.false_eq_true, if_false, Regs.land, if_neg nonzero, Reg.rd_wr_same]

/-- The register is left as a CRWR of the updated value leaves it. -/
theorem land_rmw_crGet (m : Nat) :
    (c.land (.rmw n set v sd false)).crGet m = (c.land (.cr n (crUpdated set (c.crGet n.toNat) v))).crGet m := rfl

/-- The FIRED bits of NXCTL are written one to clear: CRSET writes a one to each that is set (R5, R355). -/
theorem land_rmw_nxctl :
    (c.land (.rmw 0x051 true v sd false)).nx.ctl = (c.nx.ctl ||| v) &&& 0xFFFF#64 := by
  have written : c.nx.ctl &&& ~~~(c.nx.ctl ||| v) = 0 := by
    ext i
    cases bit : c.nx.ctl[i] <;> simp [bit]
  show ((c.nx.ctl ||| v) &&& 0xFFFF#64) ||| (c.nx.ctl &&& ~~~(c.nx.ctl ||| v) &&& 0xFF0000#64) = _
  rw [written]
  simp

end

/-- Settles O12: each word by its checks, then by the owner of its register; the landing of CRSET and CRCLR by what it leaves in
the scalar and in the control register. -/
theorem controlRegistersComplete : Obligations.ControlRegistersComplete := by
  unfold Obligations.ControlRegistersComplete
  refine ⟨fun h s p o => ?_, fun c n v sd nonzero _ => ?_⟩
  · refine ⟨fun w => ?_, fun w => ?_, fun allowed => ⟨fun w => ?_, fun w => ?_, fun w => ?_⟩,
      fun denied => ⟨fun w => ?_, fun w => ?_, fun w => ?_⟩⟩
    · rw [exec_crrd, execCrrd]
      exact issueResults_plain p (check_crrd w) fun _ => rfl
    · rw [exec_rdtime, execRdtime]
      exact issueResults_plain p (check_rdtime w) fun _ => rfl
    · exact execCrwr_allowed p w allowed
    · rw [exec_crset, execCrset]
      exact crUpdate_allowed true p (check_crset w) allowed
    · rw [exec_crclr, execCrclr]
      exact crUpdate_allowed false p (check_crclr w) allowed
    · rw [exec_crwr, execCrwr]
      exact issueWord_reserved p (check_crwr w) denied
    · rw [exec_crset, execCrset, crUpdate]
      exact issueWord_reserved p (check_crset w) denied
    · rw [exec_crclr, execCrclr, crUpdate]
      exact issueWord_reserved p (check_crclr w) denied
  · exact ⟨fun set => land_rmw_scalar c n set v sd nonzero, land_rmw_crGet c n true v sd n.toNat,
      land_rmw_crGet c n false v sd n.toNat, land_rmw_nxctl c v sd⟩

end Sys2Proof.Machine
end

section
/-! PROOF of O32: MLOOP and MEND trap as fetched code and repeat a body in a routine (R111, R388). -/

namespace Sys2Proof.Machine

/-! ### One word of a routine (R167, R388) -/

section
variable {ws : List (BitVec 80)} {i : Nat} {w : BitVec 80} {h : Header} {o : MC} {r : Routine}
variable (f : Nat) (loops : List (Nat × Nat)) (s : State)
variable (word : ws[i]? = some w) (header : routineHeader w = true)
include word header

/-- MEND with no loop open faults (R388). -/
theorem runRoutine_mend_nil (decoded : decode w = .ok (.mend h o)) : runRoutine ws (f + 1) i [] s r = (s, r, some i) := by
  simp [runRoutine, runWords, word, header, decoded, routineCost]

variable (count : r.count ≤ 4096)
include count

/-- MLOOP costs no matrix cycle: it faults, or opens a level at its own index (R388). -/
theorem runRoutine_mloop (decoded : decode w = .ok (.mloop h o)) :
    runRoutine ws (f + 1) i loops s r =
      if o.n = 0 ∨ 4 ≤ loops.length then (s, r, some i)
      else runRoutine ws f (i + 1) ((i, o.n.toNat) :: loops) s r := by
  simp [runRoutine, runWords, word, header, decoded, routineCost, count]

/-- MEND goes back to the first word of the innermost body while passes are left, and closes the level after the last
(R388). -/
theorem runRoutine_mend_cons (decoded : decode w = .ok (.mend h o)) (b n : Nat) :
    runRoutine ws (f + 1) i ((b, n) :: loops) s r =
      if 1 < n then runRoutine ws f (b + 1) ((b, n - 1) :: loops) s r else runRoutine ws f (i + 1) loops s r := by
  simp [runRoutine, runWords, word, header, decoded, routineCost, count]

end

/-- Settles O32: fetched as code neither word is legal; in a routine MLOOP by its count and the levels open, MEND by
the innermost level and its passes. -/
theorem routineLoops : Obligations.RoutineLoops := by
  unfold Obligations.RoutineLoops
  refine ⟨fun h o s free untagged => ?_, fun ws f i loops s r w h o word header count => ⟨fun decoded => ?_, fun decoded => ?_⟩⟩
  · have wait : tagWait h s.cell = false := by simp [tagWait, free, untagged]
    rw [exec_mloop, execMloop, exec_mend, execMend]
    exact ⟨issueWord_illegal wait (.inl rfl), issueWord_illegal wait (.inl rfl)⟩
  · rw [runRoutine_mloop f loops s word header count decoded]
    exact ⟨fun some_ room => if_neg (not_or.2 ⟨some_, Nat.not_le.2 room⟩), fun bad => if_pos bad⟩
  · refine ⟨?_, ?_⟩
    · rintro rfl
      exact runRoutine_mend_nil f s word header decoded
    · rintro b n rest rfl
      rw [runRoutine_mend_cons f rest s word header count decoded]
      exact ⟨fun again => if_pos again, fun last => if_neg (Nat.not_lt.2 last)⟩

end Sys2Proof.Machine
end

section
/-! PROOF of O24: on integer types the exact result of a lane operation is the integer result (R128, R425). -/

namespace Sys2Proof.Machine

/-! ### Values that are integers -/

/-- The value stands for the integer `x`: a significand with exponent 0, which is how lanes of integer types are read. -/
def FV.IsInt (v : FV) (x : Int) : Prop := ∃ neg m, v = .fin neg m 0 ∧ x = if neg then -(m : Int) else m

theorem scaled_same (neg : Bool) (m : Nat) (e : Int) : scaled neg m e e = if neg then -(m : Int) else m := by
  simp [scaled]

theorem FV.isInt_ofInt (x : Int) : (FV.ofInt x).IsInt x := by
  refine ⟨decide (x < 0), x.natAbs, rfl, ?_⟩
  simp only [decide_eq_true_eq]
  split <;> omega

theorem FV.isInt_ofBits {ty : Nat} (integer : 6 ≤ ty) (bits : Nat) : (FV.ofBits ty bits).IsInt (laneInt ty bits) := by
  have float : isFloat ty = false := decide_eq_false (by omega)
  unfold FV.ofBits laneInt
  rw [float]
  cases isSigned ty <;> exact isInt_ofInt _

section
variable {v u : FV} {x y : Int}

theorem FV.IsInt.isSig (hv : v.IsInt x) : v.isSig = false := by
  obtain ⟨_, _, rfl, -⟩ := hv
  rfl

theorem FV.IsInt.sigEvent (hv : v.IsInt x) : sigEvent v = 0 := if_neg (by rw [hv.isSig]; decide)

theorem FV.IsInt.neg (hv : v.IsInt x) : v.neg.IsInt (-x) := by
  obtain ⟨n, m, rfl, rfl⟩ := hv
  exact ⟨!n, m, rfl, by cases n <;> simp⟩

theorem FV.IsInt.mul (hv : v.IsInt x) (hu : u.IsInt y) : (v.mul u).1.IsInt (x * y) ∧ (v.mul u).2 = 0 := by
  obtain ⟨n, m, rfl, rfl⟩ := hv
  obtain ⟨k, l, rfl, rfl⟩ := hu
  exact ⟨⟨n != k, m * l, rfl, by cases n <;> cases k <;> simp⟩, rfl⟩

theorem FV.IsInt.add (hv : v.IsInt x) (hu : u.IsInt y) (rdn : Bool) :
    (v.add rdn u).1.IsInt (x + y) ∧ (v.add rdn u).2 = 0 := by
  obtain ⟨n, m, rfl, hx⟩ := hv
  obtain ⟨k, l, rfl, hy⟩ := hu
  simp only [FV.add, min_self, scaled_same, ← hx, ← hy]
  split
  next zero => exact ⟨⟨_, 0, rfl, by simp [zero]⟩, rfl⟩
  next => exact ⟨isInt_ofInt _, rfl⟩

end

/-! ### A lane operation on integers -/

theorem intBounds_le (ty : Nat) : (intBounds ty).1 ≤ (intBounds ty).2 := by
  have half := Nat.two_pow_pos (widthOf ty - 1)
  have full := Nat.two_pow_pos (widthOf ty)
  unfold intBounds
  split <;> dsimp only <;> omega

/-- What an integer type makes of an integer without a conversion (R128). -/
theorem narrow_integer {ty : Nat} (integer : 6 ≤ ty) (mode : Nat) (sat : Bool) {v : FV} {x : Int} (hv : v.IsInt x) :
    narrow ty mode sat false false v =
      if (intBounds ty).1 ≤ x ∧ x ≤ (intBounds ty).2 then (wrap (widthOf ty) x, 0)
      else if sat then (wrap (widthOf ty) (if x < (intBounds ty).1 then (intBounds ty).1 else (intBounds ty).2), evSaturate)
      else (wrap (widthOf ty) x, 0) := by
  have float : isFloat ty = false := decide_eq_false (by omega)
  obtain ⟨n, m, rfl, rfl⟩ := hv
  simp [narrow, float, roundAt]

/-- A lane whose exact result is an integer and counts nothing: wrapped, or the bound passed, which counts saturate (R128). -/
theorem arithLane_integer {ty : Nat} (integer : 6 ≤ ty) {mode : Nat} {op : LaneOp} {a b c : FV} {x : Int}
    (result : (exactOp op (decide (mode = 2)) a b c).1.IsInt x ∧ (exactOp op (decide (mode = 2)) a b c).2 = 0) :
    arithLane op ty mode false false 0 a b c = (wrap (widthOf ty) x, 0) ∧
    ((intBounds ty).1 ≤ x → x ≤ (intBounds ty).2 → arithLane op ty mode true false 0 a b c = (wrap (widthOf ty) x, 0)) ∧
    ((intBounds ty).2 < x → arithLane op ty mode true false 0 a b c = (wrap (widthOf ty) (intBounds ty).2, evSaturate)) ∧
    (x < (intBounds ty).1 → arithLane op ty mode true false 0 a b c = (wrap (widthOf ty) (intBounds ty).1, evSaturate)) := by
  obtain ⟨value, quiet⟩ := result
  have unscaled : ∀ {v : FV}, v.IsInt x → (v.scale 0).IsInt x := by
    rintro _ ⟨n, m, rfl, hx⟩
    exact ⟨n, m, rfl, hx⟩
  have lane_ : ∀ sat, arithLane op ty mode sat false 0 a b c =
      narrow ty mode sat false false ((exactOp op (decide (mode = 2)) a b c).1.scale 0) := fun sat => by
    simp only [arithLane, finishLane, quiet]
    simp
  have bounds := intBounds_le ty
  simp only [lane_, narrow_integer integer _ _ (unscaled value)]
  refine ⟨by simp, fun low high => if_pos ⟨low, high⟩, fun above => ?_, fun below => ?_⟩
  · rw [if_neg (by omega), if_pos trivial, if_neg (by omega)]
  · rw [if_neg (by omega), if_pos trivial, if_pos below]

section
variable {a b c : FV} {x y z : Int} (ha : a.IsInt x) (hb : b.IsInt y) (hc : c.IsInt z) (rdn : Bool)
include ha hb

theorem exactOp_add_integer : (exactOp .add rdn a b c).1.IsInt (x + y) ∧ (exactOp .add rdn a b c).2 = 0 := by
  obtain ⟨sum, quiet⟩ := ha.add hb rdn
  exact ⟨sum, by simp [exactOp, quiet, ha.sigEvent, hb.sigEvent]⟩

theorem exactOp_sub_integer : (exactOp .sub rdn a b c).1.IsInt (x - y) ∧ (exactOp .sub rdn a b c).2 = 0 := by
  obtain ⟨sum, quiet⟩ := ha.add hb.neg rdn
  exact ⟨sum, by simp [exactOp, quiet, ha.sigEvent, hb.sigEvent]⟩

theorem exactOp_mul_integer : (exactOp .mul rdn a b c).1.IsInt (x * y) ∧ (exactOp .mul rdn a b c).2 = 0 := by
  obtain ⟨product_, quiet⟩ := ha.mul hb
  exact ⟨product_, by simp [exactOp, quiet, ha.sigEvent, hb.sigEvent]⟩

include hc

theorem exactOp_fma_integer : (exactOp .fma rdn a b c).1.IsInt (x * y + z) ∧ (exactOp .fma rdn a b c).2 = 0 := by
  obtain ⟨product_, quiet⟩ := ha.mul hb
  obtain ⟨sum, still⟩ := product_.add hc rdn
  exact ⟨sum, by simp [exactOp, quiet, still, ha.sigEvent, hb.sigEvent, hc.sigEvent]⟩

end

/-- Settles O24: the four operations are exact on integers, and the bounds of the type decide what the lane takes. -/
theorem integerLanes : Obligations.IntegerLanes := by
  unfold Obligations.IntegerLanes
  intro ty mode a b c op integer _
  have lane_ := FV.isInt_ofBits integer
  have width : ∀ x, wrap (widthOf ty) x = (x % 2 ^ widthOf ty).toNat := fun x => by rw [wrap]; norm_cast
  simp only [← width]
  cases op with
  | add => exact arithLane_integer integer (exactOp_add_integer (lane_ a) (lane_ b) _)
  | sub => exact arithLane_integer integer (exactOp_sub_integer (lane_ a) (lane_ b) _)
  | mul => exact arithLane_integer integer (exactOp_mul_integer (lane_ a) (lane_ b) _)
  | fma => exact arithLane_integer integer (exactOp_fma_integer (lane_ a) (lane_ b) (lane_ c) _)

end Sys2Proof.Machine
end

section
/-! PROOF of O25: rounding to an integer, and the choice of VMIN and VMAX (R126, R130). -/

namespace Sys2Proof.Machine

/-! ### Rounding (R126) -/

/-- Whether a mode rounds the magnitude `n` up when `r` of `p` units lie above it (R126). -/
def RoundsUp (mode : Nat) (neg : Bool) (n r p : Nat) : Prop :=
  match mode with
  | 0 => p < 2 * r ∨ (2 * r = p ∧ n % 2 = 1)
  | 1 => False
  | 2 => neg = true ∧ r ≠ 0
  | 3 => neg = false ∧ r ≠ 0
  | _ => r ≠ 0 ∧ p ≤ 2 * r

theorem not_roundsUp_zero (mode : Nat) (neg : Bool) (n : Nat) {p : Nat} (pos : 0 < p) : ¬ RoundsUp mode neg n 0 p := by
  intro up
  unfold RoundsUp at up
  split at up
  · omega
  · exact up
  · exact up.2 rfl
  · exact up.2 rfl
  · exact up.1 rfl

section
variable (mode : Nat) (neg : Bool) (m d : Nat)

theorem roundShift_inexact : (roundShift mode neg m d).2 = decide (m % 2 ^ d ≠ 0) := rfl

/-- The rounded magnitude is the lower neighbour, or the upper one where the mode rounds up. -/
theorem roundShift_neighbour : (roundShift mode neg m d).1 = m / 2 ^ d ∧ ¬ RoundsUp mode neg (m / 2 ^ d) (m % 2 ^ d) (2 ^ d) ∨
    (roundShift mode neg m d).1 = m / 2 ^ d + 1 ∧ RoundsUp mode neg (m / 2 ^ d) (m % 2 ^ d) (2 ^ d) := by
  unfold roundShift RoundsUp
  rw [Nat.shiftRight_eq_div_pow]
  split <;> dsimp only <;> split <;> simp_all

end

/-- The distance of two numbers of one sign is that of their magnitudes. -/
theorem signed_distance (neg : Bool) (n p m : Nat) :
    (if neg then -(n : Int) else n) * (p : Int) - (if neg then -(m : Int) else m) =
      if neg then -((n * p : Nat) - (m : Int)) else (n * p : Nat) - (m : Int) := by
  cases neg <;> simp only [Bool.false_eq_true, if_false, if_true] <;> push_cast <;> ring

/-- The lower neighbour lies the rest below the value, the upper one what is left of the unit above it. -/
theorem multiple_of_neighbour {n q p : Nat} {up : Prop} (neighbour : n = q ∧ ¬ up ∨ n = q + 1 ∧ up) :
    n * p = q * p ∧ n = q ∧ ¬ up ∨ n * p = q * p + p ∧ n = q + 1 ∧ up := by
  rcases neighbour with ⟨rfl, down⟩ | ⟨rfl, up⟩
  · exact .inl ⟨rfl, rfl, down⟩
  · exact .inr ⟨Nat.succ_mul _ _, rfl, up⟩

/-- What R126 asks of a mode follows where the magnitude `n` is the neighbour of `m / p` that the mode names. -/
theorem rounding_of_neighbour {mode : Nat} {neg : Bool} {m n p : Nat} (pos : 0 < p)
    (neighbour : n = m / p ∧ ¬ RoundsUp mode neg (m / p) (m % p) p ∨ n = m / p + 1 ∧ RoundsUp mode neg (m / p) (m % p) p) :
    let y : Int := if neg then -(n : Int) else n
    let x : Int := if neg then -(m : Int) else m
    (n = m / p ∨ n = m / p + 1) ∧
    (m % p = 0 → n * p = m) ∧
    (mode = 0 ∨ mode = 4 → 2 * (y * p - x).natAbs ≤ p) ∧
    (mode = 0 → 2 * (y * p - x).natAbs = p → n % 2 = 0) ∧
    (mode = 4 → 2 * (y * p - x).natAbs = p → m < n * p) ∧
    (mode = 1 → n * p ≤ m) ∧ (mode = 2 → y * p ≤ x) ∧ (mode = 3 → x ≤ y * p) := by
  intro y x
  have distance := signed_distance neg n p m
  change y * p - x = _ at distance
  have whole : m / p * p + m % p = m := Nat.div_add_mod' m p
  have rest := Nat.mod_lt m pos
  have product_ := multiple_of_neighbour (p := p) neighbour
  have size : (y * p - x).natAbs = ((n * p : Nat) - (m : Int)).natAbs := by rw [distance]; split <;> simp only [Int.natAbs_neg]
  clear_value x y
  generalize n * p = t at *
  generalize m / p * p = u at *
  generalize m / p = q at *
  generalize m % p = r at *
  rw [size]
  refine ⟨by tauto, ?_, ?_, ?_, ?_, ?_, ?_, ?_⟩
  · rintro rfl
    have exact_ := not_roundsUp_zero mode neg q pos
    simp only [exact_, not_false_eq_true, and_true, and_false, or_false] at product_
    omega
  · rintro (rfl | rfl) <;> simp only [RoundsUp] at product_ <;> omega
  · rintro rfl
    simp only [RoundsUp] at product_
    omega
  · rintro rfl
    simp only [RoundsUp] at product_
    omega
  · rintro rfl
    simp only [RoundsUp, not_false_eq_true, and_true, and_false, or_false] at product_
    omega
  · rintro rfl
    cases neg <;> simp [RoundsUp] at distance product_ <;> omega
  · rintro rfl
    cases neg <;> simp [RoundsUp] at distance product_ <;> omega

/-! ### Order and choice (R130) -/

theorem FV.cmp_self (a : FV) : a.cmp a = 0 := by
  cases a <;> simp [FV.cmp]

theorem FV.cmp_swap (a b : FV) : b.cmp a = -a.cmp b := by
  cases a with
  | nan => cases b with
    | inf neg => cases neg <;> rfl
    | _ => rfl
  | inf na => cases b with
    | inf nb => cases na <;> cases nb <;> rfl
    | _ => cases na <;> rfl
  | fin na ma ea => cases b with
    | nan => rfl
    | inf nb => cases nb <;> rfl
    | fin nb mb eb =>
      simp only [FV.cmp, min_comm eb ea]
      generalize scaled na ma ea (min ea eb) = x
      generalize scaled nb mb eb (min ea eb) = y
      rcases lt_trichotomy x y with less | rfl | more
      · rw [if_neg less.not_gt, if_neg less.ne', if_pos less]
        rfl
      · simp
      · rw [if_pos more, if_neg more.not_gt, if_neg more.ne']

theorem FV.cmp_zeros {a b : FV} (ha : a.isZero = true) (hb : b.isZero = true) : a.cmp b = 0 := by
  cases a with
  | fin na ma ea => cases b with
    | fin nb mb eb =>
      simp only [FV.isZero, decide_eq_true_eq] at ha hb
      subst ha hb
      simp [FV.cmp, scaled]
    | _ => cases hb
  | _ => cases ha

theorem FV.isNaN_of_isZero {a : FV} (ha : a.isZero = true) : a.isNaN = false := by
  cases a with
  | fin => rfl
  | _ => cases ha

/-- `a` is the one of two numbers that comes first: the smaller, and of equal ones a negative `a`. -/
def FV.first (a b : FV) : Bool := decide (a.cmp b < 0) || (decide (a.cmp b = 0) && a.isNeg)

section
variable (isMax : Bool) {a b : FV}

theorem pick_nans (ha : a.isNaN = true) (hb : b.isNaN = true) : pick isMax a b = .nan false := by
  simp [pick, ha, hb]

theorem pick_nan_left (ha : a.isNaN = true) (hb : b.isNaN = false) : pick isMax a b = b := by
  simp [pick, ha, hb]

theorem pick_nan_right (ha : a.isNaN = false) (hb : b.isNaN = true) : pick isMax a b = a := by
  simp [pick, ha, hb]

theorem pick_numbers (ha : a.isNaN = false) (hb : b.isNaN = false) :
    pick isMax a b = if a.first b != isMax then a else b := by
  simp [pick, FV.first, ha, hb]

theorem pick_operand (ha : a.isNaN = false) (hb : b.isNaN = false) : pick isMax a b = a ∨ pick isMax a b = b := by
  rw [pick_numbers isMax ha hb]
  split
  · exact .inl rfl
  · exact .inr rfl

end

section
variable {a b : FV} (ha : a.isNaN = false) (hb : b.isNaN = false)

theorem FV.cmp_of_first (less : a.first b = true) : a.cmp b ≤ 0 := by
  simp only [FV.first, Bool.or_eq_true, Bool.and_eq_true, decide_eq_true_eq] at less
  omega

theorem FV.cmp_of_not_first (more : a.first b = false) : 0 ≤ a.cmp b := by
  simp only [FV.first, Bool.or_eq_false_iff, decide_eq_false_iff_not] at more
  omega

include ha hb

/-- The minimum lies above no operand. -/
theorem pick_min_le : (pick false a b).cmp a ≤ 0 ∧ (pick false a b).cmp b ≤ 0 := by
  rw [pick_numbers false ha hb]
  have swap := FV.cmp_swap a b
  cases less : a.first b with
  | true => exact ⟨(FV.cmp_self a).le, FV.cmp_of_first less⟩
  | false =>
    have more := FV.cmp_of_not_first less
    exact ⟨by change b.cmp a ≤ 0; omega, (FV.cmp_self b).le⟩

/-- The maximum lies below no operand. -/
theorem le_pick_max : 0 ≤ (pick true a b).cmp a ∧ 0 ≤ (pick true a b).cmp b := by
  rw [pick_numbers true ha hb]
  have swap := FV.cmp_swap a b
  cases less : a.first b with
  | true =>
    have below := FV.cmp_of_first less
    exact ⟨by change 0 ≤ b.cmp a; omega, (FV.cmp_self b).ge⟩
  | false => exact ⟨(FV.cmp_self a).ge, FV.cmp_of_not_first less⟩

end

/-- Of two zeros the minimum is a negative one, the maximum a positive one, where there is such. -/
theorem pick_zeros (isMax : Bool) {a b : FV} (ha : a.isZero = true) (hb : b.isZero = true) :
    (pick isMax a b).isNeg = if isMax then a.isNeg && b.isNeg else a.isNeg || b.isNeg := by
  have order : a.first b = a.isNeg := by simp [FV.first, FV.cmp_zeros ha hb]
  rw [pick_numbers isMax (FV.isNaN_of_isZero ha) (FV.isNaN_of_isZero hb), order]
  cases isMax <;> cases neg : a.isNeg <;> simp [neg]

/-- Settles O25: rounding through the neighbour that it takes, the choice case by case of the NaNs. -/
theorem roundingAndChoice : Obligations.RoundingAndChoice := by
  unfold Obligations.RoundingAndChoice
  refine ⟨fun neg m d mode _ => ?_, fun isMax a b => ⟨fun ha hb => by rw [pick_nans isMax ha hb]; rfl,
    pick_nan_left isMax, pick_nan_right isMax, fun ha hb => ⟨pick_operand isMax ha hb, ?_, ?_, pick_zeros isMax⟩⟩⟩
  · obtain ⟨neighbour, exact_, rules⟩ :=
      rounding_of_neighbour (Nat.two_pow_pos d) (roundShift_neighbour mode neg m d)
    push_cast at rules
    exact ⟨neighbour, by rw [roundShift_inexact, decide_eq_true_eq], exact_, rules⟩
  · rintro rfl
    exact pick_min_le ha hb
  · rintro rfl
    exact le_pick_max ha hb

end Sys2Proof.Machine
end

section
/-! PROOF of O26: VMIN, VMAX, VCMP, VCVT and the device functions (R119, R130, R131, R144, R147, R428 to R430, R434). -/

namespace Sys2Proof.Machine

/-! ### Rows of every type, the 4-bit ones too (R119, R125) -/

section
variable {t : BitVec 4} (known : tyAny t = true) (k : BitVec 256)
include known

theorem any_lanes : 0 < widthOf t.toNat ∧ widthOf t.toNat * lanesOf t.toNat = 2048 := by
  revert t
  decide

theorem getLsbD_maskRow_any {j : Nat} (h : j < 2048) :
    (maskRow t.toNat k).getLsbD j = k.getLsbD (j / max 8 (widthOf t.toNat)) := by
  cases nib : tyNib t with
  | false => exact getLsbD_maskRow (by rw [tyWide, known, nib]; rfl) k h
  | true =>
    have four : widthOf t.toNat = 4 := by
      simp only [tyNib, Bool.or_eq_true, decide_eq_true_eq] at nib
      rcases nib with rfl | rfl <;> rfl
    rw [maskRow, if_pos four, getLsbD_byteMask k j h, four]
    rfl

theorem lane_laneRow_any (f : Nat → Nat × BitVec 8) {i : Nat} (h : i < lanesOf t.toNat) (on : governed t.toNat k i = true) :
    lane (widthOf t.toNat) (laneRow t.toNat k f).1 i = (f i).1 % 2 ^ widthOf t.toNat := by
  obtain ⟨pos, whole⟩ := any_lanes known
  rw [laneRow, List.map_map]
  refine (lane_rowOf _ pos whole h).trans ?_
  rw [Function.comp_apply, if_pos on]

end

section
variable {h : Header} {s : State} (plain : Plain h s) (user : User s)
include plain user

/-- A vector word with a row of any type as its result writes the lanes that its mask governs. -/
theorem vecWord_writes_any {legal : Bool} {rows : List (BitVec 9 × Bool)} {n : Nat} {body : Cell → List Land × BitVec 8}
    {t : BitVec 4} {k : BitVec 256} {vd : BitVec 9} {f : Nat → Nat × BitVec 8} (known : tyAny t = true) (ok : legal = true)
    (free : RowsFree s rows) (result : body s.cell = rowResult t.toNat k vd f) :
    WritesLanes s h n t.toNat k vd f (vecWord h legal rows n s body) := by
  rw [vecWord_issues plain user ok free, result]
  exact ⟨_, _, _, rfl, fun j => getLsbD_maskRow_any known k, fun i => lane_laneRow_any known k f,
    fun b _ => events_laneRow _ _ _ b⟩

/-! ### Minimum and maximum (R434) -/

theorem vecPick_writes (isMax : Bool) {o : VR} (legal : (slotV h && vrMinMax o) = true)
    (free : RowsFree s [(o.vd, true), (o.va, false), (o.vb, false)]) :
    WritesLanes s h 2 o.ty.toNat (s.cell.rdK o.k) o.vd
      (fun i => pickLane isMax o.ty.toNat (srcA o (lane (widthOf o.ty.toNat) (s.cell.rdV o.va) i))
        (srcB o (lane (widthOf o.ty.toNat) (s.cell.rdV o.vb) (if o.bc = 1#2 then 0 else i))))
      (vecPick isMax h o s) := by
  have wide : tyWide o.ty = true := by
    simp only [vrMinMax, Bool.and_eq_true] at legal
    obtain ⟨-, ⟨⟨wide, -⟩, -⟩, -⟩ := legal
    exact wide
  exact vecWord_writes wide plain user legal free rfl

theorem vecPickImm_writes (isMax : Bool) {o : VI} (legal : (slotV h && viPlain o) = true)
    (free : RowsFree s [(o.vd, true), (o.va, false)]) :
    WritesLanes s h 2 o.ty.toNat (s.cell.rdK o.k) o.vd
      (fun i => pickLane isMax o.ty.toNat (FV.ofBits o.ty.toNat (lane (widthOf o.ty.toNat) (s.cell.rdV o.va) i))
        (FV.ofBits o.ty.toNat (immLane o.ty.toNat o.imm)))
      (vecPickImm isMax h o s) := by
  have wide : tyWide o.ty = true := by
    simp only [viPlain, Bool.and_eq_true] at legal
    obtain ⟨-, ⟨⟨⟨wide, -⟩, -⟩, -⟩, -⟩ := legal
    exact wide
  exact vecWord_writes wide plain user legal free rfl

/-! ### Conversion and device functions (R429, R430) -/

theorem execVcvt_writes {o : VR} (legal : (slotV h && vrCvt o) = true) (free : RowsFree s [(o.vd, true), (o.va, false)]) :
    WritesLanes s h 3 o.ty.toNat (s.cell.rdK o.k) o.vd
      (fun i => if i < lanesOf (o.vb.toNat % 16) then
          convLane o.ty.toNat (o.vb.toNat % 16) (cellMode s.cell o.rnd) (decide (o.sat = 1)) (decide (o.clamp = 1))
            (scaleExp o.scale) (unsignZero (o.vb.toNat % 16) (modify o.absA o.negA
              (FV.ofBits (o.vb.toNat % 16) (lane (widthOf (o.vb.toNat % 16)) (s.cell.rdV o.va) i))))
        else (0, 0))
      (execVcvt h o s) := by
  have known : tyAny o.ty = true := by
    simp only [vrCvt, Bool.and_eq_true] at legal
    obtain ⟨-, ⟨⟨⟨⟨⟨⟨⟨⟨known, -⟩, -⟩, -⟩, -⟩, -⟩, -⟩, -⟩, -⟩⟩ := legal
    exact known
  refine vecWord_writes_any plain user known legal free ?_
  have source : fld o.vb 0 4 = o.vb.toNat % 16 := by rw [fld_eq]; simp
  simp only [source]

theorem vecDev_writes (f : FV → FV × BitVec 8) {o : VR} (legal : (slotV h && vrDev o) = true)
    (free : RowsFree s [(o.vd, true), (o.va, false)]) :
    WritesLanes s h 8 o.ty.toNat (s.cell.rdK o.k) o.vd
      (fun i =>
        let a := srcA o (lane (widthOf o.ty.toNat) (s.cell.rdV o.va) i)
        let r := finishLane o.ty.toNat (cellMode s.cell o.rnd) (decide (o.sat = 1)) (decide (o.clamp = 1)) (scaleExp o.scale)
          (f a).1
        (r.1, r.2 ||| (f a).2 ||| sigEvent a))
      (vecDev f h o s) := by
  have low : o.ty.toNat ≤ 2 := by
    simp only [vrDev, Bool.and_eq_true, decide_eq_true_eq] at legal
    obtain ⟨-, ⟨⟨⟨⟨low, -⟩, -⟩, -⟩, -⟩, -⟩ := legal
    exact low
  have known : tyAny o.ty = true := by
    rw [tyAny, decide_eq_true_eq]
    omega
  exact vecWord_writes_any plain user known legal free rfl

end

/-! ### Comparison (R428) -/

theorem getLsbD_maskOfLanes {n i : Nat} (f : Nat → Bool) (h : i < 256) :
    (maskOfLanes n f).getLsbD i = (decide (i < n) && f i) := by
  rw [maskOfLanes, BitVec.getLsbD_ofNat, testBit_ofLanes 1 one_pos, Nat.div_one, Nat.mod_one]
  by_cases within : i < n
  · rw [getD_map_range _ within]
    cases f i <;> simp [h, within]
  · simp [within]

theorem getLsbD_sigEvent (x : FV) (n : Nat) : (sigEvent x).getLsbD n = (decide (n = 0) && x.isSig) := by
  unfold sigEvent
  cases x.isSig with
  | false => simp
  | true => simp [evInvalid, BitVec.getLsbD_one]

/-- The events of the unmasked lanes of a comparison: invalid, for a signalling NaN. -/
theorem getLsbD_sigEvents (n : Nat) (k : BitVec 256) (a b : Nat → FV) (j : Nat) :
    ((List.range n).foldl (fun e i => if bit k i then e ||| sigEvent (a i) ||| sigEvent (b i) else e) 0).getLsbD j = true ↔
      j = 0 ∧ ∃ i < n, k.getLsbD i = true ∧ ((a i).isSig = true ∨ (b i).isSig = true) := by
  have union : (fun (e : BitVec 8) i => if bit k i then e ||| sigEvent (a i) ||| sigEvent (b i) else e) =
      fun e i => e ||| if bit k i then sigEvent (a i) ||| sigEvent (b i) else 0 := by
    funext e i
    split <;> simp [BitVec.or_assoc]
  rw [union, getLsbD_foldl_or]
  constructor
  · rintro (none_ | ⟨i, bound, set⟩)
    · simp at none_
    · split at set
      next on =>
        simp only [BitVec.getLsbD_or, getLsbD_sigEvent, Bool.or_eq_true, Bool.and_eq_true, decide_eq_true_eq,
          ← and_or_left] at set
        exact ⟨set.1, i, List.mem_range.1 bound, on, set.2⟩
      next => simp at set
  · rintro ⟨rfl, i, bound, on, sig⟩
    refine .inr ⟨i, List.mem_range.2 bound, ?_⟩
    rw [if_pos (show bit k i = true from on), BitVec.getLsbD_or, getLsbD_sigEvent, getLsbD_sigEvent]
    simpa using sig

/-- Settles O26: each word is one of the shared forms, with its lane function. -/
theorem vectorChoiceAndFunctionsComplete : Obligations.VectorChoiceAndFunctionsComplete := by
  unfold Obligations.VectorChoiceAndFunctionsComplete
  intro h s plain user
  dsimp only
  refine ⟨fun o => ⟨fun free => ⟨fun wf => ?_, fun wf => ?_⟩, fun free wf => ?_,
    fun free => ⟨fun wf => ?_, fun wf => ?_, fun wf => ?_, fun wf => ?_, fun wf => ?_, fun wf => ?_⟩⟩,
    fun o free => ⟨fun wf => ?_, fun wf => ?_⟩⟩
  · rw [exec_vmin, execVmin]
    exact vecPick_writes plain user false (check_vmin wf) free
  · rw [exec_vmax, execVmax]
    exact vecPick_writes plain user true (check_vmax wf) free
  · rw [exec_vcmp, execVcmp, vecWord_issues plain user (check_vcmp wf) free]
    exact ⟨_, _, rfl, fun i => getLsbD_maskOfLanes _, fun j _ => getLsbD_sigEvents _ _ _ _ j⟩
  · rw [exec_vcvt]
    exact execVcvt_writes plain user (check_vcvt wf) free
  · rw [exec_vrcp, execVrcp]
    exact vecDev_writes plain user vrcp (check_vrcp wf) free
  · rw [exec_vrsq, execVrsq]
    exact vecDev_writes plain user vrsq (check_vrsq wf) free
  · rw [exec_vexp2, execVexp2]
    exact vecDev_writes plain user exp2Dev (check_vexp2 wf) free
  · rw [exec_vlog2, execVlog2]
    exact vecDev_writes plain user vlog2 (check_vlog2 wf) free
  · rw [exec_vtanh, execVtanh]
    exact vecDev_writes plain user vtanh (check_vtanh wf) free
  · rw [exec_vminImm, execVminImm]
    exact vecPickImm_writes plain user false (check_vminImm wf) free
  · rw [exec_vmaxImm, execVmaxImm]
    exact vecPickImm_writes plain user true (check_vmaxImm wf) free

end Sys2Proof.Machine
end

section
/-! PROOF of O27, part 1: one rounding to FP32 keeps what is a NaN and makes none (R123, R126, R147). -/

namespace Sys2Proof.Machine

/-! ### The magnitude of a rounded value -/

/-- A value `m·2^e` rounded to a multiple of 2^q, with 24 bits or fewer above that bit: at most 2^24 multiples, and at least 2^23
where the leading bit lies 23 places above. -/
theorem roundAt_bounds (mode : Nat) (neg : Bool) {m : Nat} {e q : Int} (pos : m ≠ 0) (high : (Nat.log2 m : Int) + e - 23 ≤ q) :
    (roundAt mode neg m e q).1 ≤ 2 ^ 24 ∧ (q = (Nat.log2 m : Int) + e - 23 → 2 ^ 23 ≤ (roundAt mode neg m e q).1) := by
  have low := Nat.log2_self_le pos
  have above := Nat.lt_log2_self (n := m)
  generalize Nat.log2 m = l at *
  unfold roundAt
  split
  next fine =>
    obtain ⟨d, shift⟩ : ∃ d : Nat, e - q = d := ⟨(e - q).toNat, by omega⟩
    rw [shift, Int.toNat_natCast, Nat.shiftLeft_eq]
    refine ⟨?_, fun at_ => ?_⟩
    · calc m * 2 ^ d ≤ 2 ^ (l + 1) * 2 ^ d := Nat.mul_le_mul_right _ above.le
        _ = 2 ^ (l + 1 + d) := (Nat.pow_add ..).symm
        _ ≤ 2 ^ 24 := Nat.pow_le_pow_right two_pos (by omega)
    · calc 2 ^ 23 = 2 ^ (l + d) := by congr 1; omega
        _ = 2 ^ l * 2 ^ d := Nat.pow_add ..
        _ ≤ m * 2 ^ d := Nat.mul_le_mul_right _ low
  next coarse =>
    obtain ⟨d, shift⟩ : ∃ d : Nat, q - e = d := ⟨(q - e).toNat, by omega⟩
    rw [shift, Int.toNat_natCast]
    have neighbour : m / 2 ^ d ≤ (roundShift mode neg m d).1 ∧ (roundShift mode neg m d).1 ≤ m / 2 ^ d + 1 := by
      rcases roundShift_neighbour mode neg m d with ⟨down, -⟩ | ⟨up, -⟩ <;> omega
    refine ⟨neighbour.2.trans (Nat.succ_le_of_lt (Nat.div_lt_of_lt_mul ?_)), fun at_ => le_trans ?_ neighbour.1⟩
    · calc m < 2 ^ (l + 1) := above
        _ ≤ 2 ^ (d + 24) := Nat.pow_le_pow_right two_pos (by omega)
        _ = 2 ^ d * 2 ^ 24 := Nat.pow_add ..
    · rw [Nat.le_div_iff_mul_le (Nat.two_pow_pos d), ← Nat.pow_add]
      exact (Nat.pow_le_pow_right two_pos (by omega)).trans low

theorem maxFinite_fp32 : maxFinite 0 = (16777215, 104) := by decide

/-- A magnitude that the largest finite FP32 value is not below. -/
theorem magLt_fp32 {r : Nat} {q : Int} (fits : magLt (maxFinite 0).1 (maxFinite 0).2 r q = false) :
    (104 < q → r * 2 ≤ 16777215) ∧ (q = 104 → r ≤ 16777215) := by
  rw [maxFinite_fp32] at fits
  have order : ¬ (FV.fin false 16777215 104).cmp (.fin false r q) < 0 := of_decide_eq_false fits
  have most : 104 ≤ q → r * 2 ^ (q - 104).toNat ≤ 16777215 := fun above => by
    simp only [FV.cmp, scaled, min_eq_left above, Bool.false_eq_true, if_false, Nat.shiftLeft_eq] at order
    split at order
    next => simp at order
    next le =>
      simp only [sub_self, Int.toNat_zero, pow_zero, mul_one] at le
      exact_mod_cast not_lt.1 le
  refine ⟨fun above => (Nat.mul_le_mul_left _ (Nat.le_self_pow (by omega) 2)).trans (most above.le), ?_⟩
  rintro rfl
  simpa using most le_rfl

/-! ### One rounding to FP32 -/

theorem lsbExp_fp32 : lsbExp 0 = -149 := by decide

/-- The bits of a finite magnitude end below those of the infinity. -/
theorem fp32_bits_lt {m r : Nat} {e q : Int} (at_ : q = max (lsbExp 0) ((Nat.log2 m : Int) + e - 23))
    (bounds : r ≤ 2 ^ 24 ∧ (q = (Nat.log2 m : Int) + e - 23 → 2 ^ 23 ≤ r))
    (fits : magLt (maxFinite 0).1 (maxFinite 0).2 r q = false) : (q - lsbExp 0).toNat * 2 ^ 23 + r < 255 * 2 ^ 23 := by
  obtain ⟨most, least⟩ := bounds
  obtain ⟨beyond, edge⟩ := magLt_fp32 fits
  rw [lsbExp_fp32] at at_ ⊢
  omega

/-- A finite value rounds to a finite one or to an infinity of its sign, and counts neither invalid nor NaN. -/
theorem f32r_fin (neg : Bool) (m : Nat) (e : Int) : ∃ t ≤ 255 * 2 ^ 23, (f32r (.fin neg m e)).1 = signBit 0 neg + t ∧
    (f32r (.fin neg m e)).2.getLsbD 0 = false ∧ (f32r (.fin neg m e)).2.getLsbD 4 = false := by
  by_cases zero : m = 0
  · subst zero
    exact ⟨0, by omega, rfl, BitVec.getLsbD_zero, BitVec.getLsbD_zero⟩
  obtain ⟨q, at_⟩ : ∃ q, q = max (lsbExp 0) ((Nat.log2 m : Int) + e - (manBits 0 : Int)) := ⟨_, rfl⟩
  have value : f32r (.fin neg m e) = if magLt (maxFinite 0).1 (maxFinite 0).2 (roundAt 0 neg m e q).1 q
      then (signBit 0 neg + infBits 0, evOverflow)
      else (signBit 0 neg + ((q - lsbExp 0).toNat * 2 ^ manBits 0 + (roundAt 0 neg m e q).1),
        if (roundAt 0 neg m e q).2 ∧ (roundAt 0 neg m e q).1 < 2 ^ manBits 0 then evUnderflow else 0) := by
    subst at_
    simp [f32r, narrow, isFloat, zero]
  rw [value]
  split
  next =>
    exact ⟨infBits 0, by decide, rfl, (by decide : evOverflow.getLsbD 0 = false), (by decide : evOverflow.getLsbD 4 = false)⟩
  next fits =>
    have bounds := roundAt_bounds 0 neg (q := q) zero (at_ ▸ le_max_right ..)
    refine ⟨_, (fp32_bits_lt at_ bounds (Bool.eq_false_iff.2 fits)).le, rfl, ?_, ?_⟩ <;> dsimp only <;> split <;> decide

theorem f32r_inf (neg : Bool) : f32r (.inf neg) = (signBit 0 neg + 255 * 2 ^ 23, 0) := rfl

/-- Of the events of one rounding, invalid is that of a signalling NaN, and NaN that of any. -/
theorem f32r_events (x : FV) : (f32r x).2.getLsbD 0 = x.isSig ∧ (f32r x).2.getLsbD 4 = x.isNaN := by
  cases x with
  | nan sig => cases sig <;> decide
  | inf neg => exact ⟨BitVec.getLsbD_zero, BitVec.getLsbD_zero⟩
  | fin neg m e =>
    obtain ⟨-, -, -, valid, number⟩ := f32r_fin neg m e
    exact ⟨valid, number⟩

/-- FP32 bits up to those of the infinities stand for no NaN. -/
theorem ofBits_number (neg : Bool) {t : Nat} (h : t ≤ 255 * 2 ^ 23) : (FV.ofBits 0 (signBit 0 neg + t)).isNaN = false := by
  have sign : signBit 0 neg = if neg then 2 ^ 31 else 0 := rfl
  have exponent : (signBit 0 neg + t) / 2 ^ 23 % 2 ^ 8 = 2 ^ 8 - 1 → (signBit 0 neg + t) % 2 ^ 23 = 0 := by
    rw [sign]
    split <;> omega
  have float : isFloat 0 = true := rfl
  simp only [FV.ofBits, float, if_true, manBits, fmtOf]
  split
  next e4m3 => exact absurd e4m3.1 (by decide)
  split
  next top => rw [if_pos (exponent top.2.2)]; rfl
  next => split <;> rfl

theorem FV.isSig_of_number {x : FV} (number : x.isNaN = false) : x.isSig = false := by
  cases x with
  | nan => cases number
  | _ => rfl

/-- Rounding to FP32 keeps what is a NaN, makes none, and leaves none that signals. -/
theorem rne_nan (x : FV) : (rne x).isNaN = x.isNaN ∧ (rne x).isSig = false := by
  cases x with
  | nan sig => exact ⟨(by decide : (FV.ofBits 0 0x7FC00000).isNaN = true), (by decide : (FV.ofBits 0 0x7FC00000).isSig = false)⟩
  | inf neg =>
    have number : (rne (.inf neg)).isNaN = false := ofBits_number neg le_rfl
    exact ⟨number, FV.isSig_of_number number⟩
  | fin neg m e =>
    obtain ⟨t, bound, bits, -, -⟩ := f32r_fin neg m e
    have number : (rne (.fin neg m e)).isNaN = false := by rw [rne, bits]; exact ofBits_number neg bound
    exact ⟨number, FV.isSig_of_number number⟩

end Sys2Proof.Machine
end

section
/-! PROOF of O27, part 2: the reduction of integer lanes and of float lanes (R130, R147, R437). -/

namespace Sys2Proof.Machine

/-! ### Integers -/

theorem widthOf_pos (ty : Nat) : 0 < widthOf ty := by
  unfold widthOf
  generalize BitVec.ofNat 4 ty = t
  revert t
  decide

/-- A lane lies within the bounds of its type. -/
theorem laneInt_bounds (ty x : Nat) : (intBounds ty).1 ≤ laneInt ty x ∧ laneInt ty x ≤ (intBounds ty).2 := by
  obtain ⟨w, width⟩ := Nat.exists_eq_succ_of_ne_zero (widthOf_pos ty).ne'
  have low := Nat.mod_lt x (Nat.two_pow_pos (w + 1))
  have half := Nat.two_pow_pos w
  unfold intBounds laneInt sgn
  rw [width, Nat.succ_sub_one]
  rw [Nat.pow_succ] at low ⊢
  generalize x % (2 ^ w * 2) = r at *
  split <;> dsimp only
  · split <;> omega
  · omega

/-- The least of a list and a number, folded from the left. -/
theorem foldl_min {α : Type} [LinearOrder α] (b : α) (l : List α) :
    l.foldl min b ≤ b ∧ (∀ x ∈ l, l.foldl min b ≤ x) ∧ (l.foldl min b = b ∨ l.foldl min b ∈ l) := by
  induction l generalizing b with
  | nil => simp
  | cons x l ih =>
    obtain ⟨start, least, mem⟩ := ih (min b x)
    rw [List.foldl_cons]
    refine ⟨start.trans (min_le_left _ _), fun y hy => ?_, ?_⟩
    · rcases List.mem_cons.1 hy with rfl | hy
      · exact start.trans (min_le_right _ _)
      · exact least y hy
    · rcases mem with eq | mem
      · rcases min_choice b x with e | e
        · exact .inl (eq.trans e)
        · exact .inr (List.mem_cons.2 (.inl (eq.trans e)))
      · exact .inr (List.mem_cons_of_mem _ mem)

/-- The least lane, or the start, which no lane lies above. -/
theorem foldl_min_lanes {α : Type} [LinearOrder α] (f : Nat → α) (b : α) (bound : ∀ x, f x ≤ b) (xs : List Nat) :
    (xs = [] → (xs.map f).foldl min b = b) ∧ (∀ x ∈ xs, (xs.map f).foldl min b ≤ f x) ∧
      (xs ≠ [] → ∃ x ∈ xs, (xs.map f).foldl min b = f x) := by
  obtain ⟨-, least, mem⟩ := foldl_min b (xs.map f)
  have below : ∀ x ∈ xs, (xs.map f).foldl min b ≤ f x := fun x hx => least _ (List.mem_map_of_mem hx)
  refine ⟨by rintro rfl; rfl, below, fun some_ => ?_⟩
  rcases mem with eq | mem
  · obtain ⟨x, hx⟩ := List.exists_mem_of_ne_nil xs some_
    exact ⟨x, hx, le_antisymm (below x hx) ((bound x).trans_eq eq.symm)⟩
  · obtain ⟨x, hx, e⟩ := List.mem_map.1 mem
    exact ⟨x, hx, e.symm⟩

theorem testBit_foldl_and (a : Nat) (l : List Nat) (b : Nat) :
    (l.foldl (· &&& ·) a).testBit b = (a.testBit b && l.all fun x => x.testBit b) := by
  induction l generalizing a with
  | nil => simp
  | cons x l ih => simp [ih, Nat.testBit_and, Bool.and_assoc]

theorem testBit_foldl_or (a : Nat) (l : List Nat) (b : Nat) :
    (l.foldl (· ||| ·) a).testBit b = (a.testBit b || l.any fun x => x.testBit b) := by
  induction l generalizing a with
  | nil => simp
  | cons x l ih => simp [ih, Nat.testBit_or, Bool.or_assoc]

theorem testBit_foldl_xor (a : Nat) (l : List Nat) (b : Nat) :
    (l.foldl (· ^^^ ·) a).testBit b = (a.testBit b ^^ decide ((l.filter fun x => x.testBit b).length % 2 = 1)) := by
  induction l generalizing a with
  | nil => simp
  | cons x l ih =>
    rw [List.foldl_cons, ih, Nat.testBit_xor, Bool.xor_assoc, List.filter_cons]
    congr 1
    cases x.testBit b with
    | false => simp
    | true =>
      rw [if_pos rfl, List.length_cons]
      generalize (List.filter _ l).length = n
      rcases Nat.mod_two_eq_zero_or_one n with e | e <;> simp [e, Nat.add_mod]

/-- A bit operation on numbers of `w` bits stays within `w` bits along a list. -/
theorem foldl_lt {op : Nat → Nat → Nat} {w : Nat} (keep : ∀ x y, x < 2 ^ w → y < 2 ^ w → op x y < 2 ^ w) {l : List Nat}
    (small : ∀ x ∈ l, x < 2 ^ w) {a : Nat} (start : a < 2 ^ w) : l.foldl op a < 2 ^ w := by
  induction l generalizing a with
  | nil => exact start
  | cons x l ih =>
    exact ih (fun y hy => small y (List.mem_cons_of_mem _ hy)) (keep a x start (small x List.mem_cons_self))

/-- What the functions 3 to 5 make of the bits of lanes of an integer type. -/
theorem redInt_bits {ty fn : Nat} (bits : 3 ≤ fn) {xs : List Nat} (small : ∀ x ∈ xs, x < 2 ^ widthOf ty) :
    ∃ v < 2 ^ widthOf ty, redInt ty fn xs = laneInt ty v ∧ ∀ b < widthOf ty, v.testBit b =
      if fn = 3 then xs.all fun x => x.testBit b
      else if fn = 4 then xs.any fun x => x.testBit b
      else decide ((xs.filter fun x => x.testBit b).length % 2 = 1) := by
  have pos := Nat.two_pow_pos (widthOf ty)
  by_cases conj : fn = 3
  · subst conj
    refine ⟨_, foldl_lt (fun _ _ _ => Nat.and_lt_two_pow _) small (Nat.sub_lt pos one_pos), rfl, fun b within => ?_⟩
    rw [testBit_foldl_and, Nat.testBit_two_pow_sub_one, if_pos rfl]
    simp [within]
  by_cases disj : fn = 4
  · subst disj
    refine ⟨_, foldl_lt (fun _ _ => Nat.or_lt_two_pow) small pos, rfl, fun b _ => ?_⟩
    rw [testBit_foldl_or, if_neg conj, if_pos rfl]
    simp
  · refine ⟨xs.foldl (· ^^^ ·) 0, foldl_lt (fun _ _ => Nat.xor_lt_two_pow) small pos, ?_, fun b _ => ?_⟩
    · obtain ⟨n, rfl⟩ := Nat.exists_eq_add_of_le' (show 5 ≤ fn by omega)
      rfl
    · rw [testBit_foldl_xor, if_neg conj, if_neg disj]
      simp

/-! ### Floats: the accumulator and its events -/

/-- The accumulator after one more lane: the sum rounded once to FP32, or the chosen operand. -/
def redValue (fn : Nat) (a x : FV) : FV := if fn = 0 then rne (a.add false x).1 else pick (decide (fn = 2)) a x

/-- The events of one more lane. -/
def redEvents (fn : Nat) (a x : FV) : BitVec 8 :=
  (if fn = 0 then (a.add false x).2 ||| (f32r (a.add false x).1).2 else 0) ||| sigEvent x

/-- The accumulator, of which `x0` is the first, after `i` of the lanes `r`. -/
def redAcc (fn : Nat) (x0 : FV) (r : List FV) (i : Nat) : FV := (r.take i).foldl (redValue fn) x0

theorem redAcc_succ (fn : Nat) (x0 : FV) (r : List FV) {i : Nat} (h : i < r.length) (d : FV) :
    redAcc fn x0 r (i + 1) = redValue fn (redAcc fn x0 r i) (r.getD i d) := by
  simp only [redAcc, List.take_add_one, List.getElem?_eq_getElem h, List.foldl_append, List.getD_eq_getElem?_getD]
  rfl

theorem redStep_some (fn : Nat) (a : FV) (e : BitVec 8) (x : FV) :
    redStep fn (some a, e) x = (some (redValue fn a x), e ||| redEvents fn a x) := by
  simp only [redStep, redValue, redEvents]
  split <;> simp [rne, f32, BitVec.or_assoc]

/-- The lanes after the first: the accumulator, and the union of the events. -/
theorem foldl_redStep (fn : Nat) (a : FV) (e : BitVec 8) (r : List FV) (d : FV) :
    (r.foldl (redStep fn) (some a, e)).1 = some (redAcc fn a r r.length) ∧
    ∀ b, (r.foldl (redStep fn) (some a, e)).2.getLsbD b = true ↔ e.getLsbD b = true ∨
      ∃ i < r.length, (redEvents fn (redAcc fn a r i) (r.getD i d)).getLsbD b = true := by
  induction r generalizing a e with
  | nil => exact ⟨rfl, fun b => by simp⟩
  | cons x r ih =>
    obtain ⟨value, events⟩ := ih (redValue fn a x) (e ||| redEvents fn a x)
    rw [List.foldl_cons, redStep_some]
    refine ⟨value, fun b => ?_⟩
    rw [events b, List.length_cons, Nat.exists_lt_succ_left, BitVec.getLsbD_or, Bool.or_eq_true, or_assoc]
    rfl

/-- A reduction of one lane or more: FP32 bits of the accumulator, and the union of the events. -/
theorem redFloat_cons (fn : Nat) (x0 : FV) (r : List FV) :
    (redFloat fn (x0 :: r)).1 = (f32r (redAcc fn x0 r r.length)).1 ∧
    ∀ b, (redFloat fn (x0 :: r)).2.getLsbD b = true ↔ (sigEvent x0).getLsbD b = true ∨
      (∃ i < r.length, (redEvents fn (redAcc fn x0 r i) (r.getD i x0)).getLsbD b = true) ∨
      (f32r (redAcc fn x0 r r.length)).2.getLsbD b = true := by
  obtain ⟨value, events⟩ := foldl_redStep fn x0 (sigEvent x0) r x0
  have start : (x0 :: r).foldl (redStep fn) (none, 0) = r.foldl (redStep fn) (some x0, sigEvent x0) := by
    simp [redStep]
  simp only [redFloat, start, value, Option.getD_some]
  exact ⟨trivial, fun b => by rw [BitVec.getLsbD_or, Bool.or_eq_true, events b, or_assoc]⟩

/-- A reduction of no lane: FP32 bits of +0, +∞ and −∞, and no event. -/
theorem redFloat_nil : ∀ fn, redFloat fn [] = (if fn = 0 then 0 else if fn = 1 then 0x7F800000 else 0xFF800000, 0)
  | 0 => rfl
  | 1 => rfl
  | n + 2 => by simp [redFloat, f32r_inf, signBit, widthOf, tyBits]

/-! ### Floats: invalid and NaN -/

/-- A sum counts invalid alone, and that for infinities of opposite signs. -/
theorem getLsbD_add_events (a x : FV) (b : Nat) :
    (a.add false x).2.getLsbD b = true ↔ b = 0 ∧ ∃ neg, a = .inf neg ∧ x = .inf (!neg) := by
  cases a with
  | nan => simp [FV.add]
  | inf na => cases x with
    | nan => simp [FV.add]
    | fin => simp [FV.add]
    | inf nx => cases na <;> cases nx <;> simp [FV.add, evInvalid, BitVec.getLsbD_one]
  | fin na ma ea => cases x with
    | nan => simp [FV.add]
    | inf => simp [FV.add]
    | fin nx mx ex =>
      simp only [FV.add]
      split <;> simp

theorem add_isSig (a x : FV) : (a.add false x).1.isSig = false := by
  cases a with
  | nan => rfl
  | inf na => cases x with
    | inf nx => cases na <;> cases nx <;> rfl
    | _ => rfl
  | fin na ma ea => cases x with
    | fin nx mx ex =>
      simp only [FV.add]
      split <;> rfl
    | _ => rfl

theorem add_nan {a : FV} (h : a.isNaN = true) (x : FV) : (a.add false x).1.isNaN = true := by
  cases a with
  | nan => rfl
  | _ => cases h

theorem pick_isSig (isMax : Bool) (a b : FV) : (pick isMax a b).isSig = false := by
  cases ha : a.isNaN with
  | true => cases hb : b.isNaN with
    | true => rw [pick_nans isMax ha hb]; rfl
    | false => rw [pick_nan_left isMax ha hb]; exact FV.isSig_of_number hb
  | false => cases hb : b.isNaN with
    | true => rw [pick_nan_right isMax ha hb]; exact FV.isSig_of_number ha
    | false =>
      rcases pick_operand isMax ha hb with e | e <;> rw [e]
      · exact FV.isSig_of_number ha
      · exact FV.isSig_of_number hb

theorem redValue_isSig (fn : Nat) (a x : FV) : (redValue fn a x).isSig = false := by
  unfold redValue
  split
  · exact (rne_nan _).2
  · exact pick_isSig _ _ _

/-- A sum that is a NaN stays one. -/
theorem redValue_nan {a : FV} (h : a.isNaN = true) (x : FV) : (redValue 0 a x).isNaN = true :=
  ((rne_nan _).1.trans (add_nan h x))

theorem redAcc_nan {x0 : FV} {r : List FV} {i j : Nat} (le : i ≤ j) (within : j ≤ r.length)
    (h : (redAcc 0 x0 r i).isNaN = true) : (redAcc 0 x0 r j).isNaN = true := by
  induction j, le using Nat.le_induction with
  | base => exact h
  | succ j _ ih =>
    rw [redAcc_succ 0 x0 r within x0]
    exact redValue_nan (ih (by omega)) _

/-- The accumulator signals only as the first lane. -/
theorem redAcc_isSig (fn : Nat) (x0 : FV) (r : List FV) (h : (redAcc fn x0 r r.length).isSig = true) : x0.isSig = true := by
  rcases List.eq_nil_or_concat' r with rfl | ⟨l, x, rfl⟩
  · exact h
  · rw [List.length_append, List.length_singleton, redAcc_succ fn x0 (l ++ [x]) (by simp) x0, redValue_isSig] at h
    cases h

/-! ### The word (R437) -/

/-- The unmasked lanes of the row, in order. -/
def redLanes (c : Cell) (o : VX) : List Nat :=
  ((List.range (lanesOf o.ty.toNat)).filter fun i => (c.rdK o.k).getLsbD i).map fun i => lane (widthOf o.ty.toNat) (c.rdV o.v) i

theorem redLanes_lt {c : Cell} {o : VX} {x : Nat} (h : x ∈ redLanes c o) : x < 2 ^ widthOf o.ty.toNat := by
  obtain ⟨i, -, rfl⟩ := List.mem_map.1 h
  exact Nat.mod_lt _ (Nat.two_pow_pos _)

section
variable {h : Header} {o : VX} {s : State} (plain : Plain h s) (user : User s) (free : RowsFree s [(o.v, false)])
  (wf : (Instr.vred h o).WellFormed)
include plain user free wf

theorem exec_vred_integer (integer : 6 ≤ o.ty.toNat) : exec (.vred h o) s = .next (issued s (inFlight h 6 0
    [s.cell.dstS o.s (residue (redInt o.ty.toNat o.fn.toNat (redLanes s.cell o)))])) := by
  have float : isFloat o.ty.toNat = false := decide_eq_false (by omega)
  rw [exec_vred, execVred, vecWord_issues plain user (check_vred wf) free]
  simp only [float, Bool.false_eq_true, if_false]
  rfl

theorem exec_vred_float (float : o.ty.toNat ≤ 4) :
    let r := redFloat o.fn.toNat ((redLanes s.cell o).map (FV.ofBits o.ty.toNat))
    exec (.vred h o) s = .next (issued s (inFlight h 6 r.2 [s.cell.dstS o.s (BitVec.ofNat 64 r.1)])) := by
  have float_ : isFloat o.ty.toNat = true := decide_eq_true (by omega)
  rw [exec_vred, execVred, vecWord_issues plain user (check_vred wf) free]
  simp only [float_, if_true]
  rfl

end

/-- The events of a float reduction by class: those of the lanes, of the sums, and of the last rounding. -/
theorem redFloat_events (fn : Nat) (x0 : FV) (r : List FV) (b : Nat) :
    let acc := redAcc fn x0 r
    let x := fun i => (x0 :: r).getD i x0
    let sum := fun i => (acc i).add false (x (i + 1))
    (redFloat fn (x0 :: r)).2.getLsbD b = true ↔ (∃ i ≤ r.length, (sigEvent (x i)).getLsbD b = true) ∨
      (fn = 0 ∧ ∃ i < r.length, ((sum i).2 ||| (f32r (sum i).1).2).getLsbD b = true) ∨
      (f32r (acc r.length)).2.getLsbD b = true := by
  intro acc x sum
  obtain ⟨-, events⟩ := redFloat_cons fn x0 r
  rw [events b]
  simp only [← Nat.lt_succ_iff, Nat.exists_lt_succ_left, or_assoc]
  have lane_ : ∀ i, (redEvents fn (acc i) (r.getD i x0)).getLsbD b = true ↔
      (sigEvent (x (i + 1))).getLsbD b = true ∨ (fn = 0 ∧ ((sum i).2 ||| (f32r (sum i).1).2).getLsbD b = true) := fun i => by
    change (redEvents fn (acc i) (x (i + 1))).getLsbD b = true ↔ _
    unfold redEvents
    split
    next zero => simp [zero, sum, or_comm]
    next other => simp [other]
  simp only [acc] at lane_ ⊢
  simp only [lane_]
  constructor
  · rintro (lead | ⟨i, within, sig | ⟨zero, set⟩⟩ | last)
    · exact .inl lead
    · exact .inr (.inl ⟨i, within, sig⟩)
    · exact .inr (.inr (.inl ⟨zero, i, within, set⟩))
    · exact .inr (.inr (.inr last))
  · rintro (lead | ⟨i, within, sig⟩ | ⟨zero, i, within, set⟩ | last)
    · exact .inl lead
    · exact .inr (.inl ⟨i, within, .inl sig⟩)
    · exact .inr (.inl ⟨i, within, .inr ⟨zero, set⟩⟩)
    · exact .inr (.inr last)

/-- A signalling NaN lane and a sum of infinities of opposite signs count invalid, and nothing else does. -/
theorem redFloat_invalid (fn : Nat) (x0 : FV) (r : List FV) :
    let acc := redAcc fn x0 r
    let x := fun i => (x0 :: r).getD i x0
    (redFloat fn (x0 :: r)).2.getLsbD 0 = true ↔ (∃ i ≤ r.length, (x i).isSig = true) ∨
      (fn = 0 ∧ ∃ i < r.length, ∃ neg, acc i = .inf neg ∧ x (i + 1) = .inf (!neg)) := by
  intro acc x
  refine (redFloat_events fn x0 r 0).trans ?_
  have last : (f32r (acc r.length)).2.getLsbD 0 = true → ∃ i ≤ r.length, (x i).isSig = true := fun set =>
    ⟨0, Nat.zero_le _, redAcc_isSig fn x0 r ((f32r_events _).1.symm.trans set)⟩
  simp only [getLsbD_sigEvent, decide_true, Bool.true_and, BitVec.getLsbD_or, Bool.or_eq_true, getLsbD_add_events, true_and,
    (f32r_events _).1, add_isSig, Bool.false_eq_true, or_false] at last ⊢
  constructor
  · rintro (sig | clash | result)
    · exact .inl sig
    · exact .inr clash
    · exact .inl (last result)
  · rintro (sig | clash)
    · exact .inl sig
    · exact .inr (.inl clash)

/-- A result that is a NaN counts NaN, and no other does. -/
theorem redFloat_nanEvent (fn : Nat) (x0 : FV) (r : List FV) :
    (redFloat fn (x0 :: r)).2.getLsbD 4 = true ↔ (redAcc fn x0 r r.length).isNaN = true := by
  refine (redFloat_events fn x0 r 4).trans ?_
  rw [(f32r_events _).2]
  constructor
  · rintro (⟨i, -, sig⟩ | ⟨rfl, i, within, set⟩ | result)
    · rw [getLsbD_sigEvent] at sig
      cases sig
    · rw [BitVec.getLsbD_or, (f32r_events _).2, Bool.or_eq_true, getLsbD_add_events] at set
      have sum := set.resolve_left fun clash => absurd clash.1 (by decide)
      refine redAcc_nan (i := i + 1) within le_rfl ?_
      rw [redAcc_succ 0 x0 r within x0]
      exact (rne_nan _).1.trans sum
    · exact result
  · exact fun result => .inr (.inr result)

/-- Settles O27: integer lanes by the function, float lanes by the accumulator `redAcc` and the union of events. -/
theorem reductionComplete : Obligations.ReductionComplete := by
  unfold Obligations.ReductionComplete
  intro h o s plain user free wf
  dsimp only
  refine ⟨fun integer => ?_, fun float => ?_⟩
  · rw [exec_vred_integer plain user free wf integer]
    have bounds := laneInt_bounds o.ty.toNat
    refine ⟨fun fn => ?_, fun fn => ?_, fun fn => ?_, fun fn => ?_⟩
    · rw [fn, List.sum_eq_foldl]
      rfl
    · rw [fn]
      exact ⟨_, rfl, foldl_min_lanes (laneInt o.ty.toNat) _ (fun x => (bounds x).2) _⟩
    · rw [fn]
      exact ⟨_, rfl, foldl_min_lanes (α := ℤᵒᵈ) (laneInt o.ty.toNat) _ (fun x => (bounds x).1) _⟩
    · obtain ⟨v, small, result, bits⟩ := redInt_bits fn fun x => redLanes_lt (c := s.cell) (o := o) (x := x)
      refine ⟨v, small, by rw [result], fun b within => ?_⟩
      rw [bits b within]
      simp only [← BitVec.toNat_inj]
      rfl
  · rw [exec_vred_float plain user free wf float]
    change (∀ x0 r, (redLanes s.cell o).map (FV.ofBits o.ty.toNat) = x0 :: r → _) ∧ (redLanes s.cell o = [] → _)
    have sum : o.fn = 0#4 ↔ o.fn.toNat = 0 := by rw [← BitVec.toNat_inj]; rfl
    have least : o.fn = 1#4 ↔ o.fn.toNat = 1 := by rw [← BitVec.toNat_inj]; rfl
    have greatest : o.fn = 2#4 ↔ o.fn.toNat = 2 := by rw [← BitVec.toNat_inj]; rfl
    simp only [sum, least, greatest]
    refine ⟨fun x0 r lanes => ?_, fun none_ => ?_⟩
    · rw [lanes]
      refine ⟨redAcc o.fn.toNat x0 r, _, by rw [(redFloat_cons o.fn.toNat x0 r).1], rfl, fun i within => ?_,
        fun b _ => redFloat_events _ x0 r b, redFloat_invalid _ x0 r, redFloat_nanEvent _ x0 r⟩
      exact redAcc_succ _ x0 r within x0
    · rw [none_, List.map_nil, redFloat_nil]
      split_ifs <;> rfl

end Sys2Proof.Machine
end

section
/-! PROOF of O33: the elements of an MMA on an INT32 tile (R140, R150, R159). -/

namespace Sys2Proof.Machine

/-! ### Panels as numbers -/

theorem lane_byte (r : Row) (k : Nat) : lane 8 r k = (byteAt r k).toNat := by
  rw [lane, byteAt, BitVec.extractLsb'_toNat]

theorem sgn_byte (b : Byte) : sgn 8 b.toNat = b.toInt := by
  have := b.isLt
  rw [sgn, BitVec.toInt_eq_toNat_cond]
  split <;> split <;> omega

/-- Byte `n` of a latch, its lines one after another (R159). -/
def latchByte (l : Latch) (n : Nat) : Byte := byteAt (l.lines.rd (BitVec.ofNat 6 (n / 256))) (n % 256)

/-- A byte as an element of an 8-bit integer type. -/
def byteInt (ty : Nat) (b : Byte) : Int := if isSigned ty then b.toInt else b.toNat

/-- Panel row `i` of an 8-bit type: byte 256 i + k of the latch, or byte 64 k + i when transposed (R159). -/
theorem panelRow_bytes {ty : Nat} (eight : widthOf ty = 8) (l : Latch) (ta : Bool) (i : Nat) : panelRow ty l ta i =
    (List.range 256).map fun k => (latchByte l (if ta then 64 * k + i else 256 * i + k)).toNat := by
  have lanes : lanesOf ty = 256 := by rw [lanesOf, eight]
  simp only [panelRow, eight, lanes, lane_byte]
  cases ta with
  | true => rfl
  | false =>
    refine List.map_congr_left fun k mem => ?_
    have below := List.mem_range.1 mem
    simp only [Bool.false_eq_true, if_false, latchByte, show (256 * i + k) / 256 = i by omega,
      show (256 * i + k) % 256 = k by omega, lane_byte]

theorem intValues_bytes {ty : Nat} (eight : widthOf ty = 8) (l : Latch) (ta : Bool) (i : Nat) : intValues ty l ta i =
    (List.range 256).map fun k => byteInt ty (latchByte l (if ta then 64 * k + i else 256 * i + k)) := by
  rw [intValues, panelRow_bytes eight, List.map_map]
  refine List.map_congr_left fun k _ => ?_
  rw [Function.comp_apply, sgn_byte]
  rfl

/-! ### The rows of the tile -/

theorem mapIdx_map_range {α β : Type} (g : Nat → α) (f : Nat → α → β) (n : Nat) :
    ((List.range n).map g).mapIdx f = (List.range n).map fun i => f i (g i) := by
  apply List.ext_getElem <;> simp

/-- Element (i, j) that an MMA leaves in an INT32 tile (R140). -/
def intTileElem (c : Cell) (z : BitVec 3) (la lb : BitVec 2) (fmt : Nat) (ta neg acc : Bool) (i j : Nat) : Nat :=
  intElem neg (if acc then sgn 32 (lane 32 (tileRow c z i) j) else 0) (intValues (operandType fmt false) (c.mx.la.rd la) ta i)
    (intValues (operandType fmt true) (c.mx.lb.rd lb) false j)

/-- An MMA on an INT32 tile writes each of its 64 × 64 elements and counts no event. -/
theorem mmaRows_int32 {c : Cell} {z : BitVec 3} (int32 : c.mx.ztype.rd z = 1#2) (la lb : BitVec 2) (fmt : Nat) (ta neg acc : Bool) :
    mmaRows c z la lb fmt ta neg acc = ((List.range 64).map fun i =>
      rowOf 32 ((List.range 64).map fun j => intTileElem c z la lb fmt ta neg acc i j), 0) := by
  have elem : tileElem 1#2 = 6 := rfl
  have width : widthOf 6 = 32 := rfl
  have lanes : lanesOf 6 = 64 := rfl
  simp only [mmaRows, int32, elem, width, lanes, if_true, mapIdx_map_range, List.map_map]
  rw [Prod.mk.injEq]
  refine ⟨List.map_congr_left fun i _ => ?_, ?_⟩
  · have whole : ((List.range 64).map (lane 32 (tileRow c z i))).drop 64 = [] := List.drop_eq_nil_of_le (by simp)
    simp only [show ¬ (32 = 16) by omega, if_false, List.take_zero, List.nil_append, Nat.zero_add, whole, List.append_nil]
    rfl
  · have quiet : ∀ (e : BitVec 8) (l : List Nat), l.foldl (fun e _ => e ||| 0) e = e := fun e =>
      List.foldl_fixed' (fun _ => BitVec.or_zero)
    simp only [List.foldl_map, quiet]
    exact List.foldl_fixed' (fun _ => rfl) _

theorem getD_rows {n i : Nat} (f : Nat → Row) (h : i < n) : ((List.range n).map f).getD i 0 = f i := by
  simp [List.getD_eq_getElem?_getD, h]

/-! ### The sum mod 2^32 -/

theorem sgn_emod (w x : Nat) : sgn w x % 2 ^ w = (x : Int) % 2 ^ w := by
  rw [sgn]
  split
  · push_cast
    exact Int.emod_emod_of_dvd _ dvd_rfl
  · push_cast
    rw [Int.sub_emod_right, Int.emod_emod_of_dvd _ dvd_rfl]

/-- An element whose old value agrees with `old` mod 2^32, and whose panels are `a` and `b`. -/
theorem intElem_eq (neg : Bool) {acc old : Int} (same : acc % 2 ^ 32 = old % 2 ^ 32) (a b : Nat → Int) (n : Nat) :
    let sum := ((List.range n).map fun k => a k * b k).sum
    (intElem neg acc ((List.range n).map a) ((List.range n).map b) : Int) = (if neg then old - sum else old + sum) % 2 ^ 32 := by
  intro sum
  have total : (List.zipWith (· * ·) ((List.range n).map a) ((List.range n).map b)).foldl (· + ·) 0 = sum := by
    rw [List.zipWith_map, List.zipWith_self, ← List.sum_eq_foldl]
  have pos : (0 : Int) ≤ (if neg then acc - sum else acc + sum) % (2 ^ 32 : Nat) := Int.emod_nonneg _ (by decide)
  rw [intElem, total, wrap, Int.toNat_of_nonneg pos]
  push_cast
  split
  · exact Int.ModEq.sub_right (n := 2 ^ 32) sum same
  · exact Int.ModEq.add_right (n := 2 ^ 32) sum same

/-- Settles O33: the element is the old value and the sum of the products of the panels' bytes, mod 2^32. -/
theorem integerMatrixMultiply : Obligations.IntegerMatrixMultiply := by
  unfold Obligations.IntegerMatrixMultiply
  intro c z la lb fmt ta neg acc int32 format i j hi hj
  dsimp only
  rw [mmaRows_int32 int32]
  refine ⟨rfl, ?_⟩
  have widthA : widthOf (operandType fmt false) = 8 := by rcases format with rfl | rfl <;> rfl
  have widthB : widthOf (operandType fmt true) = 8 := by rcases format with rfl | rfl <;> rfl
  have signA : ∀ b, byteInt (operandType fmt false) b = b.toInt := by rcases format with rfl | rfl <;> exact fun _ => rfl
  have signB : ∀ b, byteInt (operandType fmt true) b = if fmt = 6 then b.toInt else (b.toNat : Int) := by
    rcases format with rfl | rfl <;> exact fun _ => rfl
  have fits : intTileElem c z la lb fmt ta neg acc i j % 2 ^ 32 = intTileElem c z la lb fmt ta neg acc i j :=
    Nat.mod_eq_of_lt (wrap_lt 32 _)
  rw [getD_rows _ hi, lane_rowOf _ (by omega) rfl hj, fits, intTileElem, intValues_bytes widthA, intValues_bytes widthB]
  simp only [signA, signB, Bool.false_eq_true, if_false]
  refine intElem_eq neg ?_ _ _ 256
  cases acc with
  | false => rfl
  | true =>
    simp only [if_true]
    rw [sgn_emod, lane, BitVec.extractLsb'_toNat]

end Sys2Proof.Machine
end

section
/-! PROOF of O31, part 1: the first word of the matrix unit's queue starts, and what a cell that has stopped does not start (R158,
R163, R208, R212, R294). -/

namespace Sys2Proof.Machine

/-! ### The first job of the queue -/

theorem takeJob_none {p : MJob → Bool} {run : Option MRun} {before l : List MJob} (no : ∀ j ∈ l, p j = false) :
    takeJob p run before l = none := by
  induction l generalizing before with
  | nil => rfl
  | cons j l ih =>
    rw [takeJob, if_neg (by simp [no j])]
    exact ih fun k mem => no k (List.mem_cons_of_mem _ mem)

theorem takeJob_first {p : MJob → Bool} {j : MJob} (rest : List MJob) (wanted : p j = true) :
    takeJob p none [] (j :: rest) = some (j, rest) := by
  rw [takeJob, if_pos (by simp [wanted, jobFree])]
  rfl

/-- Where nothing is on its way to the cell, no job waits for a row and none lands before it starts. -/
theorem rowsPending_idle {c : Cell} (inflight : c.pipe.inflight = []) (flight : c.pipe.flight = []) (accs : c.pipe.accs = [])
    (j : MJob) : rowsPending c j = false := by
  simp [rowsPending, inflight, flight, accs]

theorem landAimed_idle {c : Cell} (inflight : c.pipe.inflight = []) (j : MJob) : landAimed j c = (c, false) := by
  have same : { c with pipe := { c.pipe with inflight := [] } } = c := by rw [← inflight]
  rw [landAimed, inflight, List.filter_nil, List.filter_nil, same]
  rfl

theorem settleRows_idle {c : Cell} (inflight : c.pipe.inflight = []) (j : MJob) : settleRows j c = (c, false) := by
  unfold settleRows
  split
  · rfl
  · exact landAimed_idle inflight j

/-- A job that leaves the head of the queue, with nothing on its way to the cell, changes nothing else. -/
theorem putCounted_settled {s : State} {ci : BitVec 9} {j : MJob} {rest : List MJob}
    (queue : (s.cellAt ci).mx.queue = j :: rest) (inflight : (s.cellAt ci).pipe.inflight = []) :
    putCounted s ci (settleRows j { s.cellAt ci with mx := { (s.cellAt ci).mx with queue := rest } }) = unqueued s ci := by
  rw [settleRows_idle (c := { s.cellAt ci with mx := { (s.cellAt ci).mx with queue := rest } }) inflight j, unqueued,
    State.updAt, queue]
  rfl

section
variable {s : State} {ci : BitVec 9} {j : MJob} (first : FirstJob s ci j)
include first

/-- The first job starts where it is of the kind wanted, and leaves the queue. -/
theorem startJob_first {p : MJob → Bool} (wanted : p j = true) : startJob p s ci = some (j, unqueued s ci) := by
  obtain ⟨live, ⟨rest, queue⟩, run, inflight, flight, accs⟩ := first
  have taken : takeJob (fun j => p j && (!mStopped s ci || begun s j) && !rowsPending (s.cellAt ci) j) (s.cellAt ci).mx.run []
      (s.cellAt ci).mx.queue = some (j, rest) := by
    rw [run, queue]
    exact takeJob_first rest (by simp [wanted, live, rowsPending_idle inflight flight accs])
  exact (congrArg (Option.map _) taken).trans (congrArg (fun u => some (j, u)) (putCounted_settled queue inflight))

theorem nextTransfer_first (transfer : usesTransfer j = true) : nextTransfer s ci j = true := by
  obtain ⟨-, ⟨rest, queue⟩, -⟩ := first
  simp [nextTransfer, queue, transfer]

end

/-! ### Words that start nothing -/

/-- No job of a kind starts on a cell that has stopped, unless it has begun. -/
theorem startJob_stopped {p : MJob → Bool} {s : State} {ci : BitVec 9} (stopped : mStopped s ci = true)
    (fresh : ∀ j, p j = true → begun s j = false) : startJob p s ci = none := by
  have no : ∀ j, (p j && (!mStopped s ci || begun s j) && !rowsPending (s.cellAt ci) j) = false := fun j => by
    cases wanted : p j with
    | false => rfl
    | true => simp [stopped, fresh j wanted]
  rw [startJob, takeJob_none fun j _ => no j]
  rfl

theorem startJob_empty {p : MJob → Bool} {s : State} {ci : BitVec 9} (queue : (s.cellAt ci).mx.queue = []) :
    startJob p s ci = none := by
  rw [startJob, queue]
  rfl

theorem begun_of_not_store (s : State) {j : MJob} (other : isStore j = false) : begun s j = false := by
  rw [begun, other]
  rfl

theorem begun_noAsks {s : State} (asks : s.pd.asks = []) (j : MJob) : begun s j = false := by
  simp [begun, asks]

/-! ### Words that reach no domain page -/

/-- A word starts at once where no job of its kind starts. -/
theorem startAsked_none {p : MJob → Bool} {s : State} {ci : BitVec 9} {run : State → State} (none_ : startJob p s ci = none) :
    startAsked p run ci s = run s := by
  rw [startAsked, none_]
  rfl

/-- A word starts at once where it reads and writes no domain page and nobody awaits responses. -/
theorem startAsked_off {p : MJob → Bool} {s : State} {ci : BitVec 9} {run : State → State} (off : OffDomain s (run s)) :
    startAsked p run ci s = run s := by
  obtain ⟨before, after, silent⟩ := off
  unfold startAsked
  split
  · rfl
  next k _ =>
    have owed : (askOf s k).owed = [] := by simp [askOf, before]
    simp only [collect_none k before, owed, ne_eq, not_true, if_false, awaitDomain_off before silent, settleAsks_none after]

end Sys2Proof.Machine
end

section
/-! PROOF of O31, part 2: the steps of the unit, and MZERO, MCFG and MFMT as they issue (R137, R151, R158 to R161, R166). -/

namespace Sys2Proof.Machine

/-! ### The steps of the unit on the first word -/

section
variable {s : State} {ci : BitVec 9}

/-- The oldest word that uses the transfer is performed where it reaches no domain page (R158). -/
theorem exec_latchTransfer_off {u : State} (run : latchRun ci s = u) (off : OffDomain s u) :
    exec (.latchTransfer ci) s = .next u := by
  rw [exec_latchTransfer, execLatchTransfer, startAsked_off (by rw [run]; exact off), run]

theorem exec_tilePipeStart_off {u : State} (run : pipeRun ci s = u) (off : OffDomain s u) :
    exec (.tilePipeStart ci) s = .next u := by
  rw [exec_tilePipeStart, execTilePipeStart, startAsked_off (by rw [run]; exact off), run]

theorem latchRun_load {id : Nat} {isB : Bool} {l : BitVec 2} {src : MSrc} {bits : Nat} {dec : Option (BitVec 2 × List Nat)}
    (first : FirstJob s ci (.load id isB l src bits dec)) : latchRun ci s =
      drainM ((lateFlits (unqueued s ci) src).updAt ci fun c => doLoad c isB l (srcRows (unqueued s ci) ci src) bits dec) ci := by
  rw [latchRun, startJob_first first (nextTransfer_first first rfl)]
  rfl

theorem latchRun_code {id : Nat} {cb : BitVec 2} {src : MSrc} (first : FirstJob s ci (.code id cb src)) : latchRun ci s =
    drainM ((lateFlits (unqueued s ci) src).updAt ci fun c => doCode c cb (srcRows (unqueued s ci) ci src).flatten) ci := by
  rw [latchRun, startJob_first first (nextTransfer_first first rfl)]
  rfl

theorem latchRun_micro {id a n : Nat} {src : MSrc} (first : FirstJob s ci (.micro id a n src)) : latchRun ci s =
    drainM ((lateFlits (unqueued s ci) src).updAt ci fun c =>
      doMicro c a (wordsOf (srcRows (unqueued s ci) ci src).flatten n)) ci := by
  rw [latchRun, startJob_first first (nextTransfer_first first rfl)]
  rfl

theorem pipeRun_store {id : Nat} {z : BitVec 3} {ty : BitVec 4} {sat : Bool} {rnd : BitVec 3} {scale : BitVec 5} {cols : Nat}
    {rows : List (List Seg)} (first : FirstJob s ci (.store id z ty sat rnd scale cols rows)) :
    let r := doStore (unqueued s ci) ci z ty sat rnd scale cols rows
    pipeRun ci s = drainM (r.1.countAt ci r.2) ci := by
  rw [pipeRun, startJob_first first rfl]

theorem pipeRun_fill {id : Nat} {z : BitVec 3} {src : MSrc} (first : FirstJob s ci (.fill id z src)) : pipeRun ci s =
    drainM ((lateFlits (unqueued s ci) src).updAt ci fun c =>
      setTileRows c z ((srcRows (unqueued s ci) ci src).map bytesRow)) ci := by
  rw [pipeRun, startJob_first first rfl]

/-- An MMA does not see the queue. -/
theorem mmaRows_unqueued (z : BitVec 3) (la lb : BitVec 2) (fmt : Nat) (ta neg acc : Bool) :
    mmaRows ((unqueued s ci).cellAt ci) z la lb fmt ta neg acc = mmaRows (s.cellAt ci) z la lb fmt ta neg acc := by
  rw [unqueued, State.updAt_cellAt]
  rfl

/-- An MMA reads its panels and its tile, and occupies the array. -/
theorem exec_mmaStart_first {z : BitVec 3} {la lb : BitVec 2} {fmt : BitVec 4} {ta neg acc : Bool}
    (first : FirstJob s ci (.mma z la lb fmt ta neg acc)) :
    let r := mmaRows (s.cellAt ci) z la lb fmt.toNat ta neg acc
    exec (.mmaStart ci) s = .next (drainM ((unqueued s ci).updAt ci fun c => { c with
      mx := { c.mx with run := some { z := z, rows := r.1, ev := r.2 } } }) ci) := by
  have idle : ¬ (s.cellAt ci).mx.run.isSome = true := by
    obtain ⟨-, -, run, -⟩ := first
    rw [run]
    decide
  rw [exec_mmaStart, execMmaStart, if_neg idle, startJob_first first rfl]
  simp only [mmaRows_unqueued]

theorem exec_mmaRetire_run {r : MRun} (run : (s.cellAt ci).mx.run = some r) : exec (.mmaRetire ci) s =
    .next (drainM
      ((s.updAt ci fun c => setTileRows { c with mx := { c.mx with run := none } } r.z r.rows).countAt ci r.ev) ci) := by
  rw [exec_mmaRetire, execMmaRetire, retireMma, run]

theorem exec_mmaRetire_none (run : (s.cellAt ci).mx.run = none) : exec (.mmaRetire ci) s = .next s := by
  rw [exec_mmaRetire, execMmaRetire, retireMma, run]

end

/-! ### A routine (R166) -/

section
variable {s : State} {ci : BitVec 9} {id : Nat} {n : BitVec 8} {e : Word} {a q : List Word} {iter : BitVec 4}
  {tag : Option (BitVec 3)} {bad : List Nat}

/-- A routine run to its end from the queue of cell `ci`. -/
def routineRun (s : State) (ci : BitVec 9) (e : Word) (a q : List Word) (iter : BitVec 4) (bad : List Nat) :
    State × Routine × Option Nat :=
  runRoutine (routineWords (s.cellAt ci).mx.store e) (2 ^ 42) 0 [] { unqueued s ci with cur := ci }
    { a := a, q := q, iter := iter, count := 0, ev := [], bad := bad }

/-- The machine after a routine: its tag is clear and its events have counted. -/
def routineEnd (s : State) (ci : BitVec 9) (tag : Option (BitVec 3)) (r : State × Routine × Option Nat) : State :=
  r.2.1.ev.foldl (fun s e => s.countAt ci e) ({ r.1 with cur := s.cur }.updAt ci (clearTag tag))

/-- A routine that faulted at its word `i` makes MICRO_FAULT pending, with its number and the word's index. -/
def routineFault (ci : BitVec 9) (n : BitVec 8) (e : Word) (u : State) : Option Nat → State
  | none => u
  | some i => u.updAt ci fun c => { c with events := { c.events with
      micro := c.events.micro ++ [BitVec.ofNat 64 (n.toNat * 2 ^ 16 + (fld e 0 10 + i))] } }

/-- The routine at the head of the queue runs to its end. -/
theorem exec_mcallRoutineRun_first (first : FirstJob s ci (.call id n e a q iter tag bad)) :
    let r := routineRun s ci e a q iter bad
    exec (.mcallRoutineRun ci) s = .next (drainM (routineFault ci n e (routineEnd s ci tag r) r.2.2) ci) := by
  obtain ⟨live, ⟨rest, queue⟩, run, inflight, flight, accs⟩ := first
  have busy : ¬ ((s.cellAt ci).mx.run.isSome || mStopped s ci ||
      rowsPending (s.cellAt ci) (.call id n e a q iter tag bad)) = true := by
    rw [run, live, rowsPending_idle inflight flight accs]
    decide
  rw [exec_mcallRoutineRun, execMcallRoutineRun, startRoutine]
  dsimp only
  rw [queue]
  dsimp only
  rw [if_neg busy, putCounted_settled queue inflight]
  rfl

end

/-! ### Steps that change nothing -/

section
variable {s : State} {ci : BitVec 9}

theorem latchRun_none (none_ : startJob (nextTransfer s ci) s ci = none) : exec (.latchTransfer ci) s = .next s := by
  rw [exec_latchTransfer, execLatchTransfer, startAsked_none none_, latchRun, none_]

theorem exec_tilePipeStart_none (none_ : startJob usesPipe s ci = none) : exec (.tilePipeStart ci) s = .next s := by
  rw [exec_tilePipeStart, execTilePipeStart, startAsked_none none_, pipeRun, none_]

theorem exec_mmaStart_none (none_ : ∀ p, (∀ j, p j = true → isStore j = false) → startJob p s ci = none) :
    exec (.mmaStart ci) s = .next s := by
  rw [exec_mmaStart, execMmaStart]
  split
  · rfl
  · rw [none_ _ fun j wanted => by
      cases j with
      | store => cases wanted
      | _ => rfl]

theorem not_store_of_nextTransfer {j : MJob} (wanted : nextTransfer s ci j = true) : isStore j = false := by
  rw [nextTransfer, Bool.and_eq_true] at wanted
  cases j with
  | store => cases wanted.1
  | _ => rfl

theorem exec_mcallRoutineRun_stopped (stopped : mStopped s ci = true) : exec (.mcallRoutineRun ci) s = .next s := by
  rw [exec_mcallRoutineRun, execMcallRoutineRun, startRoutine]
  dsimp only
  split
  · rw [if_pos (by simp [stopped])]
  · rfl

theorem exec_mcallRoutineRun_empty (queue : (s.cellAt ci).mx.queue = []) : exec (.mcallRoutineRun ci) s = .next s := by
  rw [exec_mcallRoutineRun, execMcallRoutineRun, startRoutine]
  dsimp only
  rw [queue]

/-- A cell that has stopped issuing starts no word (R208, R212). -/
theorem stopped_starts_nothing (stopped : mStopped s ci = true) : exec (.latchTransfer ci) s = .next s ∧
    exec (.mmaStart ci) s = .next s ∧ exec (.mcallRoutineRun ci) s = .next s ∧
    (s.pd.asks = [] → exec (.tilePipeStart ci) s = .next s) := by
  have fresh : ∀ p, (∀ j, p j = true → isStore j = false) → startJob p s ci = none := fun p other =>
    startJob_stopped stopped fun j wanted => begun_of_not_store s (other j wanted)
  exact ⟨latchRun_none (fresh _ fun _ => not_store_of_nextTransfer), exec_mmaStart_none fresh,
    exec_mcallRoutineRun_stopped stopped,
    fun asks => exec_tilePipeStart_none (startJob_stopped stopped fun j _ => begun_noAsks asks j)⟩

/-- Without a word in the queue nothing starts. -/
theorem empty_starts_nothing (queue : (s.cellAt ci).mx.queue = []) : exec (.latchTransfer ci) s = .next s ∧
    exec (.mmaStart ci) s = .next s ∧ exec (.tilePipeStart ci) s = .next s ∧ exec (.mcallRoutineRun ci) s = .next s :=
  ⟨latchRun_none (startJob_empty queue), exec_mmaStart_none fun _ _ => startJob_empty queue,
    exec_tilePipeStart_none (startJob_empty queue), exec_mcallRoutineRun_empty queue⟩

end

/-! ### MZERO, MCFG and MFMT (R137, R151) -/

/-- The rows of a tile replaced, and no other row. -/
theorem rd_setTileRows (c : Cell) (z : BitVec 3) (rows : List Row) (r : BitVec 9) :
    (setTileRows c z rows).regs.v.rd r = if r.toNat / 64 = z.toNat then rows.getD (r.toNat % 64) 0 else c.regs.v.rd r := by
  have upTo : ∀ n ≤ 64, ((List.range n).foldl (fun v r => v.wr (z ++ BitVec.ofNat 6 r) (rows.getD r 0)) c.regs.v).rd r =
      if r.toNat / 64 = z.toNat ∧ r.toNat % 64 < n then rows.getD (r.toNat % 64) 0 else c.regs.v.rd r := by
    intro n
    induction n with
    | zero => simp
    | succ n ih =>
      intro le
      have place : (z ++ BitVec.ofNat 6 n : BitVec 9).toNat = 64 * z.toNat + n := by
        rw [BitVec.toNat_append, Nat.shiftLeft_eq, BitVec.toNat_ofNat, Nat.mod_eq_of_lt (by omega), Nat.mul_comm,
          ← Nat.two_pow_add_eq_or_of_lt (by omega)]
      rw [List.range_succ, List.foldl_append, List.foldl_cons, List.foldl_nil]
      by_cases here : r = z ++ BitVec.ofNat 6 n
      · have at_ : r.toNat = 64 * z.toNat + n := here ▸ place
        rw [here, Reg.rd_wr_same, ← here, if_pos (by omega), show r.toNat % 64 = n by omega]
      · have off : r.toNat ≠ 64 * z.toNat + n := fun e => here (BitVec.eq_of_toNat_eq (e.trans place.symm))
        rw [Reg.rd_wr_other _ _ here, ih (by omega)]
        exact if_congr (by omega) rfl rfl
  refine (upTo 64 le_rfl).trans (if_congr (and_iff_left (Nat.mod_lt _ (by decide))) rfl rfl)

theorem rd_zeroTile (c : Cell) (z : BitVec 3) (r : BitVec 9) :
    (zeroTile c z).regs.v.rd r = if r.toNat / 64 = z.toNat then 0 else c.regs.v.rd r := rd_setTileRows c z [] r

theorem zeroTile_mx (c : Cell) (z : BitVec 3) : (zeroTile c z).mx = c.mx := by
  simp only [zeroTile, setTileRows]

theorem zeroTile_scalars (c : Cell) (z : BitVec 3) : (zeroTile c z).regs.s = c.regs.s := by
  simp only [zeroTile, setTileRows]

/-- MCFG gives the tile its type, and clears it where the type changes. -/
theorem configTile_acts (c : Cell) (z : BitVec 3) (ty : BitVec 2) :
    (configTile c z ty).mx.ztype.rd z = ty ∧ (∀ y, y ≠ z → (configTile c z ty).mx.ztype.rd y = c.mx.ztype.rd y) ∧
    ∀ r : BitVec 9, (configTile c z ty).regs.v.rd r =
      if r.toNat / 64 = z.toNat ∧ c.mx.ztype.rd z ≠ ty then 0 else c.regs.v.rd r := by
  unfold configTile
  split
  next same => exact ⟨same, fun _ _ => rfl, fun r => by rw [if_neg fun h => h.2 same]⟩
  next change_ =>
    exact ⟨Reg.rd_wr_same _ _ _, fun y other => Reg.rd_wr_other _ _ other,
      fun r => (rd_zeroTile c z r).trans (if_congr (and_iff_left change_).symm rfl rfl)⟩

theorem doSmall_queue (c : Cell) (j : MJob) : (doSmall c j).mx.queue = c.mx.queue := by
  cases j with
  | cfg z ty =>
    unfold doSmall configTile
    dsimp only
    split <;> rfl
  | _ => rfl

theorem Cell.drainM_empty {c : Cell} (queue : c.mx.queue = []) (n : Nat) : Cell.drainM n c = (c, false) := by
  cases n with
  | zero => rfl
  | succ n =>
    rw [Cell.drainM, queue]
    rfl

/-- A small job alone in the queue, with nothing on its way to the cell, is performed. -/
theorem Cell.drainM_single {c : Cell} {j : MJob} (small : isSmall j = true) (run : c.mx.run = none)
    (inflight : c.pipe.inflight = []) (flight : c.pipe.flight = []) (accs : c.pipe.accs = []) (queue : c.mx.queue = [j]) (n : Nat) :
    Cell.drainM (n + 1) c = (doSmall { c with mx := { c.mx with queue := [] } } j, false) := by
  have taken : takeJob (fun j => isSmall j && !rowsPending c j) c.mx.run [] c.mx.queue = some (j, []) := by
    rw [run, queue]
    exact takeJob_first [] (by simp [small, rowsPending_idle inflight flight accs])
  rw [Cell.drainM, taken]
  dsimp only
  rw [settleRows_idle (c := { c with mx := { c.mx with queue := [] } }) inflight j,
    Cell.drainM_empty ((doSmall_queue _ j).trans rfl)]
  rfl

/-- A small job that enters an empty queue is performed as its word issues. -/
theorem queued_small {s : State} {j : MJob} (small : isSmall j = true) (live : mStopped s s.cur = false)
    (queue : s.cell.mx.queue = []) (run : s.cell.mx.run = none) (inflight : s.cell.pipe.inflight = [])
    (flight : s.cell.pipe.flight = []) (accs : s.cell.pipe.accs = []) : (queued s j).cell = doSmall s.cell j := by
  have at_ : ∀ f, (s.upd f).cellAt s.cur = f s.cell := fun f => State.updAt_cellAt s s.cur f
  have going : mStopped (s.upd fun c => { c with mx := { c.mx with queue := c.mx.queue ++ [j] } }) s.cur = false := by
    rw [← live, mStopped, at_]
    rfl
  have alone : { s.cell with mx := { s.cell.mx with queue := [] } } = s.cell := by rw [← queue]
  have drained := Cell.drainM_single (c := { s.cell with mx := { s.cell.mx with queue := s.cell.mx.queue ++ [j] } }) small run
    inflight flight accs (by rw [queue]; rfl) 7
  rw [queued, drainM, going, at_]
  simp only [Bool.false_eq_true, if_false]
  rw [show Config.mQueue = 7 + 1 from rfl, drained]
  refine (State.setCell_cellAt _ _ _).trans ?_
  exact congrArg (doSmall · j) alone

/-- Settles O31: each step of the unit on the first word of its queue, and the three words that are performed as they issue. -/
theorem matrixUnitActs : Obligations.MatrixUnitActs := by
  unfold Obligations.MatrixUnitActs
  refine ⟨fun s ci => ?_, fun s live queue run inflight flight accs => ?_⟩
  · dsimp only
    refine ⟨fun id isB l src bits dec first => exec_latchTransfer_off (latchRun_load first),
      fun id cb src first => exec_latchTransfer_off (latchRun_code first),
      fun id a n src first => exec_latchTransfer_off (latchRun_micro first),
      fun z la lb fmt ta neg acc => exec_mmaStart_first, fun r => exec_mmaRetire_run, exec_mmaRetire_none,
      fun id z ty sat rnd scale cols rows first => exec_tilePipeStart_off (pipeRun_store first),
      fun id z src first => exec_tilePipeStart_off (pipeRun_fill first), stopped_starts_nothing,
      fun id n e a q iter tag bad first => ⟨fun ends => ?_, fun i fault => ?_⟩, fun queue _ => empty_starts_nothing queue⟩
    · exact (exec_mcallRoutineRun_first first).trans (by rw [show (routineRun s ci e a q iter bad).2.2 = none from ends]; rfl)
    · exact (exec_mcallRoutineRun_first first).trans (by rw [show (routineRun s ci e a q iter bad).2.2 = some i from fault]; rfl)
  · dsimp only
    have performed : ∀ {j : MJob}, isSmall j = true → (queued s j).cell = doSmall s.cell j := fun small =>
      queued_small small live queue run inflight flight accs
    refine ⟨fun z => ?_, fun z ty => ?_, fun e v => ?_⟩
    · rw [performed (j := .zero z) rfl, doSmall]
      exact ⟨zeroTile_mx _ _, zeroTile_scalars _ _, rd_zeroTile s.cell z⟩
    · rw [performed (j := .cfg z ty) rfl, doSmall]
      exact configTile_acts s.cell z ty
    · rw [performed (j := .fmt e v) rfl, doSmall]
      exact ⟨Reg.rd_wr_same _ _ _, fun x other => Reg.rd_wr_other _ _ other, rfl⟩

end Sys2Proof.Machine
end

section
/-! PROOF of O30: M words enter the queue with what they read, wait, or trap (R137, R154 to R166, R182, R364, R384, R393). -/

namespace Sys2Proof.Machine

/-! ### What planning leaves of the cell that issues -/

/-- The cell that issues, its matrix unit and its pipeline: all that the queue and the order of accesses look at. -/
def State.issuer (s : State) : BitVec 9 × Matrix × Pipe := (s.cur, s.cell.mx, s.cell.pipe)

theorem issuer_updAt_cur (s : State) (f : Cell → Cell) (mx : (f s.cell).mx = s.cell.mx) (pipe : (f s.cell).pipe = s.cell.pipe) :
    (s.updAt s.cur f).issuer = s.issuer := by
  have at_ : (s.updAt s.cur f).cell = f s.cell := State.updAt_cellAt s s.cur f
  rw [State.issuer, at_, mx, pipe]
  rfl

/-- A translation of the cell that issues changes only its translation cache (R220). -/
theorem xlate_issuer {s t : State} {va : Word} {kind pa : Nat} (e : xlate s s.cur va kind = .ok (pa, t)) :
    t.issuer = s.issuer := by
  unfold xlate at e
  dsimp only at e
  split at e
  · cases e
  · split at e
    · split at e
      · cases e; rfl
      · cases e
    · split at e
      · cases e
      · split at e
        · cases e
        · cases e; exact issuer_updAt_cur s _ rfl rfl

theorem mSegs_issuer {s t : State} {hv : BitVec 256} {kind f ea n : Nat} {g : List Seg}
    (e : mSegs hv kind f s ea n = .ok (g, t)) : t.issuer = s.issuer := by
  induction f generalizing s ea n g with
  | zero => cases e; rfl
  | succ f ih =>
    unfold mSegs at e
    dsimp only at e
    split at e
    · cases e; rfl
    · split at e
      · split at e
        · cases e
        · cases e; rfl
      · split at e
        · split at e
          · cases e
          · split at e
            · cases e
            · split at e
              · cases e
              · cases e; rfl
        · split at e
          · cases e
          · next page =>
            split at e
            · cases e
            · next rest => cases e; exact (ih rest).trans (xlate_issuer page)

theorem mRanges_issuer {s t : State} {hv : BitVec 256} {kind : Nat} {l : List (Option (Nat × Nat))} {gs : List (List Seg)}
    (e : mRanges hv kind l s = .ok (gs, t)) : t.issuer = s.issuer := by
  induction l generalizing s gs with
  | nil => cases e; rfl
  | cons a r ih =>
    cases a with
    | none =>
      unfold mRanges at e
      split at e
      · cases e
      · next rest => cases e; exact ih rest
    | some p =>
      unfold mRanges at e
      split at e
      · cases e
      · next range =>
        split at e
        · cases e
        · next rest => cases e; exact (ih rest).trans (mSegs_issuer range)

theorem memoryFlit_issuer (s : State) (dom : Bool) (kind dest a : Nat) (bs : List Byte) :
    (memoryFlit s dom kind dest a bs).issuer = s.issuer := by
  unfold memoryFlit
  split <;> rfl

theorem loadFlits_issuer (s : State) (segs : List Seg) : (loadFlits s segs).issuer = s.issuer := by
  refine foldl_keeps State.issuer (fun t g => ?_) segs s
  split
  · exact foldl_keeps State.issuer (fun u i => memoryFlit_issuer u _ _ _ _ _) _ _
  · rfl

theorem srcFlits_issuer (s : State) (id : Nat) (rows : List (List Seg)) : (srcFlits s id rows).issuer = s.issuer := by
  unfold srcFlits asking
  dsimp only
  split
  · rfl
  · split <;> exact loadFlits_issuer s _

theorem planLoad_issuer {s t : State} {isB : Bool} {o : ML} {hv : BitVec 256} {a : Word} {f : Nat × Option (BitVec 2)} {j : MJob}
    (e : planLoad s isB o hv a f = .ok (j, t)) : t.issuer = s.issuer := by
  unfold planLoad at e
  dsimp only at e
  split at e
  · cases e
  · next runs => cases e; exact (srcFlits_issuer _ _ _).trans (mRanges_issuer runs)

theorem planStore_issuer {s t : State} {o : MZ} {hv : BitVec 256} {a : Word} {ty : BitVec 2} {j : MJob}
    (e : planStore s o hv a ty = .ok (j, t)) : t.issuer = s.issuer := by
  unfold planStore at e
  dsimp only at e
  split at e
  · cases e
  · next runs => cases e; exact mRanges_issuer runs

theorem planFill_issuer {s t : State} {o : MZ} {hv : BitVec 256} {a : Word} {ty : BitVec 2} {j : MJob}
    (e : planFill s o hv a ty = .ok (j, t)) : t.issuer = s.issuer := by
  unfold planFill at e
  split at e
  · cases e
  · next runs => cases e; exact mRanges_issuer runs

/-! ### The queue -/

section
variable {s t : State} {j : MJob}

theorem enqueueM_full (full : 8 ≤ s.cell.mx.queue.length) : enqueueM s j = .freeze := if_pos full

theorem enqueueM_room (room : s.cell.mx.queue.length < 8) : enqueueM s j = .go (queued s j) := if_neg (Nat.not_le.2 room)

/-- A word that accesses memory enters a queue with room, unless an ordered access is under way (R182). -/
theorem enqueueLoad_room (same : t.issuer = s.issuer) (room : s.cell.mx.queue.length < 8) :
    enqueueLoad t j = if orderWaits s.cell then .freeze else .go (queuedLoad t j) := by
  have mx : t.cell.mx = s.cell.mx := congrArg (·.2.1) same
  have pipe : t.cell.pipe = s.cell.pipe := congrArg (·.2.2) same
  have order : orderWaits t.cell = orderWaits s.cell := by rw [orderWaits, pipe, orderWaits]
  rw [enqueueLoad, enqueueM_room (s := { t with nextId := t.nextId + 1 }) (by rw [← mx] at room; exact room), orderedIssue, order]
  rfl

/-- The two outcomes of such a word, from what it has planned. -/
theorem finish_enqueueLoad {r : Host.Outcome State Fault Refusal} (word : r = finish s (enqueueLoad t j))
    (same : t.issuer = s.issuer) (room : s.cell.mx.queue.length < 8) :
    (orderWaits s.cell = true → r = .next (frozen s)) ∧
      (Unordered s → r = .next ((queuedLoad t j).mark s.cur .issued)) := by
  rw [word, enqueueLoad_room same room]
  exact ⟨fun waits => by rw [waits]; rfl, fun free => by rw [show orderWaits s.cell = false from free]; rfl⟩

/-! ### The words -/

variable {h : Header}

/-- What the body of a word with a tag comes to: the tag is allocated where it issues (R79). -/
def Issue.allocating (h : Header) : Issue → Issue
  | .go s => .go (s.upd (allocTag h))
  | r => r

/-- A word of user mode that may name a tag, does what its body says and allocates the tag. -/
theorem issueWord_clear {legal : Bool} {body : Cell → Issue} (clear : Clear h s) (u : User s) (hl : legal = true) :
    issueWord h legal false false true s body = finish s ((body s.cell).allocating h) := by
  have ready : tagWait h s.cell = false := clear.elim Plain.wait Tagged.wait
  have tag : tagBad h true = false := clear.elim (Plain.tag · true) Tagged.tag
  simp only [issueWord, ready, tag, hl, show s.cell.sup = false from u]
  rfl

theorem noTileZ_outside {c : Cell} {z : BitVec 3} (out : tilesOf c ≤ z.toNat) :
    noTileZ c z = some (trapOf cNoTile (z.zeroExtend 64)) := if_pos out

theorem noTileZ_inside {c : Cell} {z : BitVec 3} (in_ : z.toNat < tilesOf c) : noTileZ c z = none := if_neg (Nat.not_le.2 in_)

/-- A latch load whose checks pass does what it has planned (R154, R155, R158). -/
theorem loadWord_planned {isB legal : Bool} {o : ML} (p : Plain h s) (u : User s) (hl : legal = true)
    (ok : loadOk s isB o (s.cell.rdH o.h) (resolveFmt (effFmt s.cell.mx (outerEntry s.cell)) isB o.fmt o.dec o.cb) = true)
    (gather : gatherWait s.cell o = none)
    (plan : planLoad s isB o (s.cell.rdH o.h) (s.cell.rdA o.idx)
      (resolveFmt (effFmt s.cell.mx (outerEntry s.cell)) isB o.fmt o.dec o.cb) = .ok (j, t)) :
    loadWord isB legal h o s = finish s (enqueueLoad t j) := by
  rw [loadWord]
  refine (issueWord_user p u (by rw [hl, ok]; rfl)).trans ?_
  rw [gather]
  dsimp only
  rw [plan]

theorem exec_mcode_planned {o : ML} {g : List Seg} (p : Plain h s) (u : User s) (w : (Instr.mcode h o).WellFormed)
    (handle : mHandle s (s.cell.rdH o.h) = true)
    (plan : mSegs (s.cell.rdH o.h) 0 4 s (hBase (s.cell.rdH o.h)) 2048 = .ok (g, t)) :
    exec (.mcode h o) s =
      finish s (enqueueLoad (srcFlits t t.nextId [g]) (.code t.nextId o.cb (srcOf t [g]))) := by
  rw [exec_mcode, execMcode]
  refine (issueWord_user p u (by rw [check_mcode w, handle]; rfl)).trans ?_
  rw [plan]

theorem exec_mstore_planned {o : MS} {g : List Seg} (p : Plain h s) (u : User s) (w : (Instr.mstore h o).WellFormed)
    (handle : mHandle s (s.cell.rdH o.h) = true)
    (plan : mSegs (s.cell.rdH o.h) 0 4 s (hBase (s.cell.rdH o.h)) (10 * o.count.toNat) = .ok (g, t)) :
    exec (.mstore h o) s =
      finish s (enqueueLoad (srcFlits t t.nextId [g]) (.micro t.nextId o.addr.toNat o.count.toNat (srcOf t [g]))) := by
  rw [exec_mstore, execMstore]
  refine (issueWord_user p u (by rw [check_mstore w, handle]; rfl)).trans ?_
  rw [plan]

theorem exec_mzero_outside {o : MM} (p : Plain h s) (u : User s) (out : tilesOf s.cell ≤ o.z.toNat)
    (w : (Instr.mzero h o).WellFormed) :
    exec (.mzero h o) s = .next (trapped s (trapOf cNoTile (o.z.zeroExtend 64))) := by
  rw [exec_mzero, execMzero]
  refine (issueWord_user p u (check_mzero w)).trans ?_
  rw [noTileZ_outside out]
  rfl

theorem exec_mzero_inside {o : MM} (p : Plain h s) (u : User s) (in_ : o.z.toNat < tilesOf s.cell)
    (w : (Instr.mzero h o).WellFormed) : exec (.mzero h o) s = finish s (enqueueM s (.zero o.z)) := by
  rw [exec_mzero, execMzero]
  refine (issueWord_user p u (check_mzero w)).trans ?_
  rw [noTileZ_inside in_]

theorem exec_mcfg_inside {o : MM} (p : Plain h s) (u : User s) (in_ : o.z.toNat < tilesOf s.cell)
    (w : (Instr.mcfg h o).WellFormed) :
    exec (.mcfg h o) s = finish s (enqueueM s (.cfg o.z (o.fmt.extractLsb' 0 2))) := by
  rw [exec_mcfg, execMcfg]
  refine (issueWord_user p u (check_mcfg w)).trans ?_
  rw [noTileZ_inside in_]

theorem exec_mma_inside {o : MM} (p : Plain h s) (u : User s) (in_ : o.z.toNat < tilesOf s.cell)
    (w : (Instr.mma h o).WellFormed) (settled : cfgPending s.cell.mx o.z = false)
    (ok : mmaOk o (resolveFmt (effFmt s.cell.mx (outerEntry s.cell)) false o.fmt 0 0).1 (effType s.cell.mx o.z) = true) :
    exec (.mma h o) s = finish s (enqueueM s (.mma o.z o.la o.lb
      (BitVec.ofNat 4 (resolveFmt (effFmt s.cell.mx (outerEntry s.cell)) false o.fmt 0 0).1) (decide (o.ta = 1))
      (decide (o.neg = 1)) (decide (o.acc = 1)))) := by
  rw [exec_mma, execMma]
  refine (issueWord_user p u (by rw [check_mma w, ok, Bool.or_true]; rfl)).trans ?_
  rw [noTileZ_inside in_, settled]
  rfl

theorem exec_mstz_planned {o : MZ} (p : Plain h s) (u : User s) (in_ : o.z.toNat < tilesOf s.cell)
    (w : (Instr.mstz h o).WellFormed) (settled : cfgPending s.cell.mx o.z = false)
    (ok : storeOk s o (s.cell.rdH o.h) = true)
    (plan : planStore s o (s.cell.rdH o.h) (s.cell.rdA o.idx) (effType s.cell.mx o.z) = .ok (j, t)) :
    exec (.mstz h o) s = finish s (enqueueLoad t j) := by
  rw [exec_mstz, execMstz]
  refine (issueWord_user p u (by rw [check_mstz w, ok]; rfl)).trans ?_
  rw [noTileZ_inside in_, settled, plan]
  rfl

theorem exec_mldz_planned {o : MZ} (p : Plain h s) (u : User s) (in_ : o.z.toNat < tilesOf s.cell)
    (w : (Instr.mldz h o).WellFormed) (settled : cfgPending s.cell.mx o.z = false)
    (ok : fillOk s o (s.cell.rdH o.h) (effType s.cell.mx o.z) false = true)
    (plan : planFill s o (s.cell.rdH o.h) (s.cell.rdA o.idx) (effType s.cell.mx o.z) = .ok (j, t)) :
    exec (.mldz h o) s = finish s (enqueueLoad t j) := by
  rw [exec_mldz, execMldz]
  refine (issueWord_user p u (by rw [check_mldz w, settled, ok]; rfl)).trans ?_
  rw [noTileZ_inside in_, settled, plan]
  rfl

theorem exec_mfmt_user {o : MF} (p : Plain h s) (u : User s) (w : (Instr.mfmt h o).WellFormed)
    (ok : fmtValueOk (s.cell.rdS o.s) = true) :
    exec (.mfmt h o) s = finish s (enqueueM s (.fmt o.e (s.cell.rdS o.s))) := by
  rw [exec_mfmt, execMfmt]
  exact issueWord_user p u (by rw [check_mfmt w, ok]; rfl)

/-- The call of a routine, with what it copies (R166, R364). -/
def callJob (h : Header) (s : State) (o : MC) : MJob :=
  .call s.nextId o.n (s.cell.entry.rd o.n) ((List.range 8).map fun i => s.cell.rdA (BitVec.ofNat 4 i))
    ((List.range 8).map fun i => s.cell.regs.q.rd (BitVec.ofNat 3 i)) (outerEntry s.cell) (tagOf h) []

theorem exec_mcall_clear {o : MC} (clear : Clear h s) (u : User s) (w : (Instr.mcall h o).WellFormed) :
    exec (.mcall h o) s = finish s (Issue.allocating h
      (if !entryOk (s.cell.entry.rd o.n) then .trap (trapOf cMicroFault (o.n.zeroExtend 64))
      else enqueueLoad s (callJob h s o))) := by
  rw [exec_mcall, execMcall]
  exact issueWord_clear clear u (check_mcall w)

/-- MCALL of an entry that is valid enters the queue or waits, and of any other traps (R166, R182). -/
theorem exec_mcall_cases {o : MC} (clear : Clear h s) (u : User s) (room : s.cell.mx.queue.length < 8)
    (w : (Instr.mcall h o).WellFormed) :
    (entryOk (s.cell.entry.rd o.n) = true → orderWaits s.cell = true → exec (.mcall h o) s = .next (frozen s)) ∧
    (entryOk (s.cell.entry.rd o.n) = true → Unordered s →
      exec (.mcall h o) s = done h s (queuedLoad s (callJob h s o))) ∧
    (entryOk (s.cell.entry.rd o.n) = false →
      exec (.mcall h o) s = .next (trapped s (trapOf cMicroFault (o.n.zeroExtend 64)))) := by
  rw [exec_mcall_clear clear u w, enqueueLoad_room rfl room]
  refine ⟨fun ok waits => ?_, fun ok free => ?_, fun bad => ?_⟩
  · rw [ok, waits]
    rfl
  · rw [ok, show orderWaits s.cell = false from free]
    rfl
  · rw [bad]
    rfl

end

/-- Settles O30: each word is brought to what it puts in the queue, and the queue decides by its room and the ordered accesses. -/
theorem matrixWordsComplete : Obligations.MatrixWordsComplete := by
  unfold Obligations.MatrixWordsComplete
  intro h s u
  refine ⟨fun clear room o w => exec_mcall_cases clear u room w, fun p => ⟨fun o w => ?_, fun o out w => ?_, fun o in_ full w => ?_,
    fun room => ⟨fun o isB => ?_, fun o w handle free segs s1 plan => ?_, fun o w handle free segs s1 plan => ?_,
      fun o in_ => ⟨fun w settled ok => ?_, fun w => ?_, fun w => ?_⟩,
      fun o in_ settled => ⟨fun j s1 w ok plan => ?_, fun j s1 w ok plan => ?_⟩, fun o w ok => ?_⟩⟩⟩
  · exact (exec_msetq h o s).trans
      (issueResults_plain p (check_msetq w) fun sup => absurd (u.symm.trans sup) Bool.false_ne_true)
  · exact exec_mzero_outside p u out w
  · rw [exec_mzero_inside p u in_ w, enqueueM_full full]
    rfl
  · intro f j s1 ok gather plan
    refine ⟨?_, ?_⟩
    · rintro rfl w
      exact finish_enqueueLoad ((exec_mla h o s).trans (loadWord_planned p u (check_mla w) ok gather plan))
        (planLoad_issuer plan) room
    · rintro rfl w
      exact finish_enqueueLoad ((exec_mlb h o s).trans (loadWord_planned p u (check_mlb w) ok gather plan))
        (planLoad_issuer plan) room
  · exact (finish_enqueueLoad (exec_mcode_planned p u w handle plan)
      ((srcFlits_issuer _ _ _).trans (mSegs_issuer plan)) room).2 free
  · exact (finish_enqueueLoad (exec_mstore_planned p u w handle plan)
      ((srcFlits_issuer _ _ _).trans (mSegs_issuer plan)) room).2 free
  · exact (exec_mma_inside p u in_ w settled ok).trans (congrArg (finish s) (enqueueM_room room))
  · exact (exec_mzero_inside p u in_ w).trans (congrArg (finish s) (enqueueM_room room))
  · exact (exec_mcfg_inside p u in_ w).trans (congrArg (finish s) (enqueueM_room room))
  · exact finish_enqueueLoad (exec_mstz_planned p u in_ w settled ok plan) (planStore_issuer plan) room
  · exact finish_enqueueLoad (exec_mldz_planned p u in_ w settled ok plan) (planFill_issuer plan) room
  · exact (exec_mfmt_user p u w ok).trans (congrArg (finish s) (enqueueM_room room))

end Sys2Proof.Machine
end

section
/-! SUPPORT of O11, O19 and O21: what a plain store and a plain load leave of the L1 and of memory (R170, R171). -/

namespace Sys2Proof.Machine

/-! ### Lines that go home -/

/-- Memory after lines have gone home, in their order. -/
def Mem.flushed (m : Mem) (ls : List Line) : Mem := ls.foldl (fun m l => l.flush m) m

/-- The dirty byte of a line at an address. -/
def Line.DirtyAt (l : Line) (x : Nat) : Prop := l.tag ≤ x ∧ x < l.tag + 256 ∧ l.dirty.getLsbD (x - l.tag) = true

theorem State.flush_mem (s : State) (ls : List Line) : (s.flush ls).mem = s.mem.flushed ls := State.poke_mem _ _

theorem Mem.flushed_append (m : Mem) (k l : List Line) : m.flushed (k ++ l) = (m.flushed k).flushed l :=
  List.foldl_append

/-- A byte of memory stays or is a dirty byte of a line that went home. -/
theorem Mem.flushed_rd (m : Mem) (ls : List Line) (x : Nat) :
    (m.flushed ls).rd x = m.rd x ∨ ∃ l ∈ ls, l.DirtyAt x ∧ (m.flushed ls).rd x = byteAt l.data (x - l.tag) := by
  refine ls.foldlRecOn (motive := fun n : Mem => n.rd x = m.rd x ∨ ∃ l ∈ ls, l.DirtyAt x ∧ n.rd x = byteAt l.data (x - l.tag))
    _ (.inl rfl) fun n hn l hl => ?_
  rw [Line.flush_rd]
  split
  · next dirty => exact .inr ⟨l, hl, dirty, rfl⟩
  · exact hn

/-- The line that goes home last leaves its dirty bytes. -/
theorem Mem.flushed_last (m : Mem) (ls : List Line) {l : Line} {x : Nat} (dirty : l.DirtyAt x) :
    (m.flushed (ls ++ [l])).rd x = byteAt l.data (x - l.tag) := by
  have at_ : l.tag ≤ x ∧ x < l.tag + 256 ∧ l.dirty.getLsbD (x - l.tag) = true := dirty
  rw [Mem.flushed, List.foldl_append, List.foldl_cons, List.foldl_nil, Line.flush_rd, if_pos at_]

/-! ### The line of an address -/

/-- A line that holds anything is one of the list. -/
theorem lineOf_mem {ls : List Line} {t : Nat} (holds : (lineOf ls t).dirty ≠ 0) : lineOf ls t ∈ ls := by
  unfold lineOf at holds ⊢
  cases h : ls.find? fun l => decide (l.tag = t) with
  | none => exact absurd rfl (h ▸ holds)
  | some l => exact List.mem_of_find?_eq_some h

/-- Lines allocated first leave; the line put last leaves with all of them or stays. -/
theorem drop_putLine (ls : List Line) (l : Line) (n : Nat) :
    (putLine ls l).drop n = [] ∨ ∃ k, (putLine ls l).drop n = k ++ [l] ∧ ∀ y ∈ k, y.tag ≠ l.tag := by
  rw [putLine, List.drop_append]
  by_cases h : n - (ls.filter fun x => decide (x.tag ≠ l.tag)).length = 0
  · refine .inr ⟨_, by rw [h]; rfl, fun y hy => ?_⟩
    simpa using (List.mem_filter.1 (List.mem_of_mem_drop hy)).2
  · refine .inl (List.append_eq_nil_iff.2 ⟨List.drop_eq_nil_of_le (by omega), List.drop_eq_nil_of_le ?_⟩)
    rw [List.length_singleton]
    omega

theorem lineOf_last {k : List Line} {l : Line} (other : ∀ y ∈ k, y.tag ≠ l.tag) : lineOf (k ++ [l]) l.tag = l := by
  have none_ : k.find? (fun x => decide (x.tag = l.tag)) = none := List.find?_eq_none.2 fun y hy => by simpa using other y hy
  rw [lineOf, List.find?_append, none_]
  simp

theorem length_putLine (ls : List Line) (l : Line) : (putLine ls l).length ≤ ls.length + 1 := by
  rw [putLine, List.length_append]
  exact Nat.add_le_add_right (List.length_filter_le _ _) 1

theorem mem_putLine {ls : List Line} {l y : Line} (h : y ∈ putLine ls l) : y ∈ ls ∨ y = l :=
  (List.mem_append.1 h).imp (fun k => (List.mem_filter.1 k).1) List.mem_singleton.1

/-! ### Which cells and addresses -/

/-- Addresses of one line are cached alike. -/
theorem cacheable_line {ci : BitVec 9} {x a : Nat} (h : x / 256 = a / 256) : cacheable ci x = cacheable ci a := by
  have target : paTarget x = paTarget a := by
    unfold paTarget
    omega
  rw [cacheable, cacheable, target]

/-! ### A plain store (R171, R404, R405) -/

/-- The line that takes the bytes of a plain store. -/
def storedLine (s : State) (c : BitVec 9) (a : Nat) (bs : List Byte) : Line :=
  (lineOf (s.cellAt (l1Owner s c)).lines (a / 256 * 256)).write (a % 256) bs

/-- The lines that a load or store leaves with its own, some of which are beyond the size of the L1. -/
def withLine (s : State) (c : BitVec 9) (l : Line) : List Line := putLine (s.cellAt (l1Owner s c)).lines l

/-- How many of them leave. -/
def leaving (s : State) (c : BitVec 9) (l : Line) : Nat :=
  (withLine s c l).length - l1Lines (s.cellAt (l1Owner s c))

/-- The machine with one more line in the L1 that serves the cell, and those that leave for it gone home. -/
def allocated (s : State) (c : BitVec 9) (l : Line) : State :=
  (s.updAt (l1Owner s c) fun x => { x with lines := (withLine s c l).drop (leaving s c l) }).flush
    ((withLine s c l).take (leaving s c l))

/-- The trim of an L1 that has just taken a line. -/
theorem l1Trim_put (s : State) (c : BitVec 9) (l : Line) :
    l1Trim (s.updAt (l1Owner s c) fun x => { x with lines := putLine x.lines l }) (l1Owner s c) = allocated s c l := by
  simp only [l1Trim, State.updAt_cellAt, State.updAt_updAt]
  rfl

theorem l1Store_cached {s : State} {c : BitVec 9} {a : Nat} (h : cacheable c a = true) (bs : List Byte) :
    l1Store s c a bs = allocated s c (storedLine s c a bs) := by
  rw [l1Store, if_pos h]
  exact l1Trim_put s c _

theorem l1Store_home {s : State} {c : BitVec 9} {a : Nat} (h : cacheable c a = false) (bs : List Byte) :
    l1Store s c a bs = s.store a bs := by
  rw [l1Store, if_neg (by rw [h]; exact Bool.false_ne_true)]

section
variable {s : State} {c : BitVec 9} {l : Line}

theorem allocated_mem : (allocated s c l).mem = s.mem.flushed ((withLine s c l).take (leaving s c l)) :=
  State.flush_mem _ _

theorem allocated_lines :
    ((allocated s c l).cellAt (l1Owner s c)).lines = (withLine s c l).drop (leaving s c l) := by
  rw [allocated, State.cellAt, State.flush_cells]
  exact congrArg Cell.lines (State.updAt_cellAt s _ _)

theorem onlyLines_allocated (s : State) (c : BitVec 9) (l : Line) : OnlyLines s (allocated s c l) :=
  (onlyLines_updAt s _ _).trans (onlyLines_flush _ _)

/-- With room for it, no line leaves. -/
theorem leaving_room (room : HasRoom s c) : leaving s c l = 0 := by
  have := length_putLine (s.cellAt (l1Owner s c)).lines l
  have : (s.cellAt (l1Owner s c)).lines.length < l1Lines (s.cellAt (l1Owner s c)) := room
  unfold leaving withLine
  omega

theorem allocated_mem_room (room : HasRoom s c) : (allocated s c l).mem = s.mem := by
  rw [allocated_mem, leaving_room room]
  rfl

theorem allocated_lines_room (room : HasRoom s c) :
    ((allocated s c l).cellAt (l1Owner s c)).lines = putLine (s.cellAt (l1Owner s c)).lines l := by
  rw [allocated_lines, leaving_room room]
  rfl

end

theorem OnlyLines.bound {s t : State} (h : OnlyLines s t) (c : BitVec 9) : (t.cellAt c).bound = (s.cellAt c).bound :=
  (h.cell c).of Cell.bound fun _ _ => rfl

/-- Which cell's L1 serves a cell is not a matter of the lines. -/
theorem OnlyLines.l1Owner {s t : State} (h : OnlyLines s t) (c : BitVec 9) : l1Owner t c = l1Owner s c := by
  rw [Machine.l1Owner, Machine.l1Owner, h.bound]

theorem OnlyLines.sharedL1 {s t : State} (h : OnlyLines s t) (c : BitVec 9) : sharedL1 t c = sharedL1 s c := by
  rw [Machine.sharedL1, Machine.sharedL1, h.bound]

/-- The bytes that a line which goes last leaves in memory, whether it goes at once or later. -/
theorem flushed_withLine {s : State} {c : BitVec 9} {l : Line} {x : Nat} (dirty : l.DirtyAt x) :
    ((allocated s c l).mem.flushed ((allocated s c l).cellAt (l1Owner s c)).lines).rd x = byteAt l.data (x - l.tag) := by
  rw [allocated_mem, allocated_lines, ← Mem.flushed_append, List.take_append_drop]
  exact Mem.flushed_last _ _ dirty

/-- A byte that is dirty in the line put last is what the cell sees, whether the line stays or not. -/
theorem seen_allocated {s : State} {c : BitVec 9} {l : Line} {x : Nat} (cached : cacheable c x = true)
    (tag : l.tag = x / 256 * 256) (have_ : l.have_.getLsbD (x % 256) = true) (dirty : l.dirty.getLsbD (x % 256) = true) :
    seen (allocated s c l) c x = byteAt l.data (x % 256) := by
  have off : x - l.tag = x % 256 := by omega
  have home : l.DirtyAt x := ⟨by omega, by omega, by rw [off]; exact dirty⟩
  have owner := (onlyLines_allocated s c l).l1Owner c
  rw [seen, owner, cached, ← tag]
  obtain gone | ⟨k, kept, other⟩ := drop_putLine (s.cellAt (l1Owner s c)).lines l (leaving s c l)
  · have lines : ((allocated s c l).cellAt (l1Owner s c)).lines = [] := allocated_lines.trans gone
    have bytes := flushed_withLine (s := s) (c := c) home
    rw [lines, off] at bytes
    have none_ : (lineOf [] l.tag).have_.getLsbD (x % 256) = false := BitVec.getLsbD_zero
    rw [lines, none_]
    exact (if_neg Bool.false_ne_true).trans bytes
  · have lines : ((allocated s c l).cellAt (l1Owner s c)).lines = k ++ [l] := allocated_lines.trans kept
    rw [lines, lineOf_last other]
    simp only [have_, Bool.true_and, if_true]

section
variable {s : State} {c : BitVec 9} {a x : Nat} {bs : List Byte}

theorem storedLine_tag : (storedLine s c a bs).tag = a / 256 * 256 := lineOf_tag _ _

/-- An address within a store that stays in its line. -/
theorem within_line (fits : a % 256 + bs.length ≤ 256) (low : a ≤ x) (high : x < a + bs.length) :
    x / 256 = a / 256 ∧ x % 256 = a % 256 + (x - a) := by omega

/-- The cell sees what it has stored (R171). -/
theorem seen_l1Store (fits : a % 256 + bs.length ≤ 256) (low : a ≤ x) (high : x < a + bs.length) :
    seen (l1Store s c a bs) c x = bs.getD (x - a) 0 := by
  obtain ⟨line, off⟩ := within_line fits low high
  cases h : cacheable c a with
  | true =>
    have in_ : a % 256 ≤ x % 256 ∧ x % 256 < a % 256 + bs.length := by omega
    have within : x % 256 < 256 := Nat.mod_lt _ (by omega)
    rw [l1Store_cached h, seen_allocated ((cacheable_line line).trans h) (storedLine_tag.trans (by rw [line]))
      (by rw [storedLine, Line.write_have _ _ _ _ within, decide_eq_true in_, Bool.or_true])
      (by rw [storedLine, Line.write_dirty _ _ _ _ within, decide_eq_true in_, Bool.or_true]),
      storedLine, Line.write_byte _ _ _ _ within, if_pos in_, show x % 256 - a % 256 = x - a by omega]
  | false =>
    have out : cacheable c x = false := (cacheable_line line).trans h
    rw [l1Store_home h, seen, out, Bool.false_and, if_neg Bool.false_ne_true, State.store_mem, Mem.rd_store, if_pos ⟨low, high⟩]

/-- With room for the line, the cell sees every other byte as before. -/
theorem seen_l1Store_other (room : HasRoom s c) (out : ¬ (a ≤ x ∧ x < a + bs.length)) :
    seen (l1Store s c a bs) c x = seen s c x := by
  cases h : cacheable c a with
  | true =>
    have owner := (onlyLines_allocated s c (storedLine s c a bs)).l1Owner c
    rw [l1Store_cached h, seen, seen, owner, allocated_lines_room room, allocated_mem_room room]
    by_cases line : x / 256 = a / 256
    · have within : x % 256 < 256 := Nat.mod_lt _ (by omega)
      have off : ¬ (a % 256 ≤ x % 256 ∧ x % 256 < a % 256 + bs.length) := by omega
      have put := lineOf_put_same (s.cellAt (l1Owner s c)).lines (storedLine s c a bs)
      rw [storedLine_tag] at put
      rw [line, put, storedLine, Line.write_have _ _ _ _ within, Line.write_byte _ _ _ _ within, decide_eq_false off, if_neg off,
        Bool.or_false]
    · rw [lineOf_put_other _ _ (by rw [storedLine_tag]; omega)]
  | false =>
    have cell (d : BitVec 9) : (s.store a bs).cellAt d = s.cellAt d := by rw [State.cellAt, State.store_cells, State.cellAt]
    rw [l1Store_home h, seen, seen, (onlyLines_store s a bs).l1Owner, cell, State.store_mem, Mem.rd_store, if_neg out]

/-- Memory outside a store changes at most by dirty bytes of the lines that leave (R170, R171). -/
theorem l1Store_mem_other (out : ¬ (a ≤ x ∧ x < a + bs.length)) :
    (l1Store s c a bs).mem.rd x = s.mem.rd x ∨ DirtyByte s c x ((l1Store s c a bs).mem.rd x) := by
  cases h : cacheable c a with
  | true =>
    rw [l1Store_cached h, allocated_mem]
    obtain same | ⟨l, hl, ⟨low, high, dirty⟩, e⟩ :=
      Mem.flushed_rd s.mem ((withLine s c (storedLine s c a bs)).take (leaving s c (storedLine s c a bs))) x
    · exact .inl same
    · refine .inr ?_
      rw [e]
      obtain old | rfl := mem_putLine (List.mem_of_mem_take hl)
      · exact ⟨l, old, low, dirty, rfl⟩
      · rw [storedLine_tag] at low high dirty ⊢
        have within : x - a / 256 * 256 < 256 := by omega
        have off : ¬ (a % 256 ≤ x - a / 256 * 256 ∧ x - a / 256 * 256 < a % 256 + bs.length) := by omega
        rw [storedLine, Line.write_dirty _ _ _ _ within, decide_eq_false off, Bool.or_false] at dirty
        rw [storedLine, Line.write_byte _ _ _ _ within, if_neg off]
        have tag := lineOf_tag (s.cellAt (l1Owner s c)).lines (a / 256 * 256)
        exact ⟨_, lineOf_mem (dirty_ne_zero dirty), by rw [tag]; exact low, by rw [tag]; exact dirty, by rw [tag]⟩
  | false => exact .inl (by rw [l1Store_home h, State.store_mem, Mem.rd_store, if_neg out])

/-- With room for the line, memory outside a store is as before. -/
theorem l1Store_mem_room (room : HasRoom s c) (out : ¬ (a ≤ x ∧ x < a + bs.length)) :
    (l1Store s c a bs).mem.rd x = s.mem.rd x := by
  cases h : cacheable c a with
  | true => rw [l1Store_cached h, allocated_mem_room room]
  | false => rw [l1Store_home h, State.store_mem, Mem.rd_store, if_neg out]

theorem onlyLines_l1Store (s : State) (c : BitVec 9) (a : Nat) (bs : List Byte) : OnlyLines s (l1Store s c a bs) := by
  cases h : cacheable c a with
  | true => exact l1Store_cached h bs ▸ onlyLines_allocated s c _
  | false => exact l1Store_home h bs ▸ onlyLines_store s a bs

/-! ### Coherence of stores, loads and closes (R171, R177) -/

/-- What a cell stored it loads back. -/
theorem l1Load_l1Store (fits : a % 256 + bs.length ≤ 256) : (l1Load (l1Store s c a bs) c a bs.length).1 = bs := by
  rw [l1Load_seen _ _ _ _ fits fun i hi => cacheable_line (by omega)]
  refine List.ext_getElem (by simp) fun i h1 h2 => ?_
  rw [List.getElem_map, List.getElem_range, seen_l1Store fits (Nat.le_add_right a i) (by omega), Nat.add_sub_cancel_left,
    List.getD_eq_getElem _ _ h2]

theorem l1Clean_mem (s : State) (c : BitVec 9) : (l1Clean s c).mem = s.mem.flushed (s.cellAt (l1Owner s c)).lines :=
  State.flush_mem _ _

theorem scopeActs_iff (s : State) (c : BitVec 9) (k : Nat) :
    scopeActs s c k = true ↔ 2 ≤ k ∧ (k ≠ 2 ∨ sharedL1 s c = false) := by
  simp only [scopeActs, Bool.and_eq_true, decide_eq_true_eq, Bool.not_eq_true', Bool.and_eq_false_iff, decide_eq_false_iff_not]

/-- A close that acts on memory puts the bytes of a store there. -/
theorem closePhase_l1Store (fits : a % 256 + bs.length ≤ 256) (h : cacheable c a = true) {k : Nat} (wide : 2 ≤ k)
    (own : k ≠ 2 ∨ sharedL1 s c = false) {i : Nat} (hi : i < bs.length) :
    (closePhase (l1Store s c a bs) c k).mem.rd (a + i) = bs.getD i 0 := by
  have frame := onlyLines_allocated s c (storedLine s c a bs)
  have tag : (storedLine s c a bs).tag = a / 256 * 256 := storedLine_tag
  have off : a + i - (storedLine s c a bs).tag = a % 256 + i := by omega
  have in_ : a % 256 ≤ a % 256 + i ∧ a % 256 + i < a % 256 + bs.length := by omega
  have dirty : (storedLine s c a bs).DirtyAt (a + i) := by
    refine ⟨by omega, by omega, ?_⟩
    rw [off, storedLine, Line.write_dirty _ _ _ _ (by omega), decide_eq_true in_, Bool.or_true]
  have acts : scopeActs (allocated s c (storedLine s c a bs)) c k = true := by
    rw [scopeActs_iff, frame.sharedL1]
    exact ⟨wide, own⟩
  rw [l1Store_cached h, closePhase, if_pos acts, l1Clean_mem, frame.l1Owner, flushed_withLine dirty, off, storedLine,
    Line.write_byte _ _ _ _ (by omega), if_pos in_, Nat.add_sub_cancel_left]

/-- A close that does not act on memory leaves the machine as it is. -/
theorem closePhase_l1Store_narrow {k : Nat} (narrow : k < 2 ∨ k = 2 ∧ sharedL1 s c = true) :
    closePhase (l1Store s c a bs) c k = l1Store s c a bs := by
  refine if_neg fun acts => ?_
  rw [scopeActs_iff, (onlyLines_l1Store s c a bs).sharedL1] at acts
  obtain ⟨wide, own⟩ := acts
  obtain small | ⟨rfl, shared⟩ := narrow
  · omega
  · exact own.elim (fun h => h rfl) fun own => Bool.false_ne_true (own.symm.trans shared)

end

end Sys2Proof.Machine
end

section
/-! PROOF of O21: the frame of a plain store, and its coherence with loads and phase closes (R170, R171, R177, R404, R405). -/

namespace Sys2Proof.Machine

/-! ### A word that issued -/

/-- An outcome that goes on, if at all, in state `u`. -/
def Issue.GoesOnlyTo (u : State) : Issue → Prop
  | .go v => v = u
  | .poll _ => False
  | _ => True

theorem orderedIssue_goesOnlyTo (c : Cell) (u : State) : (orderedIssue c (.go u)).GoesOnlyTo u := by
  unfold orderedIssue
  dsimp only
  split
  · trivial
  · rfl

theorem takeTrap_cur (s : State) (c : BitVec 9) (t : Trap) (epc : BitVec 32) (pd : Bool) :
    (takeTrap s c t epc pd).cur = s.cur := by
  unfold takeTrap
  dsimp only
  split
  · exact abortTask_cur _ c
  · split <;> rfl

theorem mark_verdict {s : State} {c : BitVec 9} (v : Verdict) (h : s.cur = c) : (s.mark c v).cell.verdict = v := by
  subst h
  exact congrArg Cell.verdict (State.updAt_cellAt s s.cur _)

/-- A word that traps or waits has not issued. -/
theorem finish_notIssued {s t : State} {r : Issue} {u : State} (only : r.GoesOnlyTo u) (e : finish s r = .next t)
    (v : t.cell.verdict = .issued) : t = u.mark s.cur .issued := by
  cases r with
  | go w =>
    obtain rfl : w = u := only
    exact (Host.Outcome.next.inj e).symm
  | trap x =>
    refine absurd v ?_
    unfold finish at e
    dsimp only at e
    split at e
    · cases e
      rw [mark_verdict _ rfl]
      exact nofun
    · cases e
      rw [mark_verdict _ (takeTrap_cur _ _ _ _ _)]
      exact nofun
  | freeze =>
    cases e
    exact absurd ((mark_verdict .frozen rfl).symm.trans v) nofun
  | poll w => exact only.elim
  | needIdle =>
    cases e
    exact absurd ((mark_verdict .idle rfl).symm.trans v) nofun

/-- A word that issued has done what its body says. -/
theorem issueWord_issued {h : Header} {legal handler priv tags : Bool} {s t u : State} {body : Cell → Issue}
    (only : (body s.cell).GoesOnlyTo u) (e : issueWord h legal handler priv tags s body = .next t)
    (v : t.cell.verdict = .issued) : t = (u.upd (allocTag h)).mark s.cur .issued := by
  refine finish_notIssued ?_ e v
  split
  · trivial
  · split
    · trivial
    · split
      · trivial
      · split
        · trivial
        · cases hb : body s.cell with
          | go w =>
            rw [hb] at only
            exact congrArg (State.upd · (allocTag h)) only
          | poll w =>
            rw [hb] at only
            exact only
          | trap _ => trivial
          | freeze => trivial
          | needIdle => trivial

/-! ### What plain accesses and register reads look at -/

/-- The parts of a cell that plain accesses and reads of registers look at. -/
abbrev CellView : Type := List Line × Option Binding × Mem × Regs × Word × Nx × Matrix × Reg 8 Word × Word × Wait

/-- Of a cell: the lines of its L1, its reservation, its scratchpad, and what a program reads of its registers. -/
def Cell.view (c : Cell) : CellView :=
  (c.lines, c.bound, c.pad, c.regs, c.tr.status, c.nx, c.mx, c.entry, c.tr.cause, c.wait)

/-- Of a machine: the issuing cell, the cells' views, both memories, package, brood table and tasks. -/
def State.view (s : State) : BitVec 9 × (BitVec 9 → CellView) × Mem × Mem × Package × Brood × Tasks :=
  (s.cur, fun c => (s.cellAt c).view, s.mem, s.staging, s.pkg, s.brood, s.tasks)

theorem view_updAt {s : State} {c : BitVec 9} {f : Cell → Cell} (keeps : ∀ x, (f x).view = x.view) :
    (s.updAt c f).view = s.view := by
  have cells : (fun d => ((s.updAt c f).cellAt d).view) = fun d => (s.cellAt d).view := by
    funext d
    by_cases e : d = c
    · rw [e, State.updAt_cellAt, keeps]
    · rw [State.updAt_other s f e]
  unfold State.view
  rw [cells]
  rfl

theorem view_upd {s : State} {f : Cell → Cell} (keeps : ∀ x, (f x).view = x.view) : (s.upd f).view = s.view :=
  view_updAt keeps

theorem view_allocTag (h : Header) (c : Cell) : (allocTag h c).view = c.view := by
  unfold allocTag
  split <;> rfl

/-- A translation fills the cell's translation cache, if anything (R220). -/
theorem xlate_view {s t : State} {va : Word} {c : BitVec 9} {kind pa : Nat} (e : xlate s c va kind = .ok (pa, t)) :
    t.view = s.view := by
  unfold xlate at e
  dsimp only at e
  split at e
  · cases e
  · split at e
    · split at e
      · cases e; rfl
      · cases e
    · split at e
      · cases e
      · split at e
        · cases e
        · cases e; exact view_updAt fun _ => rfl

theorem resolve_view {s t : State} {ea : Word} {space slice size kind : Nat} {sp : Space} {a : Nat}
    (e : resolve s ea space slice size kind = .ok (sp, a, t)) : t.view = s.view := by
  unfold resolve at e
  dsimp only at e
  split at e
  · cases e
  · split at e
    · cases e
    · split at e
      · cases e; rfl
      · split at e
        · split at e
          · cases e
          · split at e
            · cases e
            · split at e
              · cases e
              · cases e; rfl
        · split at e
          · cases e
          · next page => cases e; exact xlate_view page

theorem memoryFlit_view (s : State) (dom : Bool) (kind dest a : Nat) (bs : List Byte) :
    (memoryFlit s dom kind dest a bs).view = s.view := by
  unfold memoryFlit
  split <;> rfl

theorem peerFlits_view (s : State) (dom : Bool) (kind pa : Nat) (bs : List Byte) :
    (peerFlits s dom kind pa bs).view = s.view := by
  unfold peerFlits
  split
  · exact foldl_keeps State.view (fun u i => memoryFlit_view u _ _ _ _ _) _ _
  · rfl

theorem addAccess_view (s : State) (h : Header) (lands : List Land) (write : Bool) (pa : Nat) (dom ord : Bool) :
    (addAccess s h lands write pa dom ord).view = s.view :=
  view_upd (s := s) (f := fun c => { c with pipe := { c.pipe with accs := _ } }) fun _ => rfl

theorem sendAccess_view (s : State) (h : Header) (lands : List Land) (kind : Nat) (sp : Space) (ea : Word) (a : Nat)
    (bs : List Byte) (ord : Bool) : (sendAccess s h lands kind sp ea a bs ord).view = s.view := by
  refine (addAccess_view _ _ _ _ _ _ _).trans ?_
  split
  · exact peerFlits_view _ _ _ _ _
  · rfl

theorem acknowledged_view (h : Header) (sp : Space) (ea : Word) (a : Nat) (bs : List Byte) (ord : Bool) (t : State) :
    (acknowledged h sp ea a bs ord t).view = t.view := by
  unfold acknowledged
  split
  · rfl
  · exact sendAccess_view _ _ _ _ _ _ _ _ _

/-- A word's issue puts results in flight, allocates a tag and is marked: nothing of the view. -/
theorem issued_view (h : Header) (u : State) (l : List InFlight) (c : BitVec 9) :
    (((u.push l).upd (allocTag h)).mark c .issued).view = u.view := by
  have marked : (((u.push l).upd (allocTag h)).mark c .issued).view = ((u.push l).upd (allocTag h)).view :=
    view_updAt fun _ => rfl
  have pushed : (u.push l).view = u.view := view_upd fun _ => rfl
  rw [marked, view_upd (view_allocTag h), pushed]

section
variable {s t : State}

theorem view_cur (v : t.view = s.view) : t.cur = s.cur := congrArg (·.1) v

theorem view_cellAt (v : t.view = s.view) (c : BitVec 9) : (t.cellAt c).view = (s.cellAt c).view :=
  congrFun (congrArg (·.2.1) v) c

theorem view_cell (v : t.view = s.view) : t.cell.view = s.cell.view := by
  rw [State.cell, State.cell, view_cur v, view_cellAt v]

theorem view_mem (v : t.view = s.view) : t.mem = s.mem := congrArg (·.2.2.1) v

theorem view_regs (v : t.view = s.view) : t.cell.regs = s.cell.regs := congrArg (·.2.2.2.1) (view_cell v)

theorem view_pad (v : t.view = s.view) : t.cell.pad = s.cell.pad := congrArg (·.2.2.1) (view_cell v)

theorem view_cause (v : t.view = s.view) : t.cell.tr.cause = s.cell.tr.cause := congrArg (·.2.2.2.2.2.2.2.2.1) (view_cell v)

theorem view_wait (v : t.view = s.view) : t.cell.wait = s.cell.wait := congrArg (·.2.2.2.2.2.2.2.2.2) (view_cell v)

theorem view_staging (v : t.view = s.view) : t.staging = s.staging := congrArg (·.2.2.2.1) v

theorem view_lines (v : t.view = s.view) (c : BitVec 9) : (t.cellAt c).lines = (s.cellAt c).lines :=
  congrArg (·.1) (view_cellAt v c)

theorem view_bound (v : t.view = s.view) (c : BitVec 9) : (t.cellAt c).bound = (s.cellAt c).bound :=
  congrArg (·.2.1) (view_cellAt v c)

theorem view_l1Owner (v : t.view = s.view) (c : BitVec 9) : l1Owner t c = l1Owner s c := by
  rw [l1Owner, l1Owner, view_bound v]

theorem view_seenIn (v : t.view = s.view) (sp : Space) (x : Nat) : seenIn t sp x = seenIn s sp x := by
  cases sp with
  | main =>
    show seen t t.cur x = seen s s.cur x
    rw [seen, seen, view_cur v, view_l1Owner v, view_lines v, view_mem v]
  | pad => exact congrArg (fun w => w.2.2.1.rd x) (view_cell v)
  | staging => exact congrArg (·.rd x) (view_staging v)

theorem view_hasRoom (v : t.view = s.view) {c : BitVec 9} (room : HasRoom s c) : HasRoom t c := by
  rw [HasRoom, l1Lines] at room ⊢
  rwa [view_l1Owner v, view_lines v, view_bound v]

theorem view_dirtyByte (v : t.view = s.view) {c : BitVec 9} {x : Nat} {b : Byte} (dirty : DirtyByte t c x b) :
    DirtyByte s c x b := by
  rw [DirtyByte] at dirty ⊢
  rwa [view_l1Owner v, view_lines v] at dirty

end

/-! ### The frame of a plain store -/

section
variable {s : State} {a x : Nat} {bs : List Byte}

/-- The issuing cell sees the bytes that it has stored. -/
theorem seenIn_writePlain {sp : Space} (fits : a % 256 + bs.length ≤ 256) (low : a ≤ x) (high : x < a + bs.length) :
    seenIn (writePlain s sp a bs) sp x = bs.getD (x - a) 0 := by
  cases sp with
  | main =>
    have cur : (l1Store s s.cur a bs).cur = s.cur := (onlyLines_l1Store s s.cur a bs).cur
    show seen (l1Store s s.cur a bs) (l1Store s s.cur a bs).cur x = _
    rw [cur, seen_l1Store fits low high]
  | pad =>
    show (s.upd fun c => { c with pad := c.pad.store a bs }).cell.pad.rd x = _
    rw [State.cell, State.upd, State.updAt_cur, State.updAt_cellAt, Mem.rd_store, if_pos ⟨low, high⟩]
  | staging => exact (Mem.rd_store _ _ _ _).trans (if_pos ⟨low, high⟩)

/-- The other bytes of the space it sees as before, where no line has to leave. -/
theorem seenIn_writePlain_other {sp : Space} (room : sp ≠ .main ∨ HasRoom s s.cur) (out : ¬ (a ≤ x ∧ x < a + bs.length)) :
    seenIn (writePlain s sp a bs) sp x = seenIn s sp x ∧ (writePlain s sp a bs).mem.rd x = s.mem.rd x := by
  cases sp with
  | main =>
    have cur : (l1Store s s.cur a bs).cur = s.cur := (onlyLines_l1Store s s.cur a bs).cur
    have room := room.resolve_left fun other => other rfl
    refine ⟨?_, l1Store_mem_room room out⟩
    show seen (l1Store s s.cur a bs) (l1Store s s.cur a bs).cur x = _
    rw [cur, seen_l1Store_other room out]
    rfl
  | pad =>
    refine ⟨?_, rfl⟩
    show (s.upd fun c => { c with pad := c.pad.store a bs }).cell.pad.rd x = _
    rw [State.cell, State.upd, State.updAt_cur, State.updAt_cellAt, Mem.rd_store, if_neg out]
    rfl
  | staging => exact ⟨(Mem.rd_store _ _ _ _).trans (if_neg out), rfl⟩

/-- Of the other spaces it sees every byte as before. -/
theorem seenIn_writePlain_apart {sp sp' : Space} (apart : sp' ≠ sp) :
    seenIn (writePlain s sp a bs) sp' x = seenIn s sp' x := by
  have frame := onlyLines_l1Store s s.cur a bs
  have lines : ∀ f : Cell → Cell, (∀ c, (f c).lines = c.lines ∧ (f c).bound = c.bound) →
      seenIn (s.upd f) .main x = seenIn s .main x := fun f keeps => by
    have cell (d : BitVec 9) : ((s.upd f).cellAt d).lines = (s.cellAt d).lines ∧
        ((s.upd f).cellAt d).bound = (s.cellAt d).bound := by
      by_cases e : d = s.cur
      · rw [e, State.upd, State.updAt_cellAt]
        exact keeps _
      · rw [State.upd, State.updAt_other s f e]
        exact ⟨rfl, rfl⟩
    show seen (s.upd f) s.cur x = seen s s.cur x
    have owner : l1Owner (s.upd f) s.cur = l1Owner s s.cur := by rw [l1Owner, l1Owner, (cell _).2]
    rw [seen, seen, owner, (cell _).1]
    rfl
  match sp, sp', apart with
  | .main, .main, apart => exact absurd rfl apart
  | .main, .pad, _ =>
    show (l1Store s s.cur a bs).cell.pad.rd x = s.cell.pad.rd x
    rw [State.cell, frame.cur, (frame.cell s.cur).of Cell.pad fun _ _ => rfl, State.cell]
  | .main, .staging, _ => exact congrArg (·.rd x) frame.staging
  | .pad, .main, _ => exact lines _ fun _ => ⟨rfl, rfl⟩
  | .pad, .pad, apart => exact absurd rfl apart
  | .pad, .staging, _ => rfl
  | .staging, .main, _ => rfl
  | .staging, .pad, _ => rfl
  | .staging, .staging, apart => exact absurd rfl apart

/-- Main memory outside a store changes at most by dirty bytes that go home. -/
theorem writePlain_mem_other {sp : Space} (out : ¬ (a ≤ x ∧ x < a + bs.length)) :
    (writePlain s sp a bs).mem.rd x = s.mem.rd x ∨ DirtyByte s s.cur x ((writePlain s sp a bs).mem.rd x) := by
  cases sp with
  | main => exact l1Store_mem_other out
  | pad => exact .inl rfl
  | staging => exact .inl rfl

/-- What else a store leaves as it is: registers, special registers, tiles, flags, package, slots and tasks. -/
theorem writePlain_rest (s : State) (sp : Space) (a : Nat) (bs : List Byte) :
    let t := writePlain s sp a bs
    t.cell.regs = s.cell.regs ∧ t.cell.tr.status = s.cell.tr.status ∧ t.cell.nx = s.cell.nx ∧ t.cell.mx = s.cell.mx ∧
      t.cell.entry = s.cell.entry ∧ t.pkg = s.pkg ∧ t.brood = s.brood ∧ t.tasks = s.tasks := by
  cases sp with
  | main =>
    have frame := onlyLines_l1Store s s.cur a bs
    have brood : (l1Store s s.cur a bs).brood = s.brood := by
      cases h : cacheable s.cur a with
      | true => rw [l1Store_cached h, allocated, State.flush_brood, State.updAt_brood]
      | false => rw [l1Store_home h, State.store_brood]
    have cell : (l1Store s s.cur a bs).cell.SameButLines s.cell := by
      rw [State.cell, frame.cur]
      exact frame.cell s.cur
    exact ⟨cell.of Cell.regs fun _ _ => rfl, cell.of (·.tr.status) fun _ _ => rfl, cell.of Cell.nx fun _ _ => rfl,
      cell.of Cell.mx fun _ _ => rfl, cell.of Cell.entry fun _ _ => rfl, frame.pkg, brood, frame.tasks⟩
  | pad =>
    have cell : (s.upd fun c => { c with pad := c.pad.store a bs }).cell = { s.cell with pad := s.cell.pad.store a bs } :=
      State.updAt_cellAt s s.cur _
    dsimp only [writePlain]
    rw [cell]
    exact ⟨rfl, rfl, rfl, rfl, rfl, rfl, rfl, rfl⟩
  | staging => exact ⟨rfl, rfl, rfl, rfl, rfl, rfl, rfl, rfl⟩

end

/-- The frame of a plain store of `bs` at `a` of a space: what its cell sees then, memory, and all the rest. -/
def StoreFrame (s t : State) (sp : Space) (a : Nat) (bs : List Byte) : Prop :=
  (∀ x, a ≤ x → x < a + bs.length → seenIn t sp x = bs.getD (x - a) 0) ∧
  (sp ≠ .main ∨ HasRoom s s.cur → ∀ x, ¬ (a ≤ x ∧ x < a + bs.length) →
    seenIn t sp x = seenIn s sp x ∧ t.mem.rd x = s.mem.rd x) ∧
  (∀ sp' x, sp' ≠ sp → seenIn t sp' x = seenIn s sp' x) ∧
  (∀ x, ¬ (a ≤ x ∧ x < a + bs.length) → t.mem.rd x = s.mem.rd x ∨ DirtyByte s s.cur x (t.mem.rd x)) ∧
  t.cell.regs = s.cell.regs ∧ t.cell.tr.status = s.cell.tr.status ∧ t.cell.nx = s.cell.nx ∧ t.cell.mx = s.cell.mx ∧
  t.cell.entry = s.cell.entry ∧ t.pkg = s.pkg ∧ t.brood = s.brood ∧ t.tasks = s.tasks

/-- Machines of one view have one frame. -/
theorem StoreFrame.of_view {s s1 t u : State} {sp : Space} {a : Nat} {bs : List Byte} (h : StoreFrame s1 u sp a bs)
    (before : s1.view = s.view) (after : t.view = u.view) : StoreFrame s t sp a bs := by
  obtain ⟨own, other, apart, mem, rest⟩ := h
  have cell := view_cell before
  have cell' := view_cell after
  refine ⟨fun x low high => (view_seenIn after sp x).trans (own x low high), fun room x out => ?_, fun sp' x ne => ?_,
    fun x out => ?_, ?_⟩
  · have room1 : sp ≠ .main ∨ HasRoom s1 s1.cur := room.imp_right fun r => view_cur before ▸ view_hasRoom before r
    obtain ⟨seen, kept⟩ := other room1 x out
    exact ⟨by rw [view_seenIn after, seen, view_seenIn before], by rw [view_mem after, kept, view_mem before]⟩
  · rw [view_seenIn after, apart sp' x ne, view_seenIn before]
  · have m := mem x out
    rw [view_mem after]
    rw [view_mem before, view_cur before] at m
    exact m.imp_right (view_dirtyByte before)
  · obtain ⟨regs, status, nx, mx, entry, pkg, brood, tasks⟩ := rest
    refine ⟨(congrArg (·.2.2.2.1) cell').trans (regs.trans (congrArg (·.2.2.2.1) cell)),
      (congrArg (·.2.2.2.2.1) cell').trans (status.trans (congrArg (·.2.2.2.2.1) cell)),
      (congrArg (·.2.2.2.2.2.1) cell').trans (nx.trans (congrArg (·.2.2.2.2.2.1) cell)),
      (congrArg (·.2.2.2.2.2.2.1) cell').trans (mx.trans (congrArg (·.2.2.2.2.2.2.1) cell)),
      (congrArg (·.2.2.2.2.2.2.2.1) cell').trans (entry.trans (congrArg (·.2.2.2.2.2.2.2.1) cell)),
      (congrArg (·.2.2.2.2.1) after).trans (pkg.trans (congrArg (·.2.2.2.2.1) before)),
      (congrArg (·.2.2.2.2.2.1) after).trans (brood.trans (congrArg (·.2.2.2.2.2.1) before)),
      (congrArg (·.2.2.2.2.2.2) after).trans (tasks.trans (congrArg (·.2.2.2.2.2.2) before))⟩

theorem writePlain_frame (s : State) (sp : Space) {a : Nat} {bs : List Byte} (fits : a % 256 + bs.length ≤ 256) :
    StoreFrame s (writePlain s sp a bs) sp a bs :=
  ⟨fun _ low high => seenIn_writePlain fits low high, fun room _ out => seenIn_writePlain_other room out,
    fun _ _ apart => seenIn_writePlain_apart apart, fun _ out => writePlain_mem_other out, writePlain_rest s sp a bs⟩

/-- Bytes aligned to a size that divides 256 lie in one line. -/
theorem aligned_fits {a n : Nat} (divides : n ∣ 256) (aligned : a % n = 0) : a % 256 + n ≤ 256 := by
  have rest : a % 256 % n = 0 := by rw [Nat.mod_mod_of_dvd _ divides, aligned]
  have line : n ∣ 256 - a % 256 := Nat.dvd_sub divides (Nat.dvd_of_mod_eq_zero rest)
  have := Nat.le_of_dvd (by omega) line
  omega

/-- A word that went on, if at all, with a plain store: if it issued, its frame is the store's. -/
theorem storeFrame_issued {h : Header} {s s1 t u : State} {legal handler priv tags : Bool} {body : Cell → Issue} {sp : Space}
    {a : Nat} {bs : List Byte} {l : List InFlight} (e : issueWord h legal handler priv tags s body = .next t)
    (v : t.cell.verdict = .issued) (only : (body s.cell).GoesOnlyTo (u.push l)) (before : s1.view = s.view)
    (after : u.view = (writePlain s1 sp a bs).view) (divides : bs.length ∣ 256) (aligned : a % bs.length = 0) :
    StoreFrame s t sp a bs := by
  rw [issueWord_issued only e v]
  exact (writePlain_frame s1 sp (aligned_fits divides aligned)).of_view before ((issued_view _ _ _ _).trans after)

section
variable {h : Header} {o : AM} {s s1 : State} {sp : Space} {a : Nat}

theorem st_frame {t : State} (e : exec (.st h o) s = .next t) (order : o.ord = 0#2)
    (place : resolve s (amAddr s.cell o) o.space.toNat (amSlice s.cell o.hb) (2 ^ o.size.toNat) 1 = .ok (sp, a, s1))
    (v : t.cell.verdict = .issued) :
    let bs := toBytes (2 ^ o.size.toNat) (s.cell.rdS (o.data.extractLsb' 0 6)).toNat
    a % bs.length = 0 → StoreFrame s t sp a bs := by
  intro bs aligned
  have size : bs.length = 2 ^ o.size.toNat := length_toBytes _ _
  have divides : bs.length ∣ 256 := by
    rw [size]
    exact Nat.pow_dvd_pow 2 (show o.size.toNat ≤ 8 by omega)
  rw [exec_st, execSt] at e
  refine storeFrame_issued (u := acknowledged h sp (amAddr s.cell o) a bs false (writePlain s1 sp a bs))
    (l := indexResult h s.cell o.u o.ai) e v ?_ (resolve_view place)
    (acknowledged_view _ _ _ _ _ _ _) divides aligned
  simp only [place, order]
  split
  · trivial
  · exact orderedIssue_goesOnlyTo _ _

theorem stv_frame {t : State} (e : exec (.stv h o) s = .next t)
    (place : resolve s (amAddr s.cell o) o.space.toNat (amSlice s.cell o.hb) 256 1 = .ok (sp, a, s1))
    (v : t.cell.verdict = .issued) :
    let bs := rowBytes (s.cell.regs.v.rd o.data)
    a % bs.length = 0 → StoreFrame s t sp a bs := by
  intro bs aligned
  have divides : bs.length ∣ 256 := dvd_of_eq (length_rowBytes _)
  rw [exec_stv, execStv] at e
  refine storeFrame_issued (u := acknowledged h sp (amAddr s.cell o) a bs false (writePlain s1 sp a bs))
    (l := indexResult h s.cell o.u o.ai) e v ?_ (resolve_view place)
    (acknowledged_view _ _ _ _ _ _ _) divides aligned
  simp only [place]
  split
  · trivial
  · split
    · trivial
    · exact orderedIssue_goesOnlyTo _ _

theorem hst_frame {t : State} (e : exec (.hst h o) s = .next t)
    (place : resolve s (amAddr s.cell o) o.space.toNat (amSlice s.cell o.hb) 32 1 = .ok (sp, a, s1))
    (v : t.cell.verdict = .issued) :
    let bs := toBytes 32 (s.cell.regs.h.rd (o.data.extractLsb' 0 4)).toNat
    a % bs.length = 0 → StoreFrame s t sp a bs := by
  intro bs aligned
  have divides : bs.length ∣ 256 := by
    rw [show bs.length = 32 from length_toBytes _ _]
    exact ⟨8, rfl⟩
  rw [exec_hst, execHst] at e
  refine storeFrame_issued (u := sendAccess (writePlain s1 sp a bs) h [] 1 sp (amAddr s.cell o) a bs false)
    (l := indexResult h s.cell o.u o.ai) e v ?_
    (resolve_view place) (sendAccess_view _ _ _ _ _ _ _ _ _) divides aligned
  simp only [place]
  split
  · trivial
  · exact orderedIssue_goesOnlyTo _ _

end

/-- Settles O21: a store acts on its line, which is put last and so stays or goes home last; the rest of its issue is not in
view. -/
theorem storeFrameAndCoherence : Obligations.StoreFrameAndCoherence := by
  unfold Obligations.StoreFrameAndCoherence
  refine ⟨fun h o s t s1 sp a => ⟨fun e order place v => st_frame e order place v, fun e place v => stv_frame e place v,
    fun e place v => hst_frame e place v⟩, fun s c a bs fits => ⟨l1Load_l1Store fits, fun cached => ⟨fun room => ?_, fun k =>
      ⟨fun wide own i hi => closePhase_l1Store fits cached wide own hi, closePhase_l1Store_narrow⟩⟩,
    fun out => ?_⟩⟩
  · rw [l1Store_cached cached, allocated_mem_room room]
  · rw [l1Store_home out, State.store_mem]

end Sys2Proof.Machine
end

section
/-! PROOF of O19: loads and PREF (R170, R171, R182, R371, R375, R376, R403). -/

namespace Sys2Proof.Machine

section
variable {h : Header} {s : State}

/-- A word of slot A that passes its checks does what its body says, and its tag is allocated where it issues (R79). -/
theorem issueWord_ready {legal tags : Bool} {body : Cell → Issue} (clear : Clear h s) (hl : legal = true)
    (tag : h.av = 0#1 ∨ tags = true) :
    issueWord h legal true false tags s body = finish s ((body s.cell).allocating h) := by
  have ready : tagWait h s.cell = false := clear.elim Plain.wait Tagged.wait
  have tagged : tagBad h tags = false := by
    obtain plain | tagged := clear
    · exact plain.tag tags
    · obtain none_ | rfl := tag
      · exact absurd (tagged.2.1.symm.trans none_) (by decide)
      · exact tagged.tag
  have mode : (s.cell.sup && !true) = false := Bool.and_false _
  simp only [issueWord, ready, tagged, hl, mode]
  rfl

end

/-! ### The words -/

section
variable {h : Header} {o : AM} {s s1 : State} {sp : Space} {a : Nat}
  (clear : Clear h s) (legal : amLegal s o = true) (free : Unordered s)
include clear legal free

/-- LD reads through the L1, or at the home with an open after the read where it acquires (R182, R375). -/
theorem ld_reads (w : (Instr.ld h o).WellFormed) (tag : h.av = 0#1 ∨ o.space ≠ 1#2)
    (place : resolve s (amAddr s.cell o) o.space.toNat (amSlice s.cell o.hb) (2 ^ o.size.toNat) 0 = .ok (sp, a, s1))
    (idle : ¬ (sp = .pad ∧ padBusy s.cell a (2 ^ o.size.toNat) false = true)) :
    let n := 2 ^ o.size.toNat
    let land := fun (bs : List Byte) => s.cell.dstS (o.data.extractLsb' 0 6) (loadExt o.sign n bs)
    let bump := indexResult h s.cell o.u o.ai
    (o.ord = 0#2 → exec (.ld h o) s = done h s ((arrives h sp 6 (land (readPlain s1 sp a n).1) (amAddr s.cell o) a false
      (readPlain s1 sp a n).2).push bump)) ∧
    (o.ord = 1#2 → exec (.ld h o) s = done h s ((arrives h sp 6 (land (readHome s1 sp a n).1) (amAddr s.cell o) a true
      (openAcquire (readHome s1 sp a n).2 s.cur o.scope.toNat)).push bump)) := by
  rw [exec_ld, execLd, issueWord_ready clear (by rw [check_ld w, legal]; rfl) (tag.imp_right decide_eq_true)]
  simp only [place, if_neg idle, orderedIssue_free free]
  constructor
  · intro order
    rw [order]
    rfl
  · intro order
    rw [order]
    rfl

theorem ldv_reads (w : (Instr.ldv h o).WellFormed) (tag : h.av = 0#1 ∨ o.space ≠ 1#2) (tile : noTile s.cell o.data = none)
    (place : resolve s (amAddr s.cell o) o.space.toNat (amSlice s.cell o.hb) 256 0 = .ok (sp, a, s1))
    (row : rowBusy s.cell o.data true = false) (idle : ¬ (sp = .pad ∧ padBusy s.cell a 256 false = true)) :
    let r := readPlain s1 sp a 256
    exec (.ldv h o) s = done h s ((arrives h sp 8 (.row o.data (bytesRow r.1) (BitVec.allOnes 2048)) (amAddr s.cell o) a false
      r.2).push (indexResult h s.cell o.u o.ai)) := by
  have go : ¬ (rowBusy s.cell o.data true = true ∨ sp = .pad ∧ padBusy s.cell a 256 false = true) :=
    not_or.2 ⟨by rw [row]; exact Bool.false_ne_true, idle⟩
  rw [exec_ldv, execLdv, issueWord_ready clear (by rw [check_ldv w, legal]; rfl) (tag.imp_right decide_eq_true)]
  simp only [tile, place, if_neg go, orderedIssue_free free]
  rfl

theorem hld_reads (w : (Instr.hld h o).WellFormed)
    (place : resolve s (amAddr s.cell o) o.space.toNat (amSlice s.cell o.hb) 32 0 = .ok (sp, a, s1))
    (idle : ¬ (sp = .pad ∧ padBusy s.cell a 32 false = true)) :
    let r := readPlain s1 sp a 32
    let sent := sendAccess r.2 h [.h (o.data.extractLsb' 0 4) (BitVec.ofNat 256 (leNat r.1))] 0 sp (amAddr s.cell o) a [] false
    exec (.hld h o) s =
      done h s ((if sp = .pad then sent.upd (markSoon r.2.nextId) else sent).push (indexResult h s.cell o.u o.ai)) := by
  rw [exec_hld, execHld, issueWord_ready clear (by rw [check_hld w, legal]; rfl) (.inr rfl)]
  simp only [place, if_neg idle, orderedIssue_free free]
  rfl

/-- What a PREF leaves but for its address update: a line allocated, or its tag about to clear (R403). -/
def prefetched (h : Header) (o : AM) (s : State) : State :=
  match prefLine s o with
  | some t => addAccess t h [] false 0 false false
  | none => s.upd (dropTag h)

theorem pref_issues (w : (Instr.pref h o).WellFormed) :
    exec (.pref h o) s = done h s ((prefetched h o s).push (indexResult h s.cell o.u o.ai)) := by
  rw [exec_pref, execPref, issueWord_ready clear (by rw [check_pref w, legal]; rfl) (.inr rfl)]
  simp only [orderedIssue_free free]
  rfl

end

/-! ### The limit of a handle from the scratchpad (R371) -/

theorem countClass_pipe (c : Cell) (i : BitVec 3) : (countClass c i).1.pipe = c.pipe := by
  unfold countClass
  exact (apply_ite (fun p : Cell × Bool => p.1.pipe) _ _ _).trans (ite_self _)

/-- One step of a count, with the counting taken as a whole. -/
theorem counted_pipe {p r : Cell × Bool} (one : r.1.pipe = p.1.pipe) (b : Bool) :
    (if b then (r.1, p.2 || r.2) else p).1.pipe = p.1.pipe := by
  split
  · exact one
  · rfl

theorem countEvents_pipe (c : Cell) (ev : BitVec 8) : (countEvents c ev).1.pipe = c.pipe :=
  foldl_keeps (fun p : Cell × Bool => p.1.pipe)
    (fun p i => counted_pipe (countClass_pipe p.1 (BitVec.ofNat 3 i)) (bit ev i)) (List.range 8) (c, false)

theorem countDue_pipe (ev : InFlight → BitVec 8) (l : List InFlight) (p : Cell × Bool) :
    (l.foldl (fun p x => ((countEvents p.1 (ev x)).1, p.2 || (countEvents p.1 (ev x)).2)) p).1.pipe = p.1.pipe :=
  foldl_keeps (fun p : Cell × Bool => p.1.pipe) (fun p x => counted_pipe (countEvents_pipe p.1 (ev x)) true) l p

theorem keepFired_pipe (m : Word) (c : Cell) : (keepFired m c).pipe = c.pipe := by
  unfold keepFired
  split <;> rfl

theorem clearDropped_accs (c : Cell) : (clearDropped c).pipe.accs = c.pipe.accs := by
  unfold clearDropped
  split
  · rfl
  · refine foldl_keeps (fun c : Cell => c.pipe.accs) (fun c i => ?_) (List.range 8) c
    split
    · exact clearTag_accs _ c
    · rfl

theorem mem_accs_endAccesses {l : List Access} {c : Cell} {y : Access} :
    y ∈ (l.foldl (fun c a => endAccess a c) c).pipe.accs ↔ y ∈ c.pipe.accs ∧ ∀ a ∈ l, y.id ≠ a.id := by
  induction l generalizing c with
  | nil => simp
  | cons a r ih =>
    have one : y ∈ (endAccess a c).pipe.accs ↔ y ∈ c.pipe.accs ∧ y.id ≠ a.id := by
      show y ∈ (clearTag a.tag c).pipe.accs.filter _ ↔ _
      rw [clearTag_accs, List.mem_filter, decide_eq_true_eq]
    rw [List.foldl_cons, ih, one, and_assoc, List.forall_mem_cons]

/-- An access that is still pending after a cycle was so before it, one cycle younger, and its number is not one that is due. -/
theorem mem_accs_tick {c : Cell} {y : Access} (h : y ∈ c.tick.1.pipe.accs) :
    (∃ x ∈ c.pipe.accs, { x with age := x.age + 1 } = y) ∧ ∀ a ∈ c.pipe.accs, a.over = true → y.id ≠ a.id := by
  unfold Cell.tick at h
  dsimp only at h
  rw [mem_accs_endAccesses, keepFired_pipe, countDue_pipe, foldl_keeps Cell.pipe (landIn_pipe _), clearDropped_accs] at h
  obtain ⟨pending, due⟩ := h
  exact ⟨List.mem_map.1 pending, fun a ha now => due a (List.mem_filter.2 ⟨ha, now⟩)⟩

/-- Every access of a number has its limit, and has been pending for `k` cycles. -/
def SoonFor (id k : Nat) (c : Cell) : Prop := ∀ x ∈ c.pipe.accs, x.id = id → x.soon = true ∧ k ≤ x.age

theorem SoonFor.tick {id k : Nat} {c : Cell} (h : SoonFor id k c) : SoonFor id (k + 1) c.tick.1 := by
  intro y hy e
  obtain ⟨⟨x, hx, rfl⟩, -⟩ := mem_accs_tick hy
  obtain ⟨soon, age⟩ := h x hx e
  exact ⟨soon, Nat.succ_le_succ age⟩

theorem SoonFor.ticks {id k : Nat} (n : Nat) {c : Cell} (h : SoonFor id k c) : SoonFor id (k + n) (Cell.ticks n c) := by
  induction n generalizing c k with
  | zero => exact h
  | succ n ih => exact (Nat.add_right_comm k n 1) ▸ ih h.tick

theorem ticks_succ (n : Nat) (c : Cell) : Cell.ticks (n + 1) c = (Cell.ticks n c).tick.1 := by
  induction n generalizing c with
  | zero => rfl
  | succ n ih => exact ih c.tick.1

/-- What has its limit is no longer pending after six cycles. -/
theorem SoonFor.gone {id : Nat} {c : Cell} (h : SoonFor id 0 c) : ∀ y ∈ (Cell.ticks 6 c).pipe.accs, y.id ≠ id := by
  intro y hy e
  rw [ticks_succ] at hy
  obtain ⟨⟨x, hx, rfl⟩, due⟩ := mem_accs_tick hy
  obtain ⟨soon, age⟩ := h.ticks 5 x hx e
  exact due x hx (by rw [Access.over, soon, decide_eq_true (by omega)]; rfl) rfl

theorem soonFor_markSoon (id : Nat) (c : Cell) : SoonFor id 0 (markSoon id c) := by
  intro y hy e
  obtain ⟨x, -, rfl⟩ := List.mem_map.1 hy
  refine ⟨?_, Nat.zero_le _⟩
  split at e
  · next own => rw [if_pos own]
  · next other => exact absurd e other

theorem allocTag_accs (h : Header) (c : Cell) : (allocTag h c).pipe.accs = c.pipe.accs := by
  unfold allocTag
  split <;> rfl

/-- A handle from the scratchpad is there after six issue cycles at the latest. -/
theorem hld_limit {h : Header} {s u t : State} {id : Nat} {l : List InFlight} (cur : u.cur = s.cur)
    (e : done h s ((u.upd (markSoon id)).push l) = .next t) : ∀ y ∈ (Cell.ticks 6 t.cell).pipe.accs, y.id ≠ id := by
  cases e
  refine SoonFor.gone ?_
  have accs : ((((u.upd (markSoon id)).push l).upd (allocTag h)).mark s.cur .issued).cell.pipe.accs =
      (markSoon id u.cell).pipe.accs := by
    simp only [State.cell, State.mark, State.push, State.upd, ← cur, State.updAt_cur, State.updAt_cellAt, allocTag_accs]
  rw [SoonFor, accs]
  exact soonFor_markSoon id u.cell

/-! ### What PREF leaves (R403) -/

/-- A load that the L1 serves allocates its line, filled from memory. -/
theorem l1Load_cached {s : State} {c : BitVec 9} {a : Nat} (h : cacheable c a = true) (n : Nat) :
    (l1Load s c a n).2 = allocated s c ((lineOf (s.cellAt (l1Owner s c)).lines (a / 256 * 256)).fill s.mem) := by
  rw [l1Load, if_pos h]
  exact l1Trim_put s c _

/-- Memory changes by a load at most by dirty bytes of the lines that leave (R171). -/
theorem l1Load_mem {s : State} {c : BitVec 9} {a : Nat} (h : cacheable c a = true) (n x : Nat) :
    (l1Load s c a n).2.mem.rd x = s.mem.rd x ∨ DirtyByte s c x ((l1Load s c a n).2.mem.rd x) := by
  rw [l1Load_cached h, allocated_mem]
  generalize old : lineOf (s.cellAt (l1Owner s c)).lines (a / 256 * 256) = l
  obtain same | ⟨y, hy, ⟨low, high, dirty⟩, e⟩ :=
    Mem.flushed_rd s.mem ((withLine s c (l.fill s.mem)).take (leaving s c (l.fill s.mem))) x
  · exact .inl same
  · rw [e]
    obtain own | rfl := mem_putLine (List.mem_of_mem_take hy)
    · exact .inr ⟨y, own, low, dirty, rfl⟩
    · have low : l.tag ≤ x := low
      have high : x < l.tag + 256 := high
      have dirty : l.dirty.getLsbD (x - l.tag) = true := dirty
      show byteAt (l.fill s.mem).data (x - l.tag) = _ ∨ DirtyByte s c x (byteAt (l.fill s.mem).data (x - l.tag))
      rw [Line.fill_byte _ _ _ (by omega)]
      split
      · exact .inr ⟨l, old ▸ lineOf_mem (old.symm ▸ dirty_ne_zero dirty), low, dirty, rfl⟩
      · exact .inl (by rw [Nat.add_sub_cancel' low])

/-- A PREF that brings in a line has loaded through the L1. -/
theorem prefLine_some {s t : State} {o : AM} (e : prefLine s o = some t) :
    ∃ pa s1, s1.view = s.view ∧ cacheable s.cur pa = true ∧ (l1Load s1 s.cur pa 1).2 = t := by
  unfold prefLine at e
  split at e
  · split at e
    · cases e
    · next page =>
      split at e
      · next cached => exact ⟨_, _, xlate_view page, cached, Option.some.inj e⟩
      · cases e
  · cases e

theorem dropTag_view (h : Header) (c : Cell) : (dropTag h c).view = c.view := by
  unfold dropTag
  split <;> rfl

/-- PREF changes no register, cause or scratchpad, and main memory at most by dirty bytes of lines that leave. -/
theorem prefetched_keeps (h : Header) (o : AM) (s : State) :
    let t := prefetched h o s
    t.cur = s.cur ∧ t.cell.regs = s.cell.regs ∧ t.cell.tr.cause = s.cell.tr.cause ∧ t.staging = s.staging ∧
      t.cell.pad = s.cell.pad ∧ ∀ x, t.mem.rd x = s.mem.rd x ∨ DirtyByte s s.cur x (t.mem.rd x) := by
  unfold prefetched
  split
  · next u e =>
    obtain ⟨pa, s1, before, cached, rfl⟩ := prefLine_some e
    have after := addAccess_view (l1Load s1 s.cur pa 1).2 h [] false 0 false false
    have frame : OnlyLines s1 (l1Load s1 s.cur pa 1).2 := l1Load_cached cached 1 ▸ onlyLines_allocated s1 s.cur _
    have cell : (l1Load s1 s.cur pa 1).2.cell.SameButLines s1.cell := by
      rw [State.cell, frame.cur]
      exact frame.cell s1.cur
    dsimp only
    rw [view_cur after, view_regs after, view_cause after, view_staging after, view_pad after, view_mem after]
    refine ⟨frame.cur.trans (view_cur before), (cell.of Cell.regs fun _ _ => rfl).trans (view_regs before),
      (cell.of (·.tr.cause) fun _ _ => rfl).trans (view_cause before), frame.staging.trans (view_staging before),
      (cell.of Cell.pad fun _ _ => rfl).trans (view_pad before), fun x => ?_⟩
    have home := l1Load_mem (s := s1) cached 1 x
    rw [view_mem before] at home
    exact home.imp_right (view_dirtyByte before)
  · have same : (s.upd (dropTag h)).view = s.view := view_upd (dropTag_view h)
    exact ⟨rfl, view_regs same, view_cause same, rfl, view_pad same, fun _ => .inl rfl⟩

/-- Settles O19: each load is brought to what it reads; the limit of a handle is an invariant of the issue cycles. -/
theorem loadsComplete : Obligations.LoadsComplete := by
  unfold Obligations.LoadsComplete
  intro h o s clear legal free sp a s1
  refine ⟨fun w tag place idle => ld_reads clear legal free w tag place idle, fun w tag tile place row idle =>
    ldv_reads clear legal free w tag tile place row idle, fun w place idle => ?_, fun w => ?_⟩
  · have reads := hld_reads clear legal free w place idle
    refine ⟨reads, fun pad t e => ?_⟩
    subst pad
    rw [reads] at e
    exact hld_limit ((view_cur (sendAccess_view _ _ _ _ _ _ _ _ _)).trans (view_cur (resolve_view place))) e
  · have after := issued_view h (prefetched h o s) (indexResult h s.cell o.u o.ai) s.cur
    obtain ⟨cur, regs, cause, staging, pad, mem⟩ := prefetched_keeps h o s
    refine ⟨_, pref_issues clear legal free w, (view_regs after).trans regs, (view_cause after).trans cause, mark_verdict _ cur,
      (view_staging after).trans staging, (view_pad after).trans pad, ?_⟩
    rw [view_mem after]
    exact mem

end Sys2Proof.Machine
end

section
/-! PROOF of O20 and O22: stores, atomics, and the waits of a release (R177, R182, R183, R194, R326, R346, R373, R404, R405). -/

namespace Sys2Proof.Machine

/-! ### Stores -/

section
variable {h : Header} {o : AM} {s s1 : State} {sp : Space} {a : Nat}
  (clear : Clear h s) (legal : amLegal s o = true) (free : Unordered s)
include clear legal free

/-- ST writes through the L1; a release waits, or closes its phase and writes at the home (R177, R182, R404). -/
theorem st_writes (w : (Instr.st h o).WellFormed) (tag : h.av = 0#1 ∨ o.space ≠ 1#2)
    (place : resolve s (amAddr s.cell o) o.space.toNat (amSlice s.cell o.hb) (2 ^ o.size.toNat) 1 = .ok (sp, a, s1))
    (idle : ¬ (sp = .pad ∧ padBusy s.cell a (2 ^ o.size.toNat) true = true)) :
    let bs := toBytes (2 ^ o.size.toNat) (s.cell.rdS (o.data.extractLsb' 0 6)).toNat
    let bump := indexResult h s.cell o.u o.ai
    (o.ord = 0#2 → exec (.st h o) s =
      done h s ((acknowledged h sp (amAddr s.cell o) a bs false (writePlain s1 sp a bs)).push bump)) ∧
    (o.ord = 2#2 → releaseWaits s.cell o.scope.toNat = true → exec (.st h o) s = .next (frozen s)) ∧
    (o.ord = 2#2 → releaseWaits s.cell o.scope.toNat = false → exec (.st h o) s = done h s
      ((acknowledged h sp (amAddr s.cell o) a bs true (writeHome (closePhase s1 s.cur o.scope.toNat) sp a bs)).push bump)) := by
  rw [exec_st, execSt, issueWord_ready clear (by rw [check_st w, legal]; rfl) (tag.imp_right decide_eq_true)]
  simp only [place, idle, false_or, orderedIssue_free free]
  refine ⟨fun order => ?_, fun order waits => ?_, fun order goes => ?_⟩
  · rw [order]
    rfl
  · rw [order, waits]
    rfl
  · rw [order, goes]
    rfl

theorem stv_writes (w : (Instr.stv h o).WellFormed) (tag : h.av = 0#1 ∨ o.space ≠ 1#2) (tile : noTile s.cell o.data = none)
    (place : resolve s (amAddr s.cell o) o.space.toNat (amSlice s.cell o.hb) 256 1 = .ok (sp, a, s1))
    (row : rowBusy s.cell o.data false = false) (idle : ¬ (sp = .pad ∧ padBusy s.cell a 256 true = true)) :
    let bs := rowBytes (s.cell.regs.v.rd o.data)
    exec (.stv h o) s = done h s ((acknowledged h sp (amAddr s.cell o) a bs false (writePlain s1 sp a bs)).push
      (indexResult h s.cell o.u o.ai)) := by
  have go : ¬ (rowBusy s.cell o.data false = true ∨ sp = .pad ∧ padBusy s.cell a 256 true = true) :=
    not_or.2 ⟨by rw [row]; exact Bool.false_ne_true, idle⟩
  rw [exec_stv, execStv, issueWord_ready clear (by rw [check_stv w, legal]; rfl) (tag.imp_right decide_eq_true)]
  simp only [tile, place, if_neg go, orderedIssue_free free]
  rfl

theorem hst_writes (w : (Instr.hst h o).WellFormed)
    (place : resolve s (amAddr s.cell o) o.space.toNat (amSlice s.cell o.hb) 32 1 = .ok (sp, a, s1))
    (idle : ¬ (sp = .pad ∧ padBusy s.cell a 32 true = true)) :
    let bs := toBytes 32 (s.cell.regs.h.rd (o.data.extractLsb' 0 4)).toNat
    exec (.hst h o) s = done h s ((sendAccess (writePlain s1 sp a bs) h [] 1 sp (amAddr s.cell o) a bs false).push
      (indexResult h s.cell o.u o.ai)) := by
  rw [exec_hst, execHst, issueWord_ready clear (by rw [check_hst w, legal]; rfl) (.inr rfl)]
  simp only [place, if_neg idle, orderedIssue_free free]
  rfl

end

/-- Settles O20: each store is brought to what it writes, a release by the wait of its close. -/
theorem storesComplete : Obligations.StoresComplete := by
  unfold Obligations.StoresComplete
  intro h o s clear legal free sp a s1
  exact ⟨fun w tag place idle => st_writes clear legal free w tag place idle, fun w tag tile place row idle =>
    stv_writes clear legal free w tag tile place row idle, fun w place idle => hst_writes clear legal free w place idle⟩

/-! ### Atomics -/

/-- The machine with an atomic's close behind it (R182). -/
def atomicClosed (s s1 : State) (o : AT) : State :=
  if 2 ≤ o.ord.toNat then closePhase s1 s.cur o.scope.toNat else s1

/-- The same with its open (R182). -/
def atomicOpened (s : State) (o : AT) (t : State) : State :=
  if o.ord.toNat % 2 = 1 then openAcquire t s.cur o.scope.toNat else t

section
variable {h : Header} {o : AT} {s s1 : State} {sp : Space} {a : Nat}

/-- The step at the home, in the issuing cell's words: what is read, and what is left. -/
theorem atomic_eq (cur : s1.cur = s.cur) (n : Nat) (f : Nat → Option Nat) :
    let r := readHome (atomicClosed s s1 o) sp a n
    atomic s1 sp a n o.ord.toNat o.scope.toNat f = (leNat r.1, atomicOpened s o
      (match f (leNat r.1) with
        | none => r.2
        | some v => writeHome r.2 sp a (toBytes n v))) := by
  rw [atomic, cur] <;> rfl

theorem atomicWaits_iff (c : Cell) (o : AT) :
    atomicWaits c o = true ↔ 2 ≤ o.ord.toNat ∧ releaseWaits c o.scope.toNat = true := by
  rw [atomicWaits, Bool.and_eq_true, decide_eq_true_eq]

variable (clear : Clear h s) (legal : memLegal s o.b o.hb o.space = true) (free : Unordered s)
  (place : resolve s (effAddr s.cell o.b o.hb o.ai 0) o.space.toNat (amSlice s.cell o.hb) (4 * 2 ^ o.size.toNat) 3 =
    .ok (sp, a, s1))
include clear legal place

theorem atomics_wait (waits : 2 ≤ o.ord.toNat ∧ releaseWaits s.cell o.scope.toNat = true) :
    ((Instr.amo h o).WellFormed → exec (.amo h o) s = .next (frozen s)) ∧
    ((Instr.cas h o).WellFormed → exec (.cas h o) s = .next (frozen s)) := by
  have held := (atomicWaits_iff s.cell o).2 waits
  refine ⟨fun w => ?_, fun w => ?_⟩
  · rw [exec_amo, execAmo, issueWord_ready clear (by rw [check_amo w, legal]; rfl) (.inr rfl)]
    simp only [place, if_pos held]
    rfl
  · rw [exec_cas, execCas, issueWord_ready clear (by rw [check_cas w, legal]; rfl) (.inr rfl)]
    simp only [place, if_pos held]
    rfl

include free

/-- AMO of every operation but WADD: one register lands, `amoNew` is written (R326). -/
theorem amo_writes (w : (Instr.amo h o).WellFormed) (goes : ¬ (2 ≤ o.ord.toNat ∧ releaseWaits s.cell o.scope.toNat = true))
    (narrow : o.op ≠ 9#4) :
    let n := 4 * 2 ^ o.size.toNat
    let r := readHome (atomicClosed s s1 o) sp a n
    let v := (s.cell.rdS o.ss).toNat % 2 ^ (8 * n)
    exec (.amo h o) s = done h s (sendAccess
      (atomicOpened s o (writeHome r.2 sp a (toBytes n (amoNew o.op.toNat (8 * n) (leNat r.1) v)))) h
      [s.cell.dstS o.sd (BitVec.ofNat 64 (leNat r.1))] 2 sp (effAddr s.cell o.b o.hb o.ai 0) a (toBytes n v)
      (decide (o.ord ≠ 0))) := by
  rw [exec_amo, execAmo, issueWord_ready clear (by rw [check_amo w, legal]; rfl) (.inr rfl)]
  simp only [place, atomicWaits_iff, if_neg goes, if_neg narrow, orderedIssue_free free,
    atomic_eq (view_cur (resolve_view place))]
  rfl

/-- WADD: 96 bits are written, and land in two registers (R326). -/
theorem amo_wadd (w : (Instr.amo h o).WellFormed) (goes : ¬ (2 ≤ o.ord.toNat ∧ releaseWaits s.cell o.scope.toNat = true))
    (wadd : o.op = 9#4) :
    let n := 4 * 2 ^ o.size.toNat
    let r := readHome (atomicClosed s s1 o) sp a n
    let v := ((s.cell.rdS (o.ss + 1)).toNat * 2 ^ 64 + (s.cell.rdS o.ss).toNat) % 2 ^ 96
    exec (.amo h o) s = done h s (sendAccess
      (atomicOpened s o (writeHome r.2 sp a (toBytes n (amoNew 9 (8 * n) (leNat r.1) v)))) h
      (if o.sd = 0 then [] else [s.cell.dstS o.sd (BitVec.ofNat 64 (leNat r.1)),
        s.cell.dstS (o.sd + 1) (BitVec.ofNat 64 (leNat r.1 / 2 ^ 64))])
      2 sp (effAddr s.cell o.b o.hb o.ai 0) a (toBytes n v) (decide (o.ord ≠ 0))) := by
  rw [exec_amo, execAmo, issueWord_ready clear (by rw [check_amo w, legal]; rfl) (.inr rfl)]
  simp only [place, atomicWaits_iff, if_neg goes, if_pos wadd, orderedIssue_free free,
    atomic_eq (view_cur (resolve_view place))]
  rw [wadd]
  rfl

/-- CAS writes exactly when the old value equals its comparand (R346). -/
theorem cas_writes (w : (Instr.cas h o).WellFormed) (goes : ¬ (2 ≤ o.ord.toNat ∧ releaseWaits s.cell o.scope.toNat = true)) :
    let n := 4 * 2 ^ o.size.toNat
    let r := readHome (atomicClosed s s1 o) sp a n
    let sends := fun (t : State) => done h s (sendAccess (atomicOpened s o t) h [s.cell.dstS o.sd (BitVec.ofNat 64 (leNat r.1))] 2
      sp (effAddr s.cell o.b o.hb o.ai 0) a (toBytes n (s.cell.rdS o.ss).toNat) (decide (o.ord ≠ 0)))
    (leNat r.1 = (s.cell.rdS o.sc).toNat % 2 ^ (8 * n) →
      exec (.cas h o) s = sends (writeHome r.2 sp a (toBytes n ((s.cell.rdS o.ss).toNat % 2 ^ (8 * n))))) ∧
    (leNat r.1 ≠ (s.cell.rdS o.sc).toNat % 2 ^ (8 * n) → exec (.cas h o) s = sends r.2) := by
  rw [exec_cas, execCas, issueWord_ready clear (by rw [check_cas w, legal]; rfl) (.inr rfl)]
  simp only [place, atomicWaits_iff, if_neg goes, orderedIssue_free free, atomic_eq (view_cur (resolve_view place))]
  refine ⟨fun equal => ?_, fun differs => ?_⟩
  · rw [if_pos equal]
    rfl
  · rw [if_neg differs]
    rfl

end

/-- Settles O22: the step at the home is read once, with its close, its open and its wait. -/
theorem atomicsComplete : Obligations.AtomicsComplete := by
  unfold Obligations.AtomicsComplete
  intro h o s clear legal free sp a s1 c n place
  refine ⟨fun w waits => (atomics_wait clear legal place waits).1 w, fun w waits => (atomics_wait clear legal place waits).2 w,
    fun goes => ⟨fun w narrow => amo_writes clear legal free place w goes narrow, fun w wadd =>
      amo_wadd clear legal free place w goes wadd, fun w equal => ?_, fun w differs => ?_⟩⟩
  · exact (cas_writes clear legal free place w goes).1 equal
  · exact (cas_writes clear legal free place w goes).2 differs

end Sys2Proof.Machine
end

section
/-! PROOF of O11: WAIT, PHASE, FENCE and XFENCE (R177, R182, R186, R189, R194, R294, R366, R400, R440, R441). -/

namespace Sys2Proof.Machine

/-! ### What an ordering word leaves undone -/

theorem l1Clean_lines {s : State} {c : BitVec 9} {l : Line} (h : l ∈ ((l1Clean s c).cellAt (l1Owner s c)).lines) :
    l.dirty = 0 := by
  rw [l1Clean, State.cellAt, State.flush_cells] at h
  have lines : ((s.updAt (l1Owner s c) fun x => { x with lines := x.lines.map fun l => { l with dirty := 0 } }).cellAt
      (l1Owner s c)).lines = (s.cellAt (l1Owner s c)).lines.map fun l => { l with dirty := 0 } :=
    congrArg Cell.lines (State.updAt_cellAt s _ _)
  obtain ⟨k, -, rfl⟩ := List.mem_map.1 (lines ▸ h)
  rfl

theorem l1Open_lines {s : State} {c : BitVec 9} {l : Line} (h : l ∈ ((l1Open s c).cellAt (l1Owner s c)).lines) :
    l.have_ &&& ~~~l.dirty = 0 := by
  rw [l1Open, State.updAt_cellAt] at h
  obtain ⟨k, -, rfl⟩ := List.mem_map.1 h
  exact (BitVec.and_assoc _ _ _).trans ((congrArg (k.have_ &&& ·) (BitVec.and_not_self _)).trans BitVec.and_zero)

theorem placeRec_pkg (s : State) (i : Nat) (w : Window) (r : MediaRec) (bs : List Byte) : (placeRec s i w r bs).pkg = s.pkg := by
  unfold placeRec
  dsimp only
  split
  · rfl
  · split
    · rfl
    · exact State.store_pkg _ _ _

theorem acceptRec_pkg (s : State) (bs : List Byte) : (acceptRec s bs).pkg = s.pkg := by
  unfold acceptRec
  dsimp only
  split
  · rfl
  · split
    · rfl
    · split
      · rfl
      · exact placeRec_pkg _ _ _ _ _

theorem drainMedia_mdRecs (s : State) : (drainMedia s).pkg.mdRecs = [] := by
  rw [drainMedia, foldl_keeps State.pkg acceptRec_pkg]

theorem broodShadow_inbound (s : State) (a : Nat) (b : Byte) : (broodShadow s a b).inbound = s.inbound := by
  simp only [broodShadow, apply_ite State.inbound, State.setSlot_inbound, ite_self]

theorem performInbound_inbound (s : State) (w : Inbound) : (performInbound broodShadow s w).inbound = s.inbound := by
  refine foldl_keeps State.inbound (fun t i => ?_) _ s
  dsimp only
  split
  · exact broodShadow_inbound t _ _
  · split
    · rfl
    · exact State.store_inbound t _ _

/-- Where every write is due, none stays. -/
theorem splitDue_all (l : List Inbound) : (splitDue (fun _ => true) l).2 = [] := by
  induction l with
  | nil => rfl
  | cons w r ih => exact ih

theorem drainInbound_all (s : State) : (drainInbound s fun _ => true).inbound = [] := by
  rw [drainInbound, foldl_keeps State.inbound performInbound_inbound, splitDue_all]

/-! ### The words -/

section
variable {h : Header} {o : CS} {s : State} (p : Plain h s)
include p

/-- A poll of WAIT whose value has come already: the word issues with it (R440). -/
theorem wait_got (u : User s) (w : (Instr.wait h o).WellFormed) {v : Word} (got : s.cell.pipe.got = some v) :
    exec (.wait h o) s = .next ((s.push (inFlight h 1 0 [s.cell.dstS o.sd v])).mark s.cur .issued) := by
  have ends : waitEnds h o s.cell v s = .go (s.push (inFlight h 1 0 [s.cell.dstS o.sd v])) :=
    if_neg fun x => Option.some_ne_none v (got.symm.trans x.2)
  rw [exec_wait, execWait, issueWord_user p u (check_wait w), got]
  exact congrArg (finish s) ends

/-- The comparand of a WAIT: that of its first poll (R440). -/
def comparand (s : State) (o : CS) : Word := s.cell.pipe.polled.getD (s.cell.rdS o.sb)

/-- WAIT polls on: it keeps its comparand and what the poll has done. -/
def pollOn (s : State) (o : CS) (t : State) : Issue :=
  .poll (t.upd fun x => { x with pipe := { x.pipe with polled := some (comparand s o) } })

/-- The read of a poll and the open behind it. -/
def polledRead (s : State) (o : CS) (sp : Space) (a : Nat) (t : State) : Word × State :=
  let r := readHome t sp a 8
  (BitVec.ofNat 64 (leNat r.1), openAcquire r.2 s.cur o.scope.toNat)

/-- One poll of WAIT (R440). -/
theorem wait_polls (u : User s) (w : (Instr.wait h o).WellFormed) (got : s.cell.pipe.got = none) {sp : Space} {a : Nat}
    {s0 : State} (place : resolve s (s.cell.rdS o.sa) 0 0 8 0 = .ok (sp, a, s0)) :
    exec (.wait h o) s = finish s (if orderWaits s.cell then .freeze else
      match homeLoad s0 s.cur (domainPage s0 s.cur (s.cell.rdS o.sa).toNat) a with
      | .waits => .freeze
      | .sent t => pollOn s o t
      | .ready t =>
        if (polledRead s o sp a t).1 ≠ comparand s o ∨ s.cell.pipe.expired = true then
          waitEnds h o s.cell (polledRead s o sp a t).1 (polledRead s o sp a t).2
        else pollOn s o (polledRead s o sp a t).2) := by
  rw [exec_wait, execWait, issueWord_user p u (check_wait w), got]
  simp only [place] <;> rfl

theorem phase_issues (w : (Instr.phase h o).WellFormed) :
    exec (.phase h o) s = finish s (if closeWaits s.cell o.scope.toNat then .freeze
      else .go (openPhase (closePhase s s.cur o.scope.toNat) s.cur o.scope.toNat)) := by
  rw [exec_phase, execPhase]
  exact issueWord_plain p (check_phase w) (fun _ => rfl) fun e => Bool.noConfusion e

theorem fence_issues (w : (Instr.fence h o).WellFormed) :
    exec (.fence h o) s = finish s (if s.cell.pipe.accs ≠ [] then .freeze
      else if bit o.imm 0 then .go ((l1Clean s s.cur).upd fun c => { c with icache := [] })
      else .go s) := by
  rw [exec_fence, execFence]
  exact issueWord_plain p (check_fence w) (fun _ => rfl) fun e => Bool.noConfusion e

theorem xfence_issues (w : (Instr.xfence h o).WellFormed) :
    exec (.xfence h o) s = finish s
      (if (o.clsA = 0#4 ∧ s.cell.pipe.accs ≠ []) ∨ (o.clsA = 1#4 ∧ gathPending s.cell = true) then .freeze
      else .go (if o.clsB = 0#4 then l1Open (openPhase (coverClass s s.cur o.clsA.toNat) s.cur o.scope.toNat) s.cur
        else coverClass s s.cur o.clsA.toNat)) := by
  have cell : o.clsA.toNat = 0 ↔ o.clsA = 0#4 := BitVec.toNat_inj (y := 0#4)
  have gath : o.clsA.toNat = 1 ↔ o.clsA = 1#4 := BitVec.toNat_inj (y := 1#4)
  rw [exec_xfence, execXfence, issueWord_plain p (check_xfence w) (fun _ => rfl) fun e => Bool.noConfusion e]
  simp only [cell, gath]

end

/-- The classes that XFENCE makes visible by an act of its own: CELL, MEDIA and HOSTIN (R189). -/
theorem coverClass_eq (s : State) (c : BitVec 9) (a : BitVec 4) :
    coverClass s c a.toNat = if a = 0#4 then l1Clean s c else if a = 7#4 then drainMedia s
      else if a = 9#4 then drainInbound s fun _ => true else s := by
  have number (n : BitVec 4) : a = n ↔ a.toNat = n.toNat := BitVec.toNat_inj.symm
  simp only [number]
  unfold coverClass
  split <;> simp_all

/-- Settles O11: each word is brought to its one choice, whether it waits; what the words leave undone is read off the
operations themselves. -/
theorem orderingWordsComplete : Obligations.OrderingWordsComplete := by
  unfold Obligations.OrderingWordsComplete
  intro h s p o
  refine ⟨fun w u => ⟨fun v got => wait_got p u w got, fun got sp a s0 place => ?_⟩, fun w => ?_, fun w => ?_, fun w => ?_,
    fun l => l1Clean_lines, fun l => l1Open_lines, drainMedia_mdRecs s, drainInbound_all s⟩
  · rw [wait_polls p u w got place]
    refine ⟨fun ordered => ?_, fun free waits => ?_, fun free t sent => ?_, fun free t ready => ⟨fun ended alone => ?_,
      fun ended fused => ?_, fun on => ?_⟩⟩
    · rw [ordered]
      rfl
    all_goals rw [show orderWaits s.cell = false from free]
    · rw [waits]
      rfl
    · rw [sent]
      rfl
    · rw [ready]
      have ends : waitEnds h o s.cell (polledRead s o sp a t).1 (polledRead s o sp a t).2 =
          .go ((polledRead s o sp a t).2.push (inFlight h 1 0 [s.cell.dstS o.sd (polledRead s o sp a t).1])) :=
        if_neg fun x => Bool.false_ne_true (alone.symm.trans x.1)
      exact congrArg (finish s) ((if_pos ended).trans ends)
    · rw [ready]
      exact congrArg (finish s) ((if_pos ended).trans (if_pos ⟨fused, got⟩))
    · rw [ready]
      exact congrArg (finish s) (if_neg on)
  · rw [phase_issues p w]
    refine ⟨fun free => ?_, fun wide pending => ?_⟩
    · rw [closeWaits_no free]
      rfl
    · rw [(closeWaits_iff _ _).2 ⟨wide, pending⟩]
      rfl
  · rw [fence_issues p w]
    refine ⟨fun idle keep => ?_, fun idle code => ?_, fun pending => ?_⟩
    · rw [if_neg (not_not.2 idle), keep]
      rfl
    · rw [if_neg (not_not.2 idle), code]
      rfl
    · rw [if_pos pending]
      rfl
  · rw [xfence_issues p w, ← coverClass_eq]
    refine ⟨fun owed => ?_, fun free cell => ?_, fun free other => ?_⟩
    · rw [if_pos owed]
      rfl
    · rw [if_neg free, if_pos cell]
      rfl
    · rw [if_neg free, if_neg other]
      rfl

end Sys2Proof.Machine
end

section
/-! PROOF of O34: the words of the E slot, and DBAR (R182, R213, R230, R296, R315, R356). -/

namespace Sys2Proof.Machine

/-! ### One word for each operation -/

/-- The word that launches an operation. -/
def EOp.instr (h : Header) (o : EC) : EOp → Instr
  | .cpy => .cpy h o
  | .chsend => .chsend h o
  | .chrecv => .chrecv h o
  | .chred => .chred h o
  | .qprop => .qprop h o
  | .qver => .qver h o
  | .qres => .qres h o
  | .bset => .bset h o
  | .bget => .bget h o
  | .sieve => .sieve h o
  | .tokz => .tokz h o
  | .detok => .detok h o
  | .gadv => .gadv h o
  | .gmask => .gmask h o
  | .sltick => .sltick h o
  | .slpin => .slpin h o
  | .slget => .slget h o
  | .dbar => .dbar h o

/-- Its fields have values that the word may have (R108). -/
def EOp.fieldsOk (o : EC) : EOp → Bool
  | .cpy => ecCpy o
  | .chsend | .chrecv => ecChan1 o
  | .chred => ecChan o
  | .qprop | .qres | .sieve | .tokz | .detok | .slpin | .slget => ecSlotH o
  | .qver => ecQver o
  | .bset => ecBset o
  | .bget => ecField o
  | .gadv => ecSlotS o
  | .gmask => ecGmask o
  | .sltick => ecSltick o
  | .dbar => ecNone o

/-- It names a brood slot (R230). -/
def EOp.takesSlot : EOp → Bool
  | .cpy | .chsend | .chrecv | .chred | .dbar => false
  | _ => true

/-- It reads its first handle; QVER does where its function is not 0. -/
def EOp.takesA (o : EC) : EOp → Bool
  | .bset | .bget | .gadv | .sltick | .dbar => false
  | .qver => !decide (o.fn = 0#4)
  | _ => true

/-- It reads its second handle. -/
def EOp.takesB : EOp → Bool
  | .cpy | .chred => true
  | _ => false

/-- The slot that it names is one, and the handles that it reads are well formed (R213, R230). -/
def EOp.operandsOk (op : EOp) (o : EC) (c : Cell) : Bool :=
  (!op.takesSlot || slotOk c o) && (!op.takesA o || hOk (c.rdH o.ha)) && (!op.takesB || hOk (c.rdH o.hb))

/-- What it puts into its command beside the registers: CPY its rounding mode (R352). -/
def EOp.sets (op : EOp) (o : EC) (c : Cell) (x : Cmd) : Cmd :=
  if op = .cpy then { x with num := roundMode c.nx.rmode (fld o.low 0 3) } else x

section
variable {op : EOp} {h : Header} {o : EC} {s : State}

/-- A word is well formed where its slot and its fields are. -/
theorem EOp.check (w : (op.instr h o).WellFormed) : (slotE h && op.fieldsOk o) = true := by
  cases op <;> exact w

/-- A word of the E slot checks its fields and operands, and launches its command. -/
theorem EOp.exec_eq (cell : op ≠ .dbar) :
    exec (op.instr h o) s =
      engineWord op h o (op.fieldsOk o && op.operandsOk o s.cell) s fun c x => .go (launchCmd s (op.sets o c x)) := by
  cases op with
  | dbar => exact absurd rfl cell
  | _ =>
    simp only [operandsOk, takesSlot, takesA, takesB, Bool.not_not, Bool.not_true, Bool.not_false, Bool.false_or, Bool.true_or,
      Bool.and_true, Bool.true_and, ← Bool.and_assoc]
    rfl

/-- What the word is to launch. -/
def EOp.launched (op : EOp) (h : Header) (o : EC) (s : State) : State := launchCmd s (op.sets o s.cell (mkCmd s op h o))

/-- A word in user mode whose operands are good launches, unless an ordered access is under way (R182, R315). -/
theorem EOp.exec_good (cell : op ≠ .dbar) (clear : Clear h s) (u : User s) (w : (op.instr h o).WellFormed)
    (good : op.operandsOk o s.cell = true) :
    exec (op.instr h o) s = if orderWaits s.cell then .next (frozen s) else done h s (op.launched h o s) := by
  rw [exec_eq cell, engineWord]
  refine (issueWord_clear clear u (by rw [good, Bool.and_true]; exact check w)).trans ?_
  unfold orderedIssue
  dsimp only
  split <;> rfl

/-- A bad operand takes ILLEGAL_OP (R213, R230). -/
theorem EOp.exec_bad (cell : op ≠ .dbar) (clear : Clear h s) (bad : op.operandsOk o s.cell = false) :
    exec (op.instr h o) s = .next (trapped s (trapOf cIllegalOp (h.slot.zeroExtend 64))) := by
  rw [exec_eq cell]
  exact issueWord_illegal (clear.elim Plain.wait Tagged.wait) (.inl (by rw [bad, Bool.and_false, Bool.and_false]))

/-! ### Operands -/

theorem slotOk_iff (c : Cell) (o : EC) : slotOk c o = true ↔ (c.rdS o.sa).toNat % 2 ^ 32 < 4096 := by
  rw [slotOk, decide_eq_true_eq, fld_zero]
  rfl

/-- The operands are good where each one that the word reads is. -/
theorem EOp.operandsOk_iff (op : EOp) (o : EC) (c : Cell) :
    op.operandsOk o c = true ↔ (op.takesSlot = true → (c.rdS o.sa).toNat % 2 ^ 32 < 4096) ∧
      (op.takesA o = true → hOk (c.rdH o.ha) = true) ∧ (op.takesB = true → hOk (c.rdH o.hb) = true) := by
  have imp (a b : Bool) : (!a || b) = true ↔ (a = true → b = true) := by cases a <;> simp
  rw [operandsOk, Bool.and_eq_true, Bool.and_eq_true, imp, imp, imp, slotOk_iff, and_assoc]

theorem EOp.takesA_qver (o : EC) : EOp.qver.takesA o = true ↔ o.fn ≠ 0#4 := by
  simp [takesA]

/-- The words of a clause about several operations. -/
theorem EOp.forall_instr {l : List EOp} {f : Instr → Prop} : (∀ i ∈ l.map (EOp.instr h o), f i) ↔ ∀ op ∈ l, f (op.instr h o) :=
  List.forall_mem_map

end

/-! ### DBAR (R296, R356) -/

section
variable {h : Header} {o : EC} {s : State}

theorem dbar_cell (clear : Clear h s) (u : User s) (core : s.core = false) (w : (Instr.dbar h o).WellFormed) :
    exec (.dbar h o) s = .next (trapped s (trapOf cPrivilege (h.slot.zeroExtend 64))) := by
  rw [exec_dbar, execDbar, core]
  exact (if_neg Bool.false_ne_true).trans (issueWord_privilege (clear.elim Plain.wait Tagged.wait) (check_dbar w) u)

theorem dbar_core (core : s.core = true) : exec (.dbar h o) s = .next (coreDbar h o s) := by
  rw [exec_dbar, execDbar, core]
  rfl

/-- The tag that a DBAR allocates, as a mask. -/
def dbarTag (h : Header) : BitVec 8 := if h.av = 1#1 then BitVec.ofNat 8 (2 ^ h.tag.toNat) else 0

theorem coreDbar_waits (pending : s.pd.tags &&& (h.cmk ||| dbarTag h) ≠ 0) : coreDbar h o s = s := if_pos (.inl pending)

theorem coreDbar_arrives (w : (Instr.dbar h o).WellFormed) (tag : h.av = 1#1 ∨ h.tag = 0#3)
    (clear : s.pd.tags &&& (h.cmk ||| dbarTag h) = 0) :
    coreDbar h o s = if s.pd.state = 3 ∧ s.pd.change = true then
      { s with pd := { s.pd with arrived := true, tags := s.pd.tags ||| dbarTag h } } else s := by
  have encoded : tagBad h true = false := by
    unfold tagBad
    split
    · rfl
    · next none_ => exact decide_eq_false (not_not.2 (tag.resolve_left none_))
  refine if_neg ?_
  rintro (pending | fields | bad)
  · exact pending clear
  · exact Bool.false_ne_true (fields.symm.trans (check_dbar w))
  · exact Bool.false_ne_true (encoded.symm.trans bad)

end

/-- The words of the E slot that a cell may issue. -/
def EOp.ofCells : List EOp :=
  [.cpy, .chsend, .chrecv, .chred, .qprop, .qver, .qres, .bset, .bget, .sieve, .tokz, .detok, .gadv, .gmask, .sltick, .slpin,
    .slget]

/-- Those that name a slot, and those that read their first handle whatever their function. -/
def EOp.ofSlots : List EOp :=
  [.qprop, .qver, .qres, .bset, .bget, .sieve, .tokz, .detok, .gadv, .gmask, .sltick, .slpin, .slget]

def EOp.ofHandles : List EOp := [.chsend, .chrecv, .qprop, .qres, .sieve, .tokz, .detok, .gmask, .slpin, .slget]

theorem EOp.ofCells_cell : ∀ op ∈ ofCells, op ≠ .dbar := by decide

theorem EOp.ofSlots_takes : ∀ op ∈ ofSlots, op ≠ .dbar ∧ op.takesSlot = true := by decide

theorem EOp.ofHandles_takes (o : EC) : ∀ op ∈ ofHandles, op ≠ .dbar ∧ op.takesA o = true := by
  simp [ofHandles, takesA]

/-- Settles O34: every word of the E slot but DBAR is one word of a table, which launches, waits or traps by its operands. -/
theorem engineWordsComplete : Obligations.EngineWordsComplete := by
  unfold Obligations.EngineWordsComplete
  intro h o s
  refine ⟨fun clear u => ?_, fun core => ⟨fun pending => ?_, fun w tag idle => ?_⟩⟩
  · have operands (op : EOp) := op.operandsOk_iff o s.cell
    have illegal {op : EOp} (cell : op ≠ .dbar) (broken : ¬ op.operandsOk o s.cell = true) :=
      EOp.exec_bad cell clear (Bool.eq_false_iff.2 broken)
    refine ⟨fun ordered slot a b => ?_, fun free => ?_, ⟨fun slot => ?_, fun a => ?_, fun a fn w => ?_, fun ab => ?_⟩,
      fun w core => dbar_cell clear u core w⟩
    · refine (EOp.forall_instr (l := EOp.ofCells)).2 fun op mem w => ?_
      have good := (operands op).2 ⟨fun _ => slot, fun _ => a, fun _ => b⟩
      rw [EOp.exec_good (EOp.ofCells_cell op mem) clear u w good, if_pos ordered]
    · have free : ¬ orderWaits s.cell = true := Bool.eq_false_iff.1 free
      have launches {op : EOp} (cell : op ≠ .dbar) (w : (op.instr h o).WellFormed) (good : op.operandsOk o s.cell = true) :
          exec (op.instr h o) s = done h s (op.launched h o s) :=
        (EOp.exec_good cell clear u w good).trans (if_neg free)
      have none_ {p : Prop} (e : false = true) : p := absurd e Bool.false_ne_true
      refine ⟨fun w a b => ?_, fun w a => launches (op := .chsend) nofun w ((operands _).2 ⟨none_, fun _ => a, none_⟩),
        fun w a => launches (op := .chrecv) nofun w ((operands _).2 ⟨none_, fun _ => a, none_⟩),
        fun w a b => launches (op := .chred) nofun w ((operands _).2 ⟨none_, fun _ => a, fun _ => b⟩), fun slot =>
        ⟨fun w a => launches (op := .qprop) nofun w ((operands _).2 ⟨fun _ => slot, fun _ => a, none_⟩),
        fun w a => launches (op := .qver) nofun w
          ((operands _).2 ⟨fun _ => slot, fun reads => a.resolve_left ((EOp.takesA_qver o).1 reads), none_⟩),
        fun w a => launches (op := .qres) nofun w ((operands _).2 ⟨fun _ => slot, fun _ => a, none_⟩),
        fun w => launches (op := .bset) nofun w ((operands _).2 ⟨fun _ => slot, none_, none_⟩),
        fun w => launches (op := .bget) nofun w ((operands _).2 ⟨fun _ => slot, none_, none_⟩),
        fun w a => launches (op := .sieve) nofun w ((operands _).2 ⟨fun _ => slot, fun _ => a, none_⟩),
        fun w a => launches (op := .tokz) nofun w ((operands _).2 ⟨fun _ => slot, fun _ => a, none_⟩),
        fun w a => launches (op := .detok) nofun w ((operands _).2 ⟨fun _ => slot, fun _ => a, none_⟩),
        fun w => launches (op := .gadv) nofun w ((operands _).2 ⟨fun _ => slot, none_, none_⟩),
        fun w a => launches (op := .gmask) nofun w ((operands _).2 ⟨fun _ => slot, fun _ => a, none_⟩),
        fun w => launches (op := .sltick) nofun w ((operands _).2 ⟨fun _ => slot, none_, none_⟩),
        fun w a => launches (op := .slpin) nofun w ((operands _).2 ⟨fun _ => slot, fun _ => a, none_⟩),
        fun w a => launches (op := .slget) nofun w ((operands _).2 ⟨fun _ => slot, fun _ => a, none_⟩)⟩⟩
      refine (launches (op := .cpy) nofun w ((operands _).2 ⟨none_, fun _ => a, fun _ => b⟩)).trans ?_
      rw [EOp.launched, EOp.sets, if_pos rfl, fld_zero]
      rfl
    · refine (EOp.forall_instr (l := EOp.ofSlots)).2 fun op mem _ => ?_
      obtain ⟨cell, takes⟩ := EOp.ofSlots_takes op mem
      exact illegal cell fun good => slot (((operands op).1 good).1 takes)
    · refine (EOp.forall_instr (l := EOp.ofHandles)).2 fun op mem _ => ?_
      obtain ⟨cell, takes⟩ := EOp.ofHandles_takes o op mem
      exact illegal cell fun good => a (((operands op).1 good).2.1 takes)
    · exact illegal (op := .qver) nofun fun good => a (((operands _).1 good).2.1 ((EOp.takesA_qver o).2 fn))
    · have broken {op : EOp} (first : op.takesA o = true) (second : op.takesB = true) : ¬ op.operandsOk o s.cell = true :=
        fun good => ab ⟨((operands op).1 good).2.1 first, ((operands op).1 good).2.2 second⟩
      exact ⟨fun _ => illegal (op := .cpy) nofun (broken rfl rfl), fun _ => illegal (op := .chred) nofun (broken rfl rfl)⟩
  · rw [dbar_core core, coreDbar_waits pending]
  · rw [dbar_core core, coreDbar_arrives w tag idle]
    rfl

end Sys2Proof.Machine
end

section
/-! PROOF of O16: ACCB, its decision, ACCE and ACCINV (R182, R194, R294, R302 to R304, R320 to R323). -/

namespace Sys2Proof.Machine

/-! ### A cycle with nothing in flight -/

/-- What a cycle with nothing in flight leaves of a cell: all that a task holds but its tags and its program counter. -/
def Cell.held (c : Cell) :
    Regs × Mem × Wait × Option OpenRegion × Option (BitVec 32) × List InFlight × List Access :=
  (c.regs, c.pad, c.wait, c.region, c.pipe.rest, c.pipe.inflight, c.pipe.accs)

theorem clearDropped_held (c : Cell) : (clearDropped c).held = c.held ∧ (clearDropped c).pipe.pc = c.pipe.pc := by
  have one (t : Option (BitVec 3)) (c : Cell) : ((clearTag t c).held, (clearTag t c).pipe.pc) = (c.held, c.pipe.pc) := by
    cases t <;> rfl
  have all := foldl_keeps (fun c : Cell => (c.held, c.pipe.pc))
    (turn := fun c i => if bit c.pipe.untag i then clearTag (some (BitVec.ofNat 3 i)) c else c) (fun c i => by
      split
      · exact one _ c
      · rfl) (List.range 8) c
  unfold clearDropped
  split
  · exact ⟨rfl, rfl⟩
  · exact ⟨congrArg (·.1) all, congrArg (·.2) all⟩

/-- No result and no access is on its way to the cell. -/
def Cell.Quiet (c : Cell) : Prop := c.pipe.inflight = [] ∧ c.pipe.accs = []

theorem Cell.Quiet.of_held {x y : Cell} (h : x.Quiet) (e : y.held = x.held) : y.Quiet :=
  ⟨(congrArg (·.2.2.2.2.2.1) e).trans h.1, (congrArg (·.2.2.2.2.2.2) e).trans h.2⟩

theorem tick_quiet {c : Cell} (h : c.Quiet) : c.tick.1.held = c.held ∧ c.tick.1.pipe.pc = c.pipe.pc := by
  obtain ⟨flight, accs⟩ := h
  have order : landOrder [] = [] := rfl
  have cleared : c.tick.1 = clearDropped { c with pipe := { c.pipe with
      inflight := [], late := [], flight := c.pipe.flight.map fun x => { x with age := x.age + 1 }, accs := [] } } := by
    simp [Cell.tick, flight, accs, order, keepFired, writtenFired]
  have drop := clearDropped_held { c with pipe := { c.pipe with
      inflight := [], late := [], flight := c.pipe.flight.map fun x => { x with age := x.age + 1 }, accs := [] } }
  rw [cleared]
  refine ⟨drop.1.trans ?_, drop.2⟩
  rw [Cell.held, Cell.held, flight, accs]

theorem ticks_quiet (n : Nat) {s : State} {c : BitVec 9} (h : (s.cellAt c).Quiet) :
    ((ticks n s c).cellAt c).held = (s.cellAt c).held ∧ ((ticks n s c).cellAt c).pipe.pc = (s.cellAt c).pipe.pc := by
  induction n generalizing s with
  | zero => exact ⟨rfl, rfl⟩
  | succ n ih =>
    obtain ⟨held, pc⟩ := tick_quiet h
    rw [← tickAt_cell] at held pc
    obtain ⟨held', pc'⟩ := ih (h.of_held held)
    exact ⟨held'.trans held, pc'.trans pc⟩

/-! ### Where fetch goes on -/

theorem leaveLoops_kept (w : BitVec 32) (p : Pipe) :
    (leaveLoops w p).rest = p.rest ∧ (leaveLoops w p).inflight = p.inflight ∧ (leaveLoops w p).accs = p.accs := by
  unfold leaveLoops
  dsimp only
  split
  · exact ⟨rfl, rfl, rfl⟩
  · split <;> exact ⟨rfl, rfl, rfl⟩

theorem backEdges_kept (w : BitVec 32) (p : Pipe) :
    (backEdges w p).rest = p.rest ∧ (backEdges w p).inflight = p.inflight ∧ (backEdges w p).accs = p.accs := by
  unfold backEdges
  dsimp only
  split
  · exact ⟨rfl, rfl, rfl⟩
  · split <;> exact ⟨rfl, rfl, rfl⟩

theorem updPipe_cellAt (s : State) (c : BitVec 9) (f : Pipe → Pipe) :
    (updPipe s c f).cellAt c = { s.cellAt c with pipe := f (s.cellAt c).pipe } := State.updAt_cellAt s c _

section
variable {s : State} {c : BitVec 9} {w : BitVec 32}

/-- A taken word of user code: two bubbles pass with nothing in flight, and fetch is at its target (R316). -/
theorem nextBundle_taken (h : (s.cellAt c).Quiet) {t : BitVec 32} (taken : (s.cellAt c).pipe.redirect = some t) :
    ((nextBundle s c true w).cellAt c).held = (s.cellAt c).held ∧ ((nextBundle s c true w).cellAt c).pipe.pc = t := by
  obtain ⟨rest, inflight, accs⟩ := leaveLoops_kept w (s.cellAt c).pipe
  have at_ := updPipe_cellAt s c fun p => { leaveLoops w p with pc := t, seq := t, redirect := none }
  have held : ((updPipe s c fun p => { leaveLoops w p with pc := t, seq := t, redirect := none }).cellAt c).held =
      (s.cellAt c).held := by
    rw [at_, Cell.held, Cell.held]
    dsimp only
    rw [rest, inflight, accs]
  obtain ⟨held2, pc2⟩ := ticks_quiet 2 (h.of_held held)
  have goes : nextBundle s c true w =
      ticks 2 (updPipe s c fun p => { leaveLoops w p with pc := t, seq := t, redirect := none }) c := by
    rw [nextBundle, taken]
    rfl
  rw [goes]
  exact ⟨held2.trans held, pc2.trans (by rw [at_])⟩

/-- Fetch goes on behind the bundle, or where a loop's end leads. -/
theorem nextBundle_straight (straight : (s.cellAt c).pipe.redirect = none) :
    ((nextBundle s c true w).cellAt c).held = (s.cellAt c).held ∧
      ((nextBundle s c true w).cellAt c).pipe = backEdges w (s.cellAt c).pipe := by
  obtain ⟨rest, inflight, accs⟩ := backEdges_kept w (s.cellAt c).pipe
  have goes : nextBundle s c true w = updPipe s c fun p => backEdges w p := by
    rw [nextBundle, straight]
    rfl
  rw [goes, updPipe_cellAt, Cell.held, Cell.held]
  dsimp only
  rw [rest, inflight, accs]
  exact ⟨rfl, rfl⟩

theorem nextBundle_held (h : (s.cellAt c).Quiet) : ((nextBundle s c true w).cellAt c).held = (s.cellAt c).held := by
  cases e : (s.cellAt c).pipe.redirect with
  | none => exact (nextBundle_straight e).1
  | some t => exact (nextBundle_taken h e).1

theorem backEdges_noLoop {p : Pipe} (inner : p.inner = none) (outer : p.outer = none) : (backEdges w p).pc = p.seq := by
  rw [backEdges, inner, outer]
  rfl

end

/-! ### A decision (R302, R303, R320) -/

/-- Outputs land in registers only. -/
theorem land_outLands (free : Nat) (scalar : Bool) (at_ : Nat) (vs : List (BitVec 32)) :
    ∀ l ∈ outLands free scalar at_ vs, ∀ c : Cell, c.land l = { c with regs := c.regs.land l } := by
  intro l hl c
  unfold outLands at hl
  split at hl
  · obtain ⟨i, -, rfl⟩ := List.mem_map.1 hl
    rfl
  · obtain rfl := List.mem_singleton.1 hl
    rfl

/-- Results that land in registers only leave the rest of the cell. -/
theorem foldl_land_regs {l : List Land} (only : ∀ x ∈ l, ∀ c : Cell, c.land x = { c with regs := c.regs.land x }) (c : Cell) :
    l.foldl Cell.land c = { c with regs := l.foldl Regs.land c.regs } := by
  induction l generalizing c with
  | nil => rfl
  | cons x r ih =>
    rw [List.foldl_cons, only x List.mem_cons_self, ih fun y hy => only y (List.mem_cons_of_mem x hy)]
    rfl

/-- The outputs of a region that was skipped, on the registers. -/
def outRegs (free : Nat) (scalar : Bool) (at_ : Nat) (outs : List (BitVec 32)) (r : Regs) : Regs :=
  (outLands free scalar at_ outs).foldl Regs.land r

theorem outLands_fold (free : Nat) (scalar : Bool) (at_ : Nat) (outs : List (BitVec 32)) (c : Cell) :
    (outLands free scalar at_ outs).foldl Cell.land c = { c with regs := outRegs free scalar at_ outs c.regs } :=
  foldl_land_regs (land_outLands free scalar at_ outs) c

/-- The machine in which a decision has been taken, before fetch goes on. -/
def decided (s : State) (c : BitVec 9) (t : BitVec 32) (a : AccAnswer) : State :=
  updPipe (s.updAt c (takeAnswer (64 * s.steps) t a)) c fun p => { p with pdSpent := false, ticked := false, rest := none }

theorem decided_cell (s : State) (c : BitVec 9) (t : BitVec 32) (a : AccAnswer) :
    (decided s c t a).cellAt c = let y := takeAnswer (64 * s.steps) t a (s.cellAt c)
      { y with pipe := { y.pipe with pdSpent := false, ticked := false, rest := none } } := by
  rw [decided, updPipe_cellAt, State.updAt_cellAt]

section
variable {s : State} {ci : BitVec 9} {t : BitVec 32} {a : AccAnswer}

/-- A cell alone whose decision has come takes it and fetches on (R302, R320). -/
theorem cellTurn_decision (live : cellLive s ci = true) (stays : ci ∉ s.tasks.saving) (wait : (s.cellAt ci).wait = .accbDone t a)
    (alone : (s.cellAt ci).task.fused = false) :
    ∃ u, cellTurn s ci = .next u ∧ let v := nextBundle (decided { s with cur := ci } ci t a) ci true (s.cellAt ci).pipe.pc
      (u.cellAt ci).held = (v.cellAt ci).held ∧ (u.cellAt ci).pipe = (v.cellAt ci).pipe := by
  have cell : ({ s with cur := ci } : State).cellAt ci = s.cellAt ci := rfl
  have runs : (!cellLive { s with cur := ci } ci || decide (ci ∈ s.tasks.saving)) = false := by
    rw [show cellLive { s with cur := ci } ci = true from live, decide_eq_false stays]
    rfl
  have going : ¬ (s.cellAt ci).wait = .ending := by rw [wait]; exact nofun
  have came : answered (s.cellAt ci) = true := by rw [answered, wait]
  have turn : cellTurn s ci = .next (completeAccb { s with cur := ci } ci) := by
    have one : companions { s with cur := ci } ci = [ci] := by
      rw [companions, cell, alone]
      rfl
    have whole : wholeGang { s with cur := ci } (s.cellAt ci) = true := by
      rw [wholeGang, alone]
      simp
    have decides : decisionTurn { s with cur := ci } ci = completeAccb { s with cur := ci } ci := by
      rw [decisionTurn, one, cell, whole]
      exact if_pos (by rw [List.all_cons, cell, came]; rfl)
    rw [cellTurn]
    dsimp only
    rw [runs, cell, if_neg Bool.false_ne_true, if_neg going, if_pos came, decides]
  refine ⟨_, turn, ?_⟩
  dsimp only
  unfold completeAccb
  rw [cell, wait]
  dsimp only
  split
  · rw [updEvents, State.updAt_cellAt]
    exact ⟨rfl, rfl⟩
  · exact ⟨rfl, rfl⟩

/-- What the decision takes the task on to. -/
theorem decision_outcome (live : cellLive s ci = true) (stays : ci ∉ s.tasks.saving) (wait : (s.cellAt ci).wait = .accbDone t a)
    (alone : (s.cellAt ci).task.fused = false) (quiet : (s.cellAt ci).Quiet) :
    let x := s.cellAt ci
    ∃ u, cellTurn s ci = .next u ∧
      (u.cellAt ci).wait = .none ∧ (u.cellAt ci).pad = x.pad ∧ (u.cellAt ci).pipe.rest = none ∧
      (∀ r, a = .body r → (u.cellAt ci).region = some r ∧ (u.cellAt ci).regs = x.regs ∧
        (x.pipe.redirect = none → x.pipe.inner = none → x.pipe.outer = none → (u.cellAt ci).pipe.pc = x.pipe.seq)) ∧
      (∀ scalar at_ outs, a = .skip scalar at_ outs → (u.cellAt ci).region = none ∧ (u.cellAt ci).pipe.pc = t ∧
        (u.cellAt ci).regs = ((outLands (64 * s.steps) scalar at_ outs).foldl Cell.land x).regs) := by
  intro x
  obtain ⟨u, turn, held, pipe⟩ := cellTurn_decision live stays wait alone
  have before := decided_cell { s with cur := ci } ci t a
  refine ⟨u, turn, ?_⟩
  cases a with
  | body r =>
    have before : (decided { s with cur := ci } ci t (.body r)).cellAt ci =
        { x with
          wait := .none, region := some r
          pipe := { x.pipe with pdSpent := false, ticked := false, rest := none } } := before
    have after := held.trans (nextBundle_held (by rw [before]; exact quiet))
    rw [before] at after
    refine ⟨congrArg (·.2.2.1) after, congrArg (·.2.1) after, congrArg (·.2.2.2.2.1) after, fun r' e => ?_, nofun⟩
    cases e
    refine ⟨congrArg (·.2.2.2.1) after, congrArg (·.1) after, fun straight inner outer => ?_⟩
    rw [pipe, (nextBundle_straight (by rw [before]; exact straight)).2, before]
    exact backEdges_noLoop inner outer
  | skip scalar at_ outs =>
    have before : (decided { s with cur := ci } ci t (.skip scalar at_ outs)).cellAt ci =
        { x with
          wait := .none, region := none, regs := outRegs (64 * s.steps) scalar at_ outs x.regs
          pipe := { x.pipe with redirect := some t, pdSpent := false, ticked := false, rest := none } } := by
      rw [before, takeAnswer]
      dsimp only
      rw [outLands_fold]
      rfl
    obtain ⟨after, pc⟩ := nextBundle_taken (s := decided { s with cur := ci } ci t (.skip scalar at_ outs)) (c := ci)
      (w := x.pipe.pc) (t := t) (by rw [before]; exact quiet) (by rw [before])
    have after := held.trans after
    rw [before] at after
    refine ⟨congrArg (·.2.2.1) after, congrArg (·.2.1) after, congrArg (·.2.2.2.2.1) after, nofun, fun sc p o e => ?_⟩
    cases e
    refine ⟨congrArg (·.2.2.2.1) after, (congrArg Pipe.pc pipe).trans pc, ?_⟩
    rw [outLands_fold]
    exact congrArg (·.1) after

end

/-! ### The words -/

section
variable {h : Header} {s : State} (p : Plain h s) (u : User s)
include p u

/-- ACCB with a readable descriptor (R302, R320). -/
theorem accb_issues {o : CB} (w : (Instr.accb h o).WellFormed) {pa : Nat} {s0 : State}
    (reads : descAccess s (s.cell.rdS o.sa) = .ok (pa, s0)) :
    exec (.accb h o) s = finish s (if orderWaits s.cell then .freeze else
      match homeLoad s0 s.cur (domainPage s0 s.cur (s.cell.rdS o.sa).toNat) pa with
      | .waits => .freeze
      | .sent t => .poll t
      | .ready t =>
        if accbBusy s.cell (parseDesc (t.mem.bytes pa 256)) then .freeze
        else .go ((sendAccord t (engineFor t s.cell.task.ctx (s.cell.rdS o.sa).toNat)
          (accbMsg s.cur s.cell o (parseDesc (t.mem.bytes pa 256)))).upd fun x =>
            { x with wait := .accb (directTarget x o) })) := by
  rw [exec_accb, execAccb, issueWord_user p u (check_accb w), reads] <;> rfl

/-- ACCE (R303, R322). -/
theorem acce_issues {o : CB} (w : (Instr.acce h o).WellFormed) :
    exec (.acce h o) s = finish s (match s.cell.region with
      | none => .go s
      | some r =>
        if r.va ≠ (s.cell.rdS o.sa).toNat then .go s
        else match ctxRead s s.cell.task.ctx r.va 256 with
          | .error _ => .go (s.upd fun x => { x with region := none })
          | .ok bs =>
            if r.true_ then .go (sendAccord (s.upd fun x => { x with region := none }) r.engine
              (.sample s.cur s.cell.task.gang s.cell.task.gmem s.cell.task.ctx r.va r.ins
                (readVals s.cell (parseDesc bs).osrc (parseDesc bs).outAt (parseDesc bs).nout) r.check))
            else .go (s.upd fun x => { x with region := none })) := by
  rw [exec_acce, execAcce, issueWord_user p u (check_acce w)] <;> rfl

/-- The machine in which an ACCINV has closed its region at its own cell. -/
def regionClosed (s1 : State) (va : Word) : State :=
  s1.upd fun c => match c.region with
    | some r => if r.va = va.toNat then { c with region := none } else c
    | none => c

theorem accinv_issues {o : CS} (w : (Instr.accinv h o).WellFormed) {pa : Nat} {s1 : State}
    (reads : descAccess s (s.cell.rdS o.sa) = .ok (pa, s1)) :
    exec (.accinv h o) s = finish s (orderedIssue s.cell
      (match findRegion (regionClosed s1 (s.cell.rdS o.sa)) s.cell.task.ctx (s.cell.rdS o.sa).toNat with
        | none => .go (regionClosed s1 (s.cell.rdS o.sa))
        | some (e, _) => .go ((sendAccord (regionClosed s1 (s.cell.rdS o.sa)) e
          (.inval s.cur s.cell.task.gang s.cell.task.gmem s.cell.task.ctx (s.cell.rdS o.sa).toNat)).upd fun c =>
            { c with wait := .accinv }))) := by
  rw [exec_accinv, execAccinv, issueWord_user p u (check_accinv w)]
  dsimp only
  rw [reads] <;> rfl

end

/-- A descriptor whose rows the matrix unit does not hold, or a malformed one, does not hold up its ACCB (R163). -/
theorem accbBusy_free {c : Cell} {d : AccDesc} (free : malformed d (tilesOf c) = true ∨
    ((d.isrc = true ∨ rowBusy c (BitVec.ofNat 9 d.inAt) false = false) ∧
      (d.osrc = true ∨ rowBusy c (BitVec.ofNat 9 d.outAt) true = false))) : accbBusy c d = false := by
  unfold accbBusy
  obtain bad | ⟨ins, outs⟩ := free
  · rw [bad]
    rfl
  · have none_ (b busy : Bool) (h : b = true ∨ busy = false) : (!b && busy) = false := by
      obtain rfl | rfl := h
      · rfl
      · exact Bool.and_false _
    rw [none_ _ _ ins, none_ _ _ outs]
    exact Bool.and_false _

/-- Responses are taken from what has come, and no cell changes (R294). -/
theorem takeResponses_cells {l : List (BitVec 16)} {s t : State} (e : takeResponses l s = some t) :
    t.cells = s.cells ∧ t.cur = s.cur := by
  induction l generalizing s with
  | nil => cases e; exact ⟨rfl, rfl⟩
  | cons p r ih =>
    obtain ⟨v, first, rest⟩ := Option.bind_eq_some_iff.1 e
    obtain ⟨cells, cur⟩ := ih rest
    unfold takeFlits at first
    dsimp only at first
    split at first
    · cases first
    · cases first
      exact ⟨cells, cur⟩

/-- A load before its bundle leaves the cell at its bundle (R194, R294). -/
theorem homeLoad_pc {s t : State} {c : BitVec 9} {dom : Bool} {pa : Nat} (e : homeLoad s c dom pa = .ready t) :
    t.cur = s.cur ∧ t.cell.pipe.pc = s.cell.pipe.pc := by
  unfold homeLoad at e
  split at e
  · cases e; exact ⟨rfl, rfl⟩
  · split at e
    · cases e; exact ⟨rfl, rfl⟩
    · split at e
      · cases e
      · split at e
        · cases e
        · next u took =>
          cases e
          unfold takeAsked at took
          split at took
          · cases took
          · dsimp only at took
            split at took
            · cases took
            · obtain ⟨v, came, rfl⟩ := Option.map_eq_some_iff.1 took
              obtain ⟨cells, cur⟩ := takeResponses_cells came
              have same (d : BitVec 9) : v.cellAt d = s.cellAt d := by rw [State.cellAt, cells, State.cellAt]
              refine ⟨cur, ?_⟩
              show (((dropAsk v _).updAt c _).cellAt v.cur).pipe.pc = s.cell.pipe.pc
              rw [State.cell, ← same, ← cur]
              by_cases own : v.cur = c
              · rw [← own, State.updAt_cellAt]
                rfl
              · rw [State.updAt_other _ _ own]
                rfl

theorem descAccess_issuer {s t : State} {va : Word} {pa : Nat} (e : descAccess s va = .ok (pa, t)) : t.issuer = s.issuer := by
  unfold descAccess at e
  split at e
  · cases e
  · split at e
    · cases e
    · next first =>
      split at e
      · cases e
      · next second =>
        cases e
        have cur : _ = s.cur := congrArg (·.1) (xlate_issuer first)
        rw [← cur] at second
        exact (xlate_issuer second).trans (xlate_issuer first)

/-- The machine from which an ACCB sends its arrival has the cell at its bundle. -/
theorem accbReads_pc {s s0 s1 : State} {va : Word} {pa : Nat} {dom : Bool} (reads : descAccess s va = .ok (pa, s0))
    (ready : homeLoad s0 s.cur dom pa = .ready s1) : s1.cell.pipe.pc = s.cell.pipe.pc :=
  (homeLoad_pc ready).2.trans (congrArg (·.2.2.pc) (descAccess_issuer reads))

theorem descAccess_view {s t : State} {va : Word} {pa : Nat} (e : descAccess s va = .ok (pa, t)) : t.view = s.view := by
  unfold descAccess at e
  split at e
  · cases e
  · split at e
    · cases e
    · next first =>
      split at e
      · cases e
      · next second =>
        cases e
        exact (xlate_view second).trans (xlate_view first)

/-- The cell whose region an ACCINV has closed. -/
theorem regionClosed_cell (s1 : State) (va : Word) :
    (regionClosed s1 va).cell = { s1.cell with region := (regionClosed s1 va).cell.region } ∧
      ∀ r, (regionClosed s1 va).cell.region = some r → r.va ≠ va.toNat := by
  have at_ : (regionClosed s1 va).cell = match s1.cell.region with
      | some r => if r.va = va.toNat then { s1.cell with region := none } else s1.cell
      | none => s1.cell := State.updAt_cellAt s1 s1.cur _
  rw [at_]
  split
  · next r open_ =>
    split
    · exact ⟨rfl, nofun⟩
    · next other =>
      refine ⟨rfl, fun r' e => ?_⟩
      obtain rfl := Option.some.inj (open_.symm.trans e)
      exact other
  · next none_ => exact ⟨rfl, fun r' e => absurd (none_.symm.trans e) nofun⟩

/-- What the issuing cell is after its word has been marked. -/
theorem mark_cell {s : State} {c : BitVec 9} (v : Verdict) (h : s.cur = c) :
    (s.mark c v).cell = { s.cell with verdict := v } := by
  subst h
  exact State.updAt_cellAt s s.cur _

/-- ACCINV closes its region, and where an engine holds it, sends the invalidation and waits (R304, R323). -/
theorem accinv_closes {h : Header} {s s1 : State} {o : CS} {pa : Nat} (p : Plain h s) (u : User s)
    (w : (Instr.accinv h o).WellFormed) (free : Unordered s) (reads : descAccess s (s.cell.rdS o.sa) = .ok (pa, s1)) :
    ∃ t, exec (.accinv h o) s = .next t ∧ t.mem = s1.mem ∧ t.cell.regs = s1.cell.regs ∧
      (∀ r, t.cell.region = some r → r.va ≠ (s.cell.rdS o.sa).toNat) ∧
      (findRegion s1 s.cell.task.ctx (s.cell.rdS o.sa).toNat = none → t.cell.wait = s.cell.wait ∧ t.accord = s1.accord) ∧
      (∀ e r, findRegion s1 s.cell.task.ctx (s.cell.rdS o.sa).toNat = some (e, r) → t.cell.wait = .accinv ∧
        t.accord = (sendAccord s1 e
          (.inval s.cur s.cell.task.gang s.cell.task.gmem s.cell.task.ctx (s.cell.rdS o.sa).toNat)).accord) := by
  have view := descAccess_view reads
  have cur : s1.cur = s.cur := view_cur view
  obtain ⟨closed, none_⟩ := regionClosed_cell s1 (s.cell.rdS o.sa)
  have regs := congrArg Cell.regs closed
  have wait := congrArg Cell.wait closed
  have region : findRegion (regionClosed s1 (s.cell.rdS o.sa)) = findRegion s1 := rfl
  rw [accinv_issues p u w reads, orderedIssue_free free, region]
  split
  · next absent =>
    refine ⟨_, rfl, rfl, ?_, ?_, fun _ => ⟨?_, rfl⟩, fun e r found => absurd (absent.symm.trans found) nofun⟩
    all_goals rw [mark_cell (s := regionClosed s1 (s.cell.rdS o.sa)) _ cur]
    · exact regs
    · exact none_
    · exact wait.trans (view_wait view)
  · next e r found =>
    have sent : (((sendAccord (regionClosed s1 (s.cell.rdS o.sa)) e
        (.inval s.cur s.cell.task.gang s.cell.task.gmem s.cell.task.ctx (s.cell.rdS o.sa).toNat)).upd fun c =>
          { c with wait := .accinv })).cell = { (regionClosed s1 (s.cell.rdS o.sa)).cell with wait := .accinv } :=
      State.updAt_cellAt _ _ _
    refine ⟨_, rfl, rfl, ?_, ?_, fun absent => absurd (found.symm.trans absent) nofun, fun e' r' again => ?_⟩
    · refine (congrArg Cell.regs (mark_cell .issued (by exact cur))).trans ?_
      rw [sent]
      exact regs
    · intro r' open_
      refine none_ r' (Eq.trans ?_ open_)
      refine ((congrArg Cell.region (mark_cell .issued (by exact cur))).trans ?_).symm
      rw [sent]
    · cases found.symm.trans again
      refine ⟨(congrArg Cell.wait (mark_cell .issued (by exact cur))).trans ?_, rfl⟩
      rw [sent]

/-- Settles O16: each word is brought to its choices, and a decision is followed through the cycles that take the task on. -/
theorem accordWordsComplete : Obligations.AccordWordsComplete := by
  unfold Obligations.AccordWordsComplete
  intro h s p u
  refine ⟨fun o w pa s0 reads => ?_, fun ci t a live stays wait _ alone flight _ accs =>
      decision_outcome live stays wait alone ⟨flight, accs⟩, fun o w => ?_, fun o w ordered r reads => ?_,
    fun o w free pa s1 reads => accinv_closes p u w free reads⟩
  · rw [accb_issues p u w reads]
    refine ⟨fun ordered => ?_, fun free waits => ?_, fun free t sent => ?_, fun free t ready rows => ?_⟩
    · rw [ordered]
      rfl
    all_goals rw [show orderWaits s.cell = false from free]
    · rw [waits]
      rfl
    · rw [sent]
      rfl
    · have idle : ¬ accbBusy s.cell (parseDesc (t.mem.bytes pa 256)) = true := by
        rw [accbBusy_free rows]
        exact Bool.false_ne_true
      have pc := accbReads_pc reads ready
      rw [ready]
      refine (congrArg (finish s) (if_neg idle)).trans ?_
      refine congrArg (fun v : State => Host.Outcome.next (v.mark s.cur .issued)) (congrArg (State.setCell _ t.cur) ?_)
      show ({ t.cell with wait := .accb (t.cell.pipe.pc + o.off) } : Cell) =
        { t.cell with wait := .accb (s.cell.pipe.pc + o.off) }
      rw [pc]
  · rw [acce_issues p u w]
    refine ⟨fun none_ => ?_, fun r open_ other => ?_, fun r open_ own => ⟨fun off => ?_, fun on bs reads => ?_⟩⟩
    · rw [none_]
      rfl
    all_goals rw [open_]; dsimp only
    · rw [if_pos other]
      rfl
    · rw [if_neg (not_not.2 own), off]
      split <;> rfl
    · rw [if_neg (not_not.2 own), reads, on]
      rfl
  · rw [accinv_issues p u w reads]
    split
    · exact congrArg (finish s) (orderedIssue_holds ordered _)
    · exact congrArg (finish s) (orderedIssue_holds ordered _)

end Sys2Proof.Machine
end

section
/-! PROOF of O37 (refuted): CPY from a peer's memory (R194, R287, R352). -/

namespace Sys2Proof.Machine

/-- A handle of one FP32 element at an address of main memory. -/
def oneElement (at_ : Nat) : BitVec 256 := BitVec.ofNat 256 (at_ + 2 ^ 64 + 2 ^ 80 + 2 ^ 96 + 2 ^ 112)

/-- A CPY of one element from VA 0 to VA 2^26. -/
def peerCopy : Cmd :=
  { id := 1, op := .cpy, cell := 0, gang := 0, gmem := 0, ctx := 0, det := false, tag := none, pc := 0, ha := oneElement (2 ^ 26)
    hb := oneElement 0, sa := 0, sb := 0, sx := 0, dst := 0, imm := 0, fn := 0, low := 0, progress := 0, num := 0, round := 0
    started := false, begun := false, held := none, ev := 0 }

/-- The tables of context 0 map VA 0 to the memory of package 0 of the fabric, on no domain page, and VA 2^26 to this
package's own memory (R217, R218). -/
def peerTables : Mem :=
  (((State.reset.mem.storeNat 0x20000 8 0x22003).storeNat 0x22000 8 0x24003).storeNat 0x24000 8 (3 * 2 ^ 52 + 0x79)).storeNat
    0x24008 8 (2 ^ 26 + 0x79)

/-- The command waits for its engine. -/
def peerCopying : State :=
  { State.reset with
    mem := peerTables, cmds := [peerCopy]
    pkg := { Package.reset with
      frames := 1
      contexts := [
        { id := 0, root := 0x20000, tvec := 0, saveb := 0, saves := 0, free := [], used := [], pool := 0, poolN := 0 }] } }

def startedCopy : Cmd := { peerCopy with begun := true }

def copyStarted : State := setCmd peerCopying startedCopy

/-- Where the element is read and written. -/
def peerRun : Seg := { space := .main, addr := 3 * 2 ^ 52, len := 4 }
def ownRun : Seg := { space := .main, addr := 2 ^ 26, len := 4 }

/-- The block of the copy within its row, and its elements. -/
def onlyBlock : Nat := peerCopy.progress % ((hDim peerCopy.ha 0 + 31) / 32)
def blockElements : Nat := min 32 (hDim peerCopy.ha 0 - 32 * onlyBlock)

/-- The addresses and lengths of the block in the source and in the destination. -/
def sourcePlace : Nat × Nat × Nat :=
  cpyPlace peerCopy.hb (cpyRow peerCopy.hb peerCopy.sb peerCopy.progress) onlyBlock blockElements

def destPlace : Nat × Nat × Nat :=
  cpyPlace peerCopy.ha (cpyRow peerCopy.ha peerCopy.sa peerCopy.progress) onlyBlock blockElements

theorem sourcePlace_run : cmdSegs copyStarted startedCopy peerCopy.hb 0 sourcePlace.1 sourcePlace.2.1 = .ok [peerRun] := by
  decide +kernel

theorem destPlace_run : cmdSegs copyStarted startedCopy peerCopy.ha 1 destPlace.1 destPlace.2.1 = .ok [ownRun] := by
  decide +kernel

theorem peerRun_bytes : (engBytes copyStarted startedCopy [peerRun]).length = destPlace.2.1 := by decide +kernel

/-- The command may take its turn, and passes its start checks. -/
theorem peerCopy_ready : cmdOf peerCopying peerCopy.id = some peerCopy ∧ mustWait peerCopying peerCopy = false ∧
    padWaits peerCopying peerCopy = false ∧ cpyStart peerCopy = true ∧ peerCopy.progress < cpyBlocks peerCopy := by decide +kernel

/-- The messages that have left a machine. -/
def sentBy (r : Except (BitVec 8 × Nat) (State × BitVec 8)) : Option Nat := r.toOption.map fun x => x.1.chans.out.length

/-- The copy asks the peer for the element: one load flit leaves (R194, R287). -/
theorem cpyBlock_sends : sentBy (cpyBlock copyStarted startedCopy peerCopy.progress) = some 1 := by decide +kernel

/-- The store of the element at its destination alone sends nothing. -/
theorem engStore_sendsNothing :
    sentBy (.ok (engStore startedCopy [ownRun] (engBytes copyStarted startedCopy [peerRun]) copyStarted, 0)) = some 0 := by
  decide +kernel

/-- Refutes O37, in its clause on a block of CPY between tensors of one type without scales: the clause says that the block's step
leaves nothing but the source's bytes at the destination, and says so of every source, where the other clauses leave out what
reaches a domain page. A source in a peer's memory on no domain page is read by a load flit (R194, R287), which the step sends
besides: in `peerCopying` one message leaves, and by the clause none would. -/
theorem not_engineCommandsComplete : ¬ Obligations.EngineCommandsComplete := by
  unfold Obligations.EngineCommandsComplete
  intro h
  obtain ⟨found, first, free, starts, more⟩ := peerCopy_ready
  obtain ⟨-, turn, -⟩ := h peerCopying peerCopy found
  obtain ⟨-, -, -, -, -, -, -, -, -, -, -, -, -, -, -, -, -, block, -⟩ := turn rfl first free
  have plain : cpyBlock copyStarted startedCopy peerCopy.progress =
      .ok (engStore startedCopy [ownRun] (engBytes copyStarted startedCopy [peerRun]) copyStarted, 0) :=
    block rfl starts rfl (by decide +kernel) (by decide +kernel) more [peerRun] [ownRun] sourcePlace_run destPlace_run
      peerRun_bytes
  have sent := congrArg sentBy plain
  rw [cpyBlock_sends, engStore_sendsNothing] at sent
  exact absurd sent (by decide)

end Sys2Proof.Machine
end

section
/-! PROOF of O15: what a trap leaves of its cell and of the machine (R197, R198, R200, R204, R215, R342). -/

namespace Sys2Proof.Machine

theorem takeTrap_enters {s : State} {c : BitVec 9} {t : Trap} (user : (s.cellAt c).sup = false)
    (runs : bit (s.cellAt c).tr.dbgctl 1 = false ∨ t.cause ≠ cBreakpoint ∧ t.cause ≠ cStep) (epc : BitVec 32) (pd : Bool) :
    takeTrap s c t epc pd = s.updAt c (enterHandler t epc pd) := by
  have stays : ¬ (bit (s.cellAt c).tr.dbgctl 1 = true ∧ (t.cause = cBreakpoint ∨ t.cause = cStep)) := by
    rintro ⟨halt, why⟩
    exact runs.elim (fun off => absurd halt (by rw [off]; decide)) fun ⟨brk, step⟩ => why.elim brk step
  rw [takeTrap, user, if_neg (by decide), if_neg stays]

theorem takeTrap_double {s : State} {c : BitVec 9} (sup : (s.cellAt c).sup = true) (t : Trap) (epc : BitVec 32) (pd : Bool) :
    takeTrap s c t epc pd = abortTask (s.report (cellReport s c 2 t.cause (epc.zeroExtend 64) t.tval 0)) c := if_pos sup

/-- The halted cell. -/
theorem takeTrap_halts {s : State} {c : BitVec 9} {t : Trap} (user : (s.cellAt c).sup = false)
    (halt : bit (s.cellAt c).tr.dbgctl 1 = true) (why : t.cause = cBreakpoint ∨ t.cause = cStep) (epc : BitVec 32) (pd : Bool) :
    takeTrap s c t epc pd = (s.report (cellReport s c 5 t.cause (epc.zeroExtend 64) t.tval 0)).updAt c fun x =>
      { x with wait := .halt, pipe := { x.pipe with ticked := true, pdSpent := pd } } := by
  rw [takeTrap, user, if_neg (by decide), if_pos ⟨halt, why⟩]

/-- STATUS of a cell that enters its handler: SUP, PDDONE, and ABORT and PARK as they were (R197, R203). -/
theorem enterHandler_status (t : Trap) (epc : BitVec 32) (pd : Bool) (c : Cell) :
    let y := (enterHandler t epc pd c).tr.status
    bit y 0 = true ∧ bit y 1 = pd ∧ bit y 2 = bit c.tr.status 2 ∧ bit y 3 = bit c.tr.status 3 := by
  cases pd <;> simp [enterHandler, bit]

theorem enterHandler_cause (t : Trap) (epc : BitVec 32) (pd : Bool) (c : Cell) :
    (enterHandler t epc pd c).tr.cause.toNat = t.cause.toNat + 256 * t.kind.toNat := by
  have a := t.cause.isLt
  have b := t.kind.isLt
  rw [enterHandler, BitVec.toNat_ofNat, Nat.mod_eq_of_lt (by omega)]

/-- Settles O15: in user mode the handler is entered or the cell halts, in supervisor mode the task ends. -/
theorem trapsAreTaken : Obligations.TrapsAreTaken := by
  unfold Obligations.TrapsAreTaken
  refine ⟨fun s c t epc pd user runs => ?_, fun s c t epc pd => ⟨fun sup => takeTrap_double sup t epc pd, fun user halt why => ?_⟩⟩
  · rw [takeTrap_enters user runs]
    obtain ⟨sup, done, abort, park⟩ := enterHandler_status t epc pd (s.cellAt c)
    dsimp only
    rw [State.updAt_cellAt]
    exact ⟨rfl, fun d e => State.updAt_other _ _ e, rfl, rfl, rfl, rfl, enterHandler_cause t epc pd _, rfl, rfl, sup, done, abort,
      park, rfl, rfl, rfl, rfl, rfl, rfl, rfl, rfl, rfl, rfl, rfl, rfl⟩
  · rw [takeTrap_halts user halt why, State.updAt_cellAt]
    exact ⟨rfl, rfl, rfl, rfl⟩
end Sys2Proof.Machine
end

section
/-! PROOF of O13: TRAP, BRK and TLBI, and SUPPORT of O44: what a TLBI leaves as it is (R202, R223, R309, R342, R420, R422). -/

namespace Sys2Proof.Machine

/-! ### What the end of a region leaves as it is -/

/-- What neither a store nor a flit nor the tables of the accord engines change. -/
structure StoreBlind {γ : Type} (f : State → γ) : Prop where
  store : ∀ s a bs, f (s.store a bs) = f s
  flit : ∀ s ch dest p bs, f (emitFlit s ch dest p bs) = f s
  regions : ∀ s (r : Reg 2 (List Region)), f { s with accord := { s.accord with regions := r } } = f s

theorem storeBlind_pkg : StoreBlind State.pkg := ⟨State.store_pkg, emitFlit_pkg, fun _ _ => rfl⟩
theorem storeBlind_cells : StoreBlind State.cells := ⟨State.store_cells, emitFlit_cells, fun _ _ => rfl⟩

section
variable {γ : Type} {f : State → γ} (blind : StoreBlind f)
include blind

theorem StoreBlind.peerFlits (s : State) (dom : Bool) (kind pa : Nat) (bs : List Byte) :
    f (peerFlits s dom kind pa bs) = f s := by
  unfold Machine.peerFlits
  split
  · refine foldl_keeps f (fun t i => ?_) _ s
    unfold memoryFlit
    split
    · rfl
    · exact blind.flit _ _ _ _ _
  · rfl

theorem StoreBlind.mainStore (segs : List Seg) (bs : List Byte) (s : State) : f (mainStore segs bs s) = f s := by
  induction segs generalizing bs s with
  | nil => rfl
  | cons g r ih => exact (ih _ _).trans ((blind.peerFlits _ _ _ _ _).trans (blind.store _ _ _))

theorem StoreBlind.ctxTry (s : State) (e : BitVec 2) (ctx : BitVec 16) (va : Nat) (bs : List Byte) :
    f (ctxTry s e ctx va bs) = f s := by
  unfold Machine.ctxTry ctxWrite
  cases engSegs s ctx 0 0 0 1 (bs.length / 65536 + 2) va bs.length with
  | error _ => rfl
  | ok segs => exact (blind.regions _ _).trans (blind.mainStore _ _ _)

/-- Ending the regions of a TLBI writes their descriptors and the tables of the engines (R309). -/
theorem StoreBlind.invalidate (s : State) (p : Region → Bool) : f (invalidate s p) = f s := by
  refine foldl_keeps f (fun t e => foldl_keeps f (fun u r => ?_) _ t) _ s
  split
  · exact (blind.ctxTry _ _ _ _ _).trans (blind.regions _ _)
  · rfl

end

/-! ### TLBI (R223, R224) -/

/-- A TLBI takes the next number and joins those under way; the rest of the package stays. -/
theorem numberTlbi_pkg (s : State) (ctx : BitVec 16) (va : Option Nat) : ∃ x t,
    (numberTlbi s ctx va).pkg =
        { s.pkg with tlbiNext := s.pkg.tlbiNext + 1, shoots := s.pkg.shoots ++ [x], tlbis := s.pkg.tlbis ++ [t] } ∧
      t.n = s.pkg.tlbiNext ∧ t.ctx = ctx ∧ t.va = va := by
  have kept := storeBlind_pkg.invalidate s (tlbiRegions s ctx va)
  unfold numberTlbi
  generalize invalidate s (tlbiRegions s ctx va) = u at kept ⊢
  rw [← kept]
  exact ⟨_, _, rfl, rfl, rfl, rfl⟩

theorem numberTlbi_cells (s : State) (ctx : BitVec 16) (va : Option Nat) : (numberTlbi s ctx va).cells = s.cells := by
  have kept := storeBlind_cells.invalidate s (tlbiRegions s ctx va)
  unfold numberTlbi
  generalize invalidate s (tlbiRegions s ctx va) = u at kept ⊢
  exact kept

theorem takeTlbi_next (s : State) (c : BitVec 9) (ctx : BitVec 16) (va : Option Nat) :
    (takeTlbi s c ctx va).pkg.tlbiNext = s.pkg.tlbiNext + 1 := by
  obtain ⟨x, t, pkg, -⟩ := numberTlbi_pkg (s.updAt c (tlbDrop ctx va)) ctx va
  rw [takeTlbi, pkg]
  rfl

/-! ### The words -/

/-- Settles O13: each word by what its body says once its checks have passed. -/
theorem trapWordsComplete : Obligations.TrapWordsComplete := by
  unfold Obligations.TrapWordsComplete
  intro h s p o
  refine ⟨fun w => ?_, fun w => ⟨fun skip => ?_, fun stops => ?_⟩, fun w => ⟨fun sup => ?_, takeTlbi_next s s.cur, fun user => ?_⟩⟩
  · rw [exec_trap, execTrap, issueWord_plain p (check_trap w) (fun _ => rfl) (fun e => Bool.noConfusion e)]
    rfl
  · rw [exec_brk, execBrk, issueWord_plain p (check_brk w) (fun _ => rfl) (fun e => Bool.noConfusion e), if_pos skip]
    rfl
  · rw [exec_brk, execBrk, issueWord_plain p (check_brk w) (fun _ => rfl) (fun e => Bool.noConfusion e), stops]
    rfl
  · rw [exec_tlbi, execTlbi, issueWord_plain p (check_tlbi w) (fun _ => rfl) fun _ => sup, fld_zero]
    rfl
  · rw [exec_tlbi]
    exact issueWord_privilege p.wait (check_tlbi w) user
end Sys2Proof.Machine
end

section
/-! PROOF of O44: contexts, invalidations, QUIESCE and the quarantine (R222 to R225). -/

namespace Sys2Proof.Machine

/-! ### CXSTAT (R222) -/

/-- The low half of CXSTAT after a command: its status. -/
theorem cxDone_low (s : State) (n : Nat) : (cxDone s n).pkg.cxStat.toNat % 2 ^ 16 = (doneStat n).toNat % 2 ^ 16 := by
  change ((s.pkg.cxStat &&& 0xFFFFFFFF00000000#64) ||| doneStat n).toNat % 2 ^ 16 = _
  have low : (0xFFFFFFFF00000000#64).toNat % 2 ^ 16 = 0 := by decide
  rw [BitVec.toNat_or, BitVec.toNat_and, Nat.or_mod_two_pow, Nat.and_mod_two_pow, low, Nat.and_zero, Nat.zero_or]

theorem cxDone_done (s : State) : (cxDone s 0).pkg.cxStat.toNat % 2 ^ 16 = 2 := cxDone_low s 0

theorem cxDone_reason (s : State) {n : Nat} (some_ : n ≠ 0) (small : n < 16) :
    (cxDone s n).pkg.cxStat.toNat % 2 ^ 16 = 3 + 256 * n := by
  rw [cxDone_low, doneStat, if_neg some_, BitVec.toNat_ofNat]
  omega

/-- A command is rejected with a reason: no context changes. -/
theorem cxDone_rejected (s : State) {n : Nat} (some_ : n ≠ 0) (small : n < 16) :
    ∃ t, Host.Outcome.next (φ := Fault) (ρ := Refusal) (cxDone s n) = .next t ∧ t.pkg.contexts = s.pkg.contexts ∧
      t.pkg.cxStat.toNat % 2 ^ 16 = 3 + 256 * n :=
  ⟨_, rfl, rfl, cxDone_reason s some_ small⟩

/-! ### Create -/

theorem createReason_lt (s : State) : createReason s < 16 := by
  unfold createReason
  dsimp only
  split_ifs <;> decide

theorem contextCreate_rejects {s : State} (ready : cxReady s 0 = true) (bad : createReason s ≠ 0) :
    execContextCreate s = .next (cxDone s (createReason s)) := by
  rw [execContextCreate, ready, if_neg (by decide), if_pos bad]

/-- The context that the descriptor describes. -/
def describedContext (s : State) : Context :=
  { id := (cxWord s 0).extractLsb' 0 16, root := (cxWord s 1).toNat, tvec := (cxWord s 2).extractLsb' 0 56
    saveb := (cxWord s 3).toNat, saves := fld (cxWord s 4) 0 32, free := List.range (fld (cxWord s 4) 32 16), used := []
    pool := (cxWord s 5).toNat, poolN := fld (cxWord s 6) 0 32 }

theorem contextCreate_creates {s : State} (ready : cxReady s 0 = true) (good : createReason s = 0) :
    execContextCreate s =
      .next (cxDone { s with pkg := { s.pkg with contexts := s.pkg.contexts ++ [describedContext s] } } 0) := by
  rw [execContextCreate, ready, if_neg (by decide), if_neg (not_not.2 good)]
  rfl

/-! ### Destroy and invalidate (R222, R223) -/

theorem dropEverywhere_pkg (s : State) (id : BitVec 16) (va : Option Nat) : ∃ x t,
    (dropEverywhere s id va).pkg =
        { s.pkg with tlbiNext := s.pkg.tlbiNext + 1, shoots := s.pkg.shoots ++ [x], tlbis := s.pkg.tlbis ++ [t] } ∧
      t.n = s.pkg.tlbiNext ∧ t.ctx = id ∧ t.va = va :=
  numberTlbi_pkg { s with cells := s.cells.map (tlbDrop id va) } id va

theorem dropEverywhere_cell (s : State) (id : BitVec 16) (va : Option Nat) (c : BitVec 9) :
    (dropEverywhere s id va).cellAt c = tlbDrop id va (s.cellAt c) := by
  rw [State.cellAt, dropEverywhere, numberTlbi_cells]
  exact Reg.rd_map _ _ c

/-- A translation that an invalidation leaves is of another context or, where it names a VA, of another page. -/
theorem tlbDrop_left {ctx : BitVec 16} {va : Option Nat} {c : Cell} {e : TlbEntry} (left : e ∈ (tlbDrop ctx va c).tlb)
    (own : e.ctx = ctx) : ∃ a, va = some a ∧ e.va ≠ a / leafBytes e.level := by
  have kept := (List.mem_filter.1 left).2
  cases va with
  | none => simp [own] at kept
  | some a => exact ⟨a, rfl, by simpa [own] using kept⟩

theorem dropEverywhere_left {s : State} {ctx : BitVec 16} {va : Option Nat} {c : BitVec 9} {e : TlbEntry}
    (left : e ∈ ((dropEverywhere s ctx va).cellAt c).tlb) (own : e.ctx = ctx) :
    ∃ a, va = some a ∧ e.va ≠ a / leafBytes e.level := by
  rw [dropEverywhere_cell] at left
  exact tlbDrop_left left own

/-- The machine without a context. -/
def withoutContext (s : State) (id : BitVec 16) : State :=
  { s with pkg := { s.pkg with contexts := s.pkg.contexts.filter fun c => decide (c.id ≠ id) } }

/-- What a command that destroys a context leaves. -/
theorem withoutContext_left (s : State) (id : BitVec 16) :
    contextAt (cxDone (withoutContext s id) 0) id = none ∧ ∀ c, (cxDone (withoutContext s id) 0).cellAt c = s.cellAt c := by
  refine ⟨?_, fun _ => rfl⟩
  refine List.find?_eq_none.2 fun c mem own => ?_
  exact absurd (of_decide_eq_true own) (of_decide_eq_true (List.mem_filter.1 mem).2)

theorem contextDestroy_checked {s : State} (ready : cxReady s 1 = true) (form : fld (cxWord s 0) 16 48 = 0)
    (rest : cxWord s 7 = 0) :
    execContextDestroy s =
      if (contextAt s ((cxWord s 0).extractLsb' 0 16)).isNone then .next (cxDone s 5)
      else if contextUsed s ((cxWord s 0).extractLsb' 0 16) then .next (cxDone s 4)
      else .next (cxDone (withoutContext (dropEverywhere s ((cxWord s 0).extractLsb' 0 16) none)
        ((cxWord s 0).extractLsb' 0 16)) 0) := by
  rw [execContextDestroy, ready, if_neg (by decide), if_neg (not_or.2 ⟨not_not.2 form, not_not.2 rest⟩)]
  rfl

/-- A context that is destroyed is gone, and so are its translations. -/
theorem contextDestroy_drops {s : State} (ready : cxReady s 1 = true) (form : fld (cxWord s 0) 16 48 = 0)
    (rest : cxWord s 7 = 0) (there : ¬ (contextAt s ((cxWord s 0).extractLsb' 0 16)).isNone = true)
    (idle : contextUsed s ((cxWord s 0).extractLsb' 0 16) = false) :
    ∃ t, execContextDestroy s = .next t ∧ contextAt t ((cxWord s 0).extractLsb' 0 16) = none ∧
      ∀ c, ∀ e ∈ (t.cellAt c).tlb, e.ctx ≠ (cxWord s 0).extractLsb' 0 16 := by
  rw [contextDestroy_checked ready form rest, if_neg there, idle, if_neg (by decide)]
  generalize (cxWord s 0).extractLsb' 0 16 = id
  obtain ⟨gone, cells⟩ := withoutContext_left (dropEverywhere s id none) id
  refine ⟨_, rfl, gone, fun c e mem own => ?_⟩
  rw [cells] at mem
  obtain ⟨a, named, -⟩ := dropEverywhere_left mem own
  cases named

/-- CXSTAT of an invalidation that is done: its number above the status. -/
def numberStat (n : Nat) : Word := BitVec.ofNat 64 (n % 2 ^ 32 * 2 ^ 32 + 2)

theorem numberStat_number (n : Nat) : (numberStat n).toNat / 2 ^ 32 = n % 2 ^ 32 := by
  rw [numberStat, BitVec.toNat_ofNat]
  omega

/-- A command that is done, with another CXSTAT. -/
def doneWith (s : State) (stat : Word) : State := { cxDone s 0 with pkg := { (cxDone s 0).pkg with cxStat := stat } }

theorem doneWith_keeps (s : State) (stat : Word) :
    (doneWith s stat).pkg.tlbiNext = s.pkg.tlbiNext ∧ (doneWith s stat).pkg.contexts = s.pkg.contexts ∧
      (doneWith s stat).pkg.tlbis = s.pkg.tlbis ∧ (doneWith s stat).cells = s.cells :=
  ⟨rfl, rfl, rfl, rfl⟩

theorem doneWith_stat (s : State) (stat : Word) : (doneWith s stat).pkg.cxStat = stat := rfl

theorem contextInvalidate_checked {s : State} {whole : Bool} (ready : cxReady s 2 = true) (kind : bit s.pkg.cxCmd 3 = whole)
    (form : fld (cxWord s 0) 16 48 = 0) (high : fld (cxWord s 7) 56 8 = 0) :
    execContextInvalidate whole s =
      if (contextAt s ((cxWord s 0).extractLsb' 0 16)).isNone then .next (cxDone s 5)
      else .next (doneWith (dropEverywhere s ((cxWord s 0).extractLsb' 0 16)
        (if whole then none else some (cxWord s 7).toNat)) (numberStat s.pkg.tlbiNext)) := by
  have go : (!cxReady s 2 || bit s.pkg.cxCmd 3 != whole) = false := by rw [ready, kind, bne_self_eq_false]; rfl
  rw [execContextInvalidate, go, if_neg (by decide), if_neg (not_or.2 ⟨not_not.2 form, not_not.2 high⟩),
    doneWith, numberStat]

/-- An invalidation takes the next number, and the caches lose what it names. -/
theorem contextInvalidate_numbers {s : State} {whole : Bool} (ready : cxReady s 2 = true) (kind : bit s.pkg.cxCmd 3 = whole)
    (form : fld (cxWord s 0) 16 48 = 0) (high : fld (cxWord s 7) 56 8 = 0)
    (there : ¬ (contextAt s ((cxWord s 0).extractLsb' 0 16)).isNone = true) :
    ∃ t : State, execContextInvalidate whole s = .next t ∧ t.pkg.tlbiNext = s.pkg.tlbiNext + 1 ∧ t.pkg.contexts = s.pkg.contexts ∧
      t.pkg.cxStat.toNat / 2 ^ 32 = s.pkg.tlbiNext % 2 ^ 32 ∧
      (∃ x : Tlbi, t.pkg.tlbis = s.pkg.tlbis ++ [x] ∧ x.n = s.pkg.tlbiNext ∧ x.ctx = (cxWord s 0).extractLsb' 0 16 ∧
        x.va = if whole then none else some (cxWord s 7).toNat) ∧
      ∀ c, ∀ e ∈ (t.cellAt c).tlb, e.ctx = (cxWord s 0).extractLsb' 0 16 →
        whole = false ∧ e.va ≠ (cxWord s 7).toNat / leafBytes e.level := by
  rw [contextInvalidate_checked ready kind form high, if_neg there]
  generalize (cxWord s 0).extractLsb' 0 16 = id
  generalize (cxWord s 7).toNat = named
  obtain ⟨x, t, pkg, n, ctx, va⟩ := dropEverywhere_pkg s id (if whole then none else some named)
  have left : ∀ c, ∀ e ∈ ((dropEverywhere s id (if whole then none else some named)).cellAt c).tlb, e.ctx = id →
      whole = false ∧ e.va ≠ named / leafBytes e.level := by
    intro c e mem own
    obtain ⟨a, va, other⟩ := dropEverywhere_left mem own
    cases whole with
    | true => cases va
    | false =>
      cases va
      exact ⟨rfl, other⟩
  generalize dropEverywhere s id (if whole then none else some named) = u at pkg left ⊢
  obtain ⟨next, contexts, tlbis, cells⟩ := doneWith_keeps u (numberStat s.pkg.tlbiNext)
  rw [pkg] at next contexts tlbis
  refine ⟨_, rfl, next, contexts, ?_, ⟨t, tlbis, n, ctx, va⟩, fun c e mem => ?_⟩
  · rw [doneWith_stat, numberStat_number]
  · rw [State.cellAt, cells] at mem
    exact left c e mem

theorem contextInvalidate_idle {s : State} (whole : Bool) (idle : cxReady s 2 = false) :
    execContextInvalidate whole s = .next s := by
  rw [execContextInvalidate, idle]
  rfl

/-! ### Set pool -/

/-- A context, with the pool of the descriptor where that names it. -/
def describedPool (s : State) (c : Context) : Context :=
  if c.id = (cxWord s 0).extractLsb' 0 16 then { c with pool := (cxWord s 5).toNat, poolN := fld (cxWord s 6) 0 32 } else c

theorem describedPool_named {s : State} {c : Context} (named : (describedPool s c).id = (cxWord s 0).extractLsb' 0 16) :
    (describedPool s c).pool = (cxWord s 5).toNat ∧ (describedPool s c).poolN = (cxWord s 6).toNat % 2 ^ 32 := by
  unfold describedPool at named ⊢
  split
  · exact ⟨rfl, fld_zero _ 32⟩
  · next other => exact absurd (by rwa [if_neg other] at named) other

theorem contextSetPool_checked {s : State} (ready : cxReady s 3 = true) (form : fld (cxWord s 0) 16 48 = 0)
    (pool : fld (cxWord s 5) 56 8 = 0) (size : fld (cxWord s 6) 32 32 = 0) (rest : cxWord s 7 = 0)
    (aligned : (cxWord s 5).toNat % 8 = 0) (there : hbmAddr s (cxWord s 5).toNat 8 = true) :
    execContextSetPool s =
      if (contextAt s ((cxWord s 0).extractLsb' 0 16)).isNone then .next (cxDone s 5)
      else .next (cxDone { s with pkg := { s.pkg with contexts := s.pkg.contexts.map (describedPool s) } } 0) := by
  rw [execContextSetPool, ready, if_neg (by decide), there, if_neg (by simp [form, pool, size, rest, aligned]), if_neg (by decide)]
  rfl

/-! ### QUIESCE (R224) -/

theorem any_cells (s : State) (p : Cell → Bool) : s.cells.toList.any p = true ↔ ∃ c, p (s.cellAt c) = true := by
  rw [List.any_eq_true]
  constructor
  · rintro ⟨x, mem, holds⟩
    obtain ⟨i, lt, rfl⟩ := Vector.mem_iff_getElem.1 (Vector.mem_toList_iff.1 mem)
    exact ⟨BitVec.ofNat 9 i, by simpa [State.cellAt, Reg.rd, Nat.mod_eq_of_lt (show i < 512 from lt)] using holds⟩
  · rintro ⟨c, holds⟩
    exact ⟨_, Vector.mem_toList_iff.2 (Vector.getElem_mem c.isLt), holds⟩

/-- An access that was translated before a TLBI has still to be performed. -/
def shootHeld (s : State) (x : Shoot) : Bool :=
  s.cells.toList.any (olderAccess x.first) || s.tasks.saved.any fun y => olderAccess x.first y.image

theorem shootHeld_of_cell {s : State} {x : Shoot} {c : BitVec 9} (older : olderAccess x.first (s.cellAt c) = true) :
    shootHeld s x = true := by
  rw [shootHeld, (any_cells s _).2 ⟨c, older⟩, Bool.true_or]

theorem shootHeld_none {s : State} {x : Shoot} (cells : ∀ c, olderAccess x.first (s.cellAt c) = false)
    (saved : ∀ y ∈ s.tasks.saved, olderAccess x.first y.image = false) : shootHeld s x = false := by
  rw [shootHeld, Bool.or_eq_false_iff]
  refine ⟨Bool.eq_false_iff.2 fun some_ => ?_, List.any_eq_false.2 fun y mem => Bool.eq_false_iff.1 (saved y mem)⟩
  obtain ⟨c, older⟩ := (any_cells s _).1 some_
  exact absurd (cells c) (Bool.eq_false_iff.not.2 (not_not.2 older))

/-- The oldest TLBI in effect everywhere. -/
def quiesced (s : State) (x : Shoot) (rest : List Shoot) : State :=
  { s with cells := s.cells.map (tlbDrop x.ctx x.va), pkg := { s.pkg with quiesce := x.n, shoots := rest } }

theorem quiesced_cell (s : State) (x : Shoot) (rest : List Shoot) (c : BitVec 9) :
    (quiesced s x rest).cellAt c = tlbDrop x.ctx x.va (s.cellAt c) := Reg.rd_map _ _ c

theorem quiesceAdvance_eq {s : State} {x : Shoot} {rest : List Shoot} (oldest : s.pkg.shoots = x :: rest) :
    execQuiesceAdvance s =
      if shootHeld s x then .next s else .next (quiesced s x rest) := by
  rw [execQuiesceAdvance, oldest]
  rfl

/-! ### The quarantine (R225) -/

theorem unmaps_iff (q : Freed) (t : Tlbi) :
    unmaps q t = true ↔ t.ctx = q.ctx ∧ (∀ va, t.va = some va → va / 65536 = q.va / 65536) ∧
      ∀ l ∈ t.still, ¬ (l.va ≤ q.va ∧ q.va < l.va + l.size ∧ l.pa + (q.va - l.va) = q.pa) := by
  cases e : t.va <;> simp [unmaps, Leaf.holds, e, and_assoc]

/-- The page may be reused: the first TLBI from its number on that unmapped it is at QUIESCE or before. -/
theorem releasable_iff (s : State) (q : Freed) :
    releasable s q = true ↔ ∃ a t b, s.pkg.tlbis = a ++ t :: b ∧ q.since ≤ t.n ∧ t.n ≤ s.pkg.quiesce ∧ unmaps q t = true ∧
      ∀ x ∈ a, q.since ≤ x.n → ¬ unmaps q x = true := by
  have first : ∀ t, s.pkg.tlbis.find? (fun t => decide (q.since ≤ t.n) && unmaps q t) = some t ↔
      (q.since ≤ t.n ∧ unmaps q t = true) ∧ ∃ a b, s.pkg.tlbis = a ++ t :: b ∧
        ∀ x ∈ a, q.since ≤ x.n → ¬ unmaps q x = true := fun t => by
    simp [List.find?_eq_some_iff_append, Classical.or_iff_not_imp_left]
  unfold releasable unmapping
  constructor
  · intro free
    cases found : s.pkg.tlbis.find? (fun t => decide (q.since ≤ t.n) && unmaps q t) with
    | none => simp [found] at free
    | some t =>
      obtain ⟨⟨since, gone⟩, a, b, split, earlier⟩ := (first t).1 found
      exact ⟨a, t, b, split, since, by simpa [found] using free, gone, earlier⟩
  · rintro ⟨a, t, b, split, since, reached, gone, earlier⟩
    rw [(first t).2 ⟨⟨since, gone⟩, a, b, split, earlier⟩]
    exact decide_eq_true reached

theorem quarantineRelease_releases {s : State} {a b : List Freed} {q : Freed} (split : s.pkg.quarantine = a ++ q :: b)
    (free : releasable s q = true) (earlier : ∀ x ∈ a, ¬ releasable s x = true) :
    execQuarantineRelease s = .next { s with pkg := { s.pkg with quarantine := a ++ b } } := by
  have found : s.pkg.quarantine.find? (releasable s) = some q :=
    List.find?_eq_some_iff_append.2 ⟨free, a, b, split, fun x mem => by simpa using earlier x mem⟩
  have fresh : q ∉ a := fun mem => earlier q mem free
  rw [execQuarantineRelease, found]
  dsimp only
  rw [split, List.erase_append_right _ fresh, List.erase_cons_head]

theorem quarantineRelease_waits {s : State} (none_ : ∀ q ∈ s.pkg.quarantine, ¬ releasable s q = true) :
    execQuarantineRelease s = .next s := by
  rw [execQuarantineRelease, List.find?_eq_none.2 none_]

/-! ### The statement -/

/-- Settles O44: each command by its checks, QUIESCE by the accesses that it waits for, the quarantine by its first free page. -/
theorem contextsComplete : Obligations.ContextsComplete := by
  unfold Obligations.ContextsComplete
  intro s w id form rejected
  have absent {i : BitVec 16} (e : contextAt s i = none) : (contextAt s i).isNone = true := by rw [e]; rfl
  have present {i : BitVec 16} (e : contextAt s i ≠ none) : ¬ (contextAt s i).isNone = true := by simpa using e
  refine ⟨fun ready => ⟨?_, fun good => ?_⟩, fun ready ok rest => ⟨fun none_ => ?_, fun there used => ?_, fun there idle => ?_⟩,
    fun whole ready kind ok high there => ?_, fun whole ready kind ok high none_ => ?_,
    fun ready ok pool size rest aligned hbm => ⟨fun none_ => ?_, fun there => ?_⟩, fun code high ready => ?_, fun idle => ?_,
    fun idle => ?_, fun whole idle => contextInvalidate_idle whole idle, fun idle => ?_, fun code idle => ?_, fun empty => ?_,
    fun x rest oldest => ⟨fun cells saved => ?_, ?_⟩, ?_⟩
  · rintro n rfl bad
    rw [exec_contextCreate, contextCreate_rejects ready bad]
    exact cxDone_rejected s bad (createReason_lt s)
  · refine ⟨_, describedContext s, contextCreate_creates ready good, rfl, rfl, rfl, rfl, rfl,
      congrArg List.range (fld_eq _ 32 16), rfl, cxDone_done _⟩
  · rw [exec_contextDestroy, contextDestroy_checked ready ok rest, if_pos (absent none_)]
    exact cxDone_rejected s (by decide) (by decide)
  · rw [exec_contextDestroy, contextDestroy_checked ready ok rest, if_neg (present there), if_pos used]
    exact cxDone_rejected s (by decide) (by decide)
  · exact contextDestroy_drops ready ok rest (present there) idle
  · exact contextInvalidate_numbers ready kind ok high (present there)
  · rw [exec_contextInvalidate, contextInvalidate_checked ready kind ok high, if_pos (absent none_)]
    exact cxDone_rejected s (by decide) (by decide)
  · rw [exec_contextSetPool, contextSetPool_checked ready ok pool size rest aligned hbm, if_pos (absent none_)]
    exact cxDone_rejected s (by decide) (by decide)
  · rw [exec_contextSetPool, contextSetPool_checked ready ok pool size rest aligned hbm, if_neg (present there)]
    refine ⟨_, rfl, fun c mem own => ?_⟩
    obtain ⟨old, -, rfl⟩ := List.mem_map.1 mem
    exact describedPool_named own
  · rw [exec_contextBadCommand, execContextBadCommand, if_pos ⟨high, ready⟩]
    exact cxDone_rejected s (by decide) (by decide)
  · rw [exec_contextCreate, execContextCreate, idle]
    rfl
  · rw [exec_contextDestroy, execContextDestroy, idle]
    rfl
  · rw [exec_contextSetPool, execContextSetPool, idle]
    rfl
  · rw [exec_contextBadCommand, execContextBadCommand, idle, if_neg (fun both => Bool.noConfusion both.2)]
  · rw [exec_quiesceAdvance, execQuiesceAdvance, empty]
  · rw [exec_quiesceAdvance, quiesceAdvance_eq oldest, shootHeld_none cells saved, if_neg (by decide)]
    refine ⟨_, rfl, rfl, rfl, fun c e mem all own => ?_⟩
    rw [quiesced_cell] at mem
    obtain ⟨a, named, -⟩ := tlbDrop_left mem own
    rw [all] at named
    cases named
  · rintro ⟨c, older⟩
    rw [exec_quiesceAdvance, quiesceAdvance_eq oldest, if_pos (shootHeld_of_cell older)]
  · intro maps unmaps_ free
    have free_iff (q : Freed) : releasable s q = true ↔ free q := by
      simp only [releasable_iff, unmaps_iff, free, unmaps_, maps]
    refine ⟨fun a q b split ok earlier => ⟨_, quarantineRelease_releases split ((free_iff q).2 ok) fun x mem now =>
      earlier x mem ((free_iff x).1 now), rfl, rfl, rfl⟩, fun none_ => quarantineRelease_waits fun q mem now =>
      none_ q mem ((free_iff q).1 now)⟩

end Sys2Proof.Machine
end

section
/-! PROOF of O45: the snapshot and the draft entry of a round (R225 to R229, R232). -/

namespace Sys2Proof.Machine

/-! ### What the end of a command leaves as it is (R188, R311) -/

/-- What neither the cells and tasks nor the reports, commands and channels change. -/
structure CmdBlind {γ : Type} (f : State → γ) : Prop where
  cells : ∀ s x, f { s with cells := x } = f s
  tasks : ∀ s x, f { s with tasks := x } = f s
  report : ∀ s r, f (s.report r) = f s
  cmds : ∀ s x, f { s with cmds := x } = f s
  chans : ∀ s x, f { s with chans := x } = f s

section
variable {γ : Type} {f : State → γ} (blind : CmdBlind f)
include blind

theorem CmdBlind.countAt (s : State) (c : BitVec 9) (ev : BitVec 8) : f (s.countAt c ev) = f s := by
  unfold State.countAt
  dsimp only
  split
  · exact (blind.report _ _).trans (blind.cells _ _)
  · exact blind.cells _ _

theorem CmdBlind.countTask (s : State) (gang : Nat) (gmem : BitVec 6) (ev : BitVec 8) : f (countTask s gang gmem ev) = f s := by
  unfold Machine.countTask
  split
  · exact blind.countAt s _ ev
  · split
    · rfl
    · dsimp only
      split
      · exact (blind.report _ _).trans (blind.tasks _ _)
      · exact blind.tasks _ _

theorem CmdBlind.taskLands (s : State) (x : Cmd) (lands : List Land) : f (taskLands s x lands) = f s := by
  unfold Machine.taskLands
  split
  · exact blind.cells _ _
  · exact blind.tasks _ _

theorem CmdBlind.onTask (s : State) (gang : Nat) (gmem : BitVec 6) (g : Cell → Cell) : f (onTask s gang gmem g) = f s := by
  unfold Machine.onTask
  split
  · exact blind.cells _ _
  · exact blind.tasks _ _

theorem CmdBlind.dropCmd (s : State) (id : Nat) : f (dropCmd s id) = f s := (blind.chans _ _).trans (blind.cmds _ _)

theorem CmdBlind.cmdDone (s : State) (x : Cmd) (ev : BitVec 8) (lands : List Land) : f (cmdDone s x ev lands) = f s := by
  unfold Machine.cmdDone
  rw [blind.onTask, blind.taskLands, blind.countTask, blind.dropCmd]

/-- The QVERs that wait for a round change the commands and the brood table. -/
theorem CmdBlind.rebind (brood : ∀ s x, f { s with brood := x } = f s) (s : State) (i : Nat) : f (rebind s i) = f s := by
  refine foldl_keeps f (fun t y => ?_) _ s
  split
  · rfl
  · split
    · exact (blind.cmdDone _ _ _ _).trans (brood _ _)
    · exact brood _ _

end

theorem cmdBlind_brood : CmdBlind State.brood := ⟨fun _ _ => rfl, fun _ _ => rfl, fun _ _ => rfl, fun _ _ => rfl, fun _ _ => rfl⟩

/-! ### The translation tables of a machine (R217, R225) -/

/-- What says which pages the tables map and which TLBIs there were. -/
def tablesOf (s : State) : Mem × Nat × List Context × BitVec 4 × Bool × List Tlbi × Nat :=
  (s.mem, s.steps, s.pkg.contexts, s.pkg.frames, s.pkg.scout, s.pkg.tlbis, s.pkg.tlbiNext)

theorem cmdBlind_tables : CmdBlind tablesOf := ⟨fun _ _ => rfl, fun _ _ => rfl, fun _ _ => rfl, fun _ _ => rfl, fun _ _ => rfl⟩

section
variable {s t : State} (same : tablesOf t = tablesOf s)
include same

theorem mem_of_tables : t.mem = s.mem := congrArg (·.1) same

theorem paCheck_of_tables (pa size : Nat) : paCheck t pa size = paCheck s pa size := by
  have frames : t.pkg.frames = s.pkg.frames := congrArg (·.2.2.2.1) same
  have scout : t.pkg.scout = s.pkg.scout := congrArg (·.2.2.2.2.1) same
  rw [paCheck, paCheck, frames, scout]

theorem walk_of_tables (va fuel level table : Nat) : walk t va fuel level table = walk s va fuel level table := by
  induction fuel generalizing level table with
  | zero => rfl
  | succ n ih => simp only [walk, mem_of_tables same, paCheck_of_tables same, ih]

theorem leavesOf_of_tables (fuel level va table : Nat) : leavesOf t fuel level va table = leavesOf s fuel level va table := by
  induction fuel generalizing level va table with
  | zero => rfl
  | succ n ih => simp only [leavesOf, tableEntries, mem_of_tables same, ih]

theorem stillMapped_of_tables (ctx : BitVec 16) (va : Option Nat) : stillMapped t ctx va = stillMapped s ctx va := by
  have contexts : t.pkg.contexts = s.pkg.contexts := congrArg (·.2.2.1) same
  have root : rootOf t ctx = rootOf s ctx := by rw [rootOf, rootOf, contexts]
  unfold stillMapped
  rw [root]
  cases rootOf s ctx with
  | none => rfl
  | some r =>
    cases va with
    | none => exact leavesOf_of_tables same _ _ _ _
    | some a => simp only [walk_of_tables same]

theorem kvFreed_of_tables (i : Nat) (sl : Slot) : kvFreed t i sl = kvFreed s i sl := by
  have steps : t.steps = s.steps := congrArg (·.2.1) same
  have tlbis : t.pkg.tlbis = s.pkg.tlbis := congrArg (·.2.2.2.2.2.1) same
  have next : t.pkg.tlbiNext = s.pkg.tlbiNext := congrArg (·.2.2.2.2.2.2) same
  simp only [kvFreed, freedSince, steps, tlbis, next, stillMapped_of_tables same]

end

/-! ### Fields of a slot (R227) -/

theorem Slot.f_put_same (sl : Slot) (id : Nat) (v : Word) : (sl.put id v).f id = v &&& fieldMask id := Reg.rd_wr_same _ _ _

theorem Slot.f_put_other (sl : Slot) {id j : Nat} (v : Word) (hid : id < 32) (hj : j < 32) (ne : j ≠ id) :
    (sl.put id v).f j = sl.f j := by
  refine Reg.rd_wr_other _ _ fun e => ne ?_
  have at_ := congrArg BitVec.toNat e
  rwa [BitVec.toNat_ofNat, BitVec.toNat_ofNat, Nat.mod_eq_of_lt hj, Nat.mod_eq_of_lt hid] at at_

/-- Fields put one after another from the shadow half. -/
theorem Slot.f_putShadow (l : List Nat) (sl : Slot) {j : Nat} (hl : ∀ f ∈ l, f < 32) (hj : j < 32) :
    let y := l.foldl (fun y f => y.put f (y.shadow.rd (BitVec.ofNat 5 f))) sl
    y.f j = (if j ∈ l then sl.shadow.rd (BitVec.ofNat 5 j) &&& fieldMask j else sl.f j) ∧ y = { sl with live := y.live } := by
  induction l generalizing sl with
  | nil => exact ⟨rfl, rfl⟩
  | cons g r ih =>
    obtain ⟨hg, hr⟩ := List.forall_mem_cons.1 hl
    obtain ⟨field, frame⟩ := ih (sl.put g (sl.shadow.rd (BitVec.ofNat 5 g))) hr
    refine ⟨field.trans ?_, frame⟩
    by_cases mem : j ∈ r
    · rw [if_pos mem, if_pos (List.mem_cons_of_mem g mem)]
      rfl
    · rw [if_neg mem]
      by_cases e : j = g
      · rw [if_pos (e ▸ List.mem_cons_self), e]
        exact Slot.f_put_same _ _ _
      · rw [if_neg (List.not_mem_cons_of_ne_of_not_mem e mem)]
        exact Slot.f_put_other sl _ hg hj e

/-- What the host may write, STATE apart, comes from the shadow half; the other fields stay (R228). -/
theorem latchFields_f (sl : Slot) {j : Nat} (hj : j < 25) :
    (latchFields sl).f j = if hostField j = true ∧ j ≠ 0 then sl.shadow.rd (BitVec.ofNat 5 j) &&& fieldMask j else sl.f j := by
  have small : ∀ f ∈ (List.range 25).filter fun f => hostField f && decide (f ≠ 0), f < 32 := fun f mem =>
    Nat.lt_trans (List.mem_range.1 (List.mem_filter.1 mem).1) (by decide)
  refine (Slot.f_putShadow _ { sl with commit := false } small (Nat.lt_trans hj (by decide))).1.trans ?_
  simp only [List.mem_filter, List.mem_range, hj, true_and, Bool.and_eq_true, decide_eq_true_eq]
  rfl

theorem latchFields_frame (sl : Slot) : latchFields sl = { sl with commit := false, live := (latchFields sl).live } :=
  (Slot.f_putShadow ((List.range 25).filter fun f => hostField f && decide (f ≠ 0)) { sl with commit := false } (j := 0)
    (fun f mem => Nat.lt_trans (List.mem_range.1 (List.mem_filter.1 mem).1) (by decide)) (by decide)).2

/-! ### A slot that is admitted or retires (R229) -/

/-- The fields that the host may write, STATE apart, are none of those that admission and retirement set. -/
theorem hostField_ne {f : Nat} (host : hostField f = true) : f ≠ 1 ∧ f ≠ 9 ∧ f ≠ 10 ∧ f ≠ 11 := by
  refine ⟨?_, ?_, ?_, ?_⟩ <;>
  · rintro rfl
    exact absurd host (by decide)

/-- A state written by its number. -/
theorem state_putNat (sl : Slot) {n : Nat} (small : n < 256) : (sl.putNat 0 n).state = n := by
  rw [Slot.state, Slot.putNat, Slot.f_put_same, fld_zero, BitVec.toNat_and, BitVec.toNat_ofNat]
  have mask : (fieldMask 0).toNat % 2 ^ 8 = 2 ^ 8 - 1 := by decide
  rw [Nat.and_mod_two_pow, mask, Nat.and_two_pow_sub_one_eq_mod]
  omega

/-- The next generation, which skips 0 (R229). -/
def nextGen (g : Nat) : Nat := if g + 1 = 2 ^ 32 then 1 else g + 1

theorem gen_putNat (sl : Slot) {g : Nat} (small : g < 2 ^ 32) : (sl.putNat 1 g).gen = g := by
  have mask : (fieldMask 1).toNat = 2 ^ 32 - 1 := by decide
  rw [Slot.gen, Slot.putNat, Slot.f_put_same, BitVec.toNat_and, BitVec.toNat_ofNat, mask, Nat.and_two_pow_sub_one_eq_mod]
  omega

theorem nextGen_lt {g : Nat} (small : g < 2 ^ 32) : nextGen g < 2 ^ 32 := by
  unfold nextGen
  split <;> omega

theorem retire_f (s : State) (old sl : Slot) {j : Nat} (hj : j < 32) (ne : j ≠ 1) : (retire s old sl).f j = sl.f j :=
  Slot.f_put_other sl _ (by decide) hj ne

theorem retire_gen (s : State) (old sl : Slot) (small : sl.gen < 2 ^ 32) : (retire s old sl).gen = nextGen sl.gen :=
  gen_putNat sl (nextGen_lt small)

theorem retire_commit (s : State) (old sl : Slot) : (retire s old sl).commit = sl.commit := rfl

theorem admitRound_f (s : State) (sl : Slot) {j : Nat} (hj : j < 32) (ne : j ≠ 0 ∧ j ≠ 9 ∧ j ≠ 10 ∧ j ≠ 11) :
    (admitRound s sl).f j = sl.f j := by
  obtain ⟨n0, n9, n10, n11⟩ := ne
  have put : ∀ (x : Slot) {id : Nat}, id < 32 → j ≠ id → (x.putNat id 0).f j = x.f j := fun x _ hid e =>
    Slot.f_put_other x _ hid hj e
  exact (put _ (by decide) n10).trans ((put _ (by decide) n11).trans ((put _ (by decide) n9).trans
    (Slot.f_put_other sl _ (by decide) hj n0)))

theorem admitRound_state (s : State) (sl : Slot) : (admitRound s sl).state = 1 := by
  have put : ∀ (x : Slot) {id : Nat}, id < 32 → 0 ≠ id → (x.putNat id 0).f 0 = x.f 0 := fun x _ hid e =>
    Slot.f_put_other x _ hid (by decide) e
  have field : (admitRound s sl).f 0 = (sl.putNat 0 sAdmit).f 0 :=
    (put _ (by decide) (by decide)).trans ((put _ (by decide) (by decide)).trans (put _ (by decide) (by decide)))
  rw [Slot.state, field]
  exact state_putNat sl (by decide)

theorem admitRound_len (s : State) (sl : Slot) : (admitRound s sl).len = 0 := by
  have put : ∀ (x : Slot) {id : Nat}, id < 32 → 9 ≠ id → (x.putNat id 0).f 9 = x.f 9 := fun x _ hid e =>
    Slot.f_put_other x _ hid (by decide) e
  have field : (admitRound s sl).f 9 = ((sl.putNat 0 sAdmit).putNat 9 0).f 9 :=
    (put _ (by decide) (by decide)).trans (put _ (by decide) (by decide))
  rw [Slot.len, field, Slot.putNat, Slot.f_put_same]
  decide

theorem putNat_commit (sl : Slot) (id v : Nat) : (sl.putNat id v).commit = sl.commit := rfl

theorem admitRound_commit (s : State) (sl : Slot) : (admitRound s sl).commit = sl.commit := rfl

theorem admitRound_gen (s : State) (sl : Slot) : (admitRound s sl).gen = sl.gen :=
  congrArg BitVec.toNat (admitRound_f s sl (by decide) (by decide))

/-! ### A slot at the snapshot (R228, R229) -/

/-- The state that the shadow half asks for. -/
def goalState (sl : Slot) : Nat := (sl.shadow.rd 0).toNat % 256

/-- The snapshot retires the slot. -/
def retires (sl : Slot) : Bool :=
  (decide (sl.state ≠ 0) && decide (goalState sl = 0)) ||
    ((decide (sl.state = 3) || decide (sl.state = 4)) && decide (goalState sl = 1))

/-- A committed slot after the snapshot, its waiting QVERs apart. -/
def snapshotOf (s : State) (old : Slot) : Slot :=
  if old.state = 0 ∧ goalState old = 1 then admitRound s (latchFields old)
  else if old.state ≠ 0 ∧ goalState old = 0 then (retire s old (latchFields old)).putNat 0 sFree
  else if (old.state = 3 ∨ old.state = 4) ∧ goalState old = 1 then admitRound s (retire s old (latchFields old))
  else latchFields old

theorem latchFields_state (sl : Slot) : (latchFields sl).state = sl.state :=
  congrArg (fun w : Word => fld w 0 8) ((latchFields_f sl (by decide)).trans (if_neg fun h => h.2 rfl))

theorem latchFields_gen (sl : Slot) : (latchFields sl).gen = sl.gen :=
  congrArg BitVec.toNat ((latchFields_f sl (by decide)).trans (if_neg fun h => absurd h.1 (by decide)))

theorem latchFields_goal (sl : Slot) : fld ((latchFields sl).shadow.rd 0) 0 8 = goalState sl := by
  rw [fld_zero, latchFields_frame]
  rfl

theorem retires_iff (sl : Slot) :
    retires sl = true ↔ (sl.state ≠ 0 ∧ goalState sl = 0) ∨ ((sl.state = 3 ∨ sl.state = 4) ∧ goalState sl = 1) := by
  simp [retires]

/-- One committed slot: what retires leaves its pages, and its waiting QVERs are looked at again. -/
theorem snapshotSlot_eq (s : State) (i : Nat) :
    snapshotSlot s i =
      if retires (s.slot i) = true then
        rebind (quarantine (s.setSlot i (snapshotOf s (s.slot i))) (windowFreed (s.slot i) ++ kvFreed s i (s.slot i))) i
      else s.setSlot i (snapshotOf s (s.slot i)) := by
  unfold snapshotSlot
  simp only [latchFields_state, latchFields_goal, retires_iff, snapshotOf, sFree, sAdmit, sDone, sError]
  generalize (s.slot i).state = st
  generalize goalState (s.slot i) = goal
  by_cases anew : st = 0 ∧ goal = 1
  · obtain ⟨rfl, rfl⟩ := anew
    rfl
  · by_cases free : st ≠ 0 ∧ goal = 0
    · simp only [if_neg anew, if_pos free, if_pos (Or.inl free)]
    · by_cases again : (st = 3 ∨ st = 4) ∧ goal = 1
      · simp only [if_neg anew, if_neg free, if_pos again, if_pos (Or.inr again)]
      · simp only [if_neg anew, if_neg free, if_neg again, if_neg (not_or.2 ⟨free, again⟩)]

theorem snapshotOf_commit (s : State) (old : Slot) : (snapshotOf s old).commit = false := by
  have latched : (latchFields old).commit = false := congrArg Slot.commit (latchFields_frame old)
  unfold snapshotOf
  split_ifs
  · exact (admitRound_commit s _).trans latched
  · exact (putNat_commit _ 0 _).trans ((retire_commit s old _).trans latched)
  · exact (admitRound_commit s _).trans ((retire_commit s old _).trans latched)
  · exact latched

/-- Every field that the host may write, STATE apart, is the shadow's after the snapshot (R228). -/
theorem snapshotOf_host (s : State) (old : Slot) {f : Nat} (small : f < 25) (host : hostField f = true) (ne : f ≠ 0) :
    (snapshotOf s old).f f = old.shadow.rd (BitVec.ofNat 5 f) &&& fieldMask f := by
  have latched : (latchFields old).f f = _ := (latchFields_f old small).trans (if_pos ⟨host, ne⟩)
  have small' : f < 32 := Nat.lt_trans small (by decide)
  obtain ⟨n1, n9, n10, n11⟩ := hostField_ne host
  have others := And.intro ne (And.intro n9 (And.intro n10 n11))
  have retired := retire_f s old (latchFields old) small' n1
  unfold snapshotOf
  split_ifs
  · exact (admitRound_f s _ small' others).trans latched
  · exact (Slot.f_put_other _ _ (by decide) small' ne).trans (retired.trans latched)
  · exact (admitRound_f s _ small' others).trans (retired.trans latched)
  · exact latched

/-- A free slot is admitted, and keeps its generation. -/
theorem snapshotOf_admits (s : State) {old : Slot} (free : old.state = 0) (goal : goalState old = 1) :
    (snapshotOf s old).state = 1 ∧ (snapshotOf s old).gen = old.gen ∧ (snapshotOf s old).len = 0 := by
  rw [snapshotOf, if_pos ⟨free, goal⟩]
  exact ⟨admitRound_state s _, (admitRound_gen s _).trans (latchFields_gen old), admitRound_len s _⟩

theorem retired_gen (s : State) {old : Slot} (small : old.gen < 2 ^ 32) :
    (retire s old (latchFields old)).gen = nextGen old.gen := by
  have latched := latchFields_gen old
  rw [retire_gen s old _ (by rwa [latched]), latched]

/-- A slot is freed under the next generation, without its window and its record. -/
theorem snapshotOf_frees (s : State) {old : Slot} (used : old.state ≠ 0) (goal : goalState old = 0) (small : old.gen < 2 ^ 32) :
    (snapshotOf s old).state = 0 ∧ (snapshotOf s old).gen = nextGen old.gen ∧ (snapshotOf s old).window = none ∧
      (snapshotOf s old).record = Reg.fill 0 := by
  rw [snapshotOf, if_neg (fun h => used h.1), if_pos ⟨used, goal⟩]
  refine ⟨state_putNat _ (by decide), ?_, rfl, rfl⟩
  exact (congrArg BitVec.toNat (Slot.f_put_other _ _ (by decide) (by decide) (by decide))).trans (retired_gen s small)

/-- A finished slot is admitted anew, under the next generation. -/
theorem snapshotOf_readmits (s : State) {old : Slot} (ended : old.state = 3 ∨ old.state = 4) (goal : goalState old = 1)
    (small : old.gen < 2 ^ 32) :
    (snapshotOf s old).state = 1 ∧ (snapshotOf s old).gen = nextGen old.gen ∧ (snapshotOf s old).len = 0 := by
  rw [snapshotOf, if_neg (by omega), if_neg (by omega), if_pos ⟨ended, goal⟩]
  exact ⟨admitRound_state s _, (admitRound_gen s _).trans (retired_gen s small), admitRound_len s _⟩

theorem snapshotOf_stays (s : State) {old : Slot} (keeps : retires old = false) (other : ¬ (old.state = 0 ∧ goalState old = 1)) :
    (snapshotOf s old).state = old.state ∧ (snapshotOf s old).gen = old.gen := by
  obtain ⟨frees, readmits⟩ := not_or.1 ((retires_iff old).not.1 (Bool.eq_false_iff.1 keeps))
  rw [snapshotOf, if_neg other, if_neg frees, if_neg readmits]
  exact ⟨latchFields_state old, latchFields_gen old⟩

/-! ### The committed slots one after another -/

/-- A slot whose round has another QVER bound, or none. -/
def Slot.withQver (sl : Slot) (q : Option Nat) : Slot := { sl with round := { sl.round with qver := q } }

/-- Looking at the waiting QVERs again may bind one to the slot's round, and touches no other slot (R409). -/
theorem rebind_slots (s : State) (i : Nat) :
    (∃ q, (rebind s i).slot i = (s.slot i).withQver q) ∧ ∀ j, j ≠ i → (rebind s i).slot j = s.slot j := by
  refine List.foldlRecOn (motive := fun t : State => (∃ q, t.slot i = (s.slot i).withQver q) ∧ ∀ j, j ≠ i → t.slot j = s.slot j) _ _
    ⟨⟨(s.slot i).round.qver, rfl⟩, fun _ _ => rfl⟩ ?_
  rintro t ⟨⟨q, own⟩, others⟩ y -
  split
  · exact ⟨⟨q, own⟩, others⟩
  · split
    · have kept : (cmdDone (countStale t) y 0 []).brood = (countStale t).brood := cmdBlind_brood.cmdDone _ _ _ _
      have slots (j : Nat) : (cmdDone (countStale t) y 0 []).slot j = t.slot j :=
        (congrArg (fun b : Brood => b.slots.get Slot.reset j) kept).trans rfl
      exact ⟨⟨q, (slots i).trans own⟩, fun j e => (slots j).trans (others j e)⟩
    · refine ⟨⟨some y.id, (State.slot_setSlot _ _ _).trans ?_⟩, fun j e => (State.slot_setSlot_other _ _ e).trans (others j e)⟩
      rw [own]
      rfl

theorem snapshotSlot_other (s : State) {i j : Nat} (e : j ≠ i) : (snapshotSlot s i).slot j = s.slot j := by
  rw [snapshotSlot_eq]
  split
  · exact ((rebind_slots _ i).2 j e).trans (State.slot_setSlot_other s _ e)
  · exact State.slot_setSlot_other s _ e

theorem snapshotSlot_own (s : State) (i : Nat) : ∃ q, (snapshotSlot s i).slot i = (snapshotOf s (s.slot i)).withQver q := by
  rw [snapshotSlot_eq]
  split
  · obtain ⟨q, own⟩ := (rebind_slots (quarantine (s.setSlot i (snapshotOf s (s.slot i)))
      (windowFreed (s.slot i) ++ kvFreed s i (s.slot i))) i).1
    refine ⟨q, own.trans (congrArg (Slot.withQver · q) ?_)⟩
    exact State.slot_setSlot s i _
  · exact ⟨_, State.slot_setSlot s i _⟩

/-- The pages that a committed slot gives up. -/
def freedAt (s : State) (i : Nat) : List Freed :=
  if retires (s.slot i) = true then windowFreed (s.slot i) ++ kvFreed s i (s.slot i) else []

theorem cmdBlind_quarantine : CmdBlind fun s : State => s.pkg.quarantine :=
  ⟨fun _ _ => rfl, fun _ _ => rfl, fun _ _ => rfl, fun _ _ => rfl, fun _ _ => rfl⟩

theorem snapshotSlot_quarantine (s : State) (i : Nat) :
    (snapshotSlot s i).pkg.quarantine = s.pkg.quarantine ++ freedAt s i := by
  rw [snapshotSlot_eq, freedAt]
  split
  · exact cmdBlind_quarantine.rebind (fun _ _ => rfl) _ i
  · exact (List.append_nil _).symm

theorem snapshotSlot_tables (s : State) (i : Nat) : tablesOf (snapshotSlot s i) = tablesOf s := by
  rw [snapshotSlot_eq]
  split
  · exact cmdBlind_tables.rebind (fun _ _ => rfl) _ i
  · rfl

theorem snapshots_other (is : List Nat) (s : State) {j : Nat} (out : j ∉ is) : (is.foldl snapshotSlot s).slot j = s.slot j := by
  induction is generalizing s with
  | nil => rfl
  | cons i r ih =>
    obtain ⟨ne, rest⟩ := List.ne_and_not_mem_of_not_mem_cons out
    rw [List.foldl_cons, ih _ rest, snapshotSlot_other s ne]

theorem snapshots_own {is : List Nat} (once : is.Nodup) (s : State) {i : Nat} (mem : i ∈ is) :
    ∃ u q, (is.foldl snapshotSlot s).slot i = (snapshotOf u (s.slot i)).withQver q := by
  induction is generalizing s with
  | nil => cases mem
  | cons k r ih =>
    obtain ⟨fresh, rest⟩ := List.nodup_cons.1 once
    by_cases e : i = k
    · subst e
      obtain ⟨q, own⟩ := snapshotSlot_own s i
      exact ⟨s, q, by rw [List.foldl_cons, snapshots_other r _ fresh, own]⟩
    · rw [List.foldl_cons]
      obtain ⟨u, q, own⟩ := ih rest (snapshotSlot s k) ((List.mem_cons.1 mem).resolve_left e)
      rw [snapshotSlot_other s e] at own
      exact ⟨u, q, own⟩

/-- The pages enter the quarantine slot by slot: no slot's snapshot changes what another gives up. -/
theorem snapshots_quarantine {is : List Nat} (once : is.Nodup) (s : State) :
    (is.foldl snapshotSlot s).pkg.quarantine = s.pkg.quarantine ++ is.flatMap (freedAt s) := by
  induction is generalizing s with
  | nil => exact (List.append_nil _).symm
  | cons k r ih =>
    obtain ⟨fresh, rest⟩ := List.nodup_cons.1 once
    have later : ∀ i ∈ r, freedAt (snapshotSlot s k) i = freedAt s i := fun i mem => by
      have ne : i ≠ k := fun e => fresh (e ▸ mem)
      rw [freedAt, freedAt, snapshotSlot_other s ne, kvFreed_of_tables (snapshotSlot_tables s k)]
    rw [List.foldl_cons, ih rest, snapshotSlot_quarantine, List.flatMap_cons, List.append_assoc, List.flatMap_congr later]

/-! ### The table of the slots -/

/-- In a table that names each slot once, an entry is what its slot reads. -/
theorem slot_of_mem {s : State} {i : Nat} {sl : Slot} (once : (s.brood.slots.map (·.1)).Nodup) (mem : (i, sl) ∈ s.brood.slots) :
    s.slot i = sl := by
  unfold State.slot
  generalize s.brood.slots = m at once mem
  induction m with
  | nil => cases mem
  | cons e r ih =>
    obtain ⟨fresh, rest⟩ := List.nodup_cons.1 once
    rcases List.mem_cons.1 mem with rfl | later
    · exact if_pos rfl
    · have ne : e.1 ≠ i := fun at_ => fresh (List.mem_map.2 ⟨_, later, at_.symm⟩)
      exact (if_neg ne).trans (ih rest later)

/-- The committed slots, in the order of the table. -/
def committedOf (s : State) : List Nat := (s.brood.slots.filter fun e => e.2.commit).map (·.1)

theorem committedOf_nodup {s : State} (once : (s.brood.slots.map (·.1)).Nodup) : (committedOf s).Nodup :=
  once.sublist (List.filter_sublist.map _)

/-- What some entries of a part of a list give is what those entries of the list give. -/
theorem flatMap_filter_and {α β : Type} (p q : α → Bool) (g : α → List β) (l : List α) :
    ((l.filter p).flatMap fun x => if q x = true then g x else []) = (l.filter fun x => p x && q x).flatMap g := by
  induction l with
  | nil => rfl
  | cons x r ih =>
    cases first : p x with
    | false => simp [first, ih]
    | true => cases second : q x <;> simp [first, second, ih]

theorem committedOf_freed {s : State} (once : (s.brood.slots.map (·.1)).Nodup) :
    (committedOf s).flatMap (freedAt s) = (s.brood.slots.filter fun e => e.2.commit && retires e.2).flatMap fun e =>
      windowFreed e.2 ++ kvFreed s e.1 e.2 := by
  rw [committedOf, List.flatMap_map, ← flatMap_filter_and]
  refine List.flatMap_congr fun e mem => ?_
  rw [freedAt, slot_of_mem once (List.mem_filter.1 mem).1]

/-! ### The draft entry of a round (R232) -/

theorem roundDraft_keeps (s : State) (id : Nat) (k : BitVec 4) (e : QEntry) : TasksOnly s (enqueue s id k e) := by
  unfold enqueue
  split
  · rfl
  · exact tasksOnly_setStage _ _ _ _

theorem roundDraft_idle {s : State} {n : BitVec 12}
    (idle : (s.slot n.toNat).round.active = false ∨ (s.slot n.toNat).round.enqueue = false) :
    exec (.roundDraftEnqueue n) s = .next s := by
  have skip : (!(s.slot n.toNat).round.active || !(s.slot n.toNat).round.enqueue) = true := by
    rcases idle with e | e <;> simp [e]
  rw [exec_roundDraftEnqueue, execRoundDraftEnqueue, skip, if_pos rfl]

theorem roundDraft_noStage {s : State} {n : BitVec 12} (off : qnextStages s = none) :
    exec (.roundDraftEnqueue n) s = .next s := by
  rw [exec_roundDraftEnqueue, execRoundDraftEnqueue, off]
  exact ite_self _

/-- The entry that a round's start queues. -/
def draftEntry (s : State) (n : BitVec 12) : QEntry :=
  { ident := BitVec.ofNat 64 ((s.slot n.toNat).gen * 4096 + n.toNat), barrier := false, scope := 10, step := none }

/-- The slot with its draft entry queued. -/
def drafted (s : State) (n : BitVec 12) : State :=
  s.setSlot n.toNat { s.slot n.toNat with round := { (s.slot n.toNat).round with enqueue := false } }

theorem roundDraft_waits {s : State} {n : BitVec 12} (active : (s.slot n.toNat).round.active = true)
    (waits : (s.slot n.toNat).round.enqueue = true) {d v : Nat × BitVec 4 × StageSt} (on : qnextStages s = some (d, v)) :
    exec (.roundDraftEnqueue n) s =
      .next (if queueFull d.2.2 then s else enqueue (drafted s n) d.1 d.2.1 (draftEntry s n)) := by
  rw [exec_roundDraftEnqueue, execRoundDraftEnqueue, active, waits, if_neg (by decide), on]
  dsimp only
  split <;> rfl

theorem roundDraft_queues {s : State} {n : BitVec 12} (active : (s.slot n.toNat).round.active = true)
    (waits : (s.slot n.toNat).round.enqueue = true) {l : Nat} {i : BitVec 4} {q : StageSt} {v : Nat × BitVec 4 × StageSt}
    (on : qnextStages s = some ((l, i, q), v)) (room : q.queue.length < 2 ^ q.hdr.qlog) :
    ∃ t, exec (.roundDraftEnqueue n) s = .next t ∧ (t.slot n.toNat).round.enqueue = false ∧ t.cells = s.cells ∧ t.mem = s.mem ∧
      (stageOf s l i = some q → stageOf t l i =
        some { q with queue := q.queue ++ [{ draftEntry s n with ident := maskIdent q.hdr (draftEntry s n).ident }] }) ∧
      exec (.roundDraftEnqueue n) t = .next t := by
  have notFull : queueFull q = false := decide_eq_false (Nat.not_le.2 room)
  have run := roundDraft_waits active waits on
  rw [notFull, if_neg (by decide)] at run
  have kept := roundDraft_keeps (drafted s n) l i (draftEntry s n)
  have over_ : ((enqueue (drafted s n) l i (draftEntry s n)).slot n.toNat).round.enqueue = false := by
    rw [kept]
    exact congrArg (fun x : Slot => x.round.enqueue) (State.slot_setSlot s n.toNat _)
  refine ⟨_, run, over_, ?_, ?_, fun stage => stageOf_enqueue (s := drafted s n) stage _, roundDraft_idle (.inr over_)⟩
  · rw [kept]
    rfl
  · rw [kept]
    rfl

/-! ### The statement -/

theorem broodSnapshot_eq (s : State) : exec .broodSnapshot s = .next ((committedOf s).foldl snapshotSlot s) := rfl

/-- Settles O45: the snapshot slot by slot, each by what its shadow half asks for; the draft entry by its stage's room. -/
theorem slotStepsComplete : Obligations.SlotStepsComplete := by
  unfold Obligations.SlotStepsComplete
  intro s
  have mem : ((committedOf s).foldl snapshotSlot s).mem = s.mem :=
    mem_of_tables (foldl_keeps tablesOf snapshotSlot_tables (committedOf s) s)
  refine ⟨⟨_, broodSnapshot_eq s, mem, fun i out => snapshots_other _ s out⟩, fun once => ?_, fun n => ⟨fun idle =>
    roundDraft_idle (.inl idle), roundDraft_noStage, fun l i q v active waits on => ⟨fun full => ?_, fun room => ?_⟩⟩⟩
  · have freed := snapshots_quarantine (committedOf_nodup once) s
    rw [committedOf_freed once] at freed
    refine ⟨_, broodSnapshot_eq s, freed, fun i sl entry commit small => ?_⟩
    have listed : i ∈ committedOf s := List.mem_map.2 ⟨_, List.mem_filter.2 ⟨entry, commit⟩, rfl⟩
    obtain ⟨u, q, own⟩ := snapshots_own (committedOf_nodup once) s listed
    rw [slot_of_mem once entry] at own
    dsimp only
    rw [own]
    exact ⟨snapshotOf_commit u sl, fun f lt host ne => snapshotOf_host u sl lt host ne, snapshotOf_admits u,
      fun used goal => snapshotOf_frees u used goal small, fun ended goal => snapshotOf_readmits u ended goal small,
      snapshotOf_stays u⟩
  · have isFull : queueFull q = true := decide_eq_true full
    rw [roundDraft_waits active waits on, isFull, if_pos rfl]
  · obtain ⟨t, run, over_, cells, mem, stage, once⟩ := roundDraft_queues active waits on room
    exact ⟨t, run, over_, cells, mem, fun there => ⟨_, stage there, rfl⟩, once⟩

end Sys2Proof.Machine
end

section
/-! PROOF of O35, part 1: the boundary events in their order (R196, R197, R200, R204, R213, R214). -/

namespace Sys2Proof.Machine

/-! ### What an issue cycle leaves of a cell (R76) -/

/-- What the landing of results, the clearing of tags and the counting of events leave of a cell. -/
structure TickBlind {γ : Type} (f : Cell → γ) : Prop where
  regs : ∀ c r, f { c with regs := r } = f c
  crPut : ∀ (c : Cell) n v, f (c.crPut n v) = f c
  tag : ∀ t c, f (clearTag t c) = f c
  count : ∀ c i, f (countClass c i).1 = f c
  nx : ∀ c n, f { c with nx := n } = f c
  pipe : ∀ c i l fl a u, f { c with pipe := { c.pipe with inflight := i, late := l, flight := fl, accs := a, untag := u } } = f c
  ticked : ∀ c b, f { c with pipe := { c.pipe with ticked := b } } = f c

/-- One step of a count, with the counting taken as a whole. -/
theorem counted_keeps {γ : Type} {f : Cell → γ} {p r : Cell × Bool} (one : f r.1 = f p.1) (b : Bool) :
    f (if b then (r.1, p.2 || r.2) else p).1 = f p.1 := by
  split
  · exact one
  · rfl

section
variable {γ : Type} {f : Cell → γ} (blind : TickBlind f)
include blind

theorem TickBlind.land (c : Cell) (l : Land) : f (c.land l) = f c := by
  cases l with
  | cr n v => exact blind.crPut c _ v
  | rmw n set v sd shadow => exact (blind.regs _ _).trans (blind.crPut c _ _)
  | _ => exact blind.regs c _

theorem TickBlind.landIn (late : List InFlight) (c : Cell) (x : InFlight) : f (c.landIn late x) = f c := by
  unfold Cell.landIn
  split
  · exact (blind.regs _ _).trans (blind.land c _)
  · exact blind.land c _

theorem TickBlind.clearDropped (c : Cell) : f (clearDropped c) = f c := by
  unfold Machine.clearDropped
  split
  · rfl
  · refine (blind.pipe _ _ _ _ _ _).trans (foldl_keeps f (fun t i => ?_) _ c)
    split
    · exact blind.tag _ t
    · rfl

theorem TickBlind.countEvents (c : Cell) (ev : BitVec 8) : f (countEvents c ev).1 = f c :=
  foldl_keeps (fun p : Cell × Bool => f p.1)
    (fun p i => counted_keeps (blind.count p.1 (BitVec.ofNat 3 i)) (bit ev i)) (List.range 8) (c, false)

theorem TickBlind.countDue (ev : InFlight → BitVec 8) (l : List InFlight) (p : Cell × Bool) :
    f (l.foldl (fun p x => ((Machine.countEvents p.1 (ev x)).1, p.2 || (Machine.countEvents p.1 (ev x)).2)) p).1 = f p.1 :=
  foldl_keeps (fun p : Cell × Bool => f p.1) (fun p x => counted_keeps (blind.countEvents p.1 (ev x)) true) l p

theorem TickBlind.keepFired (m : Word) (c : Cell) : f (keepFired m c) = f c := by
  unfold Machine.keepFired
  split
  · rfl
  · exact blind.nx c _

theorem TickBlind.endAccess (a : Access) (c : Cell) : f (endAccess a c) = f c :=
  (blind.pipe _ _ _ _ _ _).trans (blind.tag a.tag c)

theorem TickBlind.tick (c : Cell) : f c.tick.1 = f c := by
  unfold Cell.tick
  dsimp only
  rw [foldl_keeps f (fun t a => blind.endAccess a t), blind.keepFired]
  refine (blind.countDue _ _ _).trans ?_
  exact (foldl_keeps f (blind.landIn _) _ _).trans ((blind.clearDropped _).trans (blind.pipe _ _ _ _ _ _))

theorem TickBlind.issueCycle (s : State) (c : BitVec 9) : f ((issueCycle s c).cellAt c) = f (s.cellAt c) := by
  unfold Machine.issueCycle
  split
  · rw [State.updAt_cellAt]
    exact blind.ticked _ _
  · rw [tickAt_cell]
    exact blind.tick _

end

theorem countClass_tr (c : Cell) (i : BitVec 3) : (countClass c i).1.tr = c.tr := by
  unfold countClass
  exact (apply_ite (fun p : Cell × Bool => p.1.tr) _ _ _).trans (ite_self _)

/-- The events of a cell, the numeric ones apart. -/
def otherEvents (c : Cell) : Events := { c.events with numeric := 0 }

theorem countClass_events (c : Cell) (i : BitVec 3) : otherEvents (countClass c i).1 = otherEvents c := by
  unfold countClass
  exact (apply_ite (fun p : Cell × Bool => otherEvents p.1) _ _ _).trans (ite_self _)

theorem crPut_events (c : Cell) (n : Nat) (v : Word) : (c.crPut n v).events = c.events := by
  simp only [Cell.crPut, apply_ite Cell.events, ite_self]

/-- No write of a control register leaves or enters supervisor mode (R203). -/
theorem crPut_sup (c : Cell) (n : Nat) (v : Word) : (c.crPut n v).sup = c.sup := by
  have status : bit (c.tr.status &&& 3#64 ||| v &&& 12#64) 0 = bit c.tr.status 0 := by simp [bit]
  simp only [Cell.crPut, apply_ite Cell.sup]
  simp only [Cell.sup, status, ite_self]

theorem clearTag_sup (t : Option (BitVec 3)) (c : Cell) : (clearTag t c).sup = c.sup := by
  cases t <;> rfl

theorem clearTag_pc (t : Option (BitVec 3)) (c : Cell) : (clearTag t c).pipe.pc = c.pipe.pc := by
  cases t <;> rfl

theorem clearTag_events (t : Option (BitVec 3)) (c : Cell) : (clearTag t c).events = c.events := by
  cases t <;> rfl

theorem tickBlind_pc : TickBlind fun c => c.pipe.pc where
  regs _ _ := rfl
  crPut c n v := congrArg Pipe.pc (crPut_pipe c n v)
  tag := clearTag_pc
  count c i := congrArg Pipe.pc (countClass_pipe c i)
  nx _ _ := rfl
  pipe _ _ _ _ _ _ := rfl
  ticked _ _ := rfl

theorem tickBlind_sup : TickBlind Cell.sup where
  regs _ _ := rfl
  crPut := crPut_sup
  tag := clearTag_sup
  count c i := congrArg (fun t : TrapRegs => bit t.status 0) (countClass_tr c i)
  nx _ _ := rfl
  pipe _ _ _ _ _ _ := rfl
  ticked _ _ := rfl

theorem tickBlind_events : TickBlind otherEvents where
  regs _ _ := rfl
  crPut c n v := congrArg (fun e : Events => { e with numeric := 0 }) (crPut_events c n v)
  tag t c := congrArg (fun e : Events => { e with numeric := 0 }) (clearTag_events t c)
  count := countClass_events
  nx _ _ := rfl
  pipe _ _ _ _ _ _ := rfl
  ticked _ _ := rfl

theorem issueCycle_cmds (s : State) (c : BitVec 9) : (issueCycle s c).cmds = s.cmds := by
  unfold issueCycle State.tickAt
  dsimp only
  split
  · rfl
  · split <;> rfl

/-! ### Taking an event (R196, R197) -/

/-- The trap of an event, taken with EPC at the next bundle. -/
def eventTaken (r : State) (c : BitVec 9) (t : Trap) : State := takeTrap r c t (r.cellAt c).pipe.pc (r.cellAt c).pipe.pdSpent

/-- A cell between two bundles takes the first of its events. -/
theorem pendingEvent_eq {s : State} {c : BitVec 9} (running : (s.cellAt c).running = true) (goes : c ∉ s.tasks.saving)
    (free : (s.cellAt c).wait = .none) : pendingEvent s c = firstEvent s (s.cellAt c) := by
  have at_ : atBoundary (s.cellAt c) = true := by rw [atBoundary, running, free]; rfl
  rw [pendingEvent, at_, decide_eq_true goes]
  rfl

theorem pendingEvent_stopped {s : State} {c : BitVec 9} (stopped : (s.cellAt c).running = false) : pendingEvent s c = none := by
  have at_ : atBoundary (s.cellAt c) = false := by rw [atBoundary, stopped]; rfl
  rw [pendingEvent, at_]
  rfl

theorem boundaryEvent_stopped {s : State} {c : BitVec 9} (stopped : (s.cellAt c).running = false) (b : Boundary) :
    boundaryEvent c b s = .next s := by
  rw [boundaryEvent, pendingEvent_stopped stopped]
  rfl

theorem boundaryEvent_taken {s r : State} {c : BitVec 9} {b : Boundary} {t : Trap} (first : pendingEvent s c = some b)
    (trap : eventTrap (issueCycle s c) c b = (t, r)) : boundaryEvent c b s = .next (eventTaken r c t) := by
  rw [boundaryEvent, if_pos first, takeEvent, takeNow, trap]
  rfl

/-- The issue cycle before a boundary leaves the events that are pending, the numeric ones apart. -/
theorem issueCycle_events (s : State) (c : BitVec 9) : otherEvents ((issueCycle s c).cellAt c) = otherEvents (s.cellAt c) :=
  tickBlind_events.issueCycle s c

theorem heldFault_issueCycle (s : State) (c : BitVec 9) :
    heldFault (issueCycle s c) ((issueCycle s c).cellAt c) = heldFault s (s.cellAt c) := by
  have engine : ((issueCycle s c).cellAt c).events.engine = (s.cellAt c).events.engine :=
    (congrArg Events.engine (issueCycle_events s c)).trans rfl
  rw [heldFault, heldFault, engine, issueCycle_cmds]

theorem updEvents_congr {s : State} {c : BitVec 9} {f g : Events → Events} (same : f (s.cellAt c).events = g (s.cellAt c).events) :
    updEvents s c f = updEvents s c g := by
  rw [updEvents, State.updAt, same]
  rfl

/-! ### The trap of each event (R204, R213, R214) -/

section
variable {s : State} {c : BitVec 9}

/-- An engine fault is no longer pending, and its handler knows the command and the address. -/
def faultGiven (s : State) (c : BitVec 9) (x : Cmd) : State :=
  s.updAt c fun y => { y with
    events := { y.events with engine := (y.events.engine.dropWhile (· ≠ x.id)).drop 1, faulted := some x.id }
    tr := { y.tr with taddr := (x.held.map (·.2)).getD 0 } }

theorem eventTrap_engine {x : Cmd} (held : heldFault s (s.cellAt c) = some x) :
    eventTrap s c .engine = (trapOf cEngineFault (engineTval x), faultGiven s c x) := by
  unfold eventTrap
  dsimp only
  rw [held]
  rfl

theorem eventTrap_grammar {g : BitVec 12} {rest : List (BitVec 12)} (pending : (s.cellAt c).events.grammar = g :: rest) :
    eventTrap s c .grammar = (trapOf cGrammar (g.zeroExtend 64), updEvents s c fun y => { y with grammar := rest }) := by
  unfold eventTrap
  dsimp only
  rw [pending]
  exact congrArg (Prod.mk _) (updEvents_congr (by rw [pending]; rfl))

theorem eventTrap_micro {v : Word} {rest : List Word} (pending : (s.cellAt c).events.micro = v :: rest) :
    eventTrap s c .micro = (trapOf cMicroFault v, updEvents s c fun y => { y with micro := rest }) := by
  unfold eventTrap
  dsimp only
  rw [pending]
  exact congrArg (Prod.mk _) (updEvents_congr (by rw [pending]; rfl))

theorem eventTrap_trap {n : BitVec 8} {rest : List (BitVec 8)} (pending : (s.cellAt c).events.trap = n :: rest) :
    eventTrap s c .trap = (trapOf n 0, updEvents s c fun y => { y with trap := rest }) := by
  unfold eventTrap
  dsimp only
  rw [pending]
  exact congrArg (Prod.mk _) (updEvents_congr (by rw [pending]; rfl))

theorem eventTrap_step {w : BitVec 32} (pending : (s.cellAt c).events.step = some w) :
    eventTrap s c .step = (trapOf cStep (w.zeroExtend 64), updEvents s c fun y => { y with step := none }) := by
  refine Prod.ext ?_ rfl
  exact congrArg (fun o : Option (BitVec 32) => trapOf cStep ((o.getD 0).zeroExtend 64)) pending

theorem eventTrap_check {v : Nat} (pending : (s.cellAt c).events.check = some v) :
    eventTrap s c .check = (trapOf cMachineCheck (BitVec.ofNat 64 v), updEvents s c fun y => { y with check := none }) := by
  refine Prod.ext ?_ rfl
  exact congrArg (fun o : Option Nat => trapOf cMachineCheck (BitVec.ofNat 64 (o.getD 0))) pending

end

/-! ### The order of the events (R196) -/

section
variable {s : State} {c : BitVec 9} (running : (s.cellAt c).running = true) (goes : c ∉ s.tasks.saving)
  (free : (s.cellAt c).wait = .none) (user : (s.cellAt c).sup = false) (check : (s.cellAt c).events.check = none)
include running goes free user check

theorem engineFault_taken {x : Cmd} (held : heldFault s (s.cellAt c) = some x) :
    exec (.engineFault c) s = .next (eventTaken (faultGiven (issueCycle s c) c x) c (trapOf cEngineFault (engineTval x))) := by
  refine boundaryEvent_taken ?_ (eventTrap_engine ((heldFault_issueCycle s c).trans held))
  rw [pendingEvent_eq running goes free]
  simp [firstEvent, check, user, held]

variable (noFault : heldFault s (s.cellAt c) = none)
include noFault

theorem grammar_taken {g : BitVec 12} {rest : List (BitVec 12)} (pending : (s.cellAt c).events.grammar = g :: rest) :
    exec (.grammarOverflow c) s =
      .next (eventTaken (updEvents (issueCycle s c) c fun y => { y with grammar := rest }) c
        (trapOf cGrammar (g.zeroExtend 64))) := by
  refine boundaryEvent_taken ?_ (eventTrap_grammar ((congrArg Events.grammar (issueCycle_events s c)).trans pending))
  rw [pendingEvent_eq running goes free]
  simp [firstEvent, check, user, noFault, pending]

variable (noGrammar : (s.cellAt c).events.grammar = [])
include noGrammar

theorem micro_taken {v : Word} {rest : List Word} (pending : (s.cellAt c).events.micro = v :: rest) :
    exec (.microFault c) s =
      .next (eventTaken (updEvents (issueCycle s c) c fun y => { y with micro := rest }) c (trapOf cMicroFault v)) := by
  refine boundaryEvent_taken ?_ (eventTrap_micro ((congrArg Events.micro (issueCycle_events s c)).trans pending))
  rw [pendingEvent_eq running goes free]
  simp [firstEvent, check, user, noFault, noGrammar, pending]

variable (noMicro : (s.cellAt c).events.micro = [])
include noMicro

theorem numeric_taken (pending : (s.cellAt c).events.numeric ≠ 0) :
    exec (.numericLimit c) s = .next (eventTaken (updEvents (issueCycle s c) c fun y => { y with numeric := 0 }) c
      (trapOf cNumericLimit (BitVec.ofNat 64 (lowestClass ((issueCycle s c).cellAt c).events.numeric)))) := by
  refine boundaryEvent_taken ?_ rfl
  rw [pendingEvent_eq running goes free]
  simp [firstEvent, check, user, noFault, noGrammar, noMicro]
  exact fun none_ => absurd none_ pending

variable (noNumeric : (s.cellAt c).events.numeric = 0)
include noNumeric

theorem softwareTrap_taken {n : BitVec 8} {rest : List (BitVec 8)} (pending : (s.cellAt c).events.trap = n :: rest) :
    exec (.softwareTrapTaken c) s =
      .next (eventTaken (updEvents (issueCycle s c) c fun y => { y with trap := rest }) c (trapOf n 0)) := by
  refine boundaryEvent_taken ?_ (eventTrap_trap ((congrArg Events.trap (issueCycle_events s c)).trans pending))
  rw [pendingEvent_eq running goes free]
  simp [firstEvent, check, user, noFault, noGrammar, noMicro, noNumeric, pending]

theorem step_taken {w : BitVec 32} (noTrap : (s.cellAt c).events.trap = []) (pending : (s.cellAt c).events.step = some w) :
    exec (.stepTrap c) s =
      .next (eventTaken (updEvents (issueCycle s c) c fun y => { y with step := none }) c (trapOf cStep (w.zeroExtend 64))) := by
  refine boundaryEvent_taken ?_ (eventTrap_step ((congrArg Events.step (issueCycle_events s c)).trans pending))
  rw [pendingEvent_eq running goes free]
  simp [firstEvent, check, user, noFault, noGrammar, noMicro, noNumeric, noTrap, pending]

end

/-! ### MACHINE_CHECK before all others (R196, R200, R205) -/

/-- The machine at the boundary at which a cell takes a machine check. -/
def checkGiven (s : State) (c : BitVec 9) : State := updEvents (issueCycle { s with cur := c } c) c fun y => { y with check := none }

theorem checkGiven_keeps (s : State) (c : BitVec 9) :
    ((checkGiven s c).cellAt c).events.check = none ∧ ((checkGiven s c).cellAt c).pipe.pc = (s.cellAt c).pipe.pc ∧
      ((checkGiven s c).cellAt c).sup = (s.cellAt c).sup ∧ (checkGiven s c).mem = s.mem ∧ (checkGiven s c).cmds = s.cmds := by
  have cell : (checkGiven s c).cellAt c =
      { (issueCycle { s with cur := c } c).cellAt c with
        events := { ((issueCycle { s with cur := c } c).cellAt c).events with check := none } } := State.updAt_cellAt _ _ _
  rw [cell]
  exact ⟨rfl, tickBlind_pc.issueCycle { s with cur := c } c, tickBlind_sup.issueCycle { s with cur := c } c,
    issueCycle_mem { s with cur := c } c, issueCycle_cmds { s with cur := c } c⟩

/-- A live cell that waits for nothing takes its machine check at its turn, in user mode and in a handler. -/
theorem cellTurn_check {s : State} {c : BitVec 9} {v : Nat} (live : cellLive s c = true) (goes : c ∉ s.tasks.saving)
    (free : (s.cellAt c).wait = .none) (pending : (s.cellAt c).events.check = some v) :
    cellTurn s c = .next (eventTaken (checkGiven s c) c (trapOf cMachineCheck (BitVec.ofNat 64 v))) := by
  have running : (s.cellAt c).running = true := by
    rw [cellLive, Bool.and_eq_true, Bool.and_eq_true] at live
    exact live.1.1
  have first : pendingEvent { s with cur := c } c = some .check := by
    rw [pendingEvent_eq (s := { s with cur := c }) running goes free]
    exact if_pos (by rw [show (State.cellAt { s with cur := c } c).events.check = some v from pending]; rfl)
  have cycle : ((issueCycle { s with cur := c } c).cellAt c).events.check = some v :=
    (congrArg Events.check (issueCycle_events { s with cur := c } c)).trans pending
  have goesOn : (!cellLive { s with cur := c } c || decide (c ∈ s.tasks.saving)) = false := by
    rw [show cellLive { s with cur := c } c = true from live, decide_eq_false goes]
    rfl
  have notEnding : ¬ (State.cellAt { s with cur := c } c).wait = .ending := by
    rw [show (State.cellAt { s with cur := c } c).wait = .none from free]
    exact Wait.noConfusion
  have unanswered : answered (State.cellAt { s with cur := c } c) = false := by
    rw [answered, show (State.cellAt { s with cur := c } c).wait = .none from free]
  unfold cellTurn
  dsimp only
  rw [goesOn, if_neg (by decide), if_neg notEnding, unanswered, if_neg (by decide), first]
  dsimp only
  rw [takeEvent, takeNow, eventTrap_check cycle]
  rfl

end Sys2Proof.Machine
end

section
/-! PROOF of O35, part 2: an uncorrectable error in what a task reads (R204, R205, R209, R212). -/

namespace Sys2Proof.Machine

/-! ### Queued words whose data are in error (R162, R205) -/

theorem checkJobs_call {id : Nat} {pa : Nat} {q : List MJob} {n : BitVec 8} {e : Word} {a qs : List Word} {iter : BitVec 4}
    {tag : Option (BitVec 3)} {bad : List Nat} (mem : .call id n e a qs iter tag bad ∈ q) :
    .call id n e a qs iter tag (bad ++ [pa]) ∈ checkJobs (some id) pa q :=
  List.mem_filterMap.2 ⟨_, mem, congrArg some (if_pos rfl)⟩

/-- Where no routine has that number, no queued word of the number is left. -/
theorem checkJobs_left {id pa : Nat} {q : List MJob} (noCall : ∀ n e a qs iter tag bad, MJob.call id n e a qs iter tag bad ∉ q)
    {j : MJob} (left : j ∈ checkJobs (some id) pa q) : jobId j ≠ some id := by
  obtain ⟨j0, mem, kept⟩ := List.mem_filterMap.1 left
  have plain : (if (jobId j0).isSome && decide (jobId j0 = some id) then none else some j0) = some j → jobId j ≠ some id := by
    intro kept own
    split at kept
    · cases kept
    · next other =>
      cases kept
      exact other (by rw [own]; simp)
  cases j0 with
  | call id0 n e a qs iter tag bad =>
    have ne : id0 ≠ id := fun own => noCall n e a qs iter tag bad (own ▸ mem)
    have same : some (MJob.call id0 n e a qs iter tag bad) = some j := by
      rw [← kept]
      exact congrArg some (if_neg fun own => ne (Option.some.inj own)).symm
    cases same
    exact fun own => ne (Option.some.inj own)
  | _ => exact plain kept

/-! ### A task whose data are in error (R205) -/

section
variable (access : Option Nat) (tag : Option (BitVec 3)) (pa : Nat) (y : Cell)

theorem checkCell_keeps : (checkCell access tag pa y).regs = y.regs ∧ (checkCell access tag pa y).pad = y.pad := by
  unfold checkCell
  dsimp only
  cases tag <;> cases (y.pipe.accs.find? fun a => decide (some a.id = access)).bind (·.tag) <;> exact ⟨rfl, rfl⟩

theorem checkCell_check : (checkCell access tag pa y).events.check = some (y.events.check.getD pa) := by
  unfold checkCell
  dsimp only
  rw [clearTag_events, clearTag_events]

theorem clearTag_mx (t : Option (BitVec 3)) (c : Cell) : (clearTag t c).mx = c.mx := by
  cases t <;> rfl

theorem checkCell_queue : (checkCell access tag pa y).mx.queue = checkJobs access pa y.mx.queue := by
  unfold checkCell
  dsimp only
  rw [clearTag_mx, clearTag_mx]

theorem checkCell_accs {a : Access} (left : a ∈ (checkCell access tag pa y).pipe.accs) : some a.id ≠ access := by
  have other := (List.mem_filter.1 left).2
  simpa using other

variable {access tag pa y}

theorem checkCell_tag {g : BitVec 3} (own : tag = some g) : bit (checkCell access tag pa y).pipe.pend g.toNat = false :=
  clearTag_pend own _

/-- A tag that is clear stays clear when another clears. -/
theorem clearTag_stays {g : BitVec 3} {c : Cell} (clear : bit c.pipe.pend g.toNat = false) (t : Option (BitVec 3)) :
    bit (clearTag t c).pipe.pend g.toNat = false := by
  cases t with
  | none => exact clear
  | some t =>
    refine (bit_clear c.pipe.pend t.toNat g.isLt).trans ?_
    rw [clear, Bool.false_and]

theorem checkCell_ownTag {a : Access} (mem : a ∈ y.pipe.accs) (own : some a.id = access)
    (only : ∀ b ∈ y.pipe.accs, b.id = a.id → b = a) {g : BitVec 3} (named : a.tag = some g) :
    bit (checkCell access tag pa y).pipe.pend g.toNat = false := by
  have found : (y.pipe.accs.find? fun a => decide (some a.id = access)).bind (·.tag) = some g := by
    cases first : y.pipe.accs.find? fun a => decide (some a.id = access) with
    | none => exact absurd (List.find?_eq_none.1 first a mem) (by simp [own])
    | some b =>
      have same : some b.id = access := of_decide_eq_true (List.find?_some (p := fun a : Access => decide (some a.id = access)) first)
      have one := only b (List.mem_of_find?_eq_some first) (Option.some.inj (same.trans own.symm))
      exact (congrArg Access.tag one).trans named
  exact clearTag_stays (clearTag_pend found y) tag

/-- After the error nothing of the task holds a load of that number, but for queued words. -/
theorem checkCell_holds {id : Nat}
    (queue : ((checkCell (some id) tag pa y).mx.queue.any fun j => decide (jobId j = some id)) = false) :
    holdsLoad id (checkCell (some id) tag pa y) = false := by
  by_cases poll : id = 0
  · subst poll
    rfl
  · have accs : ((checkCell (some id) tag pa y).pipe.accs.any fun a => decide (a.id = id)) = false :=
      List.any_eq_false.2 fun a left own =>
        checkCell_accs _ _ _ _ left (congrArg some (of_decide_eq_true own))
    have flights (l : List InFlight) :
        ((l.filter fun x => decide (x.id = 0) || !decide (some x.id = some id)).any fun x => decide (x.id = id)) = false :=
      List.any_eq_false.2 fun x left own => by
        have at_ : x.id = id := of_decide_eq_true own
        have other := (List.mem_filter.1 left).2
        simp [at_, poll] at other
    rw [holdsLoad, if_neg poll, accs, queue, Bool.or_false]
    exact (congrArg₂ or (congrArg₂ or rfl (flights _)) (flights _)).trans rfl

end

/-! ### The step (R204, R205, R209) -/

/-- The command that the task launched and that reads the data. -/
def readerOf (s : State) (access : Option Nat) (y : Cell) : Option Cmd :=
  access.bind fun id => readsFor s id y.task.gang y.task.gmem

/-- The task holds the load, or launched the command. -/
def consumes (s : State) (access : Option Nat) (y : Cell) : Bool :=
  (access.map fun id => holdsLoad id y).getD false || (readerOf s access y).isSome

theorem dropReader_keeps (s : State) (x : Option Cmd) :
    (dropReader s x).cells = s.cells ∧ (dropReader s x).mem = s.mem ∧ (dropReader s x).pkg = s.pkg := by
  cases x <;> exact ⟨rfl, rfl, rfl⟩

theorem dropReader_cmds (s : State) (x : Cmd) {z : Cmd} (left : z ∈ (dropReader s (some x)).cmds) : z.id ≠ x.id :=
  of_decide_eq_true (List.mem_filter.1 left).2

/-- The report of an error in what a cell's task reads. -/
def checkReported (s : State) (c : BitVec 9) (at_ : Word) : State :=
  s.report (cellReport s c 2 cMachineCheck ((s.cellAt c).pipe.pc.zeroExtend 64) at_ 0)

/-- The machine after an error in what a cell's task reads. -/
def checkedCell (s : State) (c : BitVec 9) (at_ : Word) (r : Option Cmd) (f : Cell → Cell) : State :=
  (dropReader (checkReported s c at_) r).updAt c f

theorem checkedCell_cell (s : State) (c : BitVec 9) (at_ : Word) (r : Option Cmd) (f : Cell → Cell) :
    (checkedCell s c at_ r f).cellAt c = f (s.cellAt c) := by
  rw [checkedCell, State.updAt_cellAt, State.cellAt, (dropReader_keeps _ r).1]
  rfl

theorem checkedCell_keeps (s : State) (c : BitVec 9) (at_ : Word) (r : Option Cmd) (f : Cell → Cell) :
    (checkedCell s c at_ r f).mem = s.mem ∧
      (checkedCell s c at_ r f).pkg.reports = s.pkg.reports ++
        [cellReport s c 2 cMachineCheck ((s.cellAt c).pipe.pc.zeroExtend 64) at_ 0] ∧
      (checkedCell s c at_ r f).cmds = (dropReader (checkReported s c at_) r).cmds := by
  obtain ⟨-, mem, pkg⟩ := dropReader_keeps (checkReported s c at_) r
  exact ⟨mem, congrArg Package.reports pkg, rfl⟩

theorem machineCheck_cell {s : State} {c : BitVec 9} {access : Option Nat} (pa : Word)
    (running : (s.cellAt c).running = true) (reads : access = none ∨ consumes s access (s.cellAt c) = true) :
    exec (.machineCheck c access pa) s = .next (checkedCell s c (if access = none then 0 else pa)
      (readerOf s access (s.cellAt c)) (checkCell access ((readerOf s access (s.cellAt c)).bind (·.tag))
        (if access = none then (0 : Word) else pa).toNat)) := by
  have go : ((s.cellAt c).running && (access.isNone || consumes s access (s.cellAt c))) = true := by
    rw [running]
    rcases reads with e | e <;> simp [e]
  have at_ : (if access.isNone = true then 0 else pa) = if access = none then (0 : Word) else pa := by
    simp only [Option.isNone_iff_eq_none]
  rw [exec_machineCheck, execMachineCheck]
  dsimp only
  rw [← at_]
  exact if_pos go

/-- The saved tasks after an error in what one of them reads. -/
def savedChecked (s : State) (access : Option Nat) (pa : Word) (y z : Saved) : Saved :=
  if z.gang = y.gang ∧ z.gmem = y.gmem then
    { z with image := checkCell access ((readerOf s access y.image).bind (·.tag)) pa.toNat z.image } else z

/-- The machine after such an error. -/
def checkSaved (s : State) (c : BitVec 9) (access : Option Nat) (pa : Word) (y : Saved) : State :=
  let s1 := dropReader
    (s.report { cellReport s c 2 cMachineCheck (y.image.pipe.pc.zeroExtend 64) pa 0 with ctx := y.image.task.ctx })
    (readerOf s access y.image)
  { s1 with tasks := { s1.tasks with saved := s1.tasks.saved.map (savedChecked s access pa y) } }

theorem checkSaved_keeps (s : State) (c : BitVec 9) (access : Option Nat) (pa : Word) (y : Saved) :
    (checkSaved s c access pa y).cells = s.cells ∧
      (checkSaved s c access pa y).pkg.reports = s.pkg.reports ++
        [{ cellReport s c 2 cMachineCheck (y.image.pipe.pc.zeroExtend 64) pa 0 with ctx := y.image.task.ctx }] ∧
      (checkSaved s c access pa y).tasks.saved = s.tasks.saved.map (savedChecked s access pa y) := by
  unfold checkSaved
  cases readerOf s access y.image <;> exact ⟨rfl, rfl, rfl⟩

theorem machineCheck_saved {s : State} {c : BitVec 9} {id : Nat} (pa : Word)
    (elsewhere : (s.cellAt c).running = false ∨ consumes s (some id) (s.cellAt c) = false) {y : Saved}
    (found : s.tasks.saved.find? (fun z => consumes s (some id) z.image) = some y) :
    exec (.machineCheck c (some id) pa) s = .next (checkSaved s c (some id) pa y) := by
  have stays : ¬ ((s.cellAt c).running && (Option.isNone (some id) || consumes s (some id) (s.cellAt c))) = true := by
    rcases elsewhere with e | e <;> simp [e]
  rw [exec_machineCheck, execMachineCheck]
  refine (if_neg stays).trans ?_
  have found' : s.tasks.saved.find? (fun z =>
      ((some id).map fun id => holdsLoad id z.image).getD false || ((some id).bind fun id =>
        readsFor s id z.image.task.gang z.image.task.gmem).isSome) = some y := found
  dsimp only
  rw [found']
  rfl

theorem machineCheck_idle {s : State} {c : BitVec 9} (access : Option Nat) (pa : Word)
    (stopped : (s.cellAt c).running = false) (nobody : ∀ y ∈ s.tasks.saved, consumes s access y.image = false) :
    exec (.machineCheck c access pa) s = .next s := by
  have none_ : s.tasks.saved.find? (fun z => consumes s access z.image) = none :=
    List.find?_eq_none.2 fun y mem => Bool.eq_false_iff.1 (nobody y mem)
  have stays : ¬ ((s.cellAt c).running && (access.isNone || consumes s access (s.cellAt c))) = true := by simp [stopped]
  rw [exec_machineCheck, execMachineCheck]
  refine (if_neg stays).trans ?_
  have none' : s.tasks.saved.find? (fun z => (access.map fun id => holdsLoad id z.image).getD false ||
      (access.bind fun id => readsFor s id z.image.task.gang z.image.task.gmem).isSome) = none := none_
  dsimp only
  rw [none']

theorem readsFor_id {s : State} {id gang : Nat} {gmem : BitVec 6} {x : Cmd} (found : readsFor s id gang gmem = some x) :
    x.id = id := by
  have own := List.find?_some (p := fun x : Cmd => decide (x.id = id) && decide (x.gang = gang) && decide (x.gmem = gmem)) found
  simp only [Bool.and_eq_true, decide_eq_true_eq] at own
  exact own.1.1

/-- A saved task of the name of one that reads the data is in error itself. -/
theorem savedChecked_image {s : State} {access : Option Nat} {pa : Word} {y z0 z : Saved}
    (at_ : savedChecked s access pa y z0 = z) (gang : z.gang = y.gang) (gmem : z.gmem = y.gmem) :
    z.image = checkCell access ((readerOf s access y.image).bind (·.tag)) pa.toNat z0.image := by
  unfold savedChecked at at_
  split at at_
  · rw [← at_]
  · next other =>
    subst at_
    exact absurd ⟨gang, gmem⟩ other

/-! ### The statement -/

/-- Settles O35: the events in user mode by the order of R196, the machine check at its cell's turn, an error by who reads the
data. -/
theorem boundaryEventsComplete : Obligations.BoundaryEventsComplete := by
  unfold Obligations.BoundaryEventsComplete
  intro s c x s1 e took reads
  refine ⟨fun running goes free user check => ⟨fun cmd held => ?_, fun noFault => ⟨fun g rest pending => ?_, fun noGrammar =>
    ⟨fun v rest pending => ?_, fun noMicro => ⟨fun pending => ?_, fun noNumeric => ⟨fun n rest pending => ?_,
    fun w noTrap pending => ?_⟩⟩⟩⟩⟩, fun v live goes free pending => ?_, fun access pa running reader => ?_,
    ?_, fun stopped => ⟨fun pa => ?_, fun id pa nobody => ?_, boundaryEvent_stopped stopped _,
      boundaryEvent_stopped stopped _, boundaryEvent_stopped stopped _, boundaryEvent_stopped stopped _,
      boundaryEvent_stopped stopped _, boundaryEvent_stopped stopped _⟩⟩
  · have cell : (faultGiven s1 c cmd).cellAt c = _ := State.updAt_cellAt _ _ _
    refine ⟨_, engineFault_taken running goes free user check held, ?_, ?_, ?_, issueCycle_mem s c⟩
    all_goals rw [cell]
  · exact grammar_taken running goes free user check noFault pending
  · exact micro_taken running goes free user check noFault noGrammar pending
  · exact numeric_taken running goes free user check noFault noGrammar noMicro pending
  · exact softwareTrap_taken running goes free user check noFault noGrammar noMicro noNumeric pending
  · exact step_taken running goes free user check noFault noGrammar noMicro noNumeric noTrap pending
  · obtain ⟨gone, pc, sup, mem, cmds⟩ := checkGiven_keeps s c
    have turn := cellTurn_check live goes free pending
    refine ⟨checkGiven s c, gone, pc, mem, cmds, fun _ => turn, fun handler => ?_⟩
    rw [turn, eventTaken, takeTrap_double (sup.trans handler), pc]
    rfl
  · intro at_
    have consumed : access = none ∨ consumes s access x = true := by
      cases access with
      | none => exact .inl rfl
      | some id =>
        exact .inr (Bool.or_eq_true_iff.2 ((reader id rfl).imp (fun loads => loads) Option.isSome_iff_ne_none.2))
    have named : ∀ id, access = some id → at_ = pa := by
      rintro id rfl
      exact if_neg nofun
    have cell := checkedCell_cell s c at_ (readerOf s access x) (checkCell access ((readerOf s access x).bind (·.tag)) at_.toNat)
    obtain ⟨mem, reports, cmds⟩ := checkedCell_keeps s c at_ (readerOf s access x)
      (checkCell access ((readerOf s access x).bind (·.tag)) at_.toNat)
    obtain ⟨regs, pad⟩ := checkCell_keeps access ((readerOf s access x).bind (·.tag)) at_.toNat x
    refine ⟨_, machineCheck_cell pa running consumed, ?_⟩
    rw [cell, checkCell_check, checkCell_queue, mem, reports, cmds]
    refine ⟨rfl, regs, pad, rfl, rfl, fun a => checkCell_accs _ _ _ _, ?_, ?_, fun a mem own only g tag =>
      checkCell_ownTag mem own only tag⟩
    · rintro id n e a q iter tag bad rfl queued
      rw [named id rfl]
      exact checkJobs_call queued
    · rintro id rfl
      refine ⟨fun noCall => checkCell_holds ?_, fun cmd read => ⟨fun z left => ?_, fun g tag => checkCell_tag ?_⟩⟩
      · rw [checkCell_queue]
        exact List.any_eq_false.2 fun j left own => checkJobs_left noCall left (of_decide_eq_true own)
      · have launched : readerOf s (some id) x = some cmd := read
        rw [launched] at left
        rw [← readsFor_id read]
        exact dropReader_cmds _ cmd left
      · have launched : readerOf s (some id) x = some cmd := read
        rw [launched]
        exact tag
  · intro id pa y holds elsewhere found
    obtain ⟨cells, reports, saved⟩ := checkSaved_keeps s c (some id) pa y
    refine ⟨_, machineCheck_saved pa elsewhere found, cells, reports, fun noJob z mem gang gmem => ?_, fun z mem gang gmem => ?_⟩
    · have queue := List.any_eq_false.1 noJob z mem
      rw [saved] at mem
      obtain ⟨z0, -, at_⟩ := List.mem_map.1 mem
      have image := savedChecked_image at_ gang gmem
      rw [image] at queue ⊢
      exact checkCell_holds (Bool.eq_false_iff.2 queue)
    · rw [saved] at mem
      obtain ⟨z0, -, at_⟩ := List.mem_map.1 mem
      rw [savedChecked_image at_ gang gmem, checkCell_check]
      rfl
  · exact machineCheck_idle none pa stopped fun _ _ => rfl
  · refine machineCheck_idle (some id) pa stopped fun y mem => ?_
    obtain ⟨loads, reads⟩ := nobody y mem
    exact (Bool.or_eq_false_iff).2 ⟨loads, Option.isSome_eq_false_iff.2 (Option.isNone_iff_eq_none.2 reads)⟩

end Sys2Proof.Machine
end
